-- ==== Sys2Proof/Word.lean ====
section
/-!
DEFINITION. The word types of the PSH-4810 and their plainest arithmetic (spec chapters 00, 01, 06).

A scalar register is 64 bits, a vector register VLB = 256 bytes, a predicate register one bit per byte lane (R13).
All multi-byte values are little-endian (R3).
-/

namespace Sys2Proof

/-- A 64-bit word: scalar registers, instruction words, global addresses (R13, R125). -/
abbrev Word := BitVec 64

/-- One byte. -/
abbrev Byte := BitVec 8

/-- The contents of a vector register: VLB = 256 bytes, byte 0 in bits 7:0 (R13). -/
abbrev VecWord := BitVec 2048

/-- The contents of a predicate register: one bit per byte lane (R13). -/
abbrev PredWord := BitVec 256

/-- VLB, the bytes of a vector register on the PSH-4810 (R2, R168). -/
def vlb : Nat := 256

/-- `x` as a 64-bit word, modulo 2^64. -/
def word (x : Nat) : Word := BitVec.ofNat 64 x

/-- `x` as a 64-bit two's-complement word, modulo 2^64. -/
def wordOfInt (x : Int) : Word := BitVec.ofInt 64 x

/-- Bits `[lo + w - 1 : lo]` of the number `x` (R151 `bits`). -/
def fieldOf (x lo w : Nat) : Nat := x / 2 ^ lo % 2 ^ w

/-- The low `n` bits of `x` read as a two's-complement integer (R151 `sext`). -/
def signedOf (n x : Nat) : Int :=
  if 2 * (x % 2 ^ n) < 2 ^ n then ((x % 2 ^ n : Nat) : Int) else ((x % 2 ^ n : Nat) : Int) - 2 ^ n

/-- `x` modulo 2^`n` as a natural number. -/
def wrapTo (n : Nat) (x : Int) : Nat := (x % (2 ^ n : Int)).toNat

/-- The little-endian number held by a list of bytes (R3). -/
def leNat : List Byte → Nat
  | [] => 0
  | b :: bs => b.toNat + 256 * leNat bs

/-- The `n` little-endian bytes of `x` (R3). -/
def leBytes : Nat → Nat → List Byte
  | 0, _ => []
  | n + 1, x => BitVec.ofNat 8 x :: leBytes n (x / 256)

/-- Number of one bits below bit `n` of `x`. -/
def popBits : Nat → Nat → Nat
  | 0, _ => 0
  | n + 1, x => popBits n x + (if x.testBit n then 1 else 0)

/-- `ceil (a / b)` for `b > 0`. -/
def ceilDiv (a b : Nat) : Nat := (a + b - 1) / b

end Sys2Proof
end

