-- ==== Sys2Proof/Machine/Crypto.lean ====
section
/-!
DEFINITION. The published functions that the spec names and does not define: SHAKE256 (FIPS 202), AES-256 (FIPS 197),
AES-256-GCM (SP 800-38D) and AES key wrap (RFC 3394). Taken from those standards, not from the spec (log 11).
-/

namespace Sys2Proof.Machine

open Sys2Proof

/-! ### SHAKE256

A Keccak state is a number, lane (x, y) in its bits from 64 (x + 5 y) on. -/

/-- One step of the round-constant LFSR: x^8 + x^6 + x^5 + x^4 + 1. -/
def rcStep (r : Nat) : Nat := if r.testBit 7 then Nat.xor (2 * r % 256) 0x71 else 2 * r

/-- The seven LFSR outputs of one round placed at bits 2^j - 1, and the LFSR after them. -/
def rcBits : Nat → Nat → Nat → Nat × Nat
  | 0, r, acc => (acc, r)
  | k + 1, r, acc => rcBits k (rcStep r) (if r.testBit 0 then acc + 2 ^ (2 ^ (7 - (k + 1)) - 1) else acc)

/-- Rotation offsets of the rho step, by lane place. -/
def rhoOffsets : List Nat :=
  [0, 1, 62, 28, 27, 36, 44, 6, 55, 20, 3, 10, 43, 25, 39, 41, 45, 15, 21, 8, 18, 2, 61, 56, 14]

/-- Lane `i` of a state. -/
def laneOf (a i : Nat) : Nat := a / 2 ^ (64 * i) % 2 ^ 64

/-- Plane `y` of a state: its lanes 5 y to 5 y + 4. -/
def planeOf (a y : Nat) : Nat := a / 2 ^ (320 * y) % 2 ^ 320

/-- The same plane five times over. -/
def fivePlanes (p : Nat) : Nat := p * (1 + 2 ^ 320 + 2 ^ 640 + 2 ^ 960 + 2 ^ 1280)

/-- Every plane turned: lane x of each becomes the lane (x + k) mod 5 of the same plane. -/
def turnLanes (k a : Nat) : Nat :=
  Nat.land (a / 2 ^ (64 * k)) (fivePlanes (2 ^ (320 - 64 * k) - 1)) + Nat.land a (fivePlanes (2 ^ (64 * k) - 1)) * 2 ^ (320 - 64 * k)

/-- Each of the five lanes of a plane rotated left by one. -/
def rotPlane (p : Nat) : Nat :=
  let ones := 1 + 2 ^ 64 + 2 ^ 128 + 2 ^ 192 + 2 ^ 256
  2 * Nat.land p (ones * (2 ^ 63 - 1)) + Nat.land (p / 2 ^ 63) ones

/-- A lane rotated left by `n` places, below 64. -/
def rotLane (n x : Nat) : Nat := x * 2 ^ n % 2 ^ 64 + x / 2 ^ (64 - n)

/-- The theta step: each lane takes the parity of the column before it and of the column after it, rotated by one. -/
def theta (a : Nat) : Nat :=
  let c := Nat.xor (Nat.xor (Nat.xor (Nat.xor (planeOf a 0) (planeOf a 1)) (planeOf a 2)) (planeOf a 3)) (planeOf a 4)
  Nat.xor a (fivePlanes (Nat.xor (turnLanes 4 c) (rotPlane (turnLanes 1 c))))

/-- The rho and pi steps: place (y, 2 x + 3 y) receives lane (x, y) rotated; the target here is place i. -/
def rhoPi (a : Nat) : Nat :=
  (List.range 25).foldl (fun acc i =>
    let j := (i % 5 + 3 * (i / 5)) % 5 + 5 * (i % 5)
    acc + rotLane (rhoOffsets.getD j 0) (laneOf a j) * 2 ^ (64 * i)) 0

/-- The chi step: each lane takes what the next lane of its plane masks of the one after that. -/
def chi (a : Nat) : Nat := Nat.xor a (Nat.land (Nat.xor (turnLanes 1 a) (2 ^ 1600 - 1)) (turnLanes 2 a))

/-- `n` rounds of Keccak-f[1600] from LFSR state `r`. -/
def keccakLoop : Nat → Nat → Nat → Nat
  | 0, _, a => a
  | n + 1, r, a =>
    let k := rcBits 7 r 0
    keccakLoop n k.2 (Nat.xor (chi (rhoPi (theta a))) k.1)

/-- The permutation Keccak-f[1600]. -/
def keccakF (a : Nat) : Nat := keccakLoop 24 1 a

/-- Absorb whole blocks of 136 bytes of the padded message. -/
def absorbAll : Nat → List Byte → Nat → Nat
  | 0, _, a => a
  | n + 1, bs, a => absorbAll n (bs.drop 136) (keccakF (Nat.xor a (leNat (bs.take 136))))

/-- Squeeze `n` blocks of 136 bytes. -/
def squeezeAll : Nat → Nat → List Byte
  | 0, _ => []
  | n + 1, a => leBytes 136 a ++ squeezeAll n (keccakF a)

/-- SHAKE256 of `msg`, `n` bytes of output. -/
def shake256 (msg : List Byte) (n : Nat) : List Byte :=
  let padLen := 136 - msg.length % 136
  let pad : List Byte := if padLen = 1 then [0x9F] else 0x1F :: List.replicate (padLen - 2) 0 ++ [0x80]
  let bs := msg ++ pad
  (squeezeAll (ceilDiv n 136) (absorbAll (bs.length / 136) bs 0)).take n

/-! ### AES-256

A block is a number, byte i of the block in bits [8 i + 7 : 8 i]. -/

/-- Byte `i` of a number. -/
def byteOf (x i : Nat) : Nat := x / 2 ^ (8 * i) % 256

/-- The S-box (FIPS 197): sixteen rows of sixteen bytes. -/
def sboxRows : List Nat :=
  [0x76ABD7FE2B670130C56F6BF27B777C63, 0xC072A49CAFA2D4ADF04759FA7DC982CA,
   0x1531D871F1E5A534CCF73F362693FDB7, 0x75B227EBE28012079A059618C323C704,
   0x842FE329B3D63B52A05A6E1B1A2C8309, 0xCF584C4A39BECB6A5BB1FC20ED00D153,
   0xA89F3C507F02F94585334D43FBAAEFD0, 0xD2F3FF1021DAB6BCF5389D928F40A351,
   0x73195D643D7EA7C41744975FEC130CCD, 0xDB0B5EDE14B8EE4688902A22DC4F8160,
   0x79E4959162ACD3C25C2406490A3A32E0, 0x08AE7A65EAF4566CA94ED58D6D37C8E7,
   0x8A8BBD4B1F74DDE8C6B4A61C2E2578BA, 0x9E1DC186B95735610EF6034866B53E70,
   0xDF2855CEE9871E9B948ED9691198F8E1, 0x16BB54B00F2D99416842E6BF0D89A18C]

/-- The inverse S-box (FIPS 197). -/
def invSboxRows : List Nat :=
  [0xFBD7F3819EA340BF38A53630D56A0952, 0xCBE9DEC444438E3487FF2F9B8239E37C,
   0x4EC3FA420B954CEE3D23C2A632947B54, 0x25D18B6D49A25B76B224D92866A12E08,
   0x92B6655DCC5CA4D41698688664F6F872, 0x849D8DA75746155EDAB9EDFD5048706C,
   0x0645B3B80558E4F70AD3BC8C00ABD890, 0x6B8A130103BDAFC1020F3FCA8F1E2CD0,
   0x73E6B4F0CECFF297EADC674F4111913A, 0x6EDF751CE837F9E28535ADE72274AC96,
   0x1BBE18AA0E62B76F89C5291D711AF147, 0xF45ACD78FEC0DB9A2079D2C64B3E56FC,
   0x5FEC8027591012B131C7078833A8DD1F, 0xEF9CC9939F7AE52D0D4AB519A97F5160,
   0x619953833CBBEBC8B0F52AAE4D3BE0A0, 0x7D0C2155631469E126D677BA7E042B17]

/-- Byte `b` replaced by its entry in a table of rows. -/
def subByte (rows : List Nat) (b : Nat) : Nat := byteOf (rows.getD (b / 16) 0) (b % 16)

/-- The number whose byte `i` is `f i`, for `n` bytes. -/
def packBytesOf (f : Nat → Nat) (n : Nat) : Nat := (List.range n).foldl (fun acc i => acc + f i * 2 ^ (8 * i)) 0

/-- SubBytes and ShiftRows of a block: byte i comes from row i mod 4 shifted by `k` (1 forward, 3 back) times its number. -/
def subShift (rows : List Nat) (k x : Nat) : Nat :=
  packBytesOf (fun i => subByte rows (byteOf x ((i + 4 * k * (i % 4)) % 16))) 16

/-- SubBytes of a word. -/
def subWord (x : Nat) : Nat := packBytesOf (fun i => subByte sboxRows (byteOf x i)) 4

/-- Multiplication of every byte of a block by x in GF(2^8). -/
def xtime (x : Nat) : Nat :=
  Nat.xor (2 * Nat.land x 0x7F7F7F7F7F7F7F7F7F7F7F7F7F7F7F7F) (Nat.land (x / 128) 0x01010101010101010101010101010101 * 0x1B)

/-- Each column of a block turned: byte i of a column becomes byte i + 1 of it. -/
def turn1 (x : Nat) : Nat :=
  Nat.land (x / 2 ^ 8) 0x00FFFFFF00FFFFFF00FFFFFF00FFFFFF + Nat.land x 0x000000FF000000FF000000FF000000FF * 2 ^ 24
/-- Turned by two. -/
def turn2 (x : Nat) : Nat := turn1 (turn1 x)
/-- Turned by three. -/
def turn3 (x : Nat) : Nat := turn1 (turn2 x)

/-- MixColumns: each byte becomes 2 a + 3 b + c + d of its column's bytes from itself on. -/
def mixColumns (x : Nat) : Nat :=
  let y := xtime x
  Nat.xor (Nat.xor y (turn1 (Nat.xor y x))) (Nat.xor (turn2 x) (turn3 x))

/-- InvMixColumns: each byte becomes 14 a + 11 b + 13 c + 9 d. -/
def invMixColumns (x : Nat) : Nat :=
  let y2 := xtime x
  let y4 := xtime y2
  let y8 := xtime y4
  Nat.xor (Nat.xor (Nat.xor (Nat.xor y8 y4) y2) (turn1 (Nat.xor (Nat.xor y8 y2) x)))
    (Nat.xor (turn2 (Nat.xor (Nat.xor y8 y4) x)) (turn3 (Nat.xor y8 x)))

/-- The key schedule: words built so far, newest first, extended by `n` words, the next round constant being `rcon`. -/
def keyWords : Nat → Nat → List Nat → List Nat
  | 0, _, ws => ws
  | n + 1, rcon, ws =>
    let i := ws.length
    let prev := ws.getD 0 0
    let t :=
      if i % 8 = 0 then Nat.xor (subWord (prev / 256 + prev % 256 * 2 ^ 24)) rcon
      else if i % 8 = 4 then subWord prev
      else prev
    keyWords n (if i % 8 = 0 then 2 * rcon else rcon) (Nat.xor (ws.getD 7 0) t :: ws)

/-- The 60 words of an AES-256 key of 32 bytes, in order. -/
def expandKey (key : List Byte) : List Nat :=
  let first := (List.range 8).map fun i => packBytesOf (fun j => (key.getD (4 * i + j) 0).toNat) 4
  (keyWords 52 1 first.reverse).reverse

/-- The round key of round `r`. -/
def roundKey (ks : List Nat) (r : Nat) : Nat :=
  (List.range 4).foldl (fun acc j => acc + ks.getD (4 * r + j) 0 * 2 ^ (32 * j)) 0

/-- Rounds `15 - n` to 14 of encryption. -/
def aesRounds (ks : List Nat) : Nat → Nat → Nat
  | 0, x => x
  | n + 1, x =>
    let t := subShift sboxRows 1 x
    aesRounds ks n (Nat.xor (if n = 0 then t else mixColumns t) (roundKey ks (14 - n)))

/-- AES-256 encryption of one block under an expanded key. -/
def aesEncrypt (ks : List Nat) (block : Nat) : Nat := aesRounds ks 14 (Nat.xor block (roundKey ks 0))

/-- Rounds of decryption, down to round key 0. -/
def aesInvRounds (ks : List Nat) : Nat → Nat → Nat
  | 0, x => x
  | n + 1, x =>
    let u := Nat.xor (subShift invSboxRows 3 x) (roundKey ks n)
    aesInvRounds ks n (if n = 0 then u else invMixColumns u)

/-- AES-256 decryption of one block under an expanded key. -/
def aesDecrypt (ks : List Nat) (block : Nat) : Nat := aesInvRounds ks 14 (Nat.xor block (roundKey ks 14))

/-! ### AES-256-GCM -/

/-- Big-endian number of bytes. -/
def beNat (bs : List Byte) : Nat := leNat bs.reverse

/-- The `n` big-endian bytes of a number. -/
def beBytes (n x : Nat) : List Byte := (leBytes n x).reverse

/-- The product of GHASH over the bits of `x` from bit `k - 1` down (bit 127 is the first). -/
def ghashMul (x : Nat) : Nat → Nat → Nat → Nat
  | 0, _, z => z
  | k + 1, v, z =>
    ghashMul x k (if v % 2 = 1 then Nat.xor (v / 2) (0xE1 * 2 ^ 120) else v / 2) (if x.testBit k then Nat.xor z v else z)

/-- GHASH over `n` 16-byte blocks, the last padded with zeros. -/
def ghash (h : Nat) : Nat → List Byte → Nat → Nat
  | 0, _, y => y
  | n + 1, bs, y =>
    let b := bs.take 16
    ghash h n (bs.drop 16) (ghashMul (Nat.xor y (beNat (b ++ List.replicate (16 - b.length) 0))) 128 h 0)

/-- The bytes that AES gives for a block of bytes. -/
def aesBytes (ks : List Nat) (block : List Byte) : List Byte := leBytes 16 (aesEncrypt ks (leNat block))

/-- The counter-mode key stream over `n` blocks from counter `ctr`. -/
def gcmStream (ks : List Nat) (iv : List Byte) : Nat → Nat → List Byte
  | 0, _ => []
  | n + 1, ctr => aesBytes ks (iv ++ beBytes 4 ctr) ++ gcmStream ks iv n (ctr + 1)

/-- AES-256-GCM with a 12-byte IV: the other text under counter mode. -/
def gcmCrypt (key iv text : List Byte) : List Byte :=
  List.zipWith (fun a b => a ^^^ b) text (gcmStream (expandKey key) iv (ceilDiv text.length 16) 2)

/-- The AES-256-GCM tag over additional data and ciphertext. -/
def gcmTag (key iv aad ct : List Byte) : List Byte :=
  let ks := expandKey key
  let h := beNat (aesBytes ks (List.replicate 16 0))
  let y := ghash h (ceilDiv aad.length 16) aad 0
  let y := ghash h (ceilDiv ct.length 16) ct y
  let y := ghash h 1 (beBytes 8 (8 * aad.length) ++ beBytes 8 (8 * ct.length)) y
  List.zipWith (fun a b => a ^^^ b) (beBytes 16 y) (aesBytes ks (iv ++ [0, 0, 0, 1]))

/-! ### AES key wrap, unwrapping (RFC 3394) -/

/-- The unwrapping steps t = `n` down to 1 over the integrity value and the registers, each of eight bytes. -/
def unwrapLoop (ks : List Nat) (regs : Nat) : Nat → Nat → List Nat → Nat × List Nat
  | 0, a, r => (a, r)
  | t + 1, a, r =>
    let i := t % regs
    let b := aesDecrypt ks (Nat.xor a (leNat (beBytes 8 (t + 1))) + r.getD i 0 * 2 ^ 64)
    unwrapLoop ks regs t (b % 2 ^ 64) (r.set i (b / 2 ^ 64))

/-- The key inside a wrapped key of 8 (n + 1) bytes, or none when the integrity check fails. -/
def keyUnwrap (kek wrapped : List Byte) : Option (List Byte) :=
  let n := wrapped.length / 8 - 1
  let reg := fun i => leNat ((wrapped.drop (8 * i)).take 8)
  let x := unwrapLoop (expandKey kek) n (6 * n) (reg 0) ((List.range n).map fun i => reg (i + 1))
  if x.1 = 0xA6A6A6A6A6A6A6A6 then some (x.2.flatMap (leBytes 8)) else none

end Sys2Proof.Machine
end

