-- ==== Sys2Proof/Syntax.lean ====
section
/-!
DEFINITION. The syntax of the model: one constructor of `Instr` per row of spec/opcode_table.json.

The rows are of two kinds. The SVI instructions (ADD to PORTQ) are what a strand's sequencer fetches and decodes
(spec chapters 06 to 13). The device steps and events (BLOCKED_STRAND_WAKE to SCAN_OUT_COMPLETE) are what the other
agents of the device do: engines, the dispatcher, the region manager, the boot complex and the driver. An event's
arguments name where it happens and carry whatever comes from outside the machine (a beat of an operator, the
residue check's outcome, a register write of the host).
-/

namespace Sys2Proof

/-- A scalar register number S0-S63 (R135). -/
abbrev SReg := Fin 64
/-- A vector register number V0-V63 (R135). -/
abbrev VReg := Fin 64
/-- A predicate register number P0-P15 (R135). -/
abbrev PReg := Fin 16
/-- A reply queue number Q0-Q3 (R135). -/
abbrev QReg := Fin 4
/-- A stream endpoint F0-F31 (R135). -/
abbrev FReg := Fin 32

/-- The native element formats, in the order of their codes 0x00-0x0F (R41). -/
inductive Fmt where
  | s8 | s16 | s32 | s64 | z8 | z16 | z32 | z64 | f32 | f16 | bf16 | fa8 | fb8 | f4 | ds8 | l16
deriving DecidableEq, Repr

/-- The RND field: the ROUND register, or an override (R128). -/
inductive Rnd where
  | dyn | rne | rtz | rdn | rup
deriving DecidableEq, Repr

/-- The spaces an instruction can reach (R68); host-direct is a reserved encoding. -/
inductive Space where
  | glob | loc | win
deriving DecidableEq, Repr

/-- The ORDER field of Form M (R130). -/
inductive Order where
  | plain | acq | rel | ar
deriving DecidableEq, Repr

/-- Scopes, narrowest first (R98, R130). -/
inductive Scope where
  | tile | gang | dev | sys
deriving DecidableEq, Repr

/-- Branch conditions (R131). -/
inductive Cond where
  | eq | ne | lt | ge | ltz | gez
deriving DecidableEq, Repr

/-- VCMP conditions (R196). -/
inductive VCond where
  | eq | ne | lt | le | gt | ge | un
deriving DecidableEq, Repr

/-- VSCAN operations (R205). -/
inductive ScanOp where
  | sum | max | min
deriving DecidableEq, Repr

/-- The copy channels that number copies: load, store, accumulator (R17). -/
inductive Chan where
  | load | store | acc
deriving DecidableEq, Repr

/-- The four engines, in the order of the trap record's ENGINE field (R113). -/
inductive Eng where
  | load | store | matrix | fibre
deriving DecidableEq, Repr

/-- Type and rounding modifiers of a Form R vector instruction (R128). -/
structure VMod where
  ty : Fmt
  rnd : Rnd
  sat : Bool
  nsat : Bool
deriving DecidableEq, Repr

/-- A lane guard ?Pg or ?!Pg (R140). -/
structure Guard where
  p : PReg
  inv : Bool
deriving DecidableEq, Repr

/-- The type, space, order, scope, .bp flag and signed offset of a Form M access (R130). -/
structure MemOp where
  ty : Fmt
  space : Space
  order : Order
  scope : Scope
  bp : Bool
  off : BitVec 20
deriving DecidableEq, Repr

/-- Descriptor index, reply queue and scope of a Form X command (R132). -/
structure XOp where
  tdi : BitVec 16
  reply : Option QReg
  scope : Scope
deriving DecidableEq, Repr

/-- The options of MMA and MMAG in XFLAG (R244): pair code, .sat, .bv, .av. -/
structure MmaOp where
  pair : Fin 16
  sat : Bool
  bv : Bool
  av : Bool
deriving DecidableEq, Repr

/-- CLASS and UNIT of a Form F instruction (R133). -/
structure UnitRef where
  cls : Fin 9
  unit : Fin 16
deriving DecidableEq, Repr

/-- Level formats of a scan (R263, R276). -/
inductive ScanFmt where
  | dense | comp | bitmap | clist
deriving DecidableEq, Repr

/-- Fibre value types (R279). -/
inductive FTy where
  | s32 | z32 | f32
deriving DecidableEq, Repr

/-- FREDUCE operations (R279). -/
inductive RedOp where
  | add | min | max
deriving DecidableEq, Repr

/-- FALU operations (R281). -/
inductive AluOp where
  | add | sub | mul | min | max | and | or | xor | setlt | seteq
deriving DecidableEq, Repr

/-- FWRITE modes (R282). -/
inductive WrMode where
  | at | crd | val | add
deriving DecidableEq, Repr

/-- Scratchpad sink modes (R286). -/
inductive SinkMode where
  | val | tok | count
deriving DecidableEq, Repr

/-- COLL kinds (R232). -/
inductive CollKind where
  | allreduce | reducescatter | allgather | bcast | reduce
deriving DecidableEq, Repr

/-- COLL reduction operations (R232). -/
inductive CollOp where
  | add | min | max | and | or | xor
deriving DecidableEq, Repr

/-- The control registers of R136. -/
inductive CtlReg where
  | round | sat | subst | ufcount | vbank | quota | cycle | vl | cwlr | cwlv | cwsr | cwsv | cwar | cwav
deriving DecidableEq, Repr

/-- One beat of a stream port: 512 data bits and the 8-bit side-band (R293). -/
structure Beat where
  data : BitVec 512
  side : BitVec 8
deriving DecidableEq, Repr

/-- The outcome of a matrix pass's checks: clean, a residue mismatch, or a droop (with or without a mismatch) (R250). -/
inductive PassCheck where
  | clean | residue | droop
deriving DecidableEq, Repr

/-- A place in a function's BAR2 (R346). -/
structure BellAddr where
  fn : Nat
  addr : Nat
deriving DecidableEq, Repr

/-- A restore of the image that a tile was set aside for, and whether scanning it in meets a parity error (R389). -/
structure RestoreSel where
  tile : Nat
  parityError : Bool
deriving DecidableEq, Repr

/-- Which posted request MEMORY_ACCESS_PERFORM performs at its serialisation point (R106). -/
inductive AccessSel where
  /-- element `elem` read by copy `id` of channel `ch` on tile `tile` -/
  | copyRead (tile : Nat) (ch : Chan) (id elem : Nat)
  /-- element `elem` written by copy `id` of channel `ch` on tile `tile` -/
  | copyWrite (tile : Nat) (ch : Chan) (id elem : Nat)
  /-- the fingerprint of CPYF `id` on tile `tile` -/
  | copyPrint (tile id : Nat)
  /-- the reduction AMO at place `i` of the routers' queues -/
  | routerAmo (i : Nat)
  /-- the write that write unit or sink `unit` of tile `tile` has sent -/
  | fibreWrite (tile unit : Nat)
deriving DecidableEq, Repr

/-- Which lane BEAT_TRANSFER moves a beat on (R293, R301, R306). -/
inductive BeatSel where
  /-- tile `tile` to region, on tile port `p` -/
  | toRegion (tile : Nat) (p : Fin 8)
  /-- region to tile `tile`, on tile port `p`: the operator sends `b` -/
  | toTile (tile : Nat) (p : Fin 8) (b : Beat)
  /-- the operator of a copy path returns a beat to copy `id` of channel `ch` of tile `tile` -/
  | toCopy (tile : Nat) (ch : Chan) (id : Nat) (b : Beat)
  /-- the operator bound to a codec returns a beat to the load that waits on tile `tile` -/
  | toLoad (tile : Nat) (b : Beat)
  /-- the next beat of the message that port `port` of physical region `region` serves, sent by a copy or a load -/
  | toPort (region port : Nat)
deriving DecidableEq, Repr

/-- What an ECC_ERROR meets (R412): an array of tile `tile`, or the shared-cache line at `line` that no strand owns. -/
inductive EccPlace where
  | tile (tile : Nat)
  | line (line : Nat)
deriving DecidableEq, Repr

/-- Whose divider CLOCK_DIVIDER_CHANGE moves at its clock edge (R409). -/
inductive ClockDomain where
  | tiles (chiplet : Nat)
  | region (r : Nat)
deriving DecidableEq, Repr

/-- One constructor per row of spec/opcode_table.json. -/
inductive Instr where
  -- scalar arithmetic, R154-R157
  | add (d a b : SReg) | sub (d a b : SReg) | and (d a b : SReg) | or (d a b : SReg) | xor (d a b : SReg)
  | shl (d a b : SReg) | shr (d a b : SReg) | sra (d a b : SReg)
  | min (d a b : SReg) | max (d a b : SReg) | minz (d a b : SReg) | maxz (d a b : SReg)
  | setlt (d a b : SReg) | setltz (d a b : SReg) | seteq (d a b : SReg)
  | popc (d a : SReg) | clz (d a : SReg) | ctz (d a : SReg)
  | mul (d a b : SReg) | mulh (d a b : SReg) | mulhz (d a b : SReg) | madd (d a b c : SReg)
  | div (d a b : SReg) | divz (d a b : SReg) | rem (d a b : SReg) | remz (d a b : SReg)
  | sel (d a b c : SReg)
  | bfx (d a : SReg) (pos wm1 : Fin 64) (sx : Bool) | bfi (d a : SReg) (pos wm1 : Fin 64)
  -- immediates and factors, R158-R160
  | addi (d a : SReg) (imm : BitVec 28) | andi (d a : SReg) (imm : BitVec 28)
  | ori (d a : SReg) (imm : BitVec 28) | xori (d a : SReg) (imm : BitVec 28)
  | shlImm (d a : SReg) (n : Fin 64) | shrImm (d a : SReg) (n : Fin 64) | sraImm (d a : SReg) (n : Fin 64)
  | li (d : SReg) (imm : BitVec 28) | addpc (d : SReg) (imm : BitVec 28)
  | lui (d a : SReg) (imm : BitVec 20) (pos : Fin 64)
  | liFactor (d : SReg) (slot : Fin 64) (scale : BitVec 22)
  | addiFactor (d a : SReg) (slot : Fin 64) (scale : BitVec 22)
  -- control flow, R161-R168
  | bCond (c : Cond) (a b : SReg) (off : BitVec 24) | j (imm : BitVec 28) | jl (imm : BitVec 28)
  | jr (d a : SReg) | nop | brk (tag : Fin 512) | trap (n : Fin 32) (a b : SReg)
  | yieldTo (d : SReg) | endStrand (mask : BitVec 4) | feat (d : SReg) (id : BitVec 16)
  -- synchronisation and system, R169-R184
  | fence (order : Order) (scope : Scope) | bar (k : Fin 16) | bara (k : Fin 16) | barw (k : Fin 16)
  | waitcR (ch : Chan) (a : SReg) | waitcV (ch : Chan) (a : SReg) | waitr (d : SReg) (q : QReg) (b : SReg)
  | waite (mask : BitVec 4) | popq (d : SReg) (q : QReg) | peekq (d : SReg) (q : QReg)
  | launch (d a b : SReg) | siginc (d a b : SReg)
  | rdid (d : SReg) (sel : BitVec 8) | rdctl (d : SReg) (r : CtlReg) | wrctl (r : CtlReg) (a : SReg)
  | tdnarrow (slot : Fin 64) (a : SReg) (tdi : BitVec 16)
  | ctxsave (d a b c : SReg) (tdi : BitVec 16) (sealed : Bool) (slot : Fin 64)
  | ctxload (tdi : BitVec 16) (sealed : Bool) (slot : Fin 64)
  | reservedEncoding (w : Word)
  -- vector, R190-R211
  | vsetvl (d a : SReg) (t : Fmt) (max : Bool)
  | vadd (d a b : VReg) (m : VMod) (g : Guard) | vsub (d a b : VReg) (m : VMod) (g : Guard)
  | vmul (d a b : VReg) (m : VMod) (g : Guard) | vfma (d a b c : VReg) (m : VMod) (g : Guard)
  | vmin (d a b : VReg) (m : VMod) (g : Guard) | vmax (d a b : VReg) (m : VMod) (g : Guard)
  | vabs (d a : VReg) (m : VMod) (g : Guard) | vneg (d a : VReg) (m : VMod) (g : Guard)
  | vand (d a b : VReg) (m : VMod) (g : Guard) | vor (d a b : VReg) (m : VMod) (g : Guard)
  | vxor (d a b : VReg) (m : VMod) (g : Guard)
  | vshl (d a b : VReg) (s : Bool) (m : VMod) (g : Guard) | vshr (d a b : VReg) (s : Bool) (m : VMod) (g : Guard)
  | vsra (d a b : VReg) (s : Bool) (m : VMod) (g : Guard)
  | vcmp (cond : VCond) (d : PReg) (a b : VReg) (m : VMod) (g : Guard)
  | vsel (d a b : VReg) (c : PReg) (m : VMod) (g : Guard)
  | vbcast (d a b : VReg) (lane : Bool) (m : VMod) (g : Guard)
  | vext (d : SReg) (a : VReg) (b : SReg) (m : VMod) (g : Guard)
  | viota (d : VReg) (pre : Bool) (m : VMod) (g : Guard)
  | vperm (d a b : VReg) (m : VMod) (g : Guard)
  | vcompress (d a : VReg) (m : VMod) (g : Guard) | vexpand (d a : VReg) (m : VMod) (g : Guard)
  | vpopc (d a : VReg) (m : VMod) (g : Guard)
  | vredsum (d a b : VReg) (wide : Bool) (m : VMod) (g : Guard)
  | vredmax (d a b : VReg) (m : VMod) (g : Guard) | vredmin (d a b : VReg) (m : VMod) (g : Guard)
  | vscan (op : ScanOp) (d a b : VReg) (excl : Bool) (m : VMod) (g : Guard)
  | vcvt (d a c : VReg) (ts : Fmt) (part : Fin 16) (blk : Fin 4) (m : VMod) (g : Guard)
  | vcvtds (d a c : VReg) (ts : Fmt) (part : Fin 16) (blk : Fin 4) (m : VMod) (g : Guard)
  | vrecip (d a : VReg) (m : VMod) (g : Guard) | vrsqrt (d a : VReg) (m : VMod) (g : Guard)
  | vexp2 (d a : VReg) (m : VMod) (g : Guard) | vlog2 (d a : VReg) (m : VMod) (g : Guard)
  | vladd (d a b : VReg) (m : VMod) (g : Guard) | vlsub (d a b : VReg) (m : VMod) (g : Guard)
  | ldct (tdi : BitVec 16) | ldctReset
  -- predicates, R212-R213
  | pand (d a b : PReg) | por (d a b : PReg) | pxor (d a b : PReg) | pnot (d a : PReg)
  | pcnt (d : SReg) (a : PReg) (t : Fmt) | pfirst (d : SReg) (a : PReg) (t : Fmt)
  -- memory, R214-R221
  | ld (d a : SReg) (m : MemOp) | st (d a : SReg) (m : MemOp)
  | ldv (d : VReg) (a : SReg) (m : MemOp) (g : Guard) | stv (d : VReg) (a : SReg) (m : MemOp) (g : Guard)
  | ldvs (d : VReg) (a b : SReg) (m : MemOp) (g : Guard) | stvs (d : VReg) (a b : SReg) (m : MemOp) (g : Guard)
  | ldvx (d : VReg) (a : SReg) (b : VReg) (m : MemOp) (g : Guard)
  | stvx (d : VReg) (a : SReg) (b : VReg) (m : MemOp) (g : Guard)
  | cas (d a b : SReg) (m : MemOp)
  | amoAdd (d a b : SReg) (det : Bool) (m : MemOp) | amoAnd (d a b : SReg) (det : Bool) (m : MemOp)
  | amoOr (d a b : SReg) (det : Bool) (m : MemOp) | amoXor (d a b : SReg) (det : Bool) (m : MemOp)
  | amoMin (d a b : SReg) (det : Bool) (m : MemOp) | amoMax (d a b : SReg) (det : Bool) (m : MemOp)
  | amoMinz (d a b : SReg) (det : Bool) (m : MemOp) | amoMaxz (d a b : SReg) (det : Bool) (m : MemOp)
  | amoSwap (d a b : SReg) (det : Bool) (m : MemOp)
  | amoFaddF32 (d a b : SReg) (det : Bool) (m : MemOp) | amoFaddBf16 (d a b : SReg) (det : Bool) (m : MemOp)
  -- copies, rings, collectives, R222-R235
  | cpyl (d a b : SReg) (x : XOp) | cpylRing (d : SReg) (ring : Fin 8) (b : SReg) (x : XOp)
  | cpys (d a b : SReg) (x : XOp) | cpyf (d a b c : SReg) (nd : Bool) (x : XOp)
  | cpya (d a b c : SReg) (inDir : Bool) (t : Fmt) (sat : Bool) (reply : Option QReg) (scope : Scope)
  | rsetup (ring : Fin 8) (a b c : SReg) | rpub (d : SReg) (ring : Fin 8) | rtake (d : SReg) (ring : Fin 8)
  | rfree (ring : Fin 8)
  | coll (d a b : SReg) (kind : CollKind) (op : CollOp) (det : Bool) (tdi : BitVec 16) (q : QReg) (scope : Scope)
  -- matrix, R236-R249
  | mma (d a b c : SReg) (o : MmaOp) (tdi : BitVec 16) (reply : Option QReg)
  | mmag (d a b c : SReg) (o : MmaOp) (tdi : BitVec 16) (reply : Option QReg)
  | mzero (a : SReg) | mscale (a b : SReg) (int : Bool) (sat : Bool) (sh : Fin 64)
  -- fibre, R272-R289
  | fscan (u : UnitRef) (d a : FReg) (fmt : ScanFmt) (root uniq : Bool) (tdi : BitVec 16)
  | fisect (u : UnitRef) (d c a b : FReg) | funion (u : UnitRef) (d c a b : FReg)
  | frepeat (u : UnitRef) (d a b : FReg)
  | freduce (u : UnitRef) (d a : FReg) (op : RedOp) (t : FTy) (sat : Bool) (rnd : Rnd)
  | fval (u : UnitRef) (d a : FReg) (tdi : BitVec 16)
  | falu (u : UnitRef) (d a b : FReg) (op : AluOp) (t : FTy) (two : Bool) (sat : Bool) (rnd : Rnd) (imm : BitVec 9)
  | fwrite (u : UnitRef) (a : FReg) (mode : WrMode) (t : FTy) (tdi : BitVec 16)
  | fgen (u : UnitRef) (d a : FReg) | fsteer (u : UnitRef) (d c a b : FReg)
  | fmerge (u : UnitRef) (d c a b : FReg) | fcarry (u : UnitRef) (d a b : FReg)
  | fsrc (p : Fin 8) (d : FReg) (level : Fin 8)
  | fsinkPort (p : Fin 8) (a : FReg) | fsinkQ (p : Fin 8) (a : FReg) (q : QReg) (count : Bool)
  | fsinkL (p : Fin 8) (a : FReg) (mode : SinkMode) (addr : Fin 32768)
  | fgo (d : SReg) (q : QReg) | fkill | fkillClear
  -- ports, R296-R300
  | portb (p : Fin 8) (region : Fin 16) (rport : Fin 8) | portbU (p : Fin 8)
  | portw (p : Fin 8) (a : VReg) (tok fin : Bool) | portr (p : Fin 8) (d : SReg) (c : VReg)
  | portq (p : Fin 8) (d : SReg)
  -- device steps: strands and engines
  | blockedStrandWake (tile : Nat) | retentionWake (tile : Nat)
  | copyStart (tile : Nat) (store : Bool) | copyIssueFinish (tile : Nat) (store : Bool)
  | copySourceReadDone (tile : Nat) (ch : Chan) (id : Nat) | copyVisible (tile : Nat) (ch : Chan) (id : Nat)
  | memoryAccessPerform (sel : AccessSel) | routerAmoMerge (i j : Nat)
  | matrixPass (tile : Nat) (check : PassCheck)
  | fibreConfigApply (tile : Nat) | graphRunStart (tile : Nat) | fibreUnitStep (tile unit : Nat)
  | fibreScanReadReturn (tile unit : Nat) | fibreStallExpiry (tile : Nat) | graphRunFinish (tile : Nat)
  | collComplete (tile : Nat) | collParticipantLost (tile : Nat)
  | barrierInstanceComplete (queue record gang : Nat) (k : Fin 16)
  | beatTransfer (sel : BeatSel) | flitDelivery (tile : Nat) | niFreeze (tile : Nat)
  | freezeAck (tile peer : Nat) | recon (tile : Nat)
  -- device steps: stops, traps, quota, service
  | deadlineExpiry (tile : Nat) | stopForCause (tile : Nat) | deferredFaultDelivery (tile : Nat)
  | asyncTrapDelivery (tile : Nat) | quotaChargeReport (tile : Nat) | quotaExhaustionNotice (tile : Nat)
  | serviceRequestRecord (i : Nat) | cowService (i : Nat) | folioFormation (tile : Nat)
  -- device steps: queues and the dispatcher
  | doorbell (at_ : BellAddr) (v : Word) | recordHead (queue : Nat) | waitEvaluation (queue : Nat) | waitPollTimer
  | agingInterval | gangDispatch | taskCompletionPublish (queue record : Nat)
  | queueEnable (fn queue : Nat) | queueDrain (fn queue : Nat) | queueAbort (fn queue : Nat)
  | queueReset (fn queue : Nat) | abortComplete (queue : Nat)
  -- mailbox commands of function fn
  | load (fn : Nat) | unload (fn : Nat) | tcinv (fn : Nat) | tcinvComplete (fn : Nat) | group (fn : Nat)
  | ungroup (fn : Nat) | tlbinv (fn : Nat) | tlbinvComplete (fn : Nat) | frames (fn : Nat) | resolve (fn : Nat)
  | keyset (fn : Nat) | keyclr (fn : Nat) | ctrget (fn : Nat) | dbghalt (fn : Nat) | dbgresume (fn : Nat)
  | dbgpend (fn : Nat) | dbgview (fn : Nat) | imghold (fn : Nat) | imgfree (fn : Nat) | swap (fn : Nat)
  | swapQuiesce (region : Nat) | rclock (fn : Nat) | quotaadd (fn : Nat) | fwstage (fn : Nat) | restart (fn : Nat)
  | attest (fn : Nat) | regroup (fn : Nat) | heldresume (fn : Nat) | heldabort (fn : Nat)
  | mailboxUndefinedCommand (fn : Nat)
  -- regions, clocks, errors, links, registers, boot
  | regionLoadComplete (region : Nat) | regionStop (region : Nat) | regionRelink (region : Nat)
  | reconfigTokenApply (region : Nat) (port : Fin 8) (depth : Nat)
  | thermalTick (region temp : Nat) | regionMachineCheck (region : Nat)
  | tdivreqWrite (chiplet : Nat) (v : Word) | clockDividerChange (dom : ClockDomain)
  | droopDetected (tile : Nat) | eccError (place : EccPlace) (double : Bool) | memoryScrub (line : Nat) (double : Bool)
  | linkReplayLimit (link : Nat) | linkRetrainFail (link : Nat) | linkEnableWrite (link : Nat) (v : Word)
  | pkgWrite (v : Word) | tenantWrite (fn : Nat) (v : Word) | registerWrite (fn : Nat) (off : Nat) (v : Word)
  | hostMemoryAccess (aperture : Bool) (addr : Nat) (bytes : List Byte)
  | vellumRestore (sel : RestoreSel) | deviceReset | bootReady | bootWatchdogExpiry | linkTrainingDone (link peer peerLink : Nat)
  | flitReplay (link : Nat) | tileThrottle (tile divider : Nat) | failedStart (reason detail : Nat)
  | scanOutComplete (tile : Nat) (parityError : Bool)
deriving DecidableEq, Repr

end Sys2Proof
end

