-- ==== Sys2Proof/WellFormed.lean ====
section
/-!
DEFINITION. Which terms of `Instr` are instructions: the operand rules of spec chapters 06 to 13 that the types of
Syntax.lean do not already carry. A word whose fields break one of them is a reserved encoding (R126, R142).
-/

namespace Sys2Proof

/-- Signed integer formats (R48). -/
def Fmt.isS : Fmt → Bool
  | .s8 | .s16 | .s32 | .s64 => true
  | _ => false

/-- Unsigned integer formats (R48). -/
def Fmt.isZ : Fmt → Bool
  | .z8 | .z16 | .z32 | .z64 => true
  | _ => false

/-- Integer formats. -/
def Fmt.isInt (t : Fmt) : Bool := t.isS || t.isZ

/-- The formats that R189 calls float. -/
def Fmt.isFloat : Fmt → Bool
  | .f32 | .f16 | .bf16 | .fa8 | .fb8 => true
  | _ => false

/-- Bits of an element (R41). -/
def Fmt.bits : Fmt → Nat
  | .s8 | .z8 | .fa8 | .fb8 | .ds8 => 8
  | .s16 | .z16 | .f16 | .bf16 | .l16 => 16
  | .s32 | .z32 | .f32 => 32
  | .s64 | .z64 => 64
  | .f4 => 4

/-- The lane guard ?!P0 is a reserved encoding (R140). -/
def Guard.ok (g : Guard) : Bool := !(g.p == 0 && g.inv)

/-- The modifiers of a vector instruction against one row of R189: the accepted types, the types that take RND, and
the types that take SAT. NSAT needs a FA8 destination where SAT is allowed, and excludes SAT (R128). -/
def VMod.ok (m : VMod) (ty rnd sat : Fmt → Bool) : Bool :=
  ty m.ty && (m.rnd == .dyn || rnd m.ty) && (!m.sat || sat m.ty) &&
    (!m.nsat || (sat m.ty && m.ty == .fa8 && !m.sat))

/-- Rows of R189 without RND and SAT. -/
def VMod.bare (m : VMod) (ty : Fmt → Bool) : Bool := m.ok ty (fun _ => false) (fun _ => false)

/-- S, Z and float types. -/
def Fmt.arith (t : Fmt) : Bool := t.isInt || t.isFloat

/-- S, Z, float and L16 types. -/
def Fmt.arithL (t : Fmt) : Bool := t.arith || t == .l16

/-- F32, F16 and BF16. -/
def Fmt.wideFloat : Fmt → Bool
  | .f32 | .f16 | .bf16 => true
  | _ => false

/-- The ratio of the larger to the smaller element size of a conversion (R207). -/
def convRatio (td ts : Fmt) : Nat := max td.bits ts.bits / min td.bits ts.bits

/-- Orders a load may carry (R101). -/
def MemOp.loadOrder (m : MemOp) : Bool := m.order == .plain || m.order == .acq

/-- Orders a store may carry (R101). -/
def MemOp.storeOrder (m : MemOp) : Bool := m.order == .plain || m.order == .rel

/-- TYPE and BP of CAS and the integer AMOs (R219, R220). -/
def MemOp.atomicOk (m : MemOp) : Bool :=
  (m.ty == .s32 || m.ty == .s64 || m.ty == .z32 || m.ty == .z64) && !m.bp

/-- The local formats of CPYA by direction (R226). -/
def cpyaFmtOk (inDir : Bool) (t : Fmt) : Bool :=
  if inDir then t == .f32 || t == .f16 || t == .bf16 || t == .s32
  else t == .f32 || t == .f16 || t == .bf16 || t == .fa8 || t == .fb8 || t == .s32 || t == .s16 || t == .s8

/-- The operand rules of each instruction. Events have none: they are not encoded. -/
def Instr.wf : Instr → Bool
  | .bfx _ _ pos wm1 _ => pos.val + wm1.val + 1 ≤ 64
  | .bfi _ _ pos wm1 => pos.val + wm1.val + 1 ≤ 64
  | .fence o _ => o != .plain
  | .rdid _ n => n.toNat ≤ 0x0C || (0x80 ≤ n.toNat && n.toNat ≤ 0x83)
  | .ctxsave _ _ _ _ _ sealed slot => sealed || slot == 0
  | .ctxload _ sealed slot => sealed || slot == 0
  | .vsetvl _ a _ mx => !mx || a == 0
  | .vadd _ _ _ m g | .vsub _ _ _ m g | .vfma _ _ _ _ m g => m.ok Fmt.arith Fmt.isFloat Fmt.arith && g.ok
  | .vmul _ _ _ m g => m.ok Fmt.arithL (fun t => t.isFloat || t == .l16) Fmt.arithL && g.ok
  | .vmin _ _ _ m g | .vmax _ _ _ m g | .vredmax _ _ _ m g | .vredmin _ _ _ m g => m.bare Fmt.arithL && g.ok
  | .vabs _ _ m g | .vneg _ _ m g =>
    m.ok (fun t => t.isS || t.isFloat || t == .l16) (fun _ => false) Fmt.isS && g.ok
  | .vand _ _ _ m g | .vor _ _ _ m g | .vxor _ _ _ m g | .vperm _ _ _ m g => m.bare (fun _ => true) && g.ok
  | .vcompress _ _ m g | .vexpand _ _ m g | .vext _ _ _ m g | .vsel _ _ _ _ m g => m.bare (fun _ => true) && g.ok
  | .vbcast _ _ b lane m g => m.bare (fun _ => true) && g.ok && (lane || b == 0)
  | .vshl _ _ _ _ m g | .vshr _ _ _ _ m g | .vsra _ _ _ _ m g => m.bare Fmt.isInt && g.ok
  | .viota _ _ m g | .vpopc _ _ m g => m.bare Fmt.isInt && g.ok
  | .vcmp _ d _ _ m g => m.bare (fun t => t != .f4 && t != .ds8) && g.ok && d != 0
  | .vredsum _ _ _ wide m g => m.ok Fmt.arith Fmt.isFloat Fmt.arith && g.ok && !(wide && m.nsat)
  | .vscan op _ _ _ _ m g =>
    m.ok (fun t => t.arith || (t == .l16 && op != .sum)) Fmt.isFloat (fun t => t.arith && op == .sum) && g.ok
  | .vrecip _ _ m g | .vrsqrt _ _ m g | .vexp2 _ _ m g | .vlog2 _ _ m g =>
    m.ok Fmt.wideFloat Fmt.wideFloat Fmt.wideFloat && g.ok
  | .vcvt _ _ c ts part blk m g =>
    m.ok (fun _ => true) (fun _ => true) (fun _ => true) && g.ok && part.val < convRatio m.ty ts &&
      !(m.ty == .ds8 && ts == .ds8) && (m.ty == .ds8 || ts == .ds8 || (c == 0 && blk == 0))
  | .vcvtds d _ c ts part _ m g =>
    m.ok (· == .ds8) (fun _ => true) (fun _ => false) && g.ok && (ts == .f32 || ts == .bf16) &&
      part.val < convRatio m.ty ts && c != d
  | .vladd _ _ _ m g | .vlsub _ _ _ m g => m.bare (· == .l16) && g.ok
  | .pand d _ _ | .por d _ _ | .pxor d _ _ | .pnot d _ => d != 0
  | .ld _ _ m => m.ty != .f4 && m.ty != .ds8 && m.loadOrder
  | .st _ _ m => m.ty != .f4 && m.ty != .ds8 && m.storeOrder
  | .ldv _ _ m g => m.loadOrder && g.ok
  | .stv _ _ m g => m.storeOrder && g.ok
  | .ldvs _ _ _ m g | .stvs _ _ _ m g | .ldvx _ _ _ m g | .stvx _ _ _ m g =>
    m.ty != .f4 && m.order == .plain && g.ok
  | .cas _ _ _ m => m.atomicOk
  | .amoAdd _ _ _ _ m | .amoAnd _ _ _ _ m | .amoOr _ _ _ _ m | .amoXor _ _ _ _ m | .amoMin _ _ _ _ m
  | .amoMax _ _ _ _ m | .amoMinz _ _ _ _ m | .amoMaxz _ _ _ _ m | .amoSwap _ _ _ _ m => m.atomicOk
  | .amoFaddF32 _ _ _ _ m => m.ty == .f32 && !m.bp
  | .amoFaddBf16 _ _ _ _ m => m.ty == .bf16 && !m.bp
  | .cpyf _ a _ _ nd _ => !nd || a == 0
  | .cpya _ _ _ _ inDir t sat _ _ => cpyaFmtOk inDir t && !(inDir && sat)
  | .coll _ _ b kind op _ _ _ scope =>
    scope != .tile && (!(kind == .allgather || kind == .bcast) || op == .add) &&
      (kind == .bcast || kind == .reduce || b == 0)
  | .mma d _ _ _ o tdi _ | .mmag d _ _ _ o tdi _ =>
    (o.pair == 9 || o.pair == 10 || d == 0) && (!(o.av && o.bv) || tdi == 0)
  | .mscale _ _ int _ sh => int || sh == 0
  | .fscan _ _ a fmt root uniq _ => (!root || a == 0) && (!uniq || fmt == .clist)
  | .freduce _ _ _ op t sat rnd => (!sat || op == .add) && (rnd == .dyn || (t == .f32 && op == .add))
  | .falu _ _ _ b op t two sat rnd imm =>
    (!sat || op == .add || op == .sub || op == .mul) &&
      (rnd == .dyn || (t == .f32 && (op == .add || op == .sub || op == .mul))) &&
      (if two then imm == 0 else b == 0) &&
      !(t == .f32 && (op == .and || op == .or || op == .xor))
  | .fwrite _ _ mode t _ => mode != .crd || t == .s32
  | _ => true

/-- An instruction that obeys its operand rules. -/
abbrev WellFormed (i : Instr) : Prop := i.wf = true

/-- The rows of the table that a strand fetches; the others are device steps and events. -/
def Instr.isSvi : Instr → Bool
  | .blockedStrandWake _ | .retentionWake _ | .copyStart _ _ | .copyIssueFinish _ _ | .copySourceReadDone _ _ _
  | .copyVisible _ _ _ | .memoryAccessPerform _ | .routerAmoMerge _ _ | .matrixPass _ _ | .fibreConfigApply _
  | .graphRunStart _ | .fibreUnitStep _ _ | .fibreScanReadReturn _ _ | .fibreStallExpiry _ | .graphRunFinish _
  | .collComplete _ | .collParticipantLost _ | .barrierInstanceComplete _ _ _ _ | .beatTransfer _ | .flitDelivery _
  | .niFreeze _ | .freezeAck _ _ | .recon _ | .deadlineExpiry _ | .stopForCause _ | .deferredFaultDelivery _
  | .asyncTrapDelivery _ | .quotaChargeReport _ | .quotaExhaustionNotice _ | .serviceRequestRecord _
  | .cowService _ | .folioFormation _ | .doorbell _ _ | .recordHead _ | .waitEvaluation _ | .waitPollTimer
  | .agingInterval | .gangDispatch | .taskCompletionPublish _ _ | .queueEnable _ _ | .queueDrain _ _
  | .queueAbort _ _ | .queueReset _ _ | .abortComplete _ | .load _ | .unload _ | .tcinv _ | .tcinvComplete _
  | .group _ | .ungroup _ | .tlbinv _ | .tlbinvComplete _ | .frames _ | .resolve _ | .keyset _ | .keyclr _
  | .ctrget _ | .dbghalt _ | .dbgresume _ | .dbgpend _ | .dbgview _ | .imghold _ | .imgfree _ | .swap _
  | .swapQuiesce _ | .rclock _ | .quotaadd _ | .fwstage _ | .restart _ | .attest _ | .regroup _ | .heldresume _
  | .heldabort _ | .mailboxUndefinedCommand _ | .regionLoadComplete _ | .regionStop _ | .regionRelink _
  | .reconfigTokenApply _ _ _ | .thermalTick _ _ | .regionMachineCheck _ | .tdivreqWrite _ _
  | .clockDividerChange _ | .droopDetected _ | .eccError _ _ | .memoryScrub _ _ | .linkReplayLimit _
  | .linkRetrainFail _ | .linkEnableWrite _ _ | .pkgWrite _ | .tenantWrite _ _ | .registerWrite _ _ _
  | .hostMemoryAccess _ _ _ | .vellumRestore _ | .deviceReset | .bootReady | .bootWatchdogExpiry
  | .linkTrainingDone _ _ _ | .flitReplay _ | .tileThrottle _ _ | .failedStart _ _ | .scanOutComplete _ _ => false
  | _ => true

end Sys2Proof
end

