-- ==== Sys2Proof/Decode.lean ====
section
/-!
DEFINITION. The decoder and the encoder of SVI instruction words (spec chapter 06 and the encodings of 07 to 13).

Every 64-bit word decodes (R142): a word that breaks a field rule is `Instr.reservedEncoding` of itself, never a
neighbour. `decodeBytes` reads the eight little-endian bytes a strand fetches. `Instr.encode` is written from the same
tables; device events have no encoding. Fields are kept as numbers and cut apart once, by form.
-/

namespace Sys2Proof

/-! ### Codes of the named fields -/

/-- The element format code (R41). -/
def Fmt.code : Fmt → Nat
  | .s8 => 0 | .s16 => 1 | .s32 => 2 | .s64 => 3 | .z8 => 4 | .z16 => 5 | .z32 => 6 | .z64 => 7
  | .f32 => 8 | .f16 => 9 | .bf16 => 10 | .fa8 => 11 | .fb8 => 12 | .f4 => 13 | .ds8 => 14 | .l16 => 15

/-- The native format of a code; fabric codec codes and beyond name none (R41, R42). -/
def Fmt.ofCode : Nat → Option Fmt
  | 0 => some .s8 | 1 => some .s16 | 2 => some .s32 | 3 => some .s64
  | 4 => some .z8 | 5 => some .z16 | 6 => some .z32 | 7 => some .z64
  | 8 => some .f32 | 9 => some .f16 | 10 => some .bf16 | 11 => some .fa8
  | 12 => some .fb8 | 13 => some .f4 | 14 => some .ds8 | 15 => some .l16
  | _ => none

/-- The RND field (R128). -/
def Rnd.code : Rnd → Nat
  | .dyn => 0 | .rne => 1 | .rtz => 2 | .rdn => 3 | .rup => 4

/-- The rounding choice of an RND field; 5-7 are reserved (R128). -/
def Rnd.ofCode : Nat → Option Rnd
  | 0 => some .dyn | 1 => some .rne | 2 => some .rtz | 3 => some .rdn | 4 => some .rup
  | _ => none

/-- The SPACE field (R130). -/
def Space.code : Space → Nat
  | .glob => 0 | .loc => 1 | .win => 2

/-- Space 3 is reserved (R68). -/
def Space.ofCode : Nat → Option Space
  | 0 => some .glob | 1 => some .loc | 2 => some .win
  | _ => none

/-- The ORDER field (R130). -/
def Order.code : Order → Nat
  | .plain => 0 | .acq => 1 | .rel => 2 | .ar => 3

/-- The ORDER field (R130). -/
def Order.ofCode : Nat → Option Order
  | 0 => some .plain | 1 => some .acq | 2 => some .rel | 3 => some .ar
  | _ => none

/-- The SCOPE and XSCOPE fields (R130, R132). -/
def Scope.code : Scope → Nat
  | .tile => 0 | .gang => 1 | .dev => 2 | .sys => 3

/-- The SCOPE and XSCOPE fields (R130, R132). -/
def Scope.ofCode : Nat → Option Scope
  | 0 => some .tile | 1 => some .gang | 2 => some .dev | 3 => some .sys
  | _ => none

/-- The COND field (R131). -/
def Cond.code : Cond → Nat
  | .eq => 0 | .ne => 1 | .lt => 2 | .ge => 3 | .ltz => 4 | .gez => 5

/-- Conditions 6-15 are reserved (R131). -/
def Cond.ofCode : Nat → Option Cond
  | 0 => some .eq | 1 => some .ne | 2 => some .lt | 3 => some .ge | 4 => some .ltz | 5 => some .gez
  | _ => none

/-- FUNC of VCMP (R196). -/
def VCond.code : VCond → Nat
  | .eq => 0 | .ne => 1 | .lt => 2 | .le => 3 | .gt => 4 | .ge => 5 | .un => 6

/-- FUNC of VCMP; 0x07-0xFF are reserved (R196). -/
def VCond.ofCode : Nat → Option VCond
  | 0 => some .eq | 1 => some .ne | 2 => some .lt | 3 => some .le | 4 => some .gt | 5 => some .ge | 6 => some .un
  | _ => none

/-- FUNC of VSCAN (R205). -/
def ScanOp.code : ScanOp → Nat
  | .sum => 0 | .max => 1 | .min => 2

/-- FUNC of VSCAN; 0x03-0xFF are reserved (R205). -/
def ScanOp.ofCode : Nat → Option ScanOp
  | 0 => some .sum | 1 => some .max | 2 => some .min
  | _ => none

/-- XMOD[2:1] of WAITC (R172). -/
def Chan.code : Chan → Nat
  | .load => 0 | .store => 1 | .acc => 2

/-- XMOD[2:1] of WAITC; 3 is reserved (R172). -/
def Chan.ofCode : Nat → Option Chan
  | 0 => some .load | 1 => some .store | 2 => some .acc
  | _ => none

/-- Control register selectors (R136). -/
def CtlReg.code : CtlReg → Nat
  | .round => 0 | .sat => 1 | .subst => 2 | .ufcount => 3 | .vbank => 4 | .quota => 5 | .cycle => 6 | .vl => 7
  | .cwlr => 0x10 | .cwlv => 0x11 | .cwsr => 0x12 | .cwsv => 0x13 | .cwar => 0x14 | .cwav => 0x15

/-- Any other selector is a reserved encoding (R136). -/
def CtlReg.ofCode : Nat → Option CtlReg
  | 0 => some .round | 1 => some .sat | 2 => some .subst | 3 => some .ufcount | 4 => some .vbank
  | 5 => some .quota | 6 => some .cycle | 7 => some .vl
  | 0x10 => some .cwlr | 0x11 => some .cwlv | 0x12 => some .cwsr | 0x13 => some .cwsv
  | 0x14 => some .cwar | 0x15 => some .cwav
  | _ => none

/-- FMT of FSCAN (R276). -/
def ScanFmt.code : ScanFmt → Nat
  | .dense => 0 | .comp => 1 | .bitmap => 2 | .clist => 3

/-- FMT of FSCAN (R276). -/
def ScanFmt.ofCode : Nat → Option ScanFmt
  | 0 => some .dense | 1 => some .comp | 2 => some .bitmap | 3 => some .clist
  | _ => none

/-- TYPE of the fibre units (R279). -/
def FTy.code : FTy → Nat
  | .s32 => 0 | .z32 => 1 | .f32 => 2

/-- TYPE of the fibre units; 3 is reserved (R279). -/
def FTy.ofCode : Nat → Option FTy
  | 0 => some .s32 | 1 => some .z32 | 2 => some .f32
  | _ => none

/-- OP of FREDUCE (R279). -/
def RedOp.code : RedOp → Nat
  | .add => 0 | .min => 1 | .max => 2

/-- OP of FREDUCE; 3 is reserved (R279). -/
def RedOp.ofCode : Nat → Option RedOp
  | 0 => some .add | 1 => some .min | 2 => some .max
  | _ => none

/-- OP of FALU (R281). -/
def AluOp.code : AluOp → Nat
  | .add => 0 | .sub => 1 | .mul => 2 | .min => 3 | .max => 4 | .and => 5 | .or => 6 | .xor => 7
  | .setlt => 8 | .seteq => 9

/-- OP of FALU; 10-15 are reserved (R281). -/
def AluOp.ofCode : Nat → Option AluOp
  | 0 => some .add | 1 => some .sub | 2 => some .mul | 3 => some .min | 4 => some .max | 5 => some .and
  | 6 => some .or | 7 => some .xor | 8 => some .setlt | 9 => some .seteq
  | _ => none

/-- MODE of FWRITE (R282). -/
def WrMode.code : WrMode → Nat
  | .at => 0 | .crd => 1 | .val => 2 | .add => 3

/-- MODE of FWRITE (R282). -/
def WrMode.ofCode : Nat → Option WrMode
  | 0 => some .at | 1 => some .crd | 2 => some .val | 3 => some .add
  | _ => none

/-- IMM20[16:15] of a scratchpad sink (R286). -/
def SinkMode.code : SinkMode → Nat
  | .val => 0 | .tok => 1 | .count => 2

/-- IMM20[16:15] of a scratchpad sink; 3 is reserved (R286). -/
def SinkMode.ofCode : Nat → Option SinkMode
  | 0 => some .val | 1 => some .tok | 2 => some .count
  | _ => none

/-- XFLAG[2:0] of COLL (R232). -/
def CollKind.code : CollKind → Nat
  | .allreduce => 0 | .reducescatter => 1 | .allgather => 2 | .bcast => 3 | .reduce => 4

/-- XFLAG[2:0] of COLL; 5-7 are reserved (R232). -/
def CollKind.ofCode : Nat → Option CollKind
  | 0 => some .allreduce | 1 => some .reducescatter | 2 => some .allgather | 3 => some .bcast | 4 => some .reduce
  | _ => none

/-- XFLAG[5:3] of COLL (R232). -/
def CollOp.code : CollOp → Nat
  | .add => 0 | .min => 1 | .max => 2 | .and => 3 | .or => 4 | .xor => 5

/-- XFLAG[5:3] of COLL; 6-7 are reserved (R232). -/
def CollOp.ofCode : Nat → Option CollOp
  | 0 => some .add | 1 => some .min | 2 => some .max | 3 => some .and | 4 => some .or | 5 => some .xor
  | _ => none

/-! ### Fields by form -/

/-- The fields that every form shares (R125): OP, d, a, b, c, g and the low 28 bits. -/
structure Fields where
  op : Nat
  d : Nat
  a : Nat
  b : Nat
  c : Nat
  g : Nat
  lo : Nat
deriving DecidableEq, Repr

/-- The instruction word as fields (R125). -/
def splitWord (w : Nat) : Fields :=
  ⟨fieldOf w 56 8, fieldOf w 50 6, fieldOf w 44 6, fieldOf w 38 6, fieldOf w 32 6, fieldOf w 28 4, fieldOf w 0 28⟩

/-- The fields as an instruction word (R125). -/
def joinWord (f : Fields) : Nat :=
  f.op * 2 ^ 56 + f.d * 2 ^ 50 + f.a * 2 ^ 44 + f.b * 2 ^ 38 + f.c * 2 ^ 32 + f.g * 2 ^ 28 + f.lo

/-- The low 28 bits of Form R (R128). -/
structure RLow where
  func : Nat
  ty : Nat
  rnd : Nat
  sat : Nat
  nsat : Nat
  ginv : Nat
  xmod : Nat
deriving DecidableEq, Repr

def splitR (lo : Nat) : RLow :=
  ⟨fieldOf lo 20 8, fieldOf lo 15 5, fieldOf lo 12 3, fieldOf lo 11 1, fieldOf lo 10 1, fieldOf lo 9 1, fieldOf lo 0 9⟩

def joinR (r : RLow) : Nat :=
  r.func * 2 ^ 20 + r.ty * 2 ^ 15 + r.rnd * 2 ^ 12 + r.sat * 2 ^ 11 + r.nsat * 2 ^ 10 + r.ginv * 2 ^ 9 + r.xmod

/-- The low 28 bits of Form M (R130). -/
structure MLow where
  space : Nat
  order : Nat
  scope : Nat
  bp : Nat
  det : Nat
  off : Nat
deriving DecidableEq, Repr

def splitM (lo : Nat) : MLow :=
  ⟨fieldOf lo 26 2, fieldOf lo 24 2, fieldOf lo 22 2, fieldOf lo 21 1, fieldOf lo 20 1, fieldOf lo 0 20⟩

def joinM (m : MLow) : Nat :=
  m.space * 2 ^ 26 + m.order * 2 ^ 24 + m.scope * 2 ^ 22 + m.bp * 2 ^ 21 + m.det * 2 ^ 20 + m.off

/-- The low 28 bits of Form X (R132). -/
structure XLow where
  tdi : Nat
  rpy : Nat
  rq : Nat
  scope : Nat
  flag : Nat
deriving DecidableEq, Repr

def splitX (lo : Nat) : XLow :=
  ⟨fieldOf lo 12 16, fieldOf lo 11 1, fieldOf lo 9 2, fieldOf lo 7 2, fieldOf lo 0 7⟩

def joinX (x : XLow) : Nat := x.tdi * 2 ^ 12 + x.rpy * 2 ^ 11 + x.rq * 2 ^ 9 + x.scope * 2 ^ 7 + x.flag

/-- A flag bit as a number. -/
def bit (b : Bool) : Nat := if b then 1 else 0

/-- A reply queue as RPY and RQ (R132). -/
def replyBits : Option QReg → Nat × Nat
  | none => (0, 0)
  | some q => (1, q.val)

/-- RPY and RQ as a reply queue; RQ must be zero when RPY is (R132). -/
def replyOf (rpy rq : Nat) : Option (Option QReg) :=
  if rpy = 0 then (if rq = 0 then some none else none) else some (some (Fin.ofNat 4 rq))

/-! ### The encoder -/

/-- An untyped Form R word. -/
def encR (op func d a b c xmod : Nat) : Fields := ⟨op, d, a, b, c, 0, joinR ⟨func, 0, 0, 0, 0, 0, xmod⟩⟩

/-- A Form R word of the guarded set. -/
def encV (op func d a b c xmod : Nat) (m : VMod) (g : Guard) : Fields :=
  ⟨op, d, a, b, c, g.p.val, joinR ⟨func, m.ty.code, m.rnd.code, bit m.sat, bit m.nsat, bit g.inv, xmod⟩⟩

/-- A Form I28 word. -/
def encI (op d a imm : Nat) : Fields := ⟨op, d, a, 0, 0, 0, imm⟩

/-- A Form I20 word. -/
def encI20 (op d a func imm : Nat) : Fields := ⟨op, d, a, 0, 0, 0, func * 2 ^ 20 + imm⟩

/-- A Form M word, guard predicate and inversion given as numbers. -/
def encM (op d a b g ginv det : Nat) (m : MemOp) : Fields :=
  ⟨op, d, a, b, ginv * 32 + m.ty.code, g,
    joinM ⟨m.space.code, m.order.code, m.scope.code, bit m.bp, det, m.off.toNat⟩⟩

/-- A Form X word. -/
def encX (op d a b c tdi : Nat) (reply : Option QReg) (scope flag : Nat) : Fields :=
  ⟨op, d, a, b, c, 0, joinX ⟨tdi, (replyBits reply).1, (replyBits reply).2, scope, flag⟩⟩

/-- A Form F word. -/
def encF (op d a b c : Nat) (u : UnitRef) (cfg : Nat) : Fields :=
  ⟨op, d, a, b, c, 0, u.cls.val * 2 ^ 24 + u.unit.val * 2 ^ 20 + cfg⟩

/-- XFLAG of MMA and MMAG (R244). -/
def mmaFlag (o : MmaOp) : Nat := o.pair.val * 8 + bit o.sat * 4 + bit o.bv * 2 + bit o.av

/-- The fields of an SVI instruction; an event has no encoding, and a reserved word is its own. -/
def Instr.fields : Instr → Fields
  | .add d a b => encR 0x00 0x00 d a b 0 0 | .sub d a b => encR 0x00 0x01 d a b 0 0
  | .and d a b => encR 0x00 0x02 d a b 0 0 | .or d a b => encR 0x00 0x03 d a b 0 0
  | .xor d a b => encR 0x00 0x04 d a b 0 0 | .shl d a b => encR 0x00 0x05 d a b 0 0
  | .shr d a b => encR 0x00 0x06 d a b 0 0 | .sra d a b => encR 0x00 0x07 d a b 0 0
  | .min d a b => encR 0x00 0x08 d a b 0 0 | .max d a b => encR 0x00 0x09 d a b 0 0
  | .minz d a b => encR 0x00 0x0A d a b 0 0 | .maxz d a b => encR 0x00 0x0B d a b 0 0
  | .setlt d a b => encR 0x00 0x0C d a b 0 0 | .setltz d a b => encR 0x00 0x0D d a b 0 0
  | .seteq d a b => encR 0x00 0x0E d a b 0 0
  | .popc d a => encR 0x00 0x10 d a 0 0 0 | .clz d a => encR 0x00 0x11 d a 0 0 0
  | .ctz d a => encR 0x00 0x12 d a 0 0 0
  | .mul d a b => encR 0x01 0x00 d a b 0 0 | .mulh d a b => encR 0x01 0x01 d a b 0 0
  | .mulhz d a b => encR 0x01 0x02 d a b 0 0 | .madd d a b c => encR 0x01 0x03 d a b c 0
  | .div d a b => encR 0x01 0x04 d a b 0 0 | .divz d a b => encR 0x01 0x05 d a b 0 0
  | .rem d a b => encR 0x01 0x06 d a b 0 0 | .remz d a b => encR 0x01 0x07 d a b 0 0
  | .sel d a b c => encR 0x02 0 d a b c 0
  | .bfx d a pos wm1 sx => encR 0x03 0 d a pos wm1 (bit sx)
  | .bfi d a pos wm1 => encR 0x04 0 d a pos wm1 0
  | .addi d a imm => encI 0x08 d a imm.toNat | .andi d a imm => encI 0x09 d a imm.toNat
  | .ori d a imm => encI 0x0A d a imm.toNat | .xori d a imm => encI 0x0B d a imm.toNat
  | .shlImm d a n => encI 0x0C d a n | .shrImm d a n => encI 0x0D d a n | .sraImm d a n => encI 0x0E d a n
  | .li d imm => encI 0x10 d 0 imm.toNat
  | .lui d a imm pos => encI20 0x11 d a pos imm.toNat
  | .addpc d imm => encI 0x12 d 0 imm.toNat
  | .liFactor d slot scale => encI 0x13 d 0 (slot.val * 2 ^ 22 + scale.toNat)
  | .addiFactor d a slot scale => encI 0x14 d a (slot.val * 2 ^ 22 + scale.toNat)
  | .bCond c a b off => ⟨0x20, 0, a, b, 0, 0, c.code * 2 ^ 24 + off.toNat⟩
  | .j imm => encI 0x21 0 0 imm.toNat | .jl imm => encI 0x22 0 0 imm.toNat
  | .jr d a => encR 0x23 0 d a 0 0 0 | .nop => encR 0x24 0 0 0 0 0 0 | .brk tag => encR 0x25 0 0 0 0 0 tag
  | .trap n a b => ⟨0x26, 0, a, b, 0, 0, n⟩
  | .yieldTo d => encR 0x27 0 d 0 0 0 0 | .endStrand mask => encI 0x28 0 0 mask.toNat
  | .feat d id => encI 0x29 d 0 id.toNat
  | .fence o s => ⟨0x30, 0, 0, 0, 0, 0, joinM ⟨0, o.code, s.code, 0, 0, 0⟩⟩
  | .bar k => encI 0x31 0 0 k | .bara k => encI 0x32 0 0 k | .barw k => encI 0x33 0 0 k
  | .waitcR ch a => encR 0x34 0 0 a 0 0 (ch.code * 2) | .waitcV ch a => encR 0x34 0 0 a 0 0 (ch.code * 2 + 1)
  | .waitr d q b => encR 0x35 0 d q b 0 0 | .waite mask => encR 0x36 0 0 0 0 0 mask.toNat
  | .popq d q => encR 0x37 0 d q 0 0 0 | .peekq d q => encR 0x37 1 d q 0 0 0
  | .launch d a b => encR 0x38 0 d a b 0 0 | .siginc d a b => encR 0x39 0 d a b 0 0
  | .rdid d n => encI20 0x3A d 0 0 n.toNat | .rdctl d r => encI20 0x3B d 0 0 r.code
  | .wrctl r a => encI20 0x3C 0 a 0 r.code
  | .tdnarrow slot a tdi => encX 0x3D slot a 0 0 tdi.toNat none 0 0
  | .ctxsave d a b c tdi sl slot => encX 0x3E d a b c tdi.toNat none 0 (slot.val * 2 + bit sl)
  | .ctxload tdi sl slot => encX 0x3F 0 0 0 0 tdi.toNat none 0 (slot.val * 2 + bit sl)
  | .reservedEncoding w => splitWord w.toNat
  | .vsetvl d a t mx => ⟨0x40, d, a, 0, 0, 0, joinR ⟨0, t.code, 0, 0, 0, 0, bit mx⟩⟩
  | .vadd d a b m g => encV 0x41 0 d a b 0 0 m g | .vsub d a b m g => encV 0x42 0 d a b 0 0 m g
  | .vmul d a b m g => encV 0x43 0 d a b 0 0 m g | .vfma d a b c m g => encV 0x44 0 d a b c 0 m g
  | .vmin d a b m g => encV 0x45 0 d a b 0 0 m g | .vmax d a b m g => encV 0x46 0 d a b 0 0 m g
  | .vabs d a m g => encV 0x47 0 d a 0 0 0 m g | .vneg d a m g => encV 0x48 0 d a 0 0 0 m g
  | .vand d a b m g => encV 0x49 0 d a b 0 0 m g | .vor d a b m g => encV 0x4A 0 d a b 0 0 m g
  | .vxor d a b m g => encV 0x4B 0 d a b 0 0 m g
  | .vshl d a b s m g => encV 0x4C 0 d a b 0 (bit s) m g | .vshr d a b s m g => encV 0x4D 0 d a b 0 (bit s) m g
  | .vsra d a b s m g => encV 0x4E 0 d a b 0 (bit s) m g
  | .vcmp cond d a b m g => encV 0x4F cond.code d a b 0 0 m g
  | .vsel d a b c m g => encV 0x50 0 d a b c 0 m g
  | .vbcast d a b lane m g => encV 0x51 0 d a b 0 (bit lane) m g
  | .vext d a b m g => encV 0x52 0 d a b 0 0 m g
  | .viota d pre m g => encV 0x53 0 d 0 0 0 (bit pre) m g
  | .vperm d a b m g => encV 0x54 0 d a b 0 0 m g
  | .vcompress d a m g => encV 0x55 0 d a 0 0 0 m g | .vexpand d a m g => encV 0x56 0 d a 0 0 0 m g
  | .vpopc d a m g => encV 0x57 0 d a 0 0 0 m g
  | .vredsum d a b wide m g => encV 0x58 0 d a b 0 (bit wide) m g
  | .vredmax d a b m g => encV 0x59 0 d a b 0 0 m g | .vredmin d a b m g => encV 0x5A 0 d a b 0 0 m g
  | .vscan op d a b excl m g => encV 0x5B op.code d a b 0 (bit excl * 2) m g
  | .vcvt d a c ts part blk m g => encV 0x5C 0 d a blk c (part.val * 32 + ts.code) m g
  | .vcvtds d a c ts part blk m g => encV 0x5D 0 d a blk c (part.val * 32 + ts.code) m g
  | .vrecip d a m g => encV 0x5E 0 d a 0 0 0 m g | .vrsqrt d a m g => encV 0x5F 0 d a 0 0 0 m g
  | .vexp2 d a m g => encV 0x60 0 d a 0 0 0 m g | .vlog2 d a m g => encV 0x61 0 d a 0 0 0 m g
  | .vladd d a b m g => encV 0x62 0 d a b 0 0 m g | .vlsub d a b m g => encV 0x63 0 d a b 0 0 m g
  | .ldct tdi => encX 0x64 0 0 0 0 tdi.toNat none 0 0 | .ldctReset => encX 0x64 0 0 0 0 0 none 0 1
  | .pand d a b => encR 0x65 0 d a b 0 0 | .por d a b => encR 0x66 0 d a b 0 0
  | .pxor d a b => encR 0x67 0 d a b 0 0 | .pnot d a => encR 0x68 0 d a 0 0 0
  | .pcnt d a t => ⟨0x69, d, a, 0, 0, 0, joinR ⟨0, t.code, 0, 0, 0, 0, 0⟩⟩
  | .pfirst d a t => ⟨0x6A, d, a, 0, 0, 0, joinR ⟨0, t.code, 0, 0, 0, 0, 0⟩⟩
  | .ld d a m => encM 0x80 d a 0 0 0 0 m | .st d a m => encM 0x81 d a 0 0 0 0 m
  | .ldv d a m g => encM 0x82 d a 0 g.p (bit g.inv) 0 m | .stv d a m g => encM 0x83 d a 0 g.p (bit g.inv) 0 m
  | .ldvs d a b m g => encM 0x84 d a b g.p (bit g.inv) 0 m | .stvs d a b m g => encM 0x85 d a b g.p (bit g.inv) 0 m
  | .ldvx d a b m g => encM 0x86 d a b g.p (bit g.inv) 0 m | .stvx d a b m g => encM 0x87 d a b g.p (bit g.inv) 0 m
  | .cas d a b m => encM 0x88 d a b 0 0 0 m
  | .amoAdd d a b det m => encM 0x90 d a b 0 0 (bit det) m | .amoAnd d a b det m => encM 0x91 d a b 0 0 (bit det) m
  | .amoOr d a b det m => encM 0x92 d a b 0 0 (bit det) m | .amoXor d a b det m => encM 0x93 d a b 0 0 (bit det) m
  | .amoMin d a b det m => encM 0x94 d a b 0 0 (bit det) m | .amoMax d a b det m => encM 0x95 d a b 0 0 (bit det) m
  | .amoMinz d a b det m => encM 0x96 d a b 0 0 (bit det) m
  | .amoMaxz d a b det m => encM 0x97 d a b 0 0 (bit det) m
  | .amoSwap d a b det m => encM 0x98 d a b 0 0 (bit det) m
  | .amoFaddF32 d a b det m => encM 0x99 d a b 0 0 (bit det) m
  | .amoFaddBf16 d a b det m => encM 0x9A d a b 0 0 (bit det) m
  | .cpyl d a b x => encX 0xA0 d a b 0 x.tdi.toNat x.reply x.scope.code 0
  | .cpylRing d ring b x => encX 0xA0 d 0 b 0 x.tdi.toNat x.reply x.scope.code (ring.val * 2 + 1)
  | .cpys d a b x => encX 0xA1 d a b 0 x.tdi.toNat x.reply x.scope.code 0
  | .cpya d a b c inDir t sat reply scope =>
    encX 0xA2 d a b c 0 reply scope.code (bit sat * 64 + t.code * 2 + bit inDir)
  | .cpyf d a b c nd x => encX 0xA3 d a b c x.tdi.toNat x.reply x.scope.code (bit nd)
  | .rsetup ring a b c => encR 0xA4 0 0 a b c ring
  | .rpub d ring => encI 0xA5 d 0 ring | .rtake d ring => encI 0xA6 d 0 ring | .rfree ring => encI 0xA7 0 0 ring
  | .coll d a b kind op det tdi q scope =>
    encX 0xA8 d a b 0 tdi.toNat (some q) scope.code (bit det * 64 + op.code * 8 + kind.code)
  | .mma d a b c o tdi reply => encX 0xB0 d a b c tdi.toNat reply 0 (mmaFlag o)
  | .mmag d a b c o tdi reply => encX 0xB1 d a b c tdi.toNat reply 0 (mmaFlag o)
  | .mzero a => encR 0xB2 0 0 a 0 0 0
  | .mscale a b int sat sh => ⟨0xB3, 0, a, b, 0, 0, joinR ⟨0, if int then 2 else 8, 0, bit sat, 0, 0, sh⟩⟩
  | .fscan u d a fmt root uniq tdi =>
    encF 0xC0 d a 0 0 u (bit uniq * 2 ^ 19 + bit root * 2 ^ 18 + fmt.code * 2 ^ 16 + tdi.toNat)
  | .fisect u d c a b => encF 0xC1 d a b c u 0 | .funion u d c a b => encF 0xC2 d a b c u 0
  | .frepeat u d a b => encF 0xC3 d a b 0 u 0
  | .freduce u d a op t sat rnd => encF 0xC4 d a 0 0 u (rnd.code * 32 + bit sat * 16 + t.code * 4 + op.code)
  | .fval u d a tdi => encF 0xC5 d a 0 0 u tdi.toNat
  | .falu u d a b op t two sat rnd imm =>
    encF 0xC6 d a b 0 u
      (imm.toNat * 2 ^ 11 + rnd.code * 2 ^ 8 + bit sat * 2 ^ 7 + bit two * 2 ^ 6 + t.code * 2 ^ 4 + op.code)
  | .fwrite u a mode t tdi => encF 0xC7 0 a 0 0 u (t.code * 2 ^ 18 + mode.code * 2 ^ 16 + tdi.toNat)
  | .fgen u d a => encF 0xC8 d a 0 0 u 0 | .fsteer u d c a b => encF 0xC9 d a b c u 0
  | .fmerge u d c a b => encF 0xCA d a b c u 0 | .fcarry u d a b => encF 0xCB d a b 0 u 0
  | .fsrc p d level => encI20 0xCC d 0 0 (p.val * 2 ^ 17 + level.val)
  | .fsinkPort p a => encI20 0xCD 0 a 0 (p.val * 2 ^ 17)
  | .fsinkQ p a q count => encI20 0xCD 0 a 1 (p.val * 2 ^ 17 + bit count * 4 + q.val)
  | .fsinkL p a mode addr => encI20 0xCD 0 a 2 (p.val * 2 ^ 17 + mode.code * 2 ^ 15 + addr.val)
  | .fgo d q => encI20 0xCE d 0 0 q | .fkill => encI20 0xCF 0 0 0 0 | .fkillClear => encI20 0xCF 0 0 0 1
  | .portb p region rport => encR 0xE0 rport 0 0 0 0 (region.val * 8 + p.val)
  | .portbU p => encR 0xE0 0x80 0 0 0 0 p
  | .portw p a tok fin => encR 0xE1 0 0 a 0 0 (bit tok * 16 + bit fin * 8 + p.val)
  | .portr p d c => encR 0xE2 0 d 0 0 c p | .portq p d => encR 0xE3 0 d 0 0 0 p
  | _ => ⟨0xFF, 0, 0, 0, 0, 0, 0⟩

/-- The word of an SVI instruction. -/
def Instr.encode (i : Instr) : Word := word (joinWord i.fields)

/-! ### The decoder -/

/-- A field as a scalar or vector register number. -/
def reg (n : Nat) : Fin 64 := Fin.ofNat 64 n

/-- A field as a predicate register; 16-63 are reserved (R135). -/
def preg (n : Nat) : Option PReg := if n < 16 then some (Fin.ofNat 16 n) else none

/-- A field as a reply queue; 4-63 are reserved (R135). -/
def qreg (n : Nat) : Option QReg := if n < 4 then some (Fin.ofNat 4 n) else none

/-- A field as a stream endpoint; 32-63 are reserved (R133). -/
def freg (n : Nat) : Option FReg := if n < 32 then some (Fin.ofNat 32 n) else none

/-- `x` where the condition holds, else a reserved encoding. -/
def req (c : Bool) (x : Option Instr) : Option Instr := if c then x else none

/-- A Form R low part without type, rounding, saturation or guard inversion (R152). -/
def RLow.untyped (r : RLow) : Bool := r.ty == 0 && r.rnd == 0 && r.sat == 0 && r.nsat == 0 && r.ginv == 0

/-- The modifiers of a Form R vector word. -/
def RLow.vmod (r : RLow) : Option VMod := do
  let t ← Fmt.ofCode r.ty
  let rm ← Rnd.ofCode r.rnd
  return ⟨t, rm, r.sat == 1, r.nsat == 1⟩

/-- The access fields of a Form M word, TYPE in c[4:0] (R130). -/
def memOpOf (c : Nat) (m : MLow) : Option MemOp := do
  let t ← Fmt.ofCode (c % 32)
  let sp ← Space.ofCode m.space
  let o ← Order.ofCode m.order
  let sc ← Scope.ofCode m.scope
  return ⟨t, sp, o, sc, m.bp == 1, BitVec.ofNat 20 m.off⟩

/-- Opcode 0x00: scalar arithmetic (R154). -/
def decodeArith (f : Fields) (r : RLow) : Option Instr :=
  let d := reg f.d; let a := reg f.a; let b := reg f.b
  req (f.g == 0 && f.c == 0 && r.untyped && r.xmod == 0) <|
    match r.func with
    | 0x00 => some (.add d a b) | 0x01 => some (.sub d a b) | 0x02 => some (.and d a b) | 0x03 => some (.or d a b)
    | 0x04 => some (.xor d a b) | 0x05 => some (.shl d a b) | 0x06 => some (.shr d a b) | 0x07 => some (.sra d a b)
    | 0x08 => some (.min d a b) | 0x09 => some (.max d a b) | 0x0A => some (.minz d a b) | 0x0B => some (.maxz d a b)
    | 0x0C => some (.setlt d a b) | 0x0D => some (.setltz d a b) | 0x0E => some (.seteq d a b)
    | 0x10 => req (f.b == 0) (some (.popc d a)) | 0x11 => req (f.b == 0) (some (.clz d a))
    | 0x12 => req (f.b == 0) (some (.ctz d a))
    | _ => none

/-- Opcode 0x01: multiply and divide (R155). -/
def decodeMulDiv (f : Fields) (r : RLow) : Option Instr :=
  let d := reg f.d; let a := reg f.a; let b := reg f.b
  req (f.g == 0 && r.untyped && r.xmod == 0 && (f.c == 0 || r.func == 3)) <|
    match r.func with
    | 0x00 => some (.mul d a b) | 0x01 => some (.mulh d a b) | 0x02 => some (.mulhz d a b)
    | 0x03 => some (.madd d a b (reg f.c)) | 0x04 => some (.div d a b) | 0x05 => some (.divz d a b)
    | 0x06 => some (.rem d a b) | 0x07 => some (.remz d a b)
    | _ => none

/-- Opcodes 0x00-0x2F: scalar arithmetic, immediates and control flow (R154-R168). -/
def decodeScalar (f : Fields) : Option Instr :=
  let r := splitR f.lo
  let d := reg f.d; let a := reg f.a; let b := reg f.b; let c := reg f.c
  let imm := BitVec.ofNat 28 f.lo
  let i28 := f.g == 0 && f.b == 0 && f.c == 0
  let rr := f.g == 0 && r.untyped && r.func == 0
  match f.op with
  | 0x00 => decodeArith f r
  | 0x01 => decodeMulDiv f r
  | 0x02 => req (rr && r.xmod == 0) (some (.sel d a b c))
  | 0x03 => req (rr && r.xmod < 2) (some (.bfx d a b c (r.xmod == 1)))
  | 0x04 => req (rr && r.xmod == 0) (some (.bfi d a b c))
  | 0x08 => req i28 (some (.addi d a imm))
  | 0x09 => req i28 (some (.andi d a imm))
  | 0x0A => req i28 (some (.ori d a imm))
  | 0x0B => req i28 (some (.xori d a imm))
  | 0x0C => req (i28 && f.lo < 64) (some (.shlImm d a (reg f.lo)))
  | 0x0D => req (i28 && f.lo < 64) (some (.shrImm d a (reg f.lo)))
  | 0x0E => req (i28 && f.lo < 64) (some (.sraImm d a (reg f.lo)))
  | 0x10 => req (i28 && f.a == 0) (some (.li d imm))
  | 0x11 => req (i28 && f.lo / 2 ^ 20 < 64) (some (.lui d a (BitVec.ofNat 20 f.lo) (reg (f.lo / 2 ^ 20))))
  | 0x12 => req (i28 && f.a == 0) (some (.addpc d imm))
  | 0x13 => req (i28 && f.a == 0) (some (.liFactor d (reg (f.lo / 2 ^ 22)) (BitVec.ofNat 22 f.lo)))
  | 0x14 => req i28 (some (.addiFactor d a (reg (f.lo / 2 ^ 22)) (BitVec.ofNat 22 f.lo)))
  | 0x20 => do
    let cond ← Cond.ofCode (f.lo / 2 ^ 24)
    req (f.g == 0 && f.d == 0 && f.c == 0) (some (.bCond cond a b (BitVec.ofNat 24 f.lo)))
  | 0x21 => req (i28 && f.d == 0 && f.a == 0) (some (.j imm))
  | 0x22 => req (i28 && f.d == 0 && f.a == 0) (some (.jl imm))
  | 0x23 => req (rr && r.xmod == 0 && f.b == 0 && f.c == 0) (some (.jr d a))
  | 0x24 => req (rr && r.xmod == 0 && f.d == 0 && f.a == 0 && f.b == 0 && f.c == 0) (some .nop)
  | 0x25 => req (rr && f.d == 0 && f.a == 0 && f.b == 0 && f.c == 0) (some (.brk (Fin.ofNat 512 r.xmod)))
  | 0x26 => req (f.g == 0 && f.d == 0 && f.c == 0 && f.lo < 32) (some (.trap (Fin.ofNat 32 f.lo) a b))
  | 0x27 => req (rr && r.xmod == 0 && f.a == 0 && f.b == 0 && f.c == 0) (some (.yieldTo d))
  | 0x28 => req (i28 && f.d == 0 && f.a == 0 && f.lo < 16) (some (.endStrand (BitVec.ofNat 4 f.lo)))
  | 0x29 => req (i28 && f.a == 0 && f.lo < 2 ^ 16) (some (.feat d (BitVec.ofNat 16 f.lo)))
  | _ => none

/-- Opcodes 0x30-0x3F: synchronisation and system instructions (R169-R184). -/
def decodeSystem (f : Fields) : Option Instr :=
  let r := splitR f.lo
  let x := splitX f.lo
  let d := reg f.d; let a := reg f.a; let b := reg f.b
  let none4 := f.d == 0 && f.a == 0 && f.b == 0 && f.c == 0
  let rr := f.g == 0 && r.untyped
  let r0 := rr && r.func == 0 && r.xmod == 0
  let i20 := f.g == 0 && f.b == 0 && f.c == 0 && f.lo < 2 ^ 20
  let xx := f.g == 0 && x.rpy == 0 && x.rq == 0 && x.scope == 0
  let tdi := BitVec.ofNat 16 x.tdi
  match f.op with
  | 0x30 => do
    let m := splitM f.lo
    let o ← Order.ofCode m.order
    let s ← Scope.ofCode m.scope
    req (f.g == 0 && none4 && m.space == 0 && m.bp == 0 && m.det == 0 && m.off == 0) (some (.fence o s))
  | 0x31 => req (f.g == 0 && none4 && f.lo < 16) (some (.bar (Fin.ofNat 16 f.lo)))
  | 0x32 => req (f.g == 0 && none4 && f.lo < 16) (some (.bara (Fin.ofNat 16 f.lo)))
  | 0x33 => req (f.g == 0 && none4 && f.lo < 16) (some (.barw (Fin.ofNat 16 f.lo)))
  | 0x34 => do
    let ch ← Chan.ofCode (r.xmod / 2)
    req (rr && r.func == 0 && f.d == 0 && f.b == 0 && f.c == 0)
      (some (if r.xmod % 2 == 0 then .waitcR ch a else .waitcV ch a))
  | 0x35 => do
    let q ← qreg f.a
    req (r0 && f.c == 0) (some (.waitr d q b))
  | 0x36 => req (rr && r.func == 0 && r.xmod < 16 && none4) (some (.waite (BitVec.ofNat 4 r.xmod)))
  | 0x37 => do
    let q ← qreg f.a
    req (rr && r.xmod == 0 && r.func < 2 && f.b == 0 && f.c == 0)
      (some (if r.func == 0 then .popq d q else .peekq d q))
  | 0x38 => req (r0 && f.c == 0) (some (.launch d a b))
  | 0x39 => req (r0 && f.c == 0) (some (.siginc d a b))
  | 0x3A => req (i20 && f.a == 0 && f.lo < 256) (some (.rdid d (BitVec.ofNat 8 f.lo)))
  | 0x3B => do
    let c ← CtlReg.ofCode f.lo
    req (i20 && f.a == 0) (some (.rdctl d c))
  | 0x3C => do
    let c ← CtlReg.ofCode f.lo
    req (i20 && f.d == 0) (some (.wrctl c a))
  | 0x3D => req (xx && x.flag == 0 && f.b == 0 && f.c == 0) (some (.tdnarrow d a tdi))
  | 0x3E => req xx (some (.ctxsave d a b (reg f.c) tdi (x.flag % 2 == 1) (reg (x.flag / 2))))
  | 0x3F => req (xx && none4) (some (.ctxload tdi (x.flag % 2 == 1) (reg (x.flag / 2))))
  | _ => none

/-- Opcodes 0x41-0x63: the guarded vector instructions (R191-R210). -/
def decodeVector (f : Fields) (r : RLow) (m : VMod) : Option Instr :=
  let d := reg f.d; let a := reg f.a; let b := reg f.b; let c := reg f.c
  let g : Guard := ⟨Fin.ofNat 16 f.g, r.ginv == 1⟩
  let plain := r.func == 0 && r.xmod == 0
  let ab := plain && f.c == 0
  let a1 := ab && f.b == 0
  let flag := r.func == 0 && r.xmod < 2 && f.c == 0
  let x0 := r.xmod % 2 == 1
  match f.op with
  | 0x41 => req ab (some (.vadd d a b m g))
  | 0x42 => req ab (some (.vsub d a b m g))
  | 0x43 => req ab (some (.vmul d a b m g))
  | 0x44 => req plain (some (.vfma d a b c m g))
  | 0x45 => req ab (some (.vmin d a b m g))
  | 0x46 => req ab (some (.vmax d a b m g))
  | 0x47 => req a1 (some (.vabs d a m g))
  | 0x48 => req a1 (some (.vneg d a m g))
  | 0x49 => req ab (some (.vand d a b m g))
  | 0x4A => req ab (some (.vor d a b m g))
  | 0x4B => req ab (some (.vxor d a b m g))
  | 0x4C => req flag (some (.vshl d a b x0 m g))
  | 0x4D => req flag (some (.vshr d a b x0 m g))
  | 0x4E => req flag (some (.vsra d a b x0 m g))
  | 0x4F => do
    let cond ← VCond.ofCode r.func
    let p ← preg f.d
    req (r.xmod == 0 && f.c == 0) (some (.vcmp cond p a b m g))
  | 0x50 => do
    let p ← preg f.c
    req plain (some (.vsel d a b p m g))
  | 0x51 => req flag (some (.vbcast d a b x0 m g))
  | 0x52 => req ab (some (.vext d a b m g))
  | 0x53 => req (flag && f.a == 0 && f.b == 0) (some (.viota d x0 m g))
  | 0x54 => req ab (some (.vperm d a b m g))
  | 0x55 => req a1 (some (.vcompress d a m g))
  | 0x56 => req a1 (some (.vexpand d a m g))
  | 0x57 => req a1 (some (.vpopc d a m g))
  | 0x58 => req flag (some (.vredsum d a b x0 m g))
  | 0x59 => req ab (some (.vredmax d a b m g))
  | 0x5A => req ab (some (.vredmin d a b m g))
  | 0x5B => do
    let op ← ScanOp.ofCode r.func
    req ((r.xmod == 0 || r.xmod == 2) && f.c == 0) (some (.vscan op d a b (r.xmod == 2) m g))
  | 0x5C => do
    let ts ← Fmt.ofCode (r.xmod % 32)
    req (r.func == 0 && f.b < 4) (some (.vcvt d a c ts (Fin.ofNat 16 (r.xmod / 32)) (Fin.ofNat 4 f.b) m g))
  | 0x5D => do
    let ts ← Fmt.ofCode (r.xmod % 32)
    req (r.func == 0 && f.b < 4) (some (.vcvtds d a c ts (Fin.ofNat 16 (r.xmod / 32)) (Fin.ofNat 4 f.b) m g))
  | 0x5E => req a1 (some (.vrecip d a m g))
  | 0x5F => req a1 (some (.vrsqrt d a m g))
  | 0x60 => req a1 (some (.vexp2 d a m g))
  | 0x61 => req a1 (some (.vlog2 d a m g))
  | 0x62 => req ab (some (.vladd d a b m g))
  | 0x63 => req ab (some (.vlsub d a b m g))
  | _ => none

/-- Opcodes 0x40-0x7F: VSETVL, the vector instructions, LDCT and the predicate instructions (R190-R213). -/
def decodeLanes (f : Fields) : Option Instr :=
  let r := splitR f.lo
  let x := splitX f.lo
  let d := reg f.d; let a := reg f.a
  let sTyped := f.g == 0 && r.rnd == 0 && r.sat == 0 && r.nsat == 0 && r.ginv == 0 && r.func == 0 && f.c == 0 &&
    f.b == 0
  let pp := f.g == 0 && r.untyped && r.func == 0 && r.xmod == 0 && f.c == 0
  match f.op with
  | 0x40 => do
    let t ← Fmt.ofCode r.ty
    req (sTyped && r.xmod < 2) (some (.vsetvl d a t (r.xmod == 1)))
  | 0x64 =>
    req (f.g == 0 && f.d == 0 && f.a == 0 && f.b == 0 && f.c == 0 && x.rpy == 0 && x.rq == 0 && x.scope == 0 &&
        x.flag < 2 && (x.flag == 0 || x.tdi == 0))
      (some (if x.flag == 0 then .ldct (BitVec.ofNat 16 x.tdi) else .ldctReset))
  | 0x65 => do
    let pd ← preg f.d; let pa ← preg f.a; let pb ← preg f.b
    req pp (some (.pand pd pa pb))
  | 0x66 => do
    let pd ← preg f.d; let pa ← preg f.a; let pb ← preg f.b
    req pp (some (.por pd pa pb))
  | 0x67 => do
    let pd ← preg f.d; let pa ← preg f.a; let pb ← preg f.b
    req pp (some (.pxor pd pa pb))
  | 0x68 => do
    let pd ← preg f.d; let pa ← preg f.a
    req (pp && f.b == 0) (some (.pnot pd pa))
  | 0x69 => do
    let t ← Fmt.ofCode r.ty; let pa ← preg f.a
    req (sTyped && r.xmod == 0) (some (.pcnt d pa t))
  | 0x6A => do
    let t ← Fmt.ofCode r.ty; let pa ← preg f.a
    req (sTyped && r.xmod == 0) (some (.pfirst d pa t))
  | _ => do
    let m ← r.vmod
    decodeVector f r m

/-- Opcodes 0x80-0x9F: loads, stores and atomics (R214-R221). -/
def decodeMemory (f : Fields) : Option Instr := do
  let lo := splitM f.lo
  let m ← memOpOf f.c lo
  let d := reg f.d; let a := reg f.a; let b := reg f.b
  let g : Guard := ⟨Fin.ofNat 16 f.g, f.c / 32 == 1⟩
  let det := lo.det == 1
  let ng := f.g == 0 && f.c / 32 == 0
  let s1 := ng && f.b == 0 && lo.det == 0
  let v1 := f.b == 0 && lo.det == 0
  let v2 := lo.det == 0
  match f.op with
  | 0x80 => req s1 (some (.ld d a m))
  | 0x81 => req s1 (some (.st d a m))
  | 0x82 => req v1 (some (.ldv d a m g))
  | 0x83 => req v1 (some (.stv d a m g))
  | 0x84 => req v2 (some (.ldvs d a b m g))
  | 0x85 => req v2 (some (.stvs d a b m g))
  | 0x86 => req v2 (some (.ldvx d a b m g))
  | 0x87 => req v2 (some (.stvx d a b m g))
  | 0x88 => req (ng && lo.det == 0) (some (.cas d a b m))
  | 0x90 => req ng (some (.amoAdd d a b det m))
  | 0x91 => req ng (some (.amoAnd d a b det m))
  | 0x92 => req ng (some (.amoOr d a b det m))
  | 0x93 => req ng (some (.amoXor d a b det m))
  | 0x94 => req ng (some (.amoMin d a b det m))
  | 0x95 => req ng (some (.amoMax d a b det m))
  | 0x96 => req ng (some (.amoMinz d a b det m))
  | 0x97 => req ng (some (.amoMaxz d a b det m))
  | 0x98 => req ng (some (.amoSwap d a b det m))
  | 0x99 => req ng (some (.amoFaddF32 d a b det m))
  | 0x9A => req ng (some (.amoFaddBf16 d a b det m))
  | _ => none

/-- MMA's options from XFLAG (R244). -/
def mmaOpOf (flag : Nat) : MmaOp := ⟨Fin.ofNat 16 (flag / 8), fieldOf flag 2 1 == 1, fieldOf flag 1 1 == 1, flag % 2 == 1⟩

/-- Opcodes 0xA0-0xBF: copies, rings, collectives and matrix instructions (R222-R249). -/
def decodeEngine (f : Fields) : Option Instr :=
  let r := splitR f.lo
  let x := splitX f.lo
  let d := reg f.d; let a := reg f.a; let b := reg f.b; let c := reg f.c
  let ring := f.g == 0 && f.b == 0 && f.c == 0 && f.a == 0 && f.lo < 8
  match f.op with
  | 0xA0 => do
    let q ← replyOf x.rpy x.rq; let s ← Scope.ofCode x.scope
    let xo : XOp := ⟨BitVec.ofNat 16 x.tdi, q, s⟩
    if x.flag % 2 == 0 then req (f.g == 0 && f.c == 0 && x.flag == 0) (some (.cpyl d a b xo))
    else req (f.g == 0 && f.c == 0 && f.a == 0 && x.flag < 16) (some (.cpylRing d (Fin.ofNat 8 (x.flag / 2)) b xo))
  | 0xA1 => do
    let q ← replyOf x.rpy x.rq; let s ← Scope.ofCode x.scope
    req (f.g == 0 && f.c == 0 && x.flag == 0) (some (.cpys d a b ⟨BitVec.ofNat 16 x.tdi, q, s⟩))
  | 0xA2 => do
    let q ← replyOf x.rpy x.rq; let s ← Scope.ofCode x.scope
    let t ← Fmt.ofCode (x.flag / 2 % 32)
    req (f.g == 0 && x.tdi == 0) (some (.cpya d a b c (x.flag % 2 == 1) t (x.flag / 64 == 1) q s))
  | 0xA3 => do
    let q ← replyOf x.rpy x.rq; let s ← Scope.ofCode x.scope
    req (f.g == 0 && x.flag < 2) (some (.cpyf d a b c (x.flag == 1) ⟨BitVec.ofNat 16 x.tdi, q, s⟩))
  | 0xA4 => req (f.g == 0 && f.d == 0 && r.untyped && r.func == 0 && r.xmod < 8) (some (.rsetup (Fin.ofNat 8 r.xmod) a b c))
  | 0xA5 => req ring (some (.rpub d (Fin.ofNat 8 f.lo)))
  | 0xA6 => req ring (some (.rtake d (Fin.ofNat 8 f.lo)))
  | 0xA7 => req (ring && f.d == 0) (some (.rfree (Fin.ofNat 8 f.lo)))
  | 0xA8 => do
    let kind ← CollKind.ofCode (x.flag % 8); let op ← CollOp.ofCode (x.flag / 8 % 8)
    let s ← Scope.ofCode x.scope
    req (f.g == 0 && f.c == 0 && x.rpy == 1)
      (some (.coll d a b kind op (x.flag / 64 == 1) (BitVec.ofNat 16 x.tdi) (Fin.ofNat 4 x.rq) s))
  | 0xB0 => do
    let q ← replyOf x.rpy x.rq
    req (f.g == 0 && x.scope == 0) (some (.mma d a b c (mmaOpOf x.flag) (BitVec.ofNat 16 x.tdi) q))
  | 0xB1 => do
    let q ← replyOf x.rpy x.rq
    req (f.g == 0 && x.scope == 0) (some (.mmag d a b c (mmaOpOf x.flag) (BitVec.ofNat 16 x.tdi) q))
  | 0xB2 => req (f.g == 0 && f.d == 0 && f.b == 0 && f.c == 0 && r.untyped && r.func == 0 && r.xmod == 0)
      (some (.mzero a))
  | 0xB3 => req (f.g == 0 && f.d == 0 && f.c == 0 && r.func == 0 && r.rnd == 0 && r.nsat == 0 && r.ginv == 0 &&
        (r.ty == 2 || r.ty == 8) && r.xmod < 64) (some (.mscale a b (r.ty == 2) (r.sat == 1) (reg r.xmod)))
  | _ => none

/-- Opcodes 0xC0-0xCB: the fibre unit instructions (R272-R284). -/
def decodeUnit (f : Fields) : Option Instr := do
  let cfg := f.lo % 2 ^ 20
  let cls := f.lo / 2 ^ 24
  let fd ← freg f.d; let fa ← freg f.a; let fb ← freg f.b; let fc ← freg f.c
  let u : UnitRef := ⟨Fin.ofNat 9 cls, Fin.ofNat 16 (f.lo / 2 ^ 20 % 16)⟩
  let tdi := BitVec.ofNat 16 cfg
  let ok := f.g == 0 && cls < 9
  let bc := ok && f.b == 0 && f.c == 0
  match f.op with
  | 0xC0 => do
    let fmt ← ScanFmt.ofCode (cfg / 2 ^ 16 % 4)
    req bc (some (.fscan u fd fa fmt (cfg / 2 ^ 18 % 2 == 1) (cfg / 2 ^ 19 == 1) tdi))
  | 0xC1 => req (ok && cfg == 0) (some (.fisect u fd fc fa fb))
  | 0xC2 => req (ok && cfg == 0) (some (.funion u fd fc fa fb))
  | 0xC3 => req (ok && cfg == 0 && f.c == 0) (some (.frepeat u fd fa fb))
  | 0xC4 => do
    let op ← RedOp.ofCode (cfg % 4); let t ← FTy.ofCode (cfg / 4 % 4); let rm ← Rnd.ofCode (cfg / 32)
    req bc (some (.freduce u fd fa op t (cfg / 16 % 2 == 1) rm))
  | 0xC5 => req (bc && cfg < 2 ^ 16) (some (.fval u fd fa tdi))
  | 0xC6 => do
    let op ← AluOp.ofCode (cfg % 16); let t ← FTy.ofCode (cfg / 16 % 4); let rm ← Rnd.ofCode (cfg / 2 ^ 8 % 8)
    req (ok && f.c == 0)
      (some (.falu u fd fa fb op t (cfg / 2 ^ 6 % 2 == 1) (cfg / 2 ^ 7 % 2 == 1) rm (BitVec.ofNat 9 (cfg / 2 ^ 11))))
  | 0xC7 => do
    let mode ← WrMode.ofCode (cfg / 2 ^ 16 % 4); let t ← FTy.ofCode (cfg / 2 ^ 18)
    req (bc && f.d == 0) (some (.fwrite u fa mode t tdi))
  | 0xC8 => req (bc && cfg == 0) (some (.fgen u fd fa))
  | 0xC9 => req (ok && cfg == 0) (some (.fsteer u fd fc fa fb))
  | 0xCA => req (ok && cfg == 0) (some (.fmerge u fd fc fa fb))
  | 0xCB => req (ok && cfg == 0 && f.c == 0) (some (.fcarry u fd fa fb))
  | _ => none

/-- Opcodes 0xCC-0xCF: FSRC, FSINK, FGO and FKILL (R285-R289). -/
def decodeGraph (f : Fields) : Option Instr :=
  let func := f.lo / 2 ^ 20
  let imm := f.lo % 2 ^ 20
  let p : Fin 8 := Fin.ofNat 8 (imm / 2 ^ 17)
  let low := imm % 2 ^ 17
  let bc := f.g == 0 && f.b == 0 && f.c == 0
  match f.op with
  | 0xCC => do
    let fd ← freg f.d
    req (bc && f.a == 0 && func == 0 && low < 8) (some (.fsrc p fd (Fin.ofNat 8 low)))
  | 0xCD => do
    let fa ← freg f.a
    req (bc && f.d == 0) <|
      match func with
      | 0 => req (low == 0) (some (.fsinkPort p fa))
      | 1 => req (low < 8) (some (.fsinkQ p fa (Fin.ofNat 4 low) (low / 4 == 1)))
      | 2 => do
        let mode ← SinkMode.ofCode (low / 2 ^ 15)
        return .fsinkL p fa mode (Fin.ofNat 32768 low)
      | _ => none
  | 0xCE => req (bc && f.a == 0 && func == 0 && imm < 4) (some (.fgo (reg f.d) (Fin.ofNat 4 imm)))
  | 0xCF => req (bc && f.a == 0 && f.d == 0 && func == 0 && imm < 2) (some (if imm == 0 then .fkill else .fkillClear))
  | _ => none

/-- Opcodes 0xE0-0xE3: the port instructions (R296-R300). -/
def decodePort (f : Fields) : Option Instr :=
  let r := splitR f.lo
  let p : Fin 8 := Fin.ofNat 8 r.xmod
  let base := f.g == 0 && r.untyped
  match f.op with
  | 0xE0 =>
    req (base && f.d == 0 && f.a == 0 && f.b == 0 && f.c == 0) <|
      if r.func < 8 then req (r.xmod < 128) (some (.portb p (Fin.ofNat 16 (r.xmod / 8)) (Fin.ofNat 8 r.func)))
      else req (r.func == 0x80 && r.xmod < 8) (some (.portbU p))
  | 0xE1 => req (base && r.func == 0 && f.d == 0 && f.b == 0 && f.c == 0 && r.xmod < 32)
      (some (.portw p (reg f.a) (r.xmod / 16 == 1) (r.xmod / 8 % 2 == 1)))
  | 0xE2 => req (base && r.func == 0 && f.a == 0 && f.b == 0 && r.xmod < 8) (some (.portr p (reg f.d) (reg f.c)))
  | 0xE3 => req (base && r.func == 0 && f.a == 0 && f.b == 0 && f.c == 0 && r.xmod < 8) (some (.portq p (reg f.d)))
  | _ => none

/-- The instruction of a set of fields before the operand rules of `Instr.wf` (R141). -/
def decodeRaw (f : Fields) : Option Instr :=
  if f.op < 0x30 then decodeScalar f
  else if f.op < 0x40 then decodeSystem f
  else if f.op < 0x80 then decodeLanes f
  else if f.op < 0xA0 then decodeMemory f
  else if f.op < 0xC0 then decodeEngine f
  else if f.op < 0xCC then decodeUnit f
  else if f.op < 0xE0 then decodeGraph f
  else decodePort f

/-- The instruction of a set of fields, or none for a reserved encoding (R126, R142). -/
def decodeFields (f : Fields) : Option Instr :=
  match decodeRaw f with
  | some i => if i.wf then some i else none
  | none => none

/-- Every word is an instruction; a reserved encoding is one that raises ILLEGAL_INSTRUCTION (R142, R143). -/
def decodeWord (w : Word) : Instr :=
  match decodeFields (splitWord w.toNat) with
  | some i => i
  | none => .reservedEncoding w

/-- Why a byte string holds no instruction. -/
inductive DecodeError where
  /-- fewer than eight bytes are left -/
  | truncated
deriving DecidableEq, Repr

/-- The instruction in the first eight little-endian bytes, and the rest (R125). -/
def decodeBytes (bs : List Byte) : Except DecodeError (Instr × List Byte) :=
  if bs.length < 8 then .error .truncated
  else .ok (decodeWord (word (leNat (bs.take 8))), bs.drop 8)

/-- The decoder on an instruction numbered as the opcode table numbers bits: one 64-bit word, bit 0 the least
significant of the first byte. -/
def decodeTableWord (nbits w : Nat) : Option Instr :=
  match decodeBytes (leBytes 8 (w % 2 ^ nbits)) with
  | .ok (i, _) => some i
  | .error _ => none

end Sys2Proof
end

