-- ==== Sys2Proof/Machine/Numbers.lean ====
section
/-!
DEFINITION. Exact arithmetic and the number formats (spec chapter 02).

A value is kept exactly as sign, magnitude `m` and exponent `e`, or, for the irrational values of L16 and of VEXP2 and
VLOG2, as the interval [m, m + 1) x 2^e with enough bits that every rounding of R53 is decided. Rounding happens once,
in `roundTo`, which also applies R54 and reports the SUBST bits of R55.
-/

namespace Sys2Proof.Machine

open Sys2Proof

/-- Rounding modes in the order of ROUND.MODE (R52). -/
inductive RMode where
  | rne | rtz | rdn | rup
deriving DecidableEq, Repr

/-- The mode of a ROUND.MODE value (R52). -/
def RMode.ofBits (b : BitVec 2) : RMode :=
  match b.toNat with
  | 0 => .rne
  | 1 => .rtz
  | 2 => .rdn
  | _ => .rup

/-- An exact value (R53): `more` says that the magnitude lies strictly between m and m + 1 units. -/
inductive Num where
  | nan
  | inf (neg : Bool)
  | fin (neg : Bool) (m : Nat) (e : Int) (more : Bool)
deriving DecidableEq, Repr

/-- The saturation choice of an instruction (R54). -/
inductive SatSel where
  | none | sat | nsat
deriving DecidableEq, Repr

/-- The choice that a pair of modifier bits makes. -/
def SatSel.of (sat nsat : Bool) : SatSel := if sat then .sat else if nsat then .nsat else .none

/-- A result with the SUBST bits it sets: F4W in bit 0, SATC in bit 1, NANZ in bit 2 (R55). -/
abbrev Rep := Nat × BitVec 3

/-- SUBST.SATC (R55). -/
def satc : BitVec 3 := 2
/-- SUBST.NANZ (R55). -/
def nanz : BitVec 3 := 4

/-! ### Integer roots -/

/-- Newton's iteration for the integer square root, from above. -/
def isqrtLoop (n : Nat) : Nat → Nat → Nat
  | 0, x => x
  | k + 1, x =>
    let y := (x + n / x) / 2
    if y < x then isqrtLoop n k y else x

/-- The integer square root. -/
def isqrt (n : Nat) : Nat := if n = 0 then 0 else isqrtLoop n (Nat.log2 n + 8) (2 ^ (Nat.log2 n / 2 + 1))

/-- The integer 2^`k`-th root, as `k` square roots. -/
def irootPow : Nat → Nat → Nat
  | 0, n => n
  | k + 1, n => irootPow k (isqrt n)

/-! ### Binary formats -/

/-- The overflow behaviour of a binary format (R43, R54). -/
inductive BinKind where
  | ieee | fa8 | f4
deriving DecidableEq, Repr

/-- Field widths and bias of a binary format (R43). -/
structure BinFmt where
  ebits : Nat
  fbits : Nat
  bias : Nat
  kind : BinKind

/-- The binary formats of R43. -/
def binOf : Fmt → Option BinFmt
  | .f32 => some ⟨8, 23, 127, .ieee⟩
  | .f16 => some ⟨5, 10, 15, .ieee⟩
  | .bf16 => some ⟨8, 7, 127, .ieee⟩
  | .fb8 => some ⟨5, 2, 15, .ieee⟩
  | .fa8 => some ⟨4, 3, 7, .fa8⟩
  | .f4 => some ⟨2, 1, 1, .f4⟩
  | _ => none

/-- Canonical NaNs (R46); zero for formats without NaN (R54). -/
def nanBits : Fmt → Nat
  | .f32 => 0x7FC00000
  | .f16 => 0x7E00
  | .bf16 => 0x7FC0
  | .fb8 => 0x7E
  | .fa8 => 0x7F
  | .l16 => 0xC000
  | .ds8 => 0x77
  | _ => 0

/-- The value of a binary-format element (R43). -/
def decodeBin (p : BinFmt) (raw : Nat) : Num :=
  let f := fieldOf raw 0 p.fbits
  let e := fieldOf raw p.fbits p.ebits
  let neg := raw.testBit (p.fbits + p.ebits)
  let top := 2 ^ p.ebits - 1
  if p.kind = .ieee ∧ e = top then (if f = 0 then .inf neg else .nan)
  else if p.kind = .fa8 ∧ e = top ∧ f = 2 ^ p.fbits - 1 then .nan
  else if e = 0 then .fin neg f (1 - (p.bias : Int) - p.fbits) false
  else .fin neg (f + 2 ^ p.fbits) ((e : Int) - p.bias - p.fbits) false

/-! ### DS8 and L16 -/

/-- One term of a DS8 byte in units of 2^-6 (R49). -/
def ds8Term (neg : Bool) (shift : Nat) : Int :=
  if shift = 7 then 0 else if neg then -((2 ^ (6 - shift) : Nat) : Int) else ((2 ^ (6 - shift) : Nat) : Int)

/-- The unscaled value of a DS8 byte in units of 2^-6 (R49). -/
def ds8Value (b : Nat) : Int :=
  ds8Term (b.testBit 7) (fieldOf b 4 3) + ds8Term (b.testBit 3) (fieldOf b 0 3)

/-- The shift of a power of two not above 64: term 2^-shift is 2^(6 - shift) units. -/
def ds8Shift (n : Nat) : Nat := 6 - Nat.log2 n

/-- The canonical magnitude code of `n` units of 2^-6 with a positive sign, if two terms can express it (R50). -/
def ds8Code (neg : Bool) (n : Nat) : Option Nat :=
  let s := if neg then 8 else 0
  if n = 0 then some 0x77
  else
    let hi := 2 ^ Nat.log2 n
    let rest := n - hi
    if n = 128 then some (s * 16 + s)
    else if 128 < n then none
    else if rest = 0 then some (s * 16 + ds8Shift n * 16 + 7)
    else if rest = 2 ^ Nat.log2 rest then some (s * 16 + ds8Shift hi * 16 + s + ds8Shift rest)
    else
      let gap := 2 * hi - n
      if hi ≤ 32 ∧ gap = 2 ^ Nat.log2 gap then
        some (s * 16 + ds8Shift (2 * hi) * 16 + (8 - s) + ds8Shift gap)
      else none

/-- The largest DS8 magnitude, in units of 2^-6, not above `n`. -/
def ds8Floor : Nat → Nat
  | 0 => 0
  | n + 1 => if (ds8Code false (n + 1)).isSome then n + 1 else ds8Floor n

/-- The least DS8 magnitude above `n`, searching `k` places up. -/
def ds8Above (n : Nat) : Nat → Nat
  | 0 => 128
  | k + 1 => if (ds8Code false (129 - (k + 1))).isSome ∧ n < 129 - (k + 1) then 129 - (k + 1) else ds8Above n k

/-- The field of an L16 element as a signed number (R51). -/
def l16Field (raw : Nat) : Int := signedOf 15 raw

/-- 2^(f / 1024) to 72 bits after the leading one, as magnitude, exponent and inexactness (R58). -/
def l16Magnitude (f : Int) : Nat × Int × Bool :=
  let q := f / 1024
  let r := (f % 1024).toNat
  if r = 0 then (1, q, false) else (irootPow 10 (2 ^ (r + 72 * 1024)), q - 72, true)

/-- The value of an L16 element (R51). -/
def decodeL16 (raw : Nat) : Num :=
  let f := l16Field raw
  let neg := raw.testBit 15
  if f = -16384 then (if neg then .nan else .fin false 0 0 false)
  else
    let v := l16Magnitude f
    .fin neg v.1 v.2.1 v.2.2

/-- The exact value of an element of format `t` (R58); `e` is the block exponent of a DS8 element. -/
def decodeNum (t : Fmt) (e raw : Nat) : Num :=
  match binOf t with
  | some p => decodeBin p raw
  | none =>
    match t with
    | .ds8 => let v := ds8Value raw; .fin (v < 0) v.natAbs ((e : Int) - 127 - 6) false
    | .l16 => decodeL16 raw
    | _ =>
      if t.isS then let v := signedOf t.bits raw; .fin (v < 0) v.natAbs 0 false
      else .fin false (raw % 2 ^ t.bits) 0 false

/-! ### Rounding (R53) and overflow (R54) -/

/-- Round the magnitude `m` (strictly more if `more`) shifted right by `k` places (R53). -/
def roundShift (mode : RMode) (neg : Bool) (m k : Nat) (more : Bool) : Nat :=
  let q := m / 2 ^ k
  let r := m % 2 ^ k
  let inexact := r != 0 || more
  let up :=
    match mode with
    | .rne => if k = 0 then false else decide (2 ^ (k - 1) < r) || (r == 2 ^ (k - 1) && (more || q % 2 == 1))
    | .rtz => false
    | .rdn => inexact && neg
    | .rup => inexact && !neg
  if up then q + 1 else q

/-- The magnitude of `m` x 2^`e` rounded to an integer number of 2^`q` (R53). Shifting by more than two places beyond
the leading one gives what shifting by two does. -/
def roundAt (mode : RMode) (neg : Bool) (m : Nat) (e q : Int) (more : Bool) : Nat :=
  if q ≤ e then m * 2 ^ (e - q).toNat
  else roundShift mode neg m (min (q - e) (Nat.log2 m + 2)).toNat more

/-- What a binary destination gives when the magnitude overflows, or for an infinity (R54). Under .sat a finite overflow
counts as a clamp that changes the value, also in a mode whose own overflow is the largest finite value (log 47). -/
def overflowBin (p : BinFmt) (mode : RMode) (sel : SatSel) (neg isInf : Bool) : Rep :=
  let s := if neg then 2 ^ (p.ebits + p.fbits) else 0
  match p.kind with
  | .fa8 => if sel = .nsat then (0x7F, 0) else (s + 0x7E, satc)
  | .f4 => (s + 7, satc)
  | .ieee =>
    let big := s + (2 ^ p.ebits - 2) * 2 ^ p.fbits + (2 ^ p.fbits - 1)
    if sel = .sat then (big, satc)
    else if isInf ∨ mode = .rne ∨ (mode = .rdn ∧ neg) ∨ (mode = .rup ∧ ¬ neg) then
      (s + (2 ^ p.ebits - 1) * 2 ^ p.fbits, 0)
    else (big, 0)

/-- Round a finite magnitude to a binary format (R53, R54). -/
def roundBin (p : BinFmt) (mode : RMode) (sel : SatSel) (neg : Bool) (m : Nat) (e : Int) (more : Bool) : Rep :=
  let s := if neg then 2 ^ (p.ebits + p.fbits) else 0
  if m = 0 ∧ ¬ more then (s, 0)
  else
    let q : Int := max ((Nat.log2 m : Int) + e) (1 - p.bias) - p.fbits
    let r0 := roundAt mode neg m e q more
    let carry := r0 = 2 ^ (p.fbits + 1)
    let r := if carry then 2 ^ p.fbits else r0
    let q := if carry then q + 1 else q
    if r < 2 ^ p.fbits then (s + r, 0)
    else
      let raw := (q + p.fbits + p.bias).toNat * 2 ^ p.fbits + (r - 2 ^ p.fbits)
      let top :=
        match p.kind with
        | .ieee => (2 ^ p.ebits - 2) * 2 ^ p.fbits + (2 ^ p.fbits - 1)
        | .fa8 => 0x7E
        | .f4 => 7
      if top < raw then overflowBin p mode sel neg false else (s + raw, 0)

/-- Put an exact integer into an integer format: clamp, or keep the low bits (R54). -/
def fitInt (t : Fmt) (clamp : Bool) (v : Int) : Rep :=
  let n := t.bits
  let lo : Int := if t.isS then -(2 ^ (n - 1)) else 0
  let hi : Int := if t.isS then 2 ^ (n - 1) - 1 else 2 ^ n - 1
  if clamp ∧ v < lo then (wrapTo n lo, satc)
  else if clamp ∧ hi < v then (wrapTo n hi, satc)
  else (wrapTo n v, 0)

/-- The signed integer of a sign and a magnitude. -/
def signedNat (neg : Bool) (m : Nat) : Int := if neg then -(m : Int) else m

/-- Round to DS8 under block exponent `ex` (R53, R54, R58), in canonical encoding (R50). -/
def roundDs8 (mode : RMode) (ex : Nat) (neg : Bool) (m : Nat) (e : Int) : Rep :=
  let sh : Int := e - ex + 127 + 6
  let num := m * 2 ^ sh.toNat
  let den := 2 ^ (-sh).toNat
  let fl := num / den
  if 128 < fl ∨ (fl = 128 ∧ num ≠ 128 * den) then ((if neg then 0x88 else 0x00), satc)
  else
    let a := ds8Floor fl
    let b := ds8Above a 128
    let mag :=
      if num = a * den then a
      else
        match mode with
        | .rne => if (a + b) * den < 2 * num then b else a
        | .rtz => a
        | .rdn => if neg then b else a
        | .rup => if neg then a else b
    ((ds8Code neg mag).getD 0x77, 0)

/-- Put a rounded field into L16 (R54): clamp above, zero or the least magnitude below. -/
def packL16 (mode : RMode) (neg : Bool) (f : Int) : Rep :=
  let s := if neg then 0x8000 else 0
  if 16383 < f then (s + 16383, satc)
  else if f < -16383 then
    (if (mode = .rup ∧ ¬ neg) ∨ (mode = .rdn ∧ neg) then (s + wrapTo 15 (-16383), 0) else (0x4000, 0))
  else (s + wrapTo 15 f, 0)

/-- Round a nonzero exact magnitude to L16 in the log domain (R53, R58). -/
def roundL16 (mode : RMode) (neg : Bool) (m : Nat) (e : Int) : Rep :=
  let k : Int := (Nat.log2 (m ^ 2048) : Int) + 2048 * e
  let fl := k / 2
  let f :=
    if m = 2 ^ Nat.log2 m then fl
    else
      match mode with
      | .rne => (k + 1) / 2
      | .rtz => fl
      | .rdn => if neg then fl + 1 else fl
      | .rup => if neg then fl else fl + 1
  packL16 mode neg f

/-- Round an exact value once to format `t` (R53) and apply R54. `wrap` selects the rows of R54 for integer arithmetic
and narrowing, which keep the low bits unless .sat clamps; otherwise an integer destination clamps. -/
def roundTo (t : Fmt) (mode : RMode) (sel : SatSel) (ex : Nat) (wrap : Bool) (x : Num) : Rep :=
  match binOf t with
  | some p =>
    match x with
    | .nan => if p.kind = .f4 then (0, nanz) else (nanBits t, 0)
    | .inf neg => overflowBin p mode sel neg true
    | .fin neg m e more => roundBin p mode sel neg m e more
  | none =>
    match t with
    | .ds8 =>
      match x with
      | .nan => (0x77, nanz)
      | .inf neg => ((if neg then 0x88 else 0x00), satc)
      | .fin neg m e _ => roundDs8 mode ex neg m e
    | .l16 =>
      match x with
      | .nan => (0xC000, 0)
      | .inf neg => ((if neg then 0x8000 else 0) + 16383, satc)
      | .fin neg m e _ => if m = 0 then (0x4000, 0) else roundL16 mode neg m e
    | _ =>
      match x with
      | .nan => (0, nanz)
      | .inf neg =>
        (wrapTo t.bits (if neg then (if t.isS then -(2 ^ (t.bits - 1)) else 0)
          else if t.isS then 2 ^ (t.bits - 1) - 1 else 2 ^ t.bits - 1), satc)
      | .fin neg m e more => fitInt t (!wrap || sel == .sat) (signedNat neg (roundAt mode neg m e 0 more))

/-! ### Exact arithmetic (R191, R204) -/

/-- Whether the value is a zero. -/
def Num.isZero : Num → Bool
  | .fin _ 0 _ false => true
  | _ => false

/-- The sign of a value. -/
def Num.isNeg : Num → Bool
  | .nan => false
  | .inf s => s
  | .fin s _ _ _ => s

/-- The negated value. -/
def Num.neg : Num → Num
  | .nan => .nan
  | .inf s => .inf (!s)
  | .fin s m e k => .fin (!s) m e k

/-- The exact product (R59, R191). -/
def Num.mul : Num → Num → Num
  | .nan, _ => .nan
  | _, .nan => .nan
  | .inf s, y => if y.isZero then .nan else .inf (s != y.isNeg)
  | x, .inf s => if x.isZero then .nan else .inf (s != x.isNeg)
  | .fin s m e _, .fin t n f _ => .fin (s != t) (m * n) (e + f) false

/-- The least exponent in a list of values. -/
def leastExp : List Num → Int → Int
  | [], acc => acc
  | .fin _ m e _ :: xs, acc => leastExp xs (if m = 0 then acc else min e acc)
  | _ :: xs, acc => leastExp xs acc

/-- The signed sum of the finite values, in units of 2^`e`. -/
def sumAt (e : Int) : List Num → Int
  | [] => 0
  | .fin s m f _ :: xs => signedNat s (m * 2 ^ (f - e).toNat) + sumAt e xs
  | _ :: xs => sumAt e xs

/-- The exact sum of a list of values, with the sign rule of an exact zero (R191, R204). -/
def sumNums (mode : RMode) (xs : List Num) : Num :=
  if xs.contains .nan then .nan
  else if xs.contains (.inf false) ∧ xs.contains (.inf true) then .nan
  else if xs.contains (.inf false) then .inf false
  else if xs.contains (.inf true) then .inf true
  else
    let e := leastExp xs 0
    let s := sumAt e xs
    if s = 0 then
      if xs.all Num.isZero ∧ xs.all Num.isNeg then .fin true 0 0 false
      else if xs.all Num.isZero ∧ xs.all (fun x => !x.isNeg) then .fin false 0 0 false
      else .fin (mode == .rdn) 0 0 false
    else .fin (s < 0) s.natAbs e false

/-! ### Comparison (R193, R196) -/

/-- A number that orders the elements of a format by value, `none` for NaN; `zeros` keeps -0 below +0. -/
def orderKey (t : Fmt) (zeros : Bool) (raw : Nat) : Option Int :=
  match binOf t with
  | some p =>
    match decodeBin p raw with
    | .nan => none
    | _ =>
      let mag := fieldOf raw 0 (p.ebits + p.fbits)
      let neg := raw.testBit (p.ebits + p.fbits)
      some (if neg then -(mag : Int) * 2 - (if zeros then 1 else 0) else (mag : Int) * 2)
  | none =>
    match t with
    | .l16 =>
      let f := l16Field raw
      if f = -16384 then (if raw.testBit 15 then none else some 0)
      else some (if raw.testBit 15 then -(f + 20000) else f + 20000)
    | _ => some (if t.isS then signedOf t.bits raw else (raw % 2 ^ t.bits : Nat))

/-- Whether a format can hold a NaN. -/
def hasNan (t : Fmt) : Bool := t.isFloat || t == .l16

/-- The lesser (or greater) of two elements (R193). -/
def pickMin (t : Fmt) (greater : Bool) (a b : Nat) : Nat :=
  match orderKey t true a, orderKey t true b with
  | some x, some y => if greater then (if x < y then b else a) else (if y < x then b else a)
  | _, _ => nanBits t

/-- The truth of a VCMP condition (R196). -/
def compareElems (t : Fmt) (c : VCond) (a b : Nat) : Bool :=
  match orderKey t false a, orderKey t false b with
  | some x, some y =>
    match c with
    | .eq => x == y
    | .ne => x != y
    | .lt => decide (x < y)
    | .le => decide (x ≤ y)
    | .gt => decide (y < x)
    | .ge => decide (y ≤ x)
    | .un => false
  | _, _ => c == .ne || c == .un

/-! ### Element arithmetic (R191, R192, R204) -/

/-- The sum of the exact values of a list of elements, at type `t`: rounded once for floats, wrapped or clamped for
integers (R191, R204). -/
def addElems (t : Fmt) (mode : RMode) (sel : SatSel) (xs : List Num) : Rep :=
  roundTo t mode sel 127 true (sumNums mode xs)

/-- The sum of a reduction: a set that holds an infinity sums to that infinity, which .sat does not clamp (R204). -/
def sumReduce (t : Fmt) (mode : RMode) (sel : SatSel) (xs : List Num) : Rep :=
  match sumNums mode xs with
  | .inf neg => roundTo t mode .none 127 true (.inf neg)
  | x => roundTo t mode sel 127 true x

/-- VMUL of two L16 elements by adding fields (R192). -/
def mulL16 (mode : RMode) (a b : Nat) : Rep :=
  match decodeL16 a, decodeL16 b with
  | .nan, _ => (0xC000, 0)
  | _, .nan => (0xC000, 0)
  | x, y =>
    if x.isZero || y.isZero then (0x4000, 0)
    else packL16 mode (a.testBit 15 != b.testBit 15) (l16Field a + l16Field b)

/-- VLADD and VLSUB of two L16 elements (R63), on the correction tables TADD then TSUB (R64). -/
def logAddSub (sub : Bool) (tables : List (BitVec 16)) (a b : Nat) : Rep :=
  let fa := l16Field a
  let fb := l16Field b
  let sa := a.testBit 15
  let za := fa = -16384
  let zb := fb = -16384
  if (za ∧ sa) ∨ (zb ∧ b.testBit 15) then (0xC000, 0)
  else if za ∧ zb then (0x4000, 0)
  else if zb then (a, 0)
  else if za then ((if sub then 0x8000 else 0) + b % 2 ^ 15, 0)
  else
    let d := (fa - fb).natAbs
    let i := min (d / 16) 255
    if sub ∧ d = 0 then (0x4000, 0)
    else
      let f := max fa fb + (tables.getD (if sub then 256 + i else i) 0).toInt
      let s := if sub ∧ fa < fb then !sa else sa
      if 16383 < f then ((if s then 0x8000 else 0) + 16383, satc)
      else if f < -16383 then (0x4000, 0)
      else ((if s then 0x8000 else 0) + wrapTo 15 f, 0)

/-! ### The defined approximations (R206) -/

/-- The significand of a magnitude cut toward zero to 14 bits (R206). -/
def trunc14 (neg : Bool) (m : Nat) (e : Int) : Num :=
  let l := Nat.log2 m
  if l < 14 then .fin neg m e false
  else .fin neg (m / 2 ^ (l - 13)) (e + ((l - 13 : Nat) : Int)) false

/-- Bits kept after the point in the two transcendental functions. -/
def transBits : Nat := 420

/-- The product over the bits of the fraction `f` / 2^`n` (most significant first) of 2^(2^-i), to `transBits` bits.
`root` is 2^(2^-i) for the present bit. -/
def exp2Loop (f : Nat) : Nat → Nat → Nat → Nat
  | 0, _, acc => acc
  | k + 1, root, acc =>
    exp2Loop f k (isqrt (root * 2 ^ transBits)) (if f.testBit k then acc * root / 2 ^ transBits else acc)

/-- 2^x for a finite nonzero x = (-1)^neg m 2^e: floor and fraction, as magnitude and exponent cut below (R206). A
fraction of more than 300 bits cannot change the 14 bits kept. -/
def exp2Num (neg : Bool) (m : Nat) (e : Int) : Num :=
  if 0 ≤ e then .fin false 1 (signedNat neg (m * 2 ^ e.toNat)) false
  else
    let n := (-e).toNat
    let v := signedNat neg m
    let q := v / (2 ^ n : Nat)
    let f := (v % (2 ^ n : Nat)).toNat
    if f = 0 then .fin false 1 q false
    else
      let acc := exp2Loop f n (isqrt (2 ^ (2 * transBits + 1))) (2 ^ transBits)
      trunc14 false (if acc < 2 ^ transBits then 2 ^ transBits else acc) (q - transBits)

/-- The next `k` binary digits of log2 y for y in [1, 2) held to 2 `transBits` bits. -/
def log2Loop : Nat → Nat → Nat → Nat
  | 0, _, acc => acc
  | k + 1, y, acc =>
    let y2 := y * y / 2 ^ (2 * transBits)
    if 2 ^ (2 * transBits + 1) ≤ y2 then log2Loop k (y2 / 2) (2 * acc + 1) else log2Loop k y2 (2 * acc)

/-- log2 of a positive magnitude, cut to 14 bits (R206): exact at powers of two. -/
def log2Num (m : Nat) (e : Int) : Num :=
  let l := Nat.log2 m
  let k : Int := l + e
  if m = 2 ^ l then .fin (k < 0) k.natAbs 0 false
  else
    let y := m * 2 ^ (2 * transBits) / 2 ^ l
    let v : Int := k * (2 ^ 200 : Nat) + log2Loop 200 y 0
    if 0 ≤ v then trunc14 false v.natAbs (-200) else trunc14 true (v.natAbs - 1) (-200)

/-- The functions of R206. -/
inductive Approx where
  | recip | rsqrt | exp2 | log2
deriving DecidableEq, Repr

/-- The value q of R206, special cases first. -/
def approxNum (f : Approx) (x : Num) : Num :=
  match f, x with
  | _, .nan => .nan
  | .recip, .inf s => .fin s 0 0 false
  | .rsqrt, .inf s => if s then .nan else .fin false 0 0 false
  | .exp2, .inf s => if s then .fin false 0 0 false else .inf false
  | .log2, .inf s => if s then .nan else .inf false
  | .recip, .fin s m e _ =>
    if m = 0 then .inf s
    else
      let l := Nat.log2 m
      if m = 2 ^ l then .fin s 1 (-(l + e)) false
      else trunc14 s (2 ^ (l + 40) / m) (-((l : Int) + 40) - e)
  | .rsqrt, .fin s m e _ =>
    if m = 0 then .inf s
    else if s then .nan
    else
      let odd := e % 2 ≠ 0
      let m' := if odd then 2 * m else m
      let e' := if odd then e - 1 else e
      let l := Nat.log2 m' + 60
      trunc14 false (isqrt (2 ^ (2 * l) / m')) (-(l : Int) - e' / 2)
  | .exp2, .fin s m e _ => if m = 0 then .fin false 1 0 false else exp2Num s m e
  | .log2, .fin s m e _ => if m = 0 then .inf true else if s then .nan else log2Num m e

/-! ### DS8 scale selection (R66, R67) -/

/-- The least n with m 2^e ≤ 2^n, for m > 0. -/
def ceilLog2 (m : Nat) (e : Int) : Int := (if m = 2 ^ Nat.log2 m then (Nat.log2 m : Int) else Nat.log2 m + 1) + e

/-- Whether |x| < |y| for finite values. -/
def Num.absLt : Num → Num → Bool
  | .fin _ m e _, .fin _ n f _ =>
    let k := min e f
    decide (m * 2 ^ (e - k).toNat < n * 2 ^ (f - k).toNat)
  | _, _ => false

/-- The exponent E of a block (R66): `big` is the finite input of largest magnitude. -/
def chooseExp (big : Num) (count thr : Nat) : Nat :=
  match big with
  | .fin _ (m + 1) e _ =>
    let efit := (min 255 (max 0 (ceilLog2 (m + 1) e + 126))).toNat
    if thr < count then efit - 1 else efit
  | _ => 127

/-- The finite value of largest magnitude in a list (R66). -/
def largest : List Num → Num → Num
  | [], acc => acc
  | .fin s m e k :: xs, acc => largest xs (if acc.absLt (.fin s m e k) then .fin s m e k else acc)
  | _ :: xs, acc => largest xs acc

end Sys2Proof.Machine
end

