-- ==== Sys2Proof/Config.lean ====
section
/-!
DEFINITION. What an implementation fixes and what the spec leaves open.

The `opaque` constants have no body: nothing in Lean can evaluate them, so every theorem about the model holds
whatever they are. Each is named in the assumption log. The other definitions are the PSH-4810's stated values.
-/

namespace Sys2Proof.Config

/-! ### Free values -/

/-- The free value of the `n`-th step of the machine at a place `site` of that step (log 5), wherever the spec leaves
a value or a choice open. -/
opaque free (n site : Nat) : Nat

/-- What TVER, the translator version, of the `n`-th firmware is formed from (log 13; see `tver`). -/
opaque tverLess1 : Nat → Nat

/-- The firmware image that the device has left the factory with (log 13). -/
opaque factoryImage : List Byte

/-- The version number of a firmware image (log 13; R423, R442). -/
opaque firmwareVersion : List Byte → Word

/-- What a firmware image holds for stage `k`: the stage's image and its signature (log 13; R423 gives no format). -/
opaque stagePart (image : List Byte) (k : Nat) : List Byte × List Byte

/-- The fused rollback floor (log 13; R423). -/
opaque rollbackFloor : Nat

/-- Pure Ed448 verification of a signature over a digest under the Edeibor firmware key (log 15; R423). -/
opaque firmwareVerify (digest sig : List Byte) : Bool

/-- Byte `i` of the device identity public key (log 13; R429). -/
opaque identityKey : Nat → Byte

/-- The page number at which the driver places the text of the object with this handle (log 14; R336 gives no
register for it). -/
opaque textPage : Nat → Nat

/-- Whether a key identifier is enrolled for a tenant (log 15; R336, R399). -/
opaque keyEnrolled (tenant : Nat) (keyId : Word) : Bool

/-- Pure Ed448 verification (RFC 8032) of a signature over a message under the key a tenant has enrolled (log 15). -/
opaque ed448Verify (tenant : Nat) (keyId : Word) (message sig : List Byte) : Bool

/-- The device's pure Ed448 signature by its identity key (log 15; R429). -/
opaque ed448Sign : List Byte → List Byte

/-- The ephemeral X448 public key of the `n`-th attestation (log 15; R429). -/
opaque x448Public : Nat → List Byte

/-- The X448 shared secret of the `n`-th attestation with a host public key (log 15; R430). -/
opaque x448Shared : Nat → List Byte → List Byte

/-- Whether the canonical netlist of an image passes check 6 of R399: sites, site count and primitives (log 16; the
netlist's format is not given). -/
opaque netlistOk : List Byte → Bool

/-- Bytes of a GROUP list at an address whose first 16 bytes are these (log 20; R349 gives no layout). -/
opaque groupSpan : List Byte → Nat

/-- The (package, gang, tile) triples of a GROUP list, in rank order (log 20; R349 gives no layout). -/
opaque groupTriples : List Byte → List (Nat × Nat × Nat)

/-- Whether two other packages of the system share a package number (log 20; R436). -/
opaque sharedPackage : Nat → Bool

/-- The values a participant of another package contributes to a collective (log 17). -/
opaque remoteBuffer (handle seq rank elem : Nat) : Nat

/-- What the size of a folio is formed from: the rest of its cache key beside the die revision (tenant, virtual root, translator
version, binding vector), the VPC of its entry, and the words of its run (R337, R338, R344; log 41). -/
opaque folioBytes (tenant : Nat) (root : List Byte) (tver : Nat) (binding : List (Option Word)) (entry : Word)
  (words : List Word) : Nat

/-- What the size of BAR4 is formed from (log 61; see `bar4Bytes`). -/
opaque bar4Raw : Nat

/-- Where INFO0 of OPERATOR_FAULT holds the region index and the port (log 5; R303 states no places). -/
opaque ratioPlace : Nat

/-! ### Stated values of the PSH-4810 -/

/-- INFO0 of OPERATOR_FAULT: region index and port, in fields whose order and places are open (R303; log 5). -/
def ratioInfo (region port : Nat) : Nat :=
  let lo := ratioPlace / 2 % 28
  let hi := 28 + ratioPlace / 56 % 28
  if ratioPlace % 2 = 0 then region % 2 ^ 8 * 2 ^ lo + port * 2 ^ hi else port * 2 ^ lo + region % 2 ^ 8 * 2 ^ hi

/-- Bytes of the device-memory aperture BAR4: a power of two from 256 MiB to 64 GiB (R346; log 61). -/
def bar4Bytes : Nat := 2 ^ (28 + bar4Raw % 9)

/-- Physical tiles (R2). -/
def tiles : Nat := 1024

/-- Fabric regions (R2). -/
def regions : Nat := 256

/-- Hardware queues (R2). -/
def queues : Nat := 4096

/-- Scratchpad bytes (R13). -/
def padBytes : Nat := 0x200000

/-- Die revision of a shipped PSH-4810 (R442). -/
def rev : Nat := 0x0201

/-- One TVER: nonzero, 32 bits (R442). -/
def tverOf (n : Nat) : Nat := tverLess1 n % (2 ^ 32 - 1) + 1

/-- TVER of the `n`-th firmware: nonzero, and never smaller than an earlier one's (R442). -/
def tver : Nat → Nat
  | 0 => tverOf 0
  | n + 1 => max (tver n) (tverOf (n + 1))

/-- SVI version 1.0 (R168). -/
def sviVersion : Nat := 0x00010000

/-- Three bytes of the identity key with their marker (R432). -/
def keyEntry (i : Nat) : Nat :=
  (identityKey (3 * i)).toNat + (identityKey (3 * i + 1)).toNat * 2 ^ 8 + (identityKey (3 * i + 2)).toNat * 2 ^ 16 +
    (0x80 + i) * 2 ^ 24

/-- The rubric's value for a feature under the `gen`-th firmware, 0 when absent (R168, R432, R442). -/
def rubric (gen id : Nat) : Nat :=
  match id with
  | 0x0001 => sviVersion
  | 0x0002 => 256
  | 0x0004 => 1
  | 0x0006 => 8
  | 0x0007 => 64
  | 0x0008 => 16
  | 0x0009 => 64
  | 0x000A => 64
  | 0x000B => rev
  | 0x000C => tver gen
  | 0x000D => 1024
  | 0x000E => 256
  | 0x000F => 768
  | _ => if 0x0100 ≤ id ∧ id ≤ 0x0112 then keyEntry (id - 0x0100) else 0

end Sys2Proof.Config
end

