-- ==== Sys2Proof/Machine/State.lean ====
section
/-!
DEFINITION. The state of the machine: a PSH-4810 device with its tiles, engines, queues, page tables, regions,
supervisor records and registers, as plain data (spec chapters 01, 03-05, 11-13, 16-23).

One tile is IN FOCUS (`State.tile`, physical number `State.tileNo`); the other tiles that have ever been used stand in
`State.others`. A meaning of an SVI instruction acts on the tile in focus. `State.agenda` says which agents act next,
so that one deterministic step can follow any interleaving of the device's agents.
-/

namespace Sys2Proof.Machine

open Sys2Proof

/-- Sparse memory: address and byte, addresses strictly rising, no byte equal to the default (zero). -/
abbrev Memory := List Host.Cell

/-- A strand's name: queue, record index in the queue, linear gang index, gang-relative tile index (R10-R12, R365). -/
structure StrandKey where
  queue : Nat
  record : Nat
  gang : Nat
  tile : Nat
deriving DecidableEq, Repr

/-! ### Ordering and race detection (chapter 04) -/

/-- Where bytes live: device memory by physical address, host memory by host address, a tile's scratchpad. -/
inductive Place where
  | dev
  | host
  | pad (tile : Nat)
deriving DecidableEq, Repr

/-- A 32-byte granule of a place (R105, R151). -/
structure Gran where
  place : Place
  index : Nat
deriving DecidableEq, Repr

/-- A party kind, coded as R107 codes SELF and OTHER. -/
inductive AccKind where
  | load | store | sync | copyRead | copyWrite | matrixRead | fibreRead | fibreWrite | collRead | collWrite
deriving DecidableEq, Repr

/-- A party (R91): a strand, or a command a strand issued, by its kind and number. -/
inductive Party where
  | strand (k : StrandKey)
  | copy (k : StrandKey) (ch : Chan) (id : Nat)
  | matrix (k : StrandKey) (seq : Nat)
  | graph (k : StrandKey) (seq : Nat)
  | coll (k : StrandKey) (seq : Nat)
deriving DecidableEq, Repr

/-- How far into one strand's program order something is known to be ordered before (R99). -/
structure Seen where
  key : StrandKey
  upTo : Nat
deriving DecidableEq, Repr

/-- Ordering knowledge for the accesses of some granules only (R85, R110). -/
structure Limited where
  grans : List Gran
  seen : List Seen
deriving DecidableEq, Repr

/-- What is ordered before a party's next access (R99). -/
structure Clock where
  seen : List Seen
  limited : List Limited
deriving DecidableEq, Repr

/-- When an access joined its strand's program order, and the scope inside which that counts (R96). -/
structure Stamp where
  at_ : Nat
  scope : Scope
deriving DecidableEq, Repr

/-- A performed access, as its serialisation point keeps it for the conflict check (R105, R108). -/
structure Mark where
  gran : Gran
  party : Party
  kind : AccKind
  write : Bool
  sync : Bool
  stamps : List Stamp
  xfer : Nat
  scope : Scope
deriving DecidableEq, Repr

/-- A granule that a task has constant-loaded, and the loading strand (R76). -/
structure ConstMark where
  gran : Gran
  loader : StrandKey
  old : Option (List Byte)
deriving DecidableEq, Repr

/-- A release that a later synchronising read of a location can pair with (R99). -/
structure Release where
  by_ : StrandKey
  scope : Scope
  clock : Clock
  /-- made by a SIGINC, with which the start of a waiting task pairs [1 bit; 07 R177] -/
  sig : Bool
  /-- made by the publication of a completion, with which only an acquire load at .dev or .sys pairs [1 bit; 04 R97] -/
  pub : Bool
deriving DecidableEq, Repr

/-- The releases that a synchronising read of a byte pairs with now, and those that the next atomic write there brings
back: a read that returns an atomic write later than a release pairs with it, even past a plain write between the two
(R99). -/
structure SyncLoc where
  place : Place
  addr : Nat
  rels : List Release
  past : List Release
deriving DecidableEq, Repr

/-- One strand's ordering state: its place in program order, what is ordered before it, releases of earlier FENCEs by
scope, and the releases its synchronising reads have met but not yet acquired (R94, R99). -/
structure OrderState where
  po : Nat
  clock : Clock
  fences : List Release
  met : List Release
deriving DecidableEq, Repr

/-! ### The sequencer (chapters 01, 02, 06) -/

/-- The registers of one sequencer. -/
structure Seq where
  /-- S0-S63 [64 bits each; 01 R13, R22; reset zero, S1 = argument block at strand start] -/
  s : Vector Word 64
  /-- V0-V63 [2048 bits each; 01 R13, R22; reset zero] -/
  v : Vector VecWord 64
  /-- P0-P15 [256 bits each; 01 R13, R22; reset P0 all ones, the rest zero] -/
  p : Vector PredWord 16
  /-- VPC, the program counter [64 bits; 01 R22, 06 R125; reset DESIGN CHOICE 0 (log 3)] -/
  vpc : Word
  /-- VL.LEN [13 bits; 06 R138; reset 0] -/
  vl : Nat
  /-- ROUND.MODE [2 bits; 02 R52; reset 0] -/
  round : BitVec 2
  /-- SAT.UFTHR [16 bits; 02 R56; reset 0] -/
  ufthr : BitVec 16
  /-- SUBST: F4W, SATC, NANZ [3 bits; 02 R55; reset 0] -/
  subst : BitVec 3
  /-- UFCOUNT [64 bits; 02 R57; reset 0] -/
  ufcount : Word
  /-- VBANK.STATE [8 bits; 05 R121; reset 0] -/
  vbank : BitVec 8
  /-- CYCLE [64 bits; 06 R137; reset 0 at strand start] -/
  cycle : Word
  /-- last COLL sequence number [64 bits; 09 R232; reset 0] -/
  collSeq : Nat
  /-- last FGO sequence number [64 bits; 12 R287; reset 0] -/
  fgoSeq : Nat
  /-- correction tables TADD[0..255] then TSUB[0..255] [512 x 16 bits; 02 R64, R65; reset the power-on contents] -/
  tables : List (BitVec 16)
  /-- LIVE, the feature-liveness map: identifier and minimum [64 entries; 19 R381; reset empty] -/
  live : List (Nat × Nat)
  /-- LIVE overflow flag [1 bit; 19 R381; reset 0] -/
  liveOverflow : Bool
deriving DecidableEq, Repr

/-! ### Descriptors, rings, ports, replies (chapters 01, 03, 13) -/

/-- A tensor descriptor as commands use it (R77, R82): the root's fields, the origin, the extents, the rights, and
the index it was named by. -/
structure Desc where
  base : Nat
  space : Space
  fmt : Nat
  ndim : Nat
  bgeom : Nat
  bdim : Nat
  esrc : Bool
  rights : Nat
  efix : Nat
  fregion : Nat
  fpath : Bool
  fport : Nat
  ext : List Nat
  stride : List Int
  ebase : Nat
  origin : List Nat
  rootExt : List Nat
  tdi : Nat
deriving DecidableEq, Repr

/-- An entry of the private descriptor window (R78, R82): driver-table root, origin, extents, rights, FPATH kept. -/
structure PrivDesc where
  root : Nat
  origin : List Nat
  ext : List Nat
  rights : Nat
  fpath : Bool
deriving DecidableEq, Repr

/-- The states of a ring slot (R84). -/
inductive SlotState where
  | free | filling | landed | filled | held
deriving DecidableEq, Repr

/-- A configured ring (R83, R84): geometry, counts, indices, slot states, and per slot where the strand's program
order stood at its last RFREE and which copy fills it. -/
structure Ring where
  base : Nat
  slotSize : Nat
  count : Nat
  free : Nat
  filled : Nat
  fillIx : Nat
  pubIx : Nat
  takeIx : Nat
  slots : List SlotState
  freedAt : List Nat
  filler : List Nat
deriving DecidableEq, Repr

/-- A reply queue: entries oldest first, and the reservations outstanding (R18). -/
structure ReplyQ where
  entries : List Word
  reserved : Nat
deriving DecidableEq, Repr

/-- A trap about to be delivered: cause, information words, the second area (R113). -/
structure TrapInfo where
  cause : Nat
  info0 : Word
  info1 : Word
  aux : List Word
deriving DecidableEq, Repr

/-- A stream port: its binding (gang-relative region, region port), the outbound and the receive queue, and for
each END in the receive queue the fault of an operator that broke its ratio by it (R295, R297, R303). -/
structure Port where
  binding : Option (Nat × Nat)
  tx : List Beat
  rx : List Beat
  broken : List (Option TrapInfo)
deriving DecidableEq, Repr

/-! ### Engine commands (chapters 01, 09, 10, 12) -/

/-- Why an engine command is held: waiting for service of a request, a fault to deliver, or a fault that has been
delivered under the hold policy (R116, R117). -/
inductive Held where
  | service (id : Nat) (fail : TrapInfo)
  | fault (t : TrapInfo)
  | delivered (t : TrapInfo)
deriving DecidableEq, Repr

/-- A copy between a descriptor and the local layout (R222-R225): `tbits` and `lbits` are the element bits on the
descriptor side and on the local side. -/
structure CopyCmd where
  id : Nat
  toLocal : Bool
  desc : Desc
  base : Nat
  pitch : Nat
  ring : Option (Fin 8)
  slot : Option Nat
  print : Option Nat
  noData : Bool
  scope : Scope
  rmode : BitVec 2
  path : Option (Nat × Nat)
  tbits : Nat
  lbits : Nat
deriving DecidableEq, Repr

/-- CPYA: accumulator window and local layout (R226). -/
structure AccCmd where
  id : Nat
  inDir : Bool
  row0 : Nat
  col0 : Nat
  rows : Nat
  cols : Nat
  base : Nat
  pitch : Nat
  fmt : Fmt
  sat : Bool
  scope : Scope
  rmode : BitVec 2
deriving DecidableEq, Repr

/-- An operand of MMA or MMAG (R237-R239): a scratchpad specifier, or the captured register bytes. -/
inductive Operand where
  | pad (base rot rpitch kpitch : Nat)
  | regs (bytes : List Byte)
deriving DecidableEq, Repr

/-- MMA or MMAG (R244, R246). -/
structure MmaCmd where
  gang : Bool
  pair : Nat
  sat : Bool
  a : Operand
  b : Operand
  m : Nat
  n : Nat
  k : Nat
  row0 : Nat
  col0 : Nat
  eaddr : Nat
  geom : Nat
  esrc : Bool
  efix : Nat
deriving DecidableEq, Repr

/-- A collective (R232-R235). -/
structure CollCmd where
  seq : Nat
  scope : Scope
  group : Word
  index : Nat
  kind : CollKind
  op : CollOp
  det : Bool
  root : Nat
  desc : Desc
deriving DecidableEq, Repr

/-- The function of a fibre unit (R272-R286). -/
inductive UnitFn where
  | scan (fmt : ScanFmt) (root uniq : Bool) (n : Nat) (d1 d2 : Option Desc) (rm : BitVec 2)
  | isect | union | rep
  | reduce (op : RedOp) (t : FTy) (sat : Bool) (rm : BitVec 2)
  | value (d : Desc) (rm : BitVec 2)
  | alu (op : AluOp) (t : FTy) (two sat : Bool) (rm : BitVec 2) (imm : BitVec 9)
  | write (mode : WrMode) (t : FTy) (d : Desc) (rm : BitVec 2)
  | gen | steer | merge | carry
  | src (port : Nat) (level : Nat)
  | sinkPort (port : Nat)
  | sinkQ (port : Nat) (q : QReg) (count : Bool)
  | sinkL (port : Nat) (mode : SinkMode) (addr : Nat)
deriving DecidableEq, Repr

/-- A configured unit: its function, outputs and inputs by endpoint, in the order of R275. -/
structure UnitCfg where
  fn : UnitFn
  outs : List Nat
  ins : List Nat
deriving DecidableEq, Repr

/-- An engine command (R13). Fibre units are named by slot: 0-41 graph units, 42-49 adapter sources, 50-57 adapter
sinks. -/
inductive Cmd where
  | copy (c : CopyCmd)
  | coll (c : CollCmd)
  | acc (c : AccCmd)
  | mma (c : MmaCmd)
  | mzero (row0 col0 rows cols : Nat)
  | mscale (row0 col0 rows cols : Nat) (int sat : Bool) (s : Word) (sh : Nat)
  | config (slot : Nat) (c : UnitCfg)
  | go (seq : Nat) (cfg : List (Nat × UnitCfg))
deriving DecidableEq, Repr

/-- A command in an engine's queue or in flight: its owner, its sequence number in that engine's queue, the ordering
knowledge it opened with, its reply queue, progress (elements read and written as bit sets, values read and not yet
written, beats returned by an operator), pass cursor or operator stage, replays, pass runs charged so far, the SUBST bits
it will set, and what holds it. -/
structure QCmd where
  owner : StrandKey
  seq : Nat
  body : Cmd
  clock : Clock
  reply : Option QReg
  vpc : Word
  started : Bool
  finished : Bool
  rd : Nat
  wr : Nat
  buf : List (Nat × Nat)
  beats : List Beat
  pass : Nat
  run : Nat
  replays : Nat
  cost : Nat
  flags : BitVec 3
  /-- a droop was flagged while a pass of this command ran [1 bit; 10 R250, 20 R411; reset 0] -/
  droop : Bool
  held : Option Held
deriving DecidableEq, Repr

/-- The tracking of one copy channel (R17): last identifier issued, read and visible watermark, and the copies done
beyond them. -/
structure ChanState where
  last : Nat
  readMark : Nat
  visMark : Nat
  readDone : List Nat
  visDone : List Nat
deriving DecidableEq, Repr

/-! ### The fibre engine (chapters 11, 12) -/

/-- A token (R258). -/
inductive Tok where
  | elem (c r : BitVec 32) (v : Option (BitVec 32))
  | stop (k : Fin 8)
  | done
deriving DecidableEq, Repr

/-- A token on an edge with the consumers (by slot) that have taken it (R266). -/
structure EdgeTok where
  tok : Tok
  takenBy : List Nat
deriving DecidableEq, Repr

/-- An edge while a graph runs: tokens oldest first, declared level, m, done, and the last token written (R257, R260). -/
structure Edge where
  toks : List EdgeTok
  level : Nat
  m : Nat
  ended : Bool
  last : Option Tok
deriving DecidableEq, Repr

/-- What a unit keeps between steps of a run: its phase and counters, array words read, coordinates met, tokens being
packed, writes sent and not yet performed, and what holds it. -/
structure UnitState where
  phase : Nat
  n1 : Nat
  n2 : Nat
  n3 : Nat
  n4 : Nat
  ref : BitVec 32
  val : Option (BitVec 32)
  acc : List (BitVec 32)
  arr : List (Nat × Nat)
  lastA : Option Nat
  lastB : Option Nat
  pack : List Tok
  sends : List (Nat × Nat)
  ended : Bool
  count : Nat
  held : Option Held
deriving DecidableEq, Repr

/-- A graph run (R287): its FGO, the edges by endpoint, the units' states by slot, and SUBST bits to be set. -/
structure Run where
  seq : Nat
  edges : List Edge
  units : List (Nat × UnitState)
  subst : BitVec 3
  /-- consecutive tile clocks without a movement [20 bits; 11 R269; reset 0] -/
  still : Nat
  /-- killed, with sent writes still to be performed [1 bit; 12 R289; reset 0] -/
  killed : Bool
  /-- resumed from an architected context, so that no word path is taken [1 bit; 12 R292; reset 0] -/
  plain : Bool
deriving DecidableEq, Repr

/-- The fibre engine's configuration: as applied, as issued, and the run. -/
structure Fibre where
  units : List (Nat × UnitCfg)
  plan : List (Nat × UnitCfg)
  run : Option Run
deriving DecidableEq, Repr

/-! ### Traps, stops and waits (chapters 01, 05) -/

/-- What a blocked strand waits for (R15, R30, R95, R117). -/
inductive WaitFor where
  | reply (q : QReg)
  | replies (q : QReg) (n : Nat)
  | mark (ch : Chan) (vis : Bool) (t : Nat)
  | drained (mask : BitVec 4)
  | barrier (k : Nat)
  | ringFree (r : Fin 8)
  | ringFilled (r : Fin 8)
  | rest
  | allDrained
  | room (e : Eng)
  | portRoom (p : Fin 8) (n : Nat)
  | portEmpty (p : Fin 8)
  | retention (banks : BitVec 4)
  | acks
  | service (id : Nat) (fail : TrapInfo)
  | folio
  /-- a peer's scratchpad; an AMO with its offset and operand bytes -/
  | peer (tile : Nat) (amo : Option (Nat × List Byte))
  | codec
deriving DecidableEq, Repr

/-- Why a strand is stopped: a yield request, its deadline, the quota, a fault held for service, a debug halt whose
deadline has expired (R28, R117, R123). -/
inductive StopWhy where
  | yield
  | deadline
  | quota
  | hold (cause : Nat) (queuePrecise softResume : Bool)
  | halt
  /-- a debug halt of a strand that had stopped for `why` -/
  | haltAt (why : StopWhy)
deriving DecidableEq, Repr

/-- How a strand stood when it was halted for debug (R33). -/
inductive Halted where
  | running
  | blocked (w : WaitFor)
  | resting (w : StopWhy)
  | parked (w : StopWhy)
deriving DecidableEq, Repr

/-- The run state of a tile's strand. -/
inductive RunState where
  /-- no strand runs here -/
  | free
  | running
  | blocked (w : WaitFor)
  /-- stopped at a boundary, its engines coming to rest (R29) -/
  | resting (w : StopWhy)
  /-- stopped with its architected context taken, on a tile its gang keeps (R28) -/
  | parked (w : StopWhy)
  /-- the tile clock is stopped and the tile is being scanned out (R28, R391) -/
  | frozen (w : StopWhy)
  /-- debug halt (R33), with how the strand stood -/
  | halted (was : Halted)
deriving DecidableEq, Repr

/-- A flit that waits in a network interface's receive buffer. Its kind is coded as R397 codes it: 1 window store, 2 window
AMO, 3 copy return, 4 reply entry, 5 acknowledgement. It comes from a gang peer, or through the local router port (R390).
An F4 store carries one nibble of its byte; `elem` names the copy whose element the flit carries. -/
structure Flit where
  kind : Nat
  sender : StrandKey
  port : Bool
  offset : Nat
  bytes : List Byte
  nibble : Option Bool
  elem : Option (Chan × Nat × Nat)
deriving DecidableEq, Repr

/-- A tile's network interface (R390-R392). -/
structure NetIf where
  /-- receive buffer, oldest flit first [1,024 flits; 19 R390; reset empty] -/
  rx : List Flit
  /-- frozen [1 bit; 19 R391; reset 0] -/
  frozen : Bool
  /-- FREEZE-ACKs in: gang indexes, and 64 for the local router port [-; 19 R391; reset none] -/
  acks : List Nat
  /-- CREDIT: by entry, occupancy and frozen credit count [65 entries; 19 R388, R391; reset none] -/
  credit : List (Nat × Nat × Nat)
  /-- gang indexes whose traffic this interface holds [-; 19 R391; reset none] -/
  holding : List Nat
  /-- the local router port holds the traffic to this interface [1 bit; 19 R391; reset 0] -/
  portHeld : Bool
  /-- packets that it holds, by gang index, oldest first [-; 19 R391, R392; reset none] -/
  outbound : List (Nat × Flit)
  /-- the pending list of a debug halt is still landing, and the strand executes nothing before it has [1 bit; 01 R33; reset
  0] -/
  landing : Bool
deriving DecidableEq, Repr

/-- A page-check result: the frame that a text page was mapped to, and whether its bytes match the leaf (R340, R342). -/
structure PageCheck where
  tenant : Nat
  root : List Byte
  page : Word
  place : Place
  addr : Nat
  intact : Bool
deriving DecidableEq, Repr

/-- A folio of the translation cache with its key: tenant, virtual root, binding vector; its page and the VPCs it covers,
its instruction words, and whether its page passed the leaf check (R337, R338, R340). -/
structure Folio where
  tenant : Nat
  root : List Byte
  binding : List (Option Word)
  page : Word
  first : Word
  last : Word
  words : List Word
  intact : Bool
deriving DecidableEq, Repr

/-- A tile: the sequencer, its strand's run state, the memories and the engines. -/
structure Tile where
  /-- the strand that runs or is stopped here [-; 01 R12; reset none] -/
  owner : Option StrandKey
  /-- the strand's run state [-; 01 R28-R33; reset free] -/
  run : RunState
  /-- the sequencer's registers [-; 01 R13; see Seq] -/
  seq : Seq
  /-- scratchpad [2 MiB; 01 R13, 03 R70; reset zero for a new tenant (R23)] -/
  pad : Memory
  /-- accumulator store, element (r, c) at bytes 4(256 r + c) [256 KiB; 01 R13, 03 R72; reset zero for a new tenant] -/
  accum : Memory
  /-- reply queues Q0-Q3 [4 x 16 x 64 bits; 01 R18; reset empty, no reservations] -/
  replies : Vector ReplyQ 4
  /-- load channel tracking, CWLR CWLV [64-bit marks; 01 R17; reset 0] -/
  chLoad : ChanState
  /-- store channel tracking, CWSR CWSV [64-bit marks; 01 R17; reset 0] -/
  chStore : ChanState
  /-- accumulator channel tracking, CWAR CWAV [64-bit marks; 01 R17; reset 0] -/
  chAcc : ChanState
  /-- load channel command queue [32 entries; 01 R13; reset empty] -/
  qLoad : List QCmd
  /-- store channel command queue [32 entries; 01 R13; reset empty] -/
  qStore : List QCmd
  /-- matrix engine command queue [16 entries; 01 R13; reset empty] -/
  qMatrix : List QCmd
  /-- fibre engine command queue [32 entries; 01 R13; reset empty] -/
  qFibre : List QCmd
  /-- commands issued so far to each engine (CMDSEQ) [-; 05 R113; reset 0] -/
  issued : Vector Nat 4
  /-- copies finished and not yet visible [at most 64, CPYA apart; 01 R17; reset empty] -/
  flight : List QCmd
  /-- private descriptor window [64 entries; 03 R78; reset empty] -/
  window : Vector (Option PrivDesc) 64
  /-- rings 0-7 [8; 03 R83, R84; reset unconfigured] -/
  rings : Vector (Option Ring) 8
  /-- stream ports 0-7 with their queues [8; 13 R293, R295; reset unbound and empty] -/
  ports : Vector Port 8
  /-- engine sequence number of each CPYA issued, by transfer identifier [-; 10 R254, 04 R96; reset empty] -/
  accSeq : List (Nat × Nat)
  /-- COLLs issued by mask, or by 2^64 + handle [-; 09 R233; reset empty] -/
  collCounts : List (Nat × Nat)
  /-- ordering knowledge a completed COLL gives at its POPQ, by sequence number [-; 04 R110; reset empty] -/
  collGain : List (Nat × Clock)
  /-- fibre engine [50 units, 32 edges; 11 R256, R257; reset unconfigured] -/
  fibre : Fibre
  /-- the folio being executed [-; 16 R337; reset none] -/
  folio : Option Folio
  /-- the folio being executed has been invalidated [1 bit; 16 R342; reset 0] -/
  folioStale : Bool
  /-- ordering state of the strand [-; 04 R94-R99; reset empty] -/
  ord : OrderState
  /-- BAR has arrived and waits for its instance [-; 07 R171; reset none] -/
  barStage : Option Nat
  /-- the engine command issued by the last instruction to retire, by engine and number [-; 05 R116; reset none] -/
  fresh : Option (Eng × Nat)
  /-- posted yield request: deadline in tile clocks counted from the posting [-; 05 R119; reset none] -/
  yieldReq : Option Nat
  /-- tile clocks since the yield request or the stop for cause [-; 05 R119, 01 R29; reset 0] -/
  sincePost : Nat
  /-- faults raised asynchronously and not yet delivered [-; 05 R117; reset empty] -/
  async : List TrapInfo
  /-- at the stop of the tile clock: network-clock count, and whether a divider change was in progress [64 + 1 bits; 19 R388,
  20 R409; reset none] -/
  atStop : Option (Word × Bool)
  /-- the exhaustion notice has reached this tile [1 bit; 20 R415; reset 0] -/
  notice : Bool
  /-- charges of finished commands not yet reported, in pJ, by strand [-; 20 R415; reset empty] -/
  unreported : List (StrandKey × Nat)
  /-- codec message under way for a load: bytes sent, beats returned [-; 13 R306; reset none] -/
  codec : Option (List Byte × List Beat)
  /-- fault slots: deferred faults found while no boundary remained, by engine [4; 19 R380; reset empty] -/
  pendingReads : List (Nat × Nat)
  /-- network interface [64 KiB receive buffer; 01 R13, 19 R390; reset empty] -/
  net : NetIf
deriving DecidableEq, Repr

/-! ### Tasks and the dispatcher (chapter 17) -/

/-- One wait condition of a task record (R353). -/
structure WaitCond where
  addr : Word
  thresh : Nat
  proceed : Bool
deriving DecidableEq, Repr

/-- A task record (R353). -/
structure TaskRec where
  args : Word
  object : Nat
  entry : Nat
  gw : Nat
  gh : Nat
  gx : Nat
  gy : Nat
  gz : Nat
  prio : Nat
  policy : Nat
  det : Bool
  handover : Bool
  eager : Bool
  irq : Bool
  nregion : Nat
  nbar : Nat
  nwait : Nat
  irqvec : Nat
  tenant : Nat
  completion : Word
  status : Word
  trapBase : Word
  trapSlots : Nat
  deadline : Nat
  quota : Int
  factors : Word
  regions : Nat
  waits : List WaitCond
  resvOk : Bool
deriving DecidableEq, Repr

/-- How a task's completion was published (R356). -/
inductive Published where
  | no | ok | faulted | aborted | cancelled | refused
deriving DecidableEq, Repr

/-- A task whose record has become head (R354-R358). -/
structure Task where
  queue : Nat
  record : Nat
  fn : Nat
  pasid : Nat
  trec : TaskRec
  factors : List (Option Word)
  base : Word
  /-- energy balance in pJ [signed; 20 R414; reset the record's QUOTA] -/
  balance : Int
  ready : Bool
  /-- PRIO, or 4 where it was demoted when the task became head [6 bits; 17 R358, R360] -/
  level : Nat
  /-- microseconds since the task became ready, in full aging intervals [-; 17 R358; reset 0] -/
  age : Nat
  immediate : Bool
  nextGang : Nat
  /-- trap records written (SEQ) [32 bits; 05 R113; reset 0] -/
  traps : Nat
  firstCause : Option (Nat × Nat × Nat × Nat)
  stopping : Bool
  aborted : Bool
  published : Published
  /-- what the SIGINCs that met its waits released, taken at its start [-; 07 R177; reset none] -/
  gain : Clock
  endedPos : List Seen
  endedPc : List (StrandKey × Word)
  /-- a debugger is attached to the task [1 bit; 05 R123, 07 R163; reset 0] -/
  debugger : Bool
  /-- strands that the exhaustion notice sent at the last exhaustion has still to reach [-; 20 R415; reset none] -/
  owed : List StrandKey
deriving DecidableEq, Repr

/-- Where a gang member is (R28): on a tile, saved with its gang, or ended. -/
inductive Member where
  | on (tile : Nat)
  | saved
  | ended
deriving DecidableEq, Repr

/-- A placed or pre-empted gang: its members by gang-relative index, physical regions by gang-relative index, barrier
pending bits, and the ordering knowledge that the arrivals of the present instance, by member, and of the completed ones
release (R11, R38, R171). -/
structure Gang where
  queue : Nat
  record : Nat
  gang : Nat
  members : List Member
  regions : List Nat
  pending : List (List Nat)
  arrived : List (List (Nat × Clock))
  done : List Clock
  tiles : List Nat
  root : Nat
  stopping : Bool
deriving DecidableEq, Repr

/-- What the header of a saved strand's image says. For a vellum image (R388): FLAGS [0] debug halt, [1] a divider change
was in progress. For an architected context (R379): FLAGS [1] HW, [3] OVERFLOW, the VPC being RESUME; the fields that
R379 does not give it are those of the stop. -/
structure ImageHead where
  /-- FLAGS [8 or 16 bits; 19 R379, R388] -/
  flags : Nat
  /-- REV [32 bits; 19 R379, R388] -/
  rev : Nat
  /-- TVER [32 bits; 19 R388] -/
  tver : Nat
  /-- TENANT [16 bits; 19 R388] -/
  tenant : Nat
  /-- GANG [32 bits; 19 R388] -/
  gang : Nat
  /-- TILE [8 bits; 19 R388] -/
  tile : Nat
  /-- NPEND [16 bits; 19 R388] -/
  npend : Nat
  /-- VPC [64 bits; 19 R388] -/
  vpc : Word
  /-- FENTRY [64 bits; 19 R388] -/
  fentry : Word
  /-- CYCLE [64 bits; 19 R388] -/
  cycle : Word
  /-- NCYCLE [64 bits; 19 R388] -/
  ncycle : Word
  /-- ROOT [64 bytes; 19 R388] -/
  root : List Byte
  /-- BIND [64 bytes; 19 R388] -/
  bind : List Byte
  /-- CREDIT: by entry, occupancy and frozen credit count [65 entries; 19 R388] -/
  credit : List (Nat × Nat × Nat)
deriving DecidableEq, Repr

/-- A saved strand: an architected context or a vellum image (R379, R388). The saved tile stands in `State.others` under
the number `home`, 1024 or more, which is no physical tile's. -/
structure Saved where
  key : StrandKey
  vellum : Bool
  tver : Nat
  why : StopWhy
  home : Nat
  head : ImageHead
  /-- the image lies in device memory reserved to the supervisor, the image pool being full [1 bit; 19 R388] -/
  spilled : Bool
deriving DecidableEq, Repr

/-! ### The parts of an architected context whose bytes R380 leaves open -/

/-- What the ENGINES section keeps: the strand's commands by engine, the counters of commands issued, and what is kept of
CPYA and COLL issues. -/
structure EngineSection where
  queues : List (List QCmd)
  issued : List Nat
  accSeq : List (Nat × Nat)
  collCounts : List (Nat × Nat)
  collGain : List (Nat × Clock)
deriving DecidableEq, Repr

/-- The state behind sections 7 to 11 (R380). -/
structure OpenParts where
  window : List (Option PrivDesc)
  rings : List (Option Ring)
  ports : List Port
  engines : EngineSection
  fibre : Fibre
deriving DecidableEq, Repr

/-- States of a queue (R350). -/
inductive QState where
  | disabled | running | draining | drained | aborting | error
deriving DecidableEq, Repr

/-- A hardware queue's register block (R350). -/
structure Queue where
  /-- QBASE [64 bits; 17 R350; reset 0] -/
  qbase : Word
  /-- QLOG2 [5 bits; 17 R350; reset 0] -/
  qlog2 : Nat
  /-- QHOST [1 bit; 17 R350; reset 0] -/
  qhost : Bool
  /-- DEVENQ [1 bit; 17 R350; reset 0] -/
  devenq : Bool
  /-- PASID [20 bits; 17 R350; reset 0] -/
  pasid : Nat
  /-- OWNER [7 bits; 17 R350; reset 0] -/
  owner : Nat
  /-- DTBASE [64 bits; 17 R350; reset 0] -/
  dtbase : Word
  /-- DTSIZE [17 bits; 17 R350; reset 0] -/
  dtsize : Nat
  /-- HEAD [32 bits; 17 R350; reset 0] -/
  head : Nat
  /-- TAIL [32 bits; 17 R350; reset 0] -/
  tail : Nat
  /-- STATE [3 bits; 17 R350; reset 0 DISABLED] -/
  state : QState
  /-- ERRCODE [8 bits; 17 R350; reset 0] -/
  err : Nat
  /-- TAIL accepted by the ABORT under way [-; 17 R362; reset 0] -/
  abortTail : Nat
  /-- a RESET follows the ABORT under way [1 bit; 17 R363; reset 0] -/
  resetting : Bool
deriving DecidableEq, Repr

/-! ### Code objects, keys, translation (chapters 16, 18, 19) -/

/-- A loaded code object (R330-R336). -/
structure Obj where
  handle : Nat
  fn : Nat
  root : List Byte
  eager : Bool
  pretranslate : Bool
  textPages : Nat
  base : Word
  entries : List (Nat × Nat × Nat)
  factors : List (Nat × Bool × Word)
  features : List (Nat × Nat)
  leaves : List (List Byte)
  fentries : List Nat
  images : List (List Byte)
deriving DecidableEq, Repr

/-- A function's translation block (R373) and its TENANT and TCSHARE (R347). -/
structure FnRegs where
  /-- EN [1 bit; 18 R373; reset 0] -/
  en : Bool
  /-- ROOT, a page frame number [44 bits; 18 R373; reset 0] -/
  root : Nat
  /-- ETBASE [64 bits; 18 R373; reset 0] -/
  etbase : Word
  /-- FRING, a page frame number [44 bits; 18 R373; reset 0] -/
  fring : Nat
  /-- FVEC [11 bits; 18 R373; reset 0] -/
  fvec : Nat
  /-- FTAIL [6 bits; 18 R373; reset 0] -/
  ftail : Nat
  /-- FHEAD [6 bits; 18 R373; reset 0] -/
  fhead : Nat
  /-- TENANT [16 bits; 17 R347; reset f] -/
  tenant : Nat
  /-- TCSHARE [16 bits; 17 R347; reset 0] -/
  tcshare : Nat
  /-- mailbox command word [64 bits; 17 R349; reset DESIGN CHOICE 0 (log 3)] -/
  mbCmd : Word
  /-- mailbox operand [64 bits; 17 R349; reset DESIGN CHOICE 0 (log 3)] -/
  mbOperand : Word
  /-- mailbox BUSY [1 bit; 17 R349; reset DESIGN CHOICE 0 (log 3)] -/
  mbBusy : Bool
  /-- mailbox status code [8 bits; 17 R349; reset DESIGN CHOICE 0 (log 3)] -/
  mbStatus : Nat
  /-- mailbox detail word [32 bits; 17 R349; reset DESIGN CHOICE 0 (log 3)] -/
  mbDetail : Nat
  /-- mailbox result [64 bits; 17 R349; reset DESIGN CHOICE 0 (log 3)] -/
  mbResult : Word
  /-- free frames of the copy-on-write pool: address and size code [-; 18 R375; reset empty] -/
  pool : List (Nat × Nat)
  /-- transport key of the last ATTEST [256 bits; 22 R430; reset none] -/
  transport : Option (List Byte)
  /-- key slots: key, CTXID [64; 19 R385; reset empty] -/
  keys : List (Nat × List Byte × Nat)
  /-- save counters of the key slots [64 x 64 bits; 19 R385; reset 0] -/
  counters : List (Nat × Nat)
deriving DecidableEq, Repr

/-- A cached translation (R376). -/
structure TlbEntry where
  fn : Nat
  vbase : Nat
  size : Nat
  entry : Nat
  eaddr : Nat
deriving DecidableEq, Repr

/-- A service request (R374). -/
structure Request where
  id : Nat
  fn : Nat
  kind : Nat
  va : Nat
  size : Nat
  recorded : Bool
  answered : Option Bool
  newAddr : Nat
deriving DecidableEq, Repr

/-- One translation of the host's agent: function, PASID (none for the function's own DMA), I/O page, host page. -/
structure AtsEntry where
  fn : Nat
  pasid : Option Nat
  page : Nat
  target : Nat
deriving DecidableEq, Repr

/-- A group made by GROUP: members as (package, gang, tile) in rank order (R349, R439). -/
structure Group where
  handle : Nat
  fn : Nat
  members : List (Nat × Nat × Nat)
deriving DecidableEq, Repr

/-- A reduction AMO in the routers (R111): operation code, width, kind of place, operand, and the strands whose AMOs
it carries with the releases of each one's earlier FENCEs. -/
structure RouterAmo where
  opcode : Nat
  ty : Fmt
  fn : Nat
  va : Word
  place : Place
  addr : Nat
  operand : Nat
  parts : List (StrandKey × List Release)
  noMerge : Bool
deriving DecidableEq, Repr

/-! ### Regions, clocks, links, boot (chapters 20, 22, 23) -/

/-- States of a physical region (R400). -/
inductive RegState where
  | free | loading | idle | held | bound | stopped | standby
deriving DecidableEq, Repr

/-- One port of an operator manifest (R302). -/
structure ManPort where
  role : Nat
  ifmt : Nat
  ofmt : Nat
  ibits : Nat
  obits : Nat
  rin : Nat
  rout : Nat
  depth : Nat
deriving DecidableEq, Repr

/-- An operator manifest (R302). -/
structure Manifest where
  clkMin : Nat
  clkMax : Nat
  sites : Nat
  codecs : Nat
  ports : List ManPort
  states : List (Nat × Nat × Nat)
deriving DecidableEq, Repr

/-- Who sends a message to an operator port: a copy, by tile, channel and identifier, or the codec load of a tile's strand
(R306). -/
inductive PortUser where
  | copy (tile : Nat) (ch : Chan) (id : Nat)
  | load (tile : Nat)
deriving DecidableEq, Repr

/-- A message of a copy or a load at a region port, with the beats of it that the port has not accepted yet (R306). -/
structure PortMsg where
  port : Nat
  user : PortUser
  out : List Beat
deriving DecidableEq, Repr

/-- A physical region: its registers, image, binding, edge buffers by port, and message counts by port. -/
structure Region where
  /-- state [-; 20 R400; reset FREE] -/
  state : RegState
  /-- SLOTDLY [8 bits; 20 R410; reset 0] -/
  slotDly : Nat
  /-- DLYMAX [8 bits; 20 R410; reset 64] -/
  dlyMax : Nat
  /-- TEMP [8 bits; 20 R410; reset 0] -/
  temp : Nat
  /-- region clock divider [12 bits; 20 R408; reset DESIGN CHOICE 5 (log 3)] -/
  divider : Nat
  /-- divider accepted and not yet in force [-; 20 R409; reset none] -/
  newDivider : Option Nat
  /-- owning function, object handle, image index [-; 20 R400; reset none] -/
  image : Option (Nat × Nat × Nat)
  /-- manifest of the loaded image [-; 13 R302; reset none] -/
  manifest : Option Manifest
  /-- bound gang (queue, record, gang) and gang-relative index [-; 20 R400; reset none] -/
  boundTo : Option (Nat × Nat × Nat × Nat)
  /-- reserved by IMGHOLD [1 bit; 20 R402; reset 0] -/
  hold : Bool
  /-- beats held in the edge buffers toward the operator, by port [-; 13 R302, 19 R394; reset empty] -/
  edges : List (List Beat)
  /-- per port: input units of the messages whose output has not ended, oldest first, and output units sent [-; 13 R303;
  reset 0] -/
  counts : List (List Nat × Nat)
  /-- every port stands at a message boundary, by port [-; 20 R405; reset yes] -/
  atBoundary : List Bool
  /-- saved state elements by name [-; 19 R394; reset none] -/
  elements : List (Nat × Nat)
  /-- region that a swap moves to [-; 20 R405; reset none] -/
  swapTo : Option Nat
  /-- messages of copies and loads at its ports, in the order in which they reached them [-; 13 R306; reset none] -/
  serving : List PortMsg
deriving DecidableEq, Repr

/-- A Ligature link's block (R437). -/
structure Link where
  /-- STATE [2 bits; 23 R437; reset 0] -/
  state : Nat
  /-- PEER [12 bits; 23 R437; reset 0] -/
  peer : Nat
  /-- PEERLINK [4 bits; 23 R437; reset 0] -/
  peerLink : Nat
  /-- REPLAYS [64 bits; 23 R437; reset 0] -/
  replays : Word
  /-- CRCERR [64 bits; 23 R437; reset 0] -/
  crcErr : Word
  /-- DOWNS [32 bits; 23 R437; reset 0] -/
  downs : Nat
  /-- ENABLE [1 bit; 23 R437; reset 1] -/
  enable : Bool
  /-- replays of the flit under way [-; 23 R437; reset 0] -/
  tries : Nat
  /-- the link retrains once before it fails [1 bit; 23 R437; reset 0] -/
  retraining : Bool
deriving DecidableEq, Repr

/-- A compute chiplet's clock block (R407). -/
structure ClockRegs where
  /-- TDIVREQ [7 bits; 20 R407; reset 4] -/
  req : Nat
  /-- FORCED [1 bit; 20 R407; reset 0] -/
  forced : Bool
  /-- the divider still in force while an accepted change is not [-; 20 R409; reset none] -/
  pending : Option Nat
deriving DecidableEq, Repr

/-- A tile's telemetry block (R413) and what stays with the physical tile. -/
structure Telemetry where
  /-- RESREP [64 bits; 20 R413; reset 0] -/
  resRep : Word
  /-- DROOPREP [64 bits; 20 R413; reset 0] -/
  droopRep : Word
  /-- STRETCH [64 bits; 20 R413; reset 0] -/
  stretch : Word
  /-- ECCCOR [64 bits; 20 R413; reset 0] -/
  eccCor : Word
  /-- ECCUNC [64 bits; 20 R413; reset 0] -/
  eccUnc : Word
  /-- PARITY [64 bits; 20 R413; reset 0] -/
  parity : Word
  /-- ENERGY, pJ modulo 2^64 [64 bits; 20 R413; reset 0] -/
  energy : Word
  /-- TDIV [7 bits; 20 R413; reset 4] -/
  tdiv : Nat
  /-- function of the last task on the tile [-; 01 R23; reset none] -/
  lastFn : Option Nat
  /-- last strand on the tile [-; 01 R23, 17 R355; reset none] -/
  lastKey : Option StrandKey
  /-- stretched clocks left of a droop [6 bits; 20 R411; reset 0] -/
  stretchLeft : Nat
  /-- a throttle's divider accepted and not yet in force [-; 20 R409; reset none] -/
  newTdiv : Option Nat
deriving DecidableEq, Repr

/-- Boot modes (R426). -/
inductive Mode where
  | booting | normal | minimal
deriving DecidableEq, Repr

/-- The device outside its tiles. -/
structure Dev where
  /-- device memory (HBM) by physical address [768 GiB; 00 R2; reset DESIGN CHOICE zero (log 1)] -/
  mem : Memory
  /-- host memory by host address, an environment [-; 17 R345; reset DESIGN CHOICE zero (log 1)] -/
  host : Memory
  /-- the host's translation agent, an environment [-; 17 R345; reset DESIGN CHOICE empty (log 2)] -/
  ats : List AtsEntry
  /-- device memory lines poisoned by uncorrectable errors [-; 20 R412; reset none] -/
  poison : List Nat
  /-- device network-clock count [64 bits; 05 R113; reset DESIGN CHOICE 0 (log 3)] -/
  ncycle : Word
  /-- AGEINT [32 bits; 17 R347; reset 1000] -/
  ageInt : Nat
  /-- IMMPOOL [16 bits; 17 R347; reset 256] -/
  immPool : Nat
  /-- IMMDL [32 bits; 17 R347; reset 16384] -/
  immDl : Nat
  /-- STAGE [2 bits; 22 R426; reset 0] -/
  stage : Nat
  /-- MODE [2 bits; 22 R426; reset 0] -/
  mode : Mode
  /-- REASON [8 bits; 22 R426; reset 0] -/
  reason : Nat
  /-- FAILS field: FAILS at ROM entry [2 bits; 22 R426; reset 0] -/
  failsAtEntry : Nat
  /-- FAILS, the failed-start counter of the persistent store [2 bits; 22 R424; reset DESIGN CHOICE 0 (log 3)] -/
  fails : Nat
  /-- DETAIL [32 bits; 22 R426; reset 0] -/
  detail : Nat
  /-- this start has failed, and the device waits to be reset [1 bit; 22 R424; reset 0] -/
  startFailed : Bool
  /-- M, the frozen measurement [512 bits; 22 R423, R426; reset 0] -/
  measure : List Byte
  /-- firmware version register [64 bits; 22 R426; reset DESIGN CHOICE 0 until booted (log 3)] -/
  fwVersion : Word
  /-- firmware image staged by FWSTAGE [-; 22 R428; reset none] -/
  staged : Option (List Byte)
  /-- firmware image in the firmware store that boots, none where it is the factory's [-; 22 R423, R428; reset DESIGN CHOICE
  none (log 13)] -/
  store : Option (List Byte)
  /-- number of the firmware in the firmware store that boots, as the model counts firmware images [model field; 22 R428;
  reset DESIGN CHOICE 0 (log 13)] -/
  fwGen : Nat
  /-- ATTESTs so far, each with an ephemeral key pair of its own [model field; 22 R429; reset DESIGN CHOICE 0 (log 15)] -/
  attests : Nat
  /-- PKG [12 bits; 23 R436; reset 0] -/
  pkg : Nat
  /-- functions 0 to 64 that have been written, others at reset values [65 blocks; 17 R345; see FnRegs] -/
  fns : List (Nat × FnRegs)
  /-- hardware queues that have been written, others at reset values [4096 blocks; 17 R350; see Queue] -/
  queues : List (Nat × Queue)
  /-- tasks that have become head [-; 17 R358; reset empty] -/
  tasks : List Task
  /-- gangs placed or pre-empted [-; 01 R11; reset empty] -/
  gangs : List Gang
  /-- saved strands: architected contexts and vellum images [-; 19 R379, R388; reset empty] -/
  saved : List Saved
  /-- queue last served at each effective level [64 entries; 17 R358; reset DESIGN CHOICE 0 (log 3)] -/
  lastServed : List (Nat × Nat)
  /-- tasks whose gang waits for room and keeps its turn, by queue and record [-; 17 R358; reset empty] -/
  stuck : List (Nat × Nat)
  /-- loaded code objects [-; 16 R336; reset empty] -/
  objs : List Obj
  /-- next object or group handle [32 bits; 17 R349; reset DESIGN CHOICE 1 (log 3)] -/
  nextHandle : Nat
  /-- folios of the translation cache [128 MiB; 16 R338; reset empty] -/
  folios : List Folio
  /-- recorded page-check results [-; 16 R340, R342; reset none] -/
  pages : List PageCheck
  /-- what the open sections of the contexts saved so far stand for, newest first [model field; log 12; reset none] -/
  contexts : List (List Byte × OpenParts)
  /-- quarantined roots by function [-; 16 R341; reset empty] -/
  quarantine : List (Nat × List Byte)
  /-- collective groups [-; 17 R349; reset empty] -/
  groups : List Group
  /-- cached translations [-; 18 R376; reset empty] -/
  tlb : List TlbEntry
  /-- service requests pending [-; 18 R374; reset empty] -/
  requests : List Request
  /-- next request identifier [16 bits; 18 R374; reset DESIGN CHOICE 0 (log 3)] -/
  nextReq : Nat
  /-- MSI-X messages signalled: function and vector, newest first [-; 17 R345; reset empty] -/
  irqs : List (Nat × Nat)
  /-- physical regions that differ from reset [256; 20 R400; see Region] -/
  regions : List (Nat × Region)
  /-- compute chiplet clock blocks that differ from reset [8; 20 R407; see ClockRegs] -/
  clocks : List (Nat × ClockRegs)
  /-- Ligature links that differ from reset [16; 23 R437; see Link] -/
  links : List (Nat × Link)
  /-- tile telemetry that differs from reset [1024; 20 R413; see Telemetry] -/
  telemetry : List (Nat × Telemetry)
  /-- accesses kept for the conflict check [-; 04 R105; reset empty] -/
  marks : List Mark
  /-- constant-loaded granules of running tasks [-; 03 R76; reset empty] -/
  consts : List ConstMark
  /-- releases carried by locations [-; 04 R99; reset empty] -/
  syncs : List SyncLoc
  /-- what every published completion has released [-; 04 R97; reset empty] -/
  published : Clock
  /-- reduction AMOs in the routers [-; 04 R111; reset empty] -/
  router : List RouterAmo
  /-- collectives in which a participant has been lost: queue, record, gang, mask or handle, scope code, index
  [-; 09 R235; reset empty] -/
  lost : List (Nat × Nat × Nat × Nat × Nat × Nat)
  /-- elapsed time of the aging interval, advanced by AGING_INTERVAL [-; 17 R358; reset 0] -/
  ageTicks : Nat
deriving DecidableEq, Repr

/-! ### The machine -/

/-- Whose turn a step is: the strand of a physical tile, or one device step or event. -/
inductive Turn where
  | strand (tile : Nat)
  | event (i : Instr)
deriving DecidableEq, Repr

/-- Where the machine stops. No meaning of this model raises a fault: everything a strand can meet is a trap of
chapter 05, which is a next state. Kept for a word that no step can reach. -/
inductive Fault where
  /-- never raised by this model (safe: a run that stopped here would prove nothing more) -/
  | stuck
deriving DecidableEq, Repr

/-- Why a step has no meaning. -/
inductive Refusal where
  /-- the instruction's arm has no meaning yet; raised by Dispatch.lean only (safe) -/
  | notModelled (mnemonic : String)
  /-- an agenda entry that is no device event (an SVI instruction put on the agenda); raised by Step.lean (safe) -/
  | notAnEvent
deriving DecidableEq, Repr

/-- The whole machine. -/
structure State where
  /-- the tile in focus -/
  tile : Tile
  /-- its physical number -/
  tileNo : Nat
  /-- the other tiles that differ from a blank tile -/
  others : List (Nat × Tile)
  /-- the device outside the tiles -/
  dev : Dev
  /-- the model's own schedule: whose turns come next [model field; log 4; reset DESIGN CHOICE empty] -/
  agenda : List Turn
  /-- the model's own counter of free values drawn [model field; log 5; reset DESIGN CHOICE 0] -/
  draws : Nat
deriving DecidableEq, Repr

/-! ### Reset values -/

/-- The power-on addition table TADD (R64), entries 0 to 63. -/
def tadd0 : List Int :=
  [1020, 1012, 1004, 996, 988, 981, 973, 965, 958, 950, 942, 935, 927, 920, 913, 905,
   898, 891, 883, 876, 869, 862, 855, 848, 841, 834, 827, 820, 814, 807, 800, 793,
   787, 780, 774, 767, 761, 754, 748, 742, 735, 729, 723, 717, 710, 704, 698, 692,
   686, 680, 675, 669, 663, 657, 651, 646, 640, 634, 629, 623, 618, 612, 607, 602]

/-- The power-on addition table TADD (R64), entries 64 to 127. -/
def tadd1 : List Int :=
  [596, 591, 586, 581, 575, 570, 565, 560, 555, 550, 545, 540, 535, 530, 526, 521,
   516, 511, 507, 502, 498, 493, 488, 484, 480, 475, 471, 466, 462, 458, 454, 449,
   445, 441, 437, 433, 429, 425, 421, 417, 413, 409, 405, 401, 398, 394, 390, 386,
   383, 379, 375, 372, 368, 365, 361, 358, 354, 351, 348, 344, 341, 338, 334, 331]

/-- The power-on addition table TADD (R64), entries 128 to 191. -/
def tadd2 : List Int :=
  [328, 325, 322, 319, 316, 312, 309, 306, 303, 300, 298, 295, 292, 289, 286, 283,
   280, 278, 275, 272, 270, 267, 264, 262, 259, 257, 254, 252, 249, 247, 244, 242,
   239, 237, 235, 232, 230, 228, 225, 223, 221, 219, 216, 214, 212, 210, 208, 206,
   204, 202, 200, 198, 196, 194, 192, 190, 188, 186, 184, 182, 180, 179, 177, 175]

/-- The power-on addition table TADD (R64), entries 192 to 255. -/
def tadd3 : List Int :=
  [173, 171, 170, 168, 166, 164, 163, 161, 159, 158, 156, 155, 153, 152, 150, 148,
   147, 145, 144, 142, 141, 140, 138, 137, 135, 134, 132, 131, 130, 128, 127, 126,
   124, 123, 122, 121, 119, 118, 117, 116, 115, 113, 112, 111, 110, 109, 108, 106,
   105, 104, 103, 102, 101, 100, 99, 98, 97, 96, 95, 94, 93, 92, 91, 0]

/-- The power-on addition table TADD (R64). -/
def taddPowerOn : List Int := tadd0 ++ tadd1 ++ tadd2 ++ tadd3

/-- The power-on subtraction table TSUB (R64), entries 0 to 63. -/
def tsub0 : List Int :=
  [-7713, -6098, -5352, -4863, -4499, -4211, -3972, -3768, -3591, -3435, -3295, -3168, -3053, -2947, -2849, -2759,
   -2674, -2595, -2521, -2450, -2384, -2322, -2262, -2206, -2152, -2100, -2051, -2004, -1959, -1915, -1874, -1834,
   -1795, -1758, -1722, -1687, -1653, -1621, -1590, -1559, -1530, -1501, -1473, -1446, -1420, -1395, -1370, -1346,
   -1322, -1299, -1277, -1255, -1234, -1214, -1193, -1174, -1155, -1136, -1118, -1100, -1082, -1065, -1048, -1032]

/-- The power-on subtraction table TSUB (R64), entries 64 to 127. -/
def tsub1 : List Int :=
  [-1016, -1000, -985, -970, -955, -941, -927, -913, -899, -886, -873, -860, -848, -836, -824, -812,
   -800, -789, -778, -767, -756, -745, -735, -725, -715, -705, -695, -685, -676, -667, -658, -649,
   -640, -632, -623, -615, -607, -599, -591, -583, -575, -568, -560, -553, -546, -538, -532, -525,
   -518, -511, -505, -498, -492, -486, -479, -473, -467, -461, -456, -450, -444, -439, -433, -428]

/-- The power-on subtraction table TSUB (R64), entries 128 to 191. -/
def tsub2 : List Int :=
  [-422, -417, -412, -407, -402, -397, -392, -387, -382, -378, -373, -368, -364, -359, -355, -351,
   -347, -342, -338, -334, -330, -326, -322, -318, -314, -311, -307, -303, -300, -296, -293, -289,
   -286, -282, -279, -276, -272, -269, -266, -263, -260, -257, -254, -251, -248, -245, -242, -239,
   -236, -234, -231, -228, -226, -223, -220, -218, -215, -213, -210, -208, -205, -203, -201, -198]

/-- The power-on subtraction table TSUB (R64), entries 192 to 255. -/
def tsub3 : List Int :=
  [-196, -194, -192, -189, -187, -185, -183, -181, -179, -177, -175, -173, -171, -169, -167, -165,
   -163, -161, -159, -158, -156, -154, -152, -151, -149, -147, -146, -144, -142, -141, -139, -137,
   -136, -134, -133, -131, -130, -128, -127, -126, -124, -123, -121, -120, -119, -117, -116, -115,
   -113, -112, -111, -110, -108, -107, -106, -105, -104, -103, -101, -100, -99, -98, -97, 0]

/-- The power-on subtraction table TSUB (R64). -/
def tsubPowerOn : List Int := tsub0 ++ tsub1 ++ tsub2 ++ tsub3

/-- The power-on contents of the correction-table memory (R64): TADD then TSUB. -/
def tablesPowerOn : List (BitVec 16) := (taddPowerOn ++ tsubPowerOn).map (BitVec.ofInt 16)

/-- A blank channel tracking (R17, R22). -/
def ChanState.blank : ChanState := ⟨0, 0, 0, [], []⟩

/-- No ordering knowledge. -/
def Clock.none : Clock := ⟨[], []⟩

/-- The registers at reset: as at strand start (R22), and zero where the spec gives no value (log 3). -/
def Seq.blank : Seq where
  s := Vector.replicate 64 0
  v := Vector.replicate 64 0
  p := (Vector.replicate 16 0).set 0 (BitVec.allOnes 256)
  vpc := 0
  vl := 0
  round := 0
  ufthr := 0
  subst := 0
  ufcount := 0
  vbank := 0
  cycle := 0
  collSeq := 0
  fgoSeq := 0
  tables := tablesPowerOn
  live := []
  liveOverflow := false

/-- A tile as reset leaves it: no strand, every queue empty (R22, R23). -/
def Tile.blank : Tile where
  owner := none
  run := .free
  seq := Seq.blank
  pad := []
  accum := []
  replies := Vector.replicate 4 ⟨[], 0⟩
  chLoad := ChanState.blank
  chStore := ChanState.blank
  chAcc := ChanState.blank
  qLoad := []
  qStore := []
  qMatrix := []
  qFibre := []
  issued := Vector.replicate 4 0
  flight := []
  window := Vector.replicate 64 none
  rings := Vector.replicate 8 none
  ports := Vector.replicate 8 ⟨none, [], [], []⟩
  accSeq := []
  collCounts := []
  collGain := []
  fibre := ⟨[], [], none⟩
  folio := none
  folioStale := false
  ord := ⟨0, Clock.none, [], []⟩
  barStage := none
  fresh := none
  yieldReq := none
  sincePost := 0
  async := []
  atStop := none
  notice := false
  unreported := []
  codec := none
  pendingReads := []
  net := ⟨[], false, [], [], [], false, [], false⟩

/-- A queue's registers at reset (R350). -/
def Queue.blank : Queue := ⟨0, 0, false, false, 0, 0, 0, 0, 0, 0, .disabled, 0, 0, false⟩

/-- Function `f`'s registers at reset (R347, R373, R385). -/
def FnRegs.blank (f : Nat) : FnRegs where
  en := false
  root := 0
  etbase := 0
  fring := 0
  fvec := 0
  ftail := 0
  fhead := 0
  tenant := f
  tcshare := 0
  mbCmd := 0
  mbOperand := 0
  mbBusy := false
  mbStatus := 0
  mbDetail := 0
  mbResult := 0
  pool := []
  transport := none
  keys := []
  counters := []

/-- A physical region at reset (R400, R410). -/
def Region.blank : Region where
  state := .free
  slotDly := 0
  dlyMax := 64
  temp := 0
  divider := 5
  newDivider := none
  image := none
  manifest := none
  boundTo := none
  hold := false
  edges := []
  counts := []
  atBoundary := []
  elements := []
  swapTo := none
  serving := []

/-- A Ligature link at reset (R437). -/
def Link.blank : Link := ⟨0, 0, 0, 0, 0, 0, true, 0, false⟩

/-- A chiplet clock block at reset (R407). -/
def ClockRegs.blank : ClockRegs := ⟨4, false, none⟩

/-- A tile's telemetry at reset (R413). -/
def Telemetry.blank : Telemetry := ⟨0, 0, 0, 0, 0, 0, 0, 4, none, none, 0, none⟩

/-- The device at the release of reset, before the ROM has entered stage 0 (R347, R350, R373, R426). -/
def Dev.blank : Dev where
  mem := []
  host := []
  ats := []
  poison := []
  ncycle := 0
  ageInt := 1000
  immPool := 256
  immDl := 16384
  stage := 0
  mode := .booting
  reason := 0
  failsAtEntry := 0
  fails := 0
  detail := 0
  startFailed := false
  measure := List.replicate 64 0
  fwVersion := 0
  staged := none
  store := none
  fwGen := 0
  attests := 0
  pkg := 0
  fns := []
  queues := []
  tasks := []
  gangs := []
  saved := []
  lastServed := []
  stuck := []
  objs := []
  nextHandle := 1
  folios := []
  pages := []
  contexts := []
  quarantine := []
  groups := []
  tlb := []
  requests := []
  nextReq := 0
  irqs := []
  regions := []
  clocks := []
  links := []
  telemetry := []
  marks := []
  consts := []
  syncs := []
  published := Clock.none
  router := []
  lost := []
  ageTicks := 0

/-- The machine right after reset: no tile runs a strand, every register at the value its rule states (R22, R347, R350,
R373, R407, R410, R413, R426, R437), memories empty. Values the spec does not state are those of logs 1 to 5. -/
def State.reset : State where
  tile := Tile.blank
  tileNo := 0
  others := []
  dev := Dev.blank
  agenda := []
  draws := 0

end Sys2Proof.Machine
end

