-- ==== Sys2Proof/Machine/Base.lean ====
section
/-!
DEFINITION. The plainest operations on the state: keyed lists, sparse memories in canonical form, tiles and the device,
free values, and the ways a meaning can stop short of its effect.
-/

namespace Sys2Proof.Machine

open Sys2Proof

/-! ### Keyed lists -/

/-- The value kept under key `k`, or the default. -/
def look {α : Type} (d : α) : List (Nat × α) → Nat → α
  | [], _ => d
  | (j, x) :: l, k => if j = k then x else look d l k

/-- Keep `x` under key `k`. -/
def keep {α : Type} : List (Nat × α) → Nat → α → List (Nat × α)
  | [], k, x => [(k, x)]
  | (j, y) :: l, k, x => if j = k then (j, x) :: l else (j, y) :: keep l k x

/-- The value kept under key `k`, if any. -/
def find? {α : Type} : List (Nat × α) → Nat → Option α
  | [], _ => none
  | (j, x) :: l, k => if j = k then some x else find? l k

/-- Forget key `k`. -/
def drop? {α : Type} (l : List (Nat × α)) (k : Nat) : List (Nat × α) := l.filter fun e => e.1 != k

/-- The first element that satisfies `p`, changed by `f`. -/
def mapFirst {α : Type} (p : α → Bool) (f : α → α) : List α → List α
  | [] => []
  | x :: l => if p x then f x :: l else x :: mapFirst p f l

/-! ### Memory -/

/-- The byte at an address; an unlisted address reads as zero (log 1). -/
def Memory.read : Memory → Nat → Byte
  | [], _ => 0
  | (b, x) :: m, a => if b = a then x else Memory.read m a

/-- Write one byte, keeping the canonical form: zero is never listed. -/
def Memory.write : Memory → Nat → Byte → Memory
  | [], a, v => if v = 0 then [] else [(a, v)]
  | (b, x) :: m, a, v =>
    if a < b then (if v = 0 then (b, x) :: m else (a, v) :: (b, x) :: m)
    else if a = b then (if v = 0 then m else (a, v) :: m)
    else (b, x) :: Memory.write m a v

/-- Addresses from `a` on, strictly rising, no zero byte. -/
def Memory.wfFrom : Nat → Memory → Bool
  | _, [] => true
  | a, (b, x) :: m => decide (a ≤ b) && x != 0 && Memory.wfFrom (b + 1) m

/-- The canonical form of a memory. -/
def Memory.wf (m : Memory) : Bool := Memory.wfFrom 0 m

/-- The `n` bytes from address `a`. -/
def Memory.readBytes (m : Memory) (a : Nat) : Nat → List Byte
  | 0 => []
  | n + 1 => m.read a :: Memory.readBytes m (a + 1) n

/-- Write bytes from address `a` on. -/
def Memory.writeBytes (m : Memory) (a : Nat) : List Byte → Memory
  | [] => m
  | b :: bs => Memory.writeBytes (m.write a b) (a + 1) bs

/-- The little-endian number in `n` bytes from address `a` (R3). -/
def Memory.readNat (m : Memory) (a n : Nat) : Nat := leNat (m.readBytes a n)

/-- Write `x` into `n` bytes from address `a`, little-endian (R3). -/
def Memory.writeNat (m : Memory) (a n x : Nat) : Memory := m.writeBytes a (leBytes n x)

/-! ### Tiles and the device -/

/-- Tile `n`, wherever it stands. -/
def tileAt (s : State) (n : Nat) : Tile := if n = s.tileNo then s.tile else look Tile.blank s.others n

/-- Put tile `n`. -/
def setTile (s : State) (n : Nat) (t : Tile) : State :=
  if n = s.tileNo then { s with tile := t } else { s with others := keep s.others n t }

/-- Change tile `n`. -/
def onTile (n : Nat) (f : Tile → Tile) (s : State) : State := setTile s n (f (tileAt s n))

/-- Change the tile in focus. -/
def onFocus (f : Tile → Tile) (s : State) : State := { s with tile := f s.tile }

/-- Change the device. -/
def onDev (f : Dev → Dev) (s : State) : State := { s with dev := f s.dev }

/-- Change the sequencer of a tile. -/
def Tile.onSeq (f : Seq → Seq) (t : Tile) : Tile := { t with seq := f t.seq }

/-- Bring tile `n` into focus. -/
def focusOn (n : Nat) (s : State) : State :=
  if n = s.tileNo then s
  else { s with tile := look Tile.blank s.others n, tileNo := n, others := keep (drop? s.others n) s.tileNo s.tile }

/-- The free value of an open choice made in this step (log 5); `site` tells the step's choices apart. -/
def freeAt (s : State) (site : Nat) : Nat := Config.free s.draws site

/-- The memory of a place. -/
def placeMem (s : State) : Place → Memory
  | .dev => s.dev.mem
  | .host => s.dev.host
  | .pad n => (tileAt s n).pad

/-- Put the memory of a place. -/
def setPlaceMem (s : State) (p : Place) (m : Memory) : State :=
  match p with
  | .dev => onDev (fun d => { d with mem := m }) s
  | .host => onDev (fun d => { d with host := m }) s
  | .pad n => onTile n (fun t => { t with pad := m }) s

/-- Function `f`'s registers. -/
def fnRegs (s : State) (f : Nat) : FnRegs := look (FnRegs.blank f) s.dev.fns f

/-- Change function `f`'s registers. -/
def onFn (f : Nat) (g : FnRegs → FnRegs) (s : State) : State :=
  onDev (fun d => { d with fns := keep d.fns f (g (look (FnRegs.blank f) d.fns f)) }) s

/-- Queue `q`'s registers. -/
def queueAt (s : State) (q : Nat) : Queue := look Queue.blank s.dev.queues q

/-- Change queue `q`'s registers. -/
def onQueue (q : Nat) (g : Queue → Queue) (s : State) : State :=
  onDev (fun d => { d with queues := keep d.queues q (g (look Queue.blank d.queues q)) }) s

/-- Physical region `r`. -/
def regionAt (s : State) (r : Nat) : Region := look Region.blank s.dev.regions r

/-- Change physical region `r`. -/
def onRegion (r : Nat) (g : Region → Region) (s : State) : State :=
  onDev (fun d => { d with regions := keep d.regions r (g (look Region.blank d.regions r)) }) s

/-- Telemetry of tile `n`. -/
def telemetryAt (s : State) (n : Nat) : Telemetry := look Telemetry.blank s.dev.telemetry n

/-- Change the telemetry of tile `n`. -/
def onTelemetry (n : Nat) (g : Telemetry → Telemetry) (s : State) : State :=
  onDev (fun d => { d with telemetry := keep d.telemetry n (g (look Telemetry.blank d.telemetry n)) }) s

/-- The clock block of a compute chiplet. -/
def clockAt (s : State) (c : Nat) : ClockRegs := look ClockRegs.blank s.dev.clocks c

/-- Change the clock block of a compute chiplet. -/
def onClock (c : Nat) (g : ClockRegs → ClockRegs) (s : State) : State :=
  onDev (fun d => { d with clocks := keep d.clocks c (g (look ClockRegs.blank d.clocks c)) }) s

/-- Signal MSI-X vector `vec` of function `fn` (R345). -/
def signal (fn vec : Nat) (s : State) : State := onDev (fun d => { d with irqs := (fn, vec) :: d.irqs }) s

/-! ### Tasks and gangs -/

/-- The record that stands for a task the model cannot find (it is never used in a run from dispatch). -/
def TaskRec.blank : TaskRec where
  args := 0
  object := 0
  entry := 0
  gw := 1
  gh := 1
  gx := 1
  gy := 1
  gz := 1
  prio := 0
  policy := 0
  det := false
  handover := false
  eager := false
  irq := false
  nregion := 0
  nbar := 0
  nwait := 0
  irqvec := 0
  tenant := 0
  completion := 0
  status := 0
  trapBase := 0
  trapSlots := 1
  deadline := 0
  quota := 1
  factors := 0
  regions := 0
  waits := []
  resvOk := true

/-- A task that has just become head, of queue `q`, record `r`. -/
def Task.start (q r fn pasid : Nat) (rec : TaskRec) : Task where
  queue := q
  record := r
  fn := fn
  pasid := pasid
  trec := rec
  factors := []
  base := 0
  balance := rec.quota * 1000
  ready := false
  level := rec.prio
  age := 0
  immediate := false
  nextGang := 0
  traps := 0
  firstCause := none
  stopping := false
  aborted := false
  published := .no
  gain := Clock.none
  endedPos := []
  endedPc := []
  debugger := false
  owed := []

/-- Whether a task is record `r` of queue `q`. -/
def Task.is (q r : Nat) (t : Task) : Bool := t.queue == q && t.record == r

/-- Record `r` of queue `q`. -/
def taskAt (s : State) (q r : Nat) : Task :=
  (s.dev.tasks.find? (Task.is q r)).getD (Task.start q r 0 0 TaskRec.blank)

/-- Change record `r` of queue `q`. -/
def onTask (q r : Nat) (f : Task → Task) (s : State) : State :=
  onDev (fun d => { d with tasks := mapFirst (Task.is q r) f d.tasks }) s

/-- Whether a gang is gang `g` of record `r` of queue `q`. -/
def Gang.is (q r g : Nat) (x : Gang) : Bool := x.queue == q && x.record == r && x.gang == g

/-- The gang that stands for one the model cannot find. -/
def Gang.blank (q r g : Nat) : Gang := ⟨q, r, g, [], [], [], [], [], [], 0, false⟩

/-- Gang `g` of record `r` of queue `q`. -/
def gangAt (s : State) (q r g : Nat) : Gang := (s.dev.gangs.find? (Gang.is q r g)).getD (Gang.blank q r g)

/-- Change gang `g` of record `r` of queue `q`. -/
def onGang (q r g : Nat) (f : Gang → Gang) (s : State) : State :=
  onDev (fun d => { d with gangs := mapFirst (Gang.is q r g) f d.gangs }) s

/-- The name used for a strand no task owns. -/
def StrandKey.none : StrandKey := ⟨0, 0, 0, 0⟩

/-- The strand on tile `n`. -/
def keyOn (s : State) (n : Nat) : StrandKey := (tileAt s n).owner.getD StrandKey.none

/-- The task of a strand. -/
def taskOf (s : State) (k : StrandKey) : Task := taskAt s k.queue k.record

/-- The gang of a strand. -/
def gangOf (s : State) (k : StrandKey) : Gang := gangAt s k.queue k.record k.gang

/-- Members of a gang: GW x GH (R11). -/
def gangSize (s : State) (k : StrandKey) : Nat := (taskOf s k).trec.gw * (taskOf s k).trec.gh

/-- The tile where gang member `i` of strand `k`'s gang stands, if it has one. -/
def peerTile (s : State) (k : StrandKey) (i : Nat) : Option Nat := (gangOf s k).tiles[i]?

/-! ### Stops -/

/-- How a meaning can end without its effect: a trap (R115), a restartable wait (R30), or a cause that the supervisor
services, with the trap that is delivered when service fails (R117). -/
inductive Stop where
  | trap (t : TrapInfo)
  | wait (w : WaitFor)
  | service (fn kind va size : Nat) (fail : TrapInfo)
deriving DecidableEq, Repr

/-- The trap of `cause` with INFO0 (R114). -/
def Stop.cause (cause info0 : Nat) : Stop := .trap ⟨cause, word info0, 0, []⟩

/-- The cause code by which stops are compared (R115: the lowest is reported). -/
def Stop.code : Stop → Nat
  | .trap t => t.cause
  | .wait _ => 0
  | .service _ kind _ _ _ => if kind = 3 then 0x043 else if kind = 2 then 0x140 else 0x041

/-- A result that goes on only where `c` holds. -/
def need (c : Bool) (e : Stop) : Except Stop Unit := if c then .ok () else .error e

end Sys2Proof.Machine
end

