-- ==== Sys2Proof/Machine/Translate.lean ====
section
/-!
DEFINITION. Address translation (spec chapter 18): canonical form, the five-level walk, leaf checks, access checks,
accessed and written bits, cached translations, the host's translation agent, and accesses of the device itself.
-/

namespace Sys2Proof.Machine

open Sys2Proof

/-- Whose address space an access uses: function, root table page, and the queue's PASID for host pages (R367, R368). -/
structure AddrSpace where
  fn : Nat
  root : Nat
  pasid : Nat
deriving DecidableEq, Repr

/-- Bits [63:57] all equal bit 56 (R69). -/
def canonical (va : Nat) : Bool := fieldOf va 56 8 == 0 || fieldOf va 56 8 == 255

/-! ### Page-table entries (R368) -/

/-- V. -/
def pteV (e : Nat) : Bool := e.testBit 0
/-- LEAF, or NP in an entry that is not valid. -/
def pteLeaf (e : Nat) : Bool := e.testBit 1
/-- R. -/
def pteR (e : Nat) : Bool := e.testBit 2
/-- W. -/
def pteW (e : Nat) : Bool := e.testBit 3
/-- X. -/
def pteX (e : Nat) : Bool := e.testBit 4
/-- COW. -/
def pteCow (e : Nat) : Bool := e.testBit 5
/-- A. -/
def pteA (e : Nat) : Bool := e.testBit 6
/-- D. -/
def pteD (e : Nat) : Bool := e.testBit 7
/-- LOC: host memory. -/
def pteHost (e : Nat) : Bool := e.testBit 8
/-- SIZE. -/
def pteSize (e : Nat) : Nat := fieldOf e 9 3
/-- FMT. -/
def pteFmt (e : Nat) : Nat := fieldOf e 12 5
/-- BGEOM. -/
def pteGeom (e : Nat) : Nat := fieldOf e 17 2
/-- TYPED. -/
def pteTyped (e : Nat) : Bool := e.testBit 19
/-- ADDR as a byte address. -/
def pteAddr (e : Nat) : Nat := fieldOf e 20 44 * 4096

/-- Bytes of a page by SIZE code (R368). -/
def pageBytes (size : Nat) : Nat :=
  match size with
  | 0 => 0x1000
  | 1 => 0x10000
  | 2 => 0x200000
  | 3 => 0x10000000
  | _ => 0x100000000

/-- The level at which a SIZE may stand (R367). -/
def sizeLevel (size : Nat) : Nat := if size ≤ 1 then 0 else if size ≤ 3 then 1 else 2

/-- Entries per leaf (R367). -/
def groupEntries (size : Nat) : Nat :=
  match size with
  | 1 => 16
  | 3 => 128
  | 4 => 4
  | _ => 1

/-- A malformed leaf at `level` (R369). -/
def leafMalformed (level e : Nat) : Bool :=
  5 ≤ pteSize e || sizeLevel (pteSize e) != level || pteAddr e % pageBytes (pteSize e) != 0 ||
    (pteW e && !pteR e) || (pteX e && (pteR e || pteW e || pteTyped e)) ||
    (pteCow e && (pteW e || 1 < pteSize e)) ||
    (pteGeom e != 0 && !(pteTyped e && pteFmt e == 0x0E)) || (pteHost e && level != 0)

/-- A malformed table entry (R369). -/
def tableMalformed (level e : Nat) : Bool := fieldOf e 2 18 != 0 || level == 0

/-- A valid leaf: its entry, the entry's device address, and the page it maps. -/
structure Leaf where
  entry : Nat
  eaddr : Nat
  vbase : Nat
  size : Nat
deriving DecidableEq, Repr

/-- Where a walk ends without a leaf. -/
inductive WalkStop where
  | unmapped (level : Nat) (malformed : Bool)
  | notPresent (vbase size : Nat)
deriving DecidableEq, Repr

/-- The device address of the entry that a walk of `va` reads at `level` in the table at `table` (R367). -/
def entryAddr (table level va : Nat) : Nat := table + 8 * (va / 2 ^ (12 + 9 * level) % 512)

/-- The first entries of a group, for the choice that R367 leaves open. -/
def groupList (m : Memory) (base : Nat) : Nat → List (Nat × Nat)
  | 0 => []
  | n + 1 => (base, m.readNat base 8) :: groupList m (base + 8) n

/-- An entry without its accessed and written bits. -/
def pteCore (e : Nat) : Nat := e - (if pteA e then 2 ^ 6 else 0) - (if pteD e then 2 ^ 7 else 0)

/-- The page and SIZE code that a request names for a not-present entry met at `level` (log 6). -/
def absentPage (level va : Nat) : Nat × Nat :=
  let size := if level = 1 then 2 else if level = 2 then 4 else 0
  (va / pageBytes size * pageBytes size, size)

/-- Judge the entry `e` at `eaddr` as the end of a walk. -/
def judgeLeaf (level va eaddr e : Nat) : Except WalkStop Leaf :=
  if !pteV e then
    (if pteLeaf e then .error (.notPresent (absentPage level va).1 (absentPage level va).2)
     else .error (.unmapped level false))
  else if !pteLeaf e then .error (.unmapped level true)
  else if leafMalformed level e then .error (.unmapped level true)
  else .ok ⟨e, eaddr, va / pageBytes (pteSize e) * pageBytes (pteSize e), pageBytes (pteSize e)⟩

/-- Walk from the table at `table`, `level + 1` levels left (R367, R369). `pick` chooses, for a page at a virtual base,
among the entries of its group that differ (R367). -/
def walkFrom (m : Memory) (pick : Nat → Nat) (va : Nat) : Nat → Nat → Except WalkStop Leaf
  | 0, table =>
    let ea := entryAddr table 0 va
    let e := m.readNat ea 8
    match judgeLeaf 0 va ea e with
    | .error w => .error w
    | .ok leaf =>
      let n := groupEntries (pteSize e)
      let group := groupList m (table + 8 * (va / 4096 % 512 / n * n)) n
      if group.all (fun g => pteCore g.2 == pteCore e) then .ok leaf
      else
        let g := group.getD (pick leaf.vbase % n) (ea, e)
        judgeLeaf 0 va g.1 g.2
  | k + 1, table =>
    let ea := entryAddr table (k + 1) va
    let e := m.readNat ea 8
    if pteV e && !pteLeaf e then
      (if tableMalformed (k + 1) e then .error (.unmapped (k + 1) true) else walkFrom m pick va k (pteAddr e))
    else
      match judgeLeaf (k + 1) va ea e with
      | .error w => .error w
      | .ok leaf =>
        let n := groupEntries (pteSize e)
        let group := groupList m (table + 8 * (va / 2 ^ (12 + 9 * (k + 1)) % 512 / n * n)) n
        if group.all (fun g => pteCore g.2 == pteCore e) then .ok leaf
        else
          let g := group.getD (pick leaf.vbase % n) (ea, e)
          judgeLeaf (k + 1) va g.1 g.2

/-- The site of the choice that the access starting at `start` makes for the page at `vbase`: one choice for all of the
access's bytes in that page (R367, R377; log 5). -/
def pageSite (start vbase : Nat) : Nat := start + 2 ^ 200 * (vbase + 1)

/-- The walk of the byte at `va` of the access that starts at `start` (R367). -/
def walkOf (s : State) (as : AddrSpace) (start va : Nat) : Except WalkStop Leaf :=
  walkFrom s.dev.mem (fun vbase => freeAt s (pageSite start vbase)) va 4 (as.root * 4096)

/-- The walk of an access at `va` in an address space (R367). -/
def walk (s : State) (as : AddrSpace) (va : Nat) : Except WalkStop Leaf := walkOf s as va va

/-- The device addresses of the entries that a walk of `va` reads from `table` down (R367). -/
def walkPath (m : Memory) (va : Nat) : Nat → Nat → List Nat
  | 0, table => [entryAddr table 0 va]
  | k + 1, table =>
    let ea := entryAddr table (k + 1) va
    let e := m.readNat ea 8
    if pteV e && !pteLeaf e && !tableMalformed (k + 1) e then ea :: walkPath m va k (pteAddr e) else [ea]

/-- Whether a line that holds one of `n` bytes of device memory from `a` on is poisoned (R412). -/
def poisoned (s : State) (a n : Nat) : Bool :=
  s.dev.poison.any fun l => decide (l * 128 < a + n ∧ a < (l + 1) * 128)

/-- The leaf that a cached translation stands for. -/
def TlbEntry.leaf (e : TlbEntry) : Leaf := ⟨e.entry, e.eaddr, e.vbase, e.size⟩

/-- Cached translations of a page (R376). -/
def cached (s : State) (as : AddrSpace) (va : Nat) : List Leaf :=
  (s.dev.tlb.filter fun e => e.fn == as.fn && decide (e.vbase ≤ va ∧ va < e.vbase + e.size)).map TlbEntry.leaf

/-- Whether two leaves are one translation. -/
def sameLeaf (x y : Leaf) : Bool :=
  x.vbase == y.vbase && x.size == y.size && x.eaddr == y.eaddr && pteCore x.entry == pteCore y.entry

/-- What an access does to a page (R371). -/
inductive Use where
  | read | write | update | fetch
deriving DecidableEq, Repr

/-- Whether a use writes. -/
def Use.writes (u : Use) : Bool := u == .write || u == .update

/-- Whether an access may go on with a leaf that is cached and no longer the entry's: an access that would set D in the
entry finds it changed and walks again (R372). -/
def staleOk (u : Use) (x : Leaf) : Bool := !u.writes || !pteW x.entry || pteD x.entry

/-- The leaf that the byte at `va` of the access starting at `start` uses: the walk's, or, while a changed entry is still
cached and no TLBINV has completed, either (R376, R377); one choice for the access's bytes of a page. -/
def chooseLeaf (s : State) (as : AddrSpace) (u : Use) (start va : Nat) : Except WalkStop Leaf :=
  let fresh := walkOf s as start va
  let known := cached s as va
  let old := known.filter fun x => staleOk u x && match fresh with | .ok y => !sameLeaf x y | .error _ => true
  let site := if known.any fun x => decide (x.vbase ≤ start) then start else pageSite start (va / 4096)
  let i := freeAt s site % (old.length + 1)
  if i < old.length then .ok (old.getD i ⟨0, 0, 0, 0⟩) else fresh

/-- The cached translation that a leaf is, with the accessed and written bits that the device has set or met. -/
def cachedAs (s : State) (as : AddrSpace) (x : Leaf) : Option TlbEntry :=
  s.dev.tlb.find? fun e => e.fn == as.fn && sameLeaf e.leaf x

/-- An entry with A set, and D where `write` holds or it was set. -/
def usedEntry (write : Bool) (e : Nat) : Nat :=
  e + (if pteA e then 0 else 2 ^ 6) + (if write && !pteD e then 2 ^ 7 else 0)

/-- Remember a translation with the bits its use has set (R376). -/
def remember (as : AddrSpace) (write : Bool) (x : Leaf) (s : State) : State :=
  match cachedAs s as x with
  | some e =>
    if usedEntry write e.entry = e.entry then s
    else onDev (fun d => { d with
      tlb := d.tlb.map fun y => if y = e then { y with entry := usedEntry write y.entry } else y }) s
  | none => onDev (fun d => { d with tlb := ⟨as.fn, x.vbase, x.size, usedEntry write x.entry, x.eaddr⟩ :: d.tlb }) s

/-- Set A on the first use of a leaf, and D on its first permitted write, in the entry, if it still holds what the walk
read: a bit that the driver has cleared is set again only once a TLBINV has removed the cached translation (R372). -/
def markUsed (as : AddrSpace) (write : Bool) (x : Leaf) (s : State) : State :=
  let now := s.dev.mem.readNat x.eaddr 8
  let met := (cachedAs s as x).map TlbEntry.entry
  let bits := (if met.isSome || pteA now then 0 else 2 ^ 6) +
    (if !write || pteD now || met.any pteD then 0 else 2 ^ 7)
  if pteCore now != pteCore x.entry || bits == 0 then s
  else onDev (fun d => { d with mem := d.mem.writeNat x.eaddr 8 (now + bits) }) s

/-- The trap that a service request turns into when it is not resolved (R117, R374). -/
def unresolved (kind va : Nat) : TrapInfo := ⟨if kind = 3 then 0x043 else 0x044, word va, 0, []⟩

/-- The checks of R371 on a leaf, for the byte at `va`. -/
def checkUse (as : AddrSpace) (u : Use) (x : Leaf) (va : Nat) : Except Stop Unit :=
  let reads := u == .read || u == .update
  if u == .fetch then need (pteX x.entry) (.cause 0x042 va)
  else if reads && !(pteR x.entry && !pteX x.entry) then .error (.cause 0x042 va)
  else if u.writes && !pteW x.entry then
    (if pteCow x.entry then .error (.service as.fn 3 x.vbase (pteSize x.entry) (unresolved 3 va))
     else .error (.cause 0x042 va))
  else .ok ()

/-- What a walk that found no leaf raises, for the byte at `va` (R369, R371). -/
def walkStop (as : AddrSpace) (u : Use) (va : Nat) : WalkStop → Stop
  | .unmapped level malformed => .trap ⟨0x044, word va, word (level + if malformed then 8 else 0), []⟩
  | .notPresent vbase size =>
    .service as.fn (if u == .fetch then 2 else 1) vbase size (unresolved (if u == .fetch then 2 else 1) va)

/-- The host page that the translation agent gives for an I/O address, or for the function's own DMA (R345, R368). -/
def hostPage (d : Dev) (fn : Nat) (pasid : Option Nat) (addr : Nat) : Option Nat :=
  (d.ats.find? fun e => e.fn == fn && e.pasid == pasid && e.page == addr / 4096).map fun e =>
    e.target * 4096 + addr % 4096

/-- The storage behind a byte of a page (R368). The 768 GiB of device memory (R2) bound the BAR4 aperture only: an address
at or above them in an entry names device memory of its own here, the spec being silent (log 46). -/
def leafPlace (s : State) (as : AddrSpace) (x : Leaf) (va : Nat) : Except Stop (Place × Nat) :=
  let pa := pteAddr x.entry + va % x.size
  if pteHost x.entry then
    match hostPage s.dev as.fn (some as.pasid) pa with
    | some h => .ok (.host, h)
    | none => .error (.cause 0x045 va)
  else .ok (.dev, pa)

/-- A translated byte: the leaf, the place and the address in it. -/
structure Found where
  leaf : Leaf
  place : Place
  addr : Nat
deriving DecidableEq, Repr

/-- The lines that a walk of `va` must read hold no uncorrectable data, or the page's translation is cached (R412). -/
def walkSound (s : State) (as : AddrSpace) (va : Nat) : Bool :=
  !(cached s as va).isEmpty || (walkPath s.dev.mem va 4 (as.root * 4096)).all fun a => !poisoned s a 8

/-- Translate the byte at `va` of the access that starts at `start`, with every check of R69 and R371, without yet
marking the page. -/
def locateIn (s : State) (as : AddrSpace) (u : Use) (start va : Nat) : Except Stop Found :=
  if !canonical va then .error (.cause 0x040 start)
  else if !walkSound s as va then .error (.cause 0x1C3 0)
  else
    match chooseLeaf s as u start va with
    | .error w => .error (walkStop as u va w)
    | .ok x =>
      match checkUse as u x va with
      | .error e => .error e
      | .ok () =>
        match leafPlace s as x va with
        | .error e => .error e
        | .ok (p, a) => .ok ⟨x, p, a⟩

/-- Translate the byte at `va`, where an access starts. -/
def locate (s : State) (as : AddrSpace) (u : Use) (va : Nat) : Except Stop Found := locateIn s as u va va

/-- Record the use of a located page: cached translation, A and D (R372, R376). -/
def touch (as : AddrSpace) (u : Use) (f : Found) (s : State) : State :=
  remember as u.writes f.leaf (markUsed as u.writes f.leaf s)

/-! ### Accesses of the device itself (R350, R353) -/

/-- The address space of a function with a queue's PASID. -/
def spaceOf (s : State) (fn pasid : Nat) : AddrSpace := ⟨fn, (fnRegs s fn).root, pasid⟩

/-- A line of a found byte holds no uncorrectable data (R412). -/
def foundSound (s : State) (f : Found) : Bool := !(f.place == .dev && poisoned s f.addr 1)

/-- Read `n` bytes at `va` of the access of the device that starts at `start`, none if a byte cannot be read. -/
def devReadIn (s : State) (as : AddrSpace) (start va : Nat) : Nat → Except Stop (List Byte)
  | 0 => .ok []
  | n + 1 => do
    let f ← locateIn s as .read start va
    need (foundSound s f) (.cause 0x1C3 0)
    let rest ← devReadIn s as start (va + 1) n
    .ok ((placeMem s f.place).read f.addr :: rest)

/-- Read `n` bytes at a virtual address as the device does. -/
def devRead (s : State) (as : AddrSpace) (va n : Nat) : Except Stop (List Byte) := devReadIn s as va va n

/-- Record the use of the pages of `n` bytes that the device has read at `va` (R372). -/
def devUsed (as : AddrSpace) (va n : Nat) (s : State) : State :=
  let one := fun (a : Nat) (s : State) => match locate s as .read a with | .ok f => touch as .read f s | .error _ => s
  let last := va + n - 1
  if va / 4096 = last / 4096 then one va s else one last (one va s)

/-- Write bytes at `va` of the access of the device that starts at `start`. -/
def devWriteIn (as : AddrSpace) (start va : Nat) : List Byte → State → Except Stop State
  | [], s => .ok s
  | b :: bs, s => do
    let f ← locateIn s as .write start va
    let s := touch as .write f s
    devWriteIn as start (va + 1) bs (setPlaceMem s f.place ((placeMem s f.place).write f.addr b))

/-- Write bytes at a virtual address as the device does. -/
def devWrite (as : AddrSpace) (va : Nat) (bs : List Byte) (s : State) : Except Stop State := devWriteIn as va va bs s

/-- Whether the `n` bytes at a virtual address can be written. -/
def devWritable (s : State) (as : AddrSpace) (va : Nat) : Nat → Bool
  | 0 => true
  | n + 1 => (match locate s as .write va with | .ok _ => true | .error _ => false) && devWritable s as (va + 1) n

/-- Read `n` bytes of a function's DMA space (R444). -/
def dmaRead (s : State) (fn addr : Nat) : Nat → Option (List Byte)
  | 0 => some []
  | n + 1 => do
    let h ← hostPage s.dev fn none addr
    let rest ← dmaRead s fn (addr + 1) n
    some (s.dev.host.read h :: rest)

/-- Write bytes to a function's DMA space (R444). -/
def dmaWrite (fn addr : Nat) : List Byte → State → Option State
  | [], s => some s
  | b :: bs, s => do
    let h ← hostPage s.dev fn none addr
    dmaWrite fn (addr + 1) bs (onDev (fun d => { d with host := d.host.write h b }) s)

end Sys2Proof.Machine
end

