-- ==== Sys2Proof/Machine/Ops.lean ====
section
/-!
DEFINITION. The named operations that every meaning is built from: registers, retiring an instruction, blocking,
requesting service, TAKING A TRAP (R113, R115-R117) with the fault policies, and the return from a held trap (R365).
-/

namespace Sys2Proof.Machine

open Sys2Proof

/-! ### Registers -/

/-- Read a scalar register; S0 reads zero (R22, R135). -/
def getS (s : State) (r : SReg) : Word := if r = 0 then 0 else s.tile.seq.s[r]

/-- Write a scalar register; a write of S0 is discarded (R135). -/
def setS (r : SReg) (x : Word) (s : State) : State :=
  if r = 0 then s else onFocus (Tile.onSeq fun q => { q with s := q.s.set r x }) s

/-- Read a vector register. -/
def getV (s : State) (r : VReg) : VecWord := s.tile.seq.v[r]

/-- Write a vector register. -/
def setV (r : VReg) (x : VecWord) (s : State) : State :=
  onFocus (Tile.onSeq fun q => { q with v := q.v.set r x }) s

/-- Read a predicate register; P0 reads all ones (R22, R135). -/
def getP (s : State) (r : PReg) : PredWord := if r = 0 then BitVec.allOnes 256 else s.tile.seq.p[r]

/-- Write a predicate register; P0 is read-only (R22, R135). -/
def setP (r : PReg) (x : PredWord) (s : State) : State :=
  if r = 0 then s else onFocus (Tile.onSeq fun q => { q with p := q.p.set r x }) s

/-- The program counter. -/
def getPc (s : State) : Word := s.tile.seq.vpc

/-- Set the program counter. -/
def setPc (x : Word) (s : State) : State := onFocus (Tile.onSeq fun q => { q with vpc := x }) s

/-- An instruction retires: the last issued command is no longer fresh (R116). -/
def retire (s : State) : State := onFocus (fun t => { t with fresh := none, barStage := none }) s

/-- An instruction retires and control goes to the next one, eight bytes on (R125). -/
def advance (s : State) : State := retire (setPc (getPc s + 8) s)

/-- The strand in focus. -/
def me (s : State) : StrandKey := keyOn s s.tileNo

/-- The address space of a strand's task, with the root read when its gang was placed (R373). -/
def strandSpace (s : State) (k : StrandKey) : AddrSpace :=
  ⟨(taskOf s k).fn, (gangOf s k).root, (taskOf s k).pasid⟩

/-! ### The network interface (R33, R390 to R392) -/

/-- Whether a tile's clock is stopped (R33, R391). -/
def clockStopped (t : Tile) : Bool := match t.run with | .frozen _ | .halted _ => true | _ => false

/-- Whether a tile cannot serve remote accesses now: stopped or halted for debug, or flits that came before wait in its
receive buffer (R33, R390, R391). -/
def unserved (t : Tile) : Bool := t.net.frozen || !t.net.rx.isEmpty || clockStopped t

/-- Flits of strand `k`, a gang peer, that wait in a receive buffer: each holds one of its eight credits (R390). -/
def waitingFrom (t : Tile) (k : StrandKey) : Nat := (t.net.rx.filter fun f => !f.port && f.sender == k).length

/-- Flits in a receive buffer that came through the local router port, which has 512 credits (R390). -/
def waitingPort (t : Tile) : Nat := (t.net.rx.filter (·.port)).length

/-- Whether traffic of strand `k` from tile `src` toward the strand on tile `m` waits at its sender: the receiver has been
frozen and acknowledged, eight flits are under way, or earlier ones wait (R390, R391). -/
def heldBack (s : State) (src : Nat) (k : StrandKey) (m : Nat) : Bool :=
  let i := (keyOn s m).tile
  (tileAt s src).net.holding.contains i || (tileAt s src).net.outbound.any (fun f => f.1 == i) ||
    decide (8 ≤ waitingFrom (tileAt s m) k)

/-- A byte with one nibble replaced. -/
def withNibble (old : Byte) (high : Bool) (v : Byte) : Byte :=
  BitVec.ofNat 8 (if high then old.toNat % 16 + v.toNat % 16 * 16 else old.toNat / 16 * 16 + v.toNat % 16)

/-- The bytes of a store land in a memory; a store of one nibble keeps the other (R217). -/
def landBytes (m : Memory) (a : Nat) (nib : Option Bool) (bytes : List Byte) : Memory :=
  match nib with
  | none => m.writeBytes a bytes
  | some high => m.write a (withNibble (m.read a) high (bytes.headD 0))

/-- Change a tile's network interface. -/
def onNet (n : Nat) (f : NetIf → NetIf) (s : State) : State := onTile n (fun t => { t with net := f t.net }) s

/-- The receive buffer once its oldest flit is out: once it is empty, what a debug halt had left there has landed (R33). -/
def NetIf.taken (rest : List Flit) (x : NetIf) : NetIf := { x with rx := rest, landing := x.landing && !rest.isEmpty }

/-- A flit enters the receive buffer of tile `m`. -/
def receive (m : Nat) (f : Flit) (s : State) : State := onNet m (fun x => { x with rx := x.rx ++ [f] }) s

/-- Send a flit of a gang peer from tile `src` to tile `m`, which does not serve it now (R33, R390, R391). -/
def postFlit (src m : Nat) (f : Flit) (s : State) : State :=
  if heldBack s src f.sender m then onNet src (fun x => { x with outbound := x.outbound ++ [((keyOn s m).tile, f)] }) s
  else receive m f s

/-- The index under which a tile keeps what its local router port holds for it. -/
def portIndex : Nat := 64

/-- Whether the local router port of a tile can send it nothing now: it holds the traffic, or has no credit (R390,
R391). -/
def portFull (t : Tile) : Bool := t.net.portHeld || decide (512 ≤ waitingPort t)

/-- What comes through the local router port for a tile that does not serve it now enters its receive buffer, or waits at
the port (R33, R390, R391). -/
def postPort (n : Nat) (f : Flit) (s : State) : State :=
  let t := tileAt s n
  if portFull t || t.net.outbound.any (fun g => g.1 == portIndex) then
    onNet n (fun x => { x with outbound := x.outbound ++ [(portIndex, f)] }) s
  else receive n f s

/-- The first packet that the local router port holds for tile `n` goes on, if it may. -/
def releasePort (n : Nat) (s : State) : State :=
  let t := tileAt s n
  match t.net.outbound.find? fun g => g.1 == portIndex with
  | none => s
  | some f =>
    if portFull t then s
    else receive n f.2 (onNet n (fun x => { x with outbound := x.outbound.eraseP fun g => g.1 == portIndex }) s)

/-- A sender's first held packet toward index `i` goes to tile `m`, if the sender's clock runs, a credit is free and it no
longer holds (R390, R392). -/
def releaseOne (src m i : Nat) (s : State) : State :=
  let t := tileAt s src
  match t.net.outbound.find? fun f => f.1 == i with
  | none => s
  | some f =>
    if t.net.frozen || clockStopped t || t.net.holding.contains i || decide (8 ≤ waitingFrom (tileAt s m) f.2.sender) then s
    else receive m f.2 (onNet src (fun x => { x with outbound := x.outbound.eraseP fun g => g.1 == i }) s)

/-- The tiles of the other members of the gang of the strand on tile `n`. -/
def peersOf (s : State) (n : Nat) : List Nat :=
  match (tileAt s n).owner with
  | some k => (gangOf s k).tiles.filter (· != n)
  | none => []

/-- Senders to tile `n` that have a credit again send what they held. -/
def releaseCredits (n : Nat) (s : State) : State :=
  releasePort n ((peersOf s n).foldl (fun s src => releaseOne src n (keyOn s n).tile s) s)

/-- Packets that the interface of tile `n` held toward peers go out, one to each (R392). -/
def injectHeld (n : Nat) (s : State) : State :=
  (peersOf s n).foldl (fun s m => releaseOne n m (keyOn s m).tile s) s

/-- Whether a flit is the window AMO of strand `k`. -/
def Flit.isAmo (k : StrandKey) (f : Flit) : Bool := f.kind == 2 && f.sender == k

/-- The window AMO of strand `k` may be performed at a peer's tile: the tile runs and every flit that came before has been
delivered (R33, R390). -/
def amoTurn (k : StrandKey) (t : Tile) : Bool :=
  !t.net.frozen && !clockStopped t && match t.net.rx with | [] => true | f :: _ => f.isAmo k

/-- A window AMO toward gang index `i` waits at its peer: its flit is sent once. -/
def postAmo (n i off : Nat) (bytes : List Byte) (s : State) : State :=
  let k := keyOn s n
  match peerTile s k i with
  | none => s
  | some m =>
    if (tileAt s m).net.rx.any (Flit.isAmo k) || (tileAt s n).net.outbound.any fun f => f.1 == i && f.2.isAmo k then s
    else postFlit n m ⟨2, k, false, off, bytes, none, none⟩ s

/-- The window AMO of strand `k` has been performed at tile `m`: its flit leaves the receive buffer. -/
def dropAmo (k : StrandKey) (m : Nat) (s : State) : State :=
  match (tileAt s m).net.rx with
  | f :: rest => if f.isAmo k then releaseCredits m (onNet m (NetIf.taken rest) s) else s
  | [] => s

/-! ### Messages at region ports (R306) -/

/-- Whether the message that port `j` of a region serves is of a user that satisfies `p`. -/
def Region.servesUser (r : Region) (p : PortUser → Bool) (j : Nat) : Bool :=
  (r.serving.find? (·.port == j)).any fun m => p m.user

/-- A region's ports drop the messages of the users that satisfy `p`; a port that served one stands at a message boundary
with nothing in its edge buffer. -/
def Region.dropUsers (p : PortUser → Bool) (r : Region) : Region :=
  { r with
    serving := r.serving.filter fun m => !p m.user
    edges := r.edges.mapIdx fun j l => if r.servesUser p j then [] else l
    atBoundary := r.atBoundary.mapIdx fun j b => b || r.servesUser p j }

/-- Region ports drop the messages of the users that satisfy `p`. -/
def dropServing (p : PortUser → Bool) (s : State) : State :=
  onDev (fun d => { d with regions := d.regions.map fun r => (r.1, r.2.dropUsers p) }) s

/-- Region ports drop the messages of the copies that tile `n` no longer has. -/
def reapServing (n : Nat) (s : State) : State :=
  let t := tileAt s n
  let here := fun (ch : Chan) (id : Nat) => (t.qLoad ++ t.qStore ++ t.flight).any fun c => match c.body with
    | .copy x => ch == (if x.toLocal then .load else .store) && x.id == id
    | _ => false
  dropServing (fun u => match u with | .copy m ch id => m == n && !here ch id | .load _ => false) s

/-! ### Engines at rest (R29, R33) -/

/-- The engines of a tile run: its clock is not stopped and its context has not been taken (R28, R29, R33). A restored
strand and its engines go on once the interface has sent RECON (R392; log 56). -/
def enginesRun (t : Tile) : Bool :=
  !t.net.frozen && match t.run with | .frozen _ | .halted _ | .parked _ => false | _ => true

/-- The fibre engine runs: it is frozen as soon as its strand stops at a boundary, or brings its engines to rest for a
CTXSAVE (R29, R183). -/
def fibreRuns (t : Tile) : Bool := enginesRun t && match t.run with | .resting _ | .blocked .rest => false | _ => true

/-! ### Commands whose fault has been delivered -/

/-- The engine whose queue holds the copies of a channel (R17). -/
def chanEng : Chan → Eng
  | .load => .load
  | .store => .store
  | .acc => .matrix

/-- The channel and identifier of a copy command. -/
def copyId : Cmd → Option (Chan × Nat)
  | .copy c => some (if c.toLocal then .load else .store, c.id)
  | .acc c => some (.acc, c.id)
  | _ => none

/-- The engine that a command in flight was issued to. -/
def flightEng (c : QCmd) : Eng := match copyId c.body with | some (ch, _) => chanEng ch | none => .load

/-- Whether a command of strand `k` is held by a fault that has been delivered. -/
def deliveredTo (k : StrandKey) (c : QCmd) : Bool :=
  c.owner == k && match c.held with | some (.delivered _) => true | _ => false

/-- The queue of engine `e`, a command of which, or of the copies in flight, has had its fault delivered: that command and
those of the strand behind it are dropped (R443). -/
def cutBehind (k : StrandKey) (e : Eng) (flight q : List QCmd) : List QCmd :=
  match ((flight.filter fun c => flightEng c == e) ++ q).find? (deliveredTo k) with
  | none => q
  | some c => q.filter fun d => !(d.owner == k && decide (c.seq ≤ d.seq))

/-- What is left of a strand's commands when it ends under a fault policy or HELDABORT: those whose fault had been
delivered are dropped with the ones behind them, the others go on (R365, R443). -/
def dropDelivered (k : StrandKey) (t : Tile) : Tile :=
  let ran := t.qFibre.any fun c => deliveredTo k c && match c.body with | .go _ _ => true | _ => false
  { t with
    qLoad := cutBehind k .load t.flight t.qLoad, qStore := cutBehind k .store t.flight t.qStore
    qMatrix := cutBehind k .matrix t.flight t.qMatrix, qFibre := cutBehind k .fibre t.flight t.qFibre
    flight := t.flight.filter fun c => !deliveredTo k c
    fibre := if ran then { t.fibre with run := none } else t.fibre }

/-! ### Ends of strands -/

/-- Mark member `i` of a gang. -/
def setMember (k : StrandKey) (m : Member) (s : State) : State :=
  onGang k.queue k.record k.gang (fun g => { g with members := g.members.set k.tile m }) s

/-- What a strand's copies leave at its end: the accesses of those that have become visible close, and those of the ones left
running stay open until the completion is published (R35, R36). -/
def closeVisible (n : Nat) (k : StrandKey) (po : Nat) (s : State) : State :=
  let t := tileAt s n
  let left := (t.flight ++ t.qLoad ++ t.qStore ++ t.qMatrix).filterMap fun c => if c.owner = k then copyId c.body else none
  onDev (fun d => { d with
    marks := d.marks.map fun m => match m.party with
      | .copy j ch id => if j = k ∧ !left.contains (ch, id) then { m with stamps := ⟨po, m.scope⟩ :: m.stamps } else m
      | _ => m }) s

/-- The strand on tile `n` ends: it leaves the tile, its arrivals at unfinished barriers are withdrawn (R30), and its
place in program order and what it knew join what the task's completion will release (R97). Its queued commands stay. -/
def endStrand (n : Nat) (s : State) : State :=
  match (tileAt s n).owner with
  | none => s
  | some k =>
    let po := (tileAt s n).ord.po
    let known := (tileAt s n).ord.clock.seen
    let pc := (tileAt s n).seq.vpc
    let s := closeVisible n k po (dropServing (· == .load n) s)
    let s := onTile n (fun t => { t with
      owner := none, run := .free, yieldReq := none, sincePost := 0, async := [], barStage := none, fresh := none,
      codec := none, replies := Vector.replicate 4 ⟨[], 0⟩ }) s
    let s := setMember k .ended s
    let s := onGang k.queue k.record k.gang (fun g => { g with pending := g.pending.map (·.filter (· != k.tile)) }) s
    onTask k.queue k.record (fun t => { t with
      endedPos := ⟨k, po⟩ :: (known ++ t.endedPos), endedPc := (k, pc) :: t.endedPc }) s

/-- The saved strand of a key. -/
def savedOf (s : State) (k : StrandKey) : Option Saved := s.dev.saved.find? fun x => x.key == k

/-- A tile set aside for a strand's image is free again. -/
def unreserve (k : StrandKey) (t : Tile) : Tile := if t.owner = some k then { t with owner := none, run := .free } else t

/-- A saved strand ends: its context or image is discarded, and a tile set aside for its restore is freed (R117, R362). -/
def dropSaved (k : StrandKey) (s : State) : State :=
  match savedOf s k with
  | none => s
  | some x =>
    let s := endStrand x.home s
    let s := if x.home = s.tileNo then { s with tile := Tile.blank } else { s with others := drop? s.others x.home }
    let s := { s with tile := unreserve k s.tile, others := s.others.map fun e => (e.1, unreserve k e.2) }
    onDev (fun d => { d with saved := d.saved.filter fun y => y.key != k }) s

/-- The network interface of a tile whose strand has been stopped for good: it is no longer frozen, and what it held for
peers is dropped. -/
def haltNet (n : Nat) (s : State) : State :=
  onNet n (fun x => { x with
    frozen := false, acks := [], credit := [], holding := [], portHeld := false, outbound := [] }) s

/-- End the listed gang members, on a tile or saved, from index `i` on. -/
def endMembers (q r g : Nat) : Nat → List Member → State → State
  | _, [], s => s
  | i, m :: ms, s =>
    let s :=
      match m with
      | .on n => if (tileAt s n).owner = some ⟨q, r, g, i⟩ then
          reapServing n (onTile n (dropDelivered ⟨q, r, g, i⟩) (haltNet n (endStrand n s)))
        else s
      | .saved => dropSaved ⟨q, r, g, i⟩ s
      | .ended => s
    endMembers q r g (i + 1) ms s

/-- Stop a gang: all its strands end (R117). -/
def stopGang (q r g : Nat) (s : State) : State :=
  let s := onGang q r g (fun x => { x with stopping := true }) s
  endMembers q r g 0 (gangAt s q r g).members s

/-- Stop every listed gang of record `r` of queue `q`. -/
def stopGangs (q r : Nat) : List Gang → State → State
  | [], s => s
  | g :: gs, s => stopGangs q r gs (if g.queue = q ∧ g.record = r then stopGang q r g.gang s else s)

/-- Stop a task: every strand ends and no further gang is dispatched (R117). -/
def stopTask (q r : Nat) (s : State) : State :=
  stopGangs q r s.dev.gangs (onTask q r (fun t => { t with stopping := true }) s)

/-! ### Taking a trap -/

/-- How a trap is reported (R113): the VPC, DEFERRED, and the engine command: engine, number, transfer identifier,
SUSPECT. -/
structure Report where
  vpc : Word
  deferred : Bool
  cmd : Option (Eng × Nat × Nat × Bool)
deriving DecidableEq, Repr

/-- ENGINE codes (R113). -/
def engCode : Eng → Nat
  | .load => 0 | .store => 1 | .matrix => 2 | .fibre => 3

/-- Tiles of one compute chiplet (R359). -/
def chipletOf (tile : Nat) : Nat := tile / 128

/-- A divider change of tile `n`'s domain, or of a region that strand `k`'s gang is bound to, is in progress (R409). -/
def changing (s : State) (n : Nat) (k : StrandKey) : Bool :=
  (clockAt s (chipletOf n)).pending.isSome || (telemetryAt s n).newTdiv.isSome ||
    (gangOf s k).regions.any fun r => (regionAt s r).newDivider.isSome

/-- The 128 bytes of a trap record (R113). -/
def trapBytes (s : State) (n : Nat) (k : StrandKey) (seq : Nat) (rep : Report) (t : TrapInfo) : List Byte :=
  let freq := if changing s n k then 1 else 0
  let cmd :=
    match rep.cmd with
    | none => 0
    | some (e, num, _, suspect) => (if suspect then 2 ^ 11 else 0) + 2 ^ 12 + (engCode e) * 2 ^ 13 + num % 2 ^ 16 * 2 ^ 16
  let xfer := match rep.cmd with | none => 0 | some (_, _, x, _) => x
  let w := t.cause + (if rep.deferred then 2 ^ 9 else 0) + freq * 2 ^ 10 + cmd
  let words := [rep.vpc.toNat, w, t.info0.toNat, t.info1.toNat, xfer, (tileAt s n).seq.cycle.toNat, s.dev.ncycle.toNat,
    k.gang + k.tile * 2 ^ 32, (t.aux.getD 0 0).toNat, (t.aux.getD 1 0).toNat, (t.aux.getD 2 0).toNat,
    (t.aux.getD 3 0).toNat, seq, 0, 0, 0]
  (words.map (leBytes 8)).flatten

/-- Whether (a, b, c) comes before the cause first delivered so far (R117). -/
def earlier (a b c : Nat) : Option (Nat × Nat × Nat × Nat) → Bool
  | none => true
  | some (_, x, y, z) => decide (a < x ∨ (a = x ∧ (b < y ∨ (b = y ∧ c < z))))

/-- Write the trap record of strand `k`, reported at tile `n`, to the task's trap area (R113). A trap area that cannot
be written loses the record (log 6). -/
def writeRecord (n : Nat) (k : StrandKey) (rep : Report) (t : TrapInfo) (s : State) : State :=
  let task := taskOf s k
  let seq := task.traps + 1
  let bytes := trapBytes s n k seq rep t
  let va := (task.trec.trapBase.toNat + 128 * ((seq - 1) % max 1 task.trec.trapSlots)) % 2 ^ 64
  let s := onTask k.queue k.record (fun x => { x with traps := seq }) s
  match devWrite (strandSpace s k) va bytes s with
  | .ok s => s
  | .error _ => s

/-- Note the first cause delivered in the task, by NCYCLE, then gang, then tile (R117). -/
def noteCause (k : StrandKey) (cause : Nat) (s : State) : State :=
  onTask k.queue k.record (fun x =>
    if earlier s.dev.ncycle.toNat k.gang k.tile x.firstCause then
      { x with firstCause := some (cause, s.dev.ncycle.toNat, k.gang, k.tile) } else x) s

/-- Whether a held strand continues after the trapping instruction (R163, R164, R365): software traps and BREAKPOINT. -/
def softCause (cause : Nat) : Bool := cause == 0x003 || (0x1E0 ≤ cause && cause ≤ 0x1FF)

/-- A strand that is to stop rests at its boundary, behind a debug halt too. -/
def restInto (why : StopWhy) : RunState → RunState
  | .halted _ => .halted (.resting why)
  | _ => .resting why

/-- A strand that may go on runs, behind a debug halt once that is over. -/
def runInto : RunState → RunState
  | .halted _ => .halted .running
  | _ => .running

/-- The fault policy of a task applied to the strand on tile `n` (R117); CODE_INTEGRITY stops every strand whatever the
policy (R122). -/
def applyPolicy (n : Nat) (k : StrandKey) (rep : Report) (cause : Nat) (s : State) : State :=
  let task := taskOf s k
  if task.trec.policy = 0 ∨ cause = 0x141 then stopTask k.queue k.record s
  else if task.trec.policy = 1 then stopGang k.queue k.record k.gang s
  else
    let s := onTile n (fun t => { t with
      run := restInto (.hold cause rep.cmd.isSome (softCause cause)) t.run
      sincePost := if t.yieldReq.isSome then t.sincePost else 0 }) s
    if task.trec.irq then signal task.fn task.trec.irqvec s else s

/-- TAKING A TRAP: the one operation that every trap of a strand on tile `n` goes through. The record is written, the
first cause is noted, and the fault policy is applied; the strand's registers and the program counter stand as they
were (R113, R115-R117). -/
def takeTrap (n : Nat) (rep : Report) (t : TrapInfo) (s : State) : State :=
  match (tileAt s n).owner with
  | none => s
  | some k => applyPolicy n k rep t.cause (noteCause k t.cause (writeRecord n k rep t s))

/-- A virtual-precise trap of the strand on tile `n`, at its present instruction (R115). -/
def trapAt (n : Nat) (t : TrapInfo) (s : State) : State :=
  takeTrap n ⟨(tileAt s n).seq.vpc, false, none⟩ t (onTile n (fun x => { x with barStage := none }) s)

/-! ### Blocking and service -/

/-- Block the strand on tile `n`. -/
def blockOn (n : Nat) (w : WaitFor) (s : State) : State := onTile n (fun t => { t with run := .blocked w }) s

/-- The identifier of the pending request for a page and a kind, if there is one (R374). -/
def pendingRequest (d : Dev) (fn kind va : Nat) : Option Nat :=
  (d.requests.find? fun r => r.fn == fn && r.kind == kind && r.va == va && r.answered == none).map (·.id)

/-- A free frame of a page size is left for one more copy-on-write request of a function (R375). -/
def frameLeft (s : State) (fn size : Nat) : Bool :=
  decide ((s.dev.requests.filter fun r => r.fn == fn && r.kind == 3 && r.size == size).length <
    ((fnRegs s fn).pool.filter fun f => f.2 == size).length)

/-- Make or join the request for a page (R374). The answer is none when the function has no request ring and the cause
is delivered at once (R373); a copy-on-write service with a free frame needs no ring (R375). -/
def askService (fn kind va size : Nat) (s : State) : Option (Nat × State) :=
  match pendingRequest s.dev fn kind va with
  | some id => some (id, s)
  | none =>
    if (fnRegs s fn).fring = 0 ∧ ¬ (kind = 3 ∧ frameLeft s fn size = true) then none
    else
      let id := s.dev.nextReq
      some (id, onDev (fun d => { d with
        requests := d.requests ++ [⟨id, fn, kind, va, size, false, none, 0⟩], nextReq := (id + 1) % 2 ^ 16 }) s)

/-- What an instruction that stopped short leaves: a trap taken, or the strand of tile `n` blocked before it; an AMO on a
peer's scratchpad waits there. -/
def stopShort (n : Nat) (e : Stop) (s : State) : State :=
  match e with
  | .trap t => trapAt n t s
  | .wait (.peer i (some (off, bytes))) => blockOn n (.peer i (some (off, bytes))) (postAmo n i off bytes s)
  | .wait w => blockOn n w s
  | .service fn kind va size fail =>
    match askService fn kind va size s with
    | none => trapAt n fail s
    | some (id, s) => blockOn n (.service id fail) s

/-- The outcome of an instruction: its effect and the next instruction, or the stop short of it on the state before. -/
def finish (s : State) (r : Except Stop State) : Host.Outcome State Fault Refusal :=
  match r with
  | .ok t => .next (advance t)
  | .error e => .next (stopShort s.tileNo e s)

/-- The outcome of an instruction that sets the program counter itself. -/
def finishJump (s : State) (r : Except Stop State) : Host.Outcome State Fault Refusal :=
  match r with
  | .ok t => .next (retire t)
  | .error e => .next (stopShort s.tileNo e s)

/-! ### The return from a held trap (R365) -/

/-- A command that is done again: a copy and a COLL from the first element (R228), a matrix command from its pass cursor,
with a new count of replays (R244, R252). -/
def doAgain (c : QCmd) : QCmd :=
  match c.body with
  | .copy _ | .acc _ => { c with held := none, rd := 0, wr := 0, buf := [], beats := [], pass := 0, flags := 0 }
  | .mma _ => { c with held := none, run := 0 }
  | .coll _ | .mzero _ _ _ _ | .mscale _ _ _ _ _ _ _ _ | .config _ _ | .go _ _ => { c with held := none }

/-- Release what holds the commands of one list: a command whose fault has been delivered is retried; an FGO has its own
way (R270, R365). -/
def retryHeld (k : StrandKey) (q : List QCmd) : List QCmd :=
  q.map fun c =>
    match c.held, c.body with
    | some (.delivered _), .go _ _ => c
    | some (.delivered _), _ => if c.owner = k then doAgain c else c
    | _, _ => c

/-- Retry every command of strand `k` on a tile whose fault has been delivered. -/
def retryAll (k : StrandKey) (t : Tile) : Tile :=
  { t with
    qLoad := retryHeld k t.qLoad, qStore := retryHeld k t.qStore, qMatrix := retryHeld k t.qMatrix
    qFibre := retryHeld k t.qFibre, flight := retryHeld k t.flight }

/-- RETURN FROM A TRAP under the hold policy: the strand on tile `n` runs on, at the next instruction after a software
trap, a breakpoint or with SKIP, else at the boundary where it stopped; a held engine command is retried (R365). -/
def resumeHeld (n : Nat) (queuePrecise soft skip : Bool) (s : State) : State :=
  let k := keyOn s n
  onTile n (fun t =>
    let t := { t with
      run := runInto t.run, folio := none, folioStale := false
      sincePost := if t.yieldReq.isSome then t.sincePost else 0 }
    let t := if soft || skip then Tile.onSeq (fun q => { q with vpc := q.vpc + 8 }) t else t
    if queuePrecise then retryAll k t else t) s

end Sys2Proof.Machine
end

