-- ==== Sys2Proof/Machine/Order.lean ====
section
/-!
DEFINITION. Ordering and race reports (spec chapter 04): what is ordered before a party's next access, releases and
acquires, the marks kept at the serialisation points, and the conflict check of R105 to R107 with the constant check of
R76.
-/

namespace Sys2Proof.Machine

open Sys2Proof

/-! ### Ordered-before -/

/-- Whether the list has strand `k` up to place `at_` of its program order. -/
def covers (l : List Seen) (k : StrandKey) (at_ : Nat) : Bool := l.any fun x => x.key == k && decide (at_ ≤ x.upTo)

/-- Add what is known of one strand. -/
def addSeen : List Seen → Seen → List Seen
  | [], x => [x]
  | y :: l, x => if y.key = x.key then ⟨y.key, max y.upTo x.upTo⟩ :: l else y :: addSeen l x

/-- Join two lists. -/
def joinSeen (l m : List Seen) : List Seen := m.foldl addSeen l

/-- Join two clocks. -/
def joinClock (c d : Clock) : Clock :=
  ⟨joinSeen c.seen d.seen, c.limited ++ d.limited.filter fun x => !c.limited.contains x⟩

/-- The parties inside scope `sc` of strand `x` (R98). -/
def insideScope (sc : Scope) (x y : StrandKey) : Bool :=
  match sc with
  | .tile => x == y
  | .gang => x.queue == y.queue && x.record == y.record && x.gang == y.gang
  | .dev | .sys => true

/-- The strand a party belongs to (R91). -/
def partyKey : Party → StrandKey
  | .strand k => k
  | .copy k _ _ => k
  | .matrix k _ => k
  | .graph k _ => k
  | .coll k _ => k

/-- Whether an access with stamp `st`, by a party of `owner`, is ordered before the next access of a party of `self`
that knows `c`, at granule `g` (R96, R99). -/
def stampCovers (c : Clock) (g : Gran) (self owner : StrandKey) (st : Stamp) : Bool :=
  insideScope st.scope owner self &&
    (covers c.seen owner st.at_ || c.limited.any fun l => l.grans.contains g && covers l.seen owner st.at_)

/-- An access about to be performed. `claims` says that it counts as a write for the constant check (R76, R219);
`scope` is the scope toward which its closing counts (R96). -/
structure Access where
  party : Party
  clock : Clock
  kind : AccKind
  write : Bool
  sync : Bool
  claims : Bool
  xfer : Nat
  scope : Scope
  stamps : List Stamp
deriving DecidableEq, Repr

/-- Whether a performed access is ordered before the next access (R96, R99). -/
def orderedMark (a : Access) (g : Gran) (m : Mark) : Bool :=
  m.stamps.any fun st => stampCovers a.clock g (partyKey a.party) (partyKey m.party) st

/-- Whether a party is a collective's. -/
def isColl : Party → Bool
  | .coll _ _ => true
  | _ => false

/-- Whether two accesses are made by participants of one collective, which act as one party; `xfer` numbers it (R91,
R110). -/
def sameColl (p : Party) (x : Nat) (m : Mark) : Bool := isColl p && isColl m.party && m.xfer == x

/-- Whether the access `m` of a collective is ordered before the next access `a` at granule `g`. A participant that names
the granule in a buffer of its own is ordered after the collective only by its own POPQ (R110); for any other party the
closing by one participant that names it is enough (R96). -/
def collOrdered (ms : List Mark) (a : Access) (g : Gran) (m : Mark) : Bool :=
  let same := ms.filter fun x => x.gran == g && sameColl m.party m.xfer x
  let own := same.filter fun x => partyKey x.party == partyKey a.party
  (if own.isEmpty then same else own).any (orderedMark a g)

/-- Two accesses conflict (R105); `ms` are all the accesses kept. -/
def conflicts (ms : List Mark) (a : Access) (g : Gran) (m : Mark) : Bool :=
  m.gran == g && m.party != a.party && (m.write || a.write) && !(m.sync && a.sync) && !sameColl a.party a.xfer m &&
    !(if isColl m.party then collOrdered ms a g m else orderedMark a g m)

/-! ### Reports (R107) -/

/-- The code of an access kind (R107). -/
def accCode : AccKind → Nat
  | .load => 0 | .store => 1 | .sync => 2 | .copyRead => 3 | .copyWrite => 4
  | .matrixRead => 5 | .fibreRead => 6 | .fibreWrite => 7 | .collRead => 8 | .collWrite => 9

/-- REL: how the other strand stands to this one (R107). -/
def relOf (s : State) (self other : StrandKey) : Nat :=
  if self = other then 0
  else if insideScope .gang self other then 1
  else if self.queue = other.queue ∧ self.record = other.record then 2
  else if (taskOf s self).trec.tenant = (taskOf s other).trec.tenant then 3
  else 4

/-- The report of an ordering trap: granule address, space, and the other party (R107). -/
def raceReport (s : State) (cause : Nat) (a : Access) (space granVa : Nat) (other : StrandKey) (okind : Nat)
    (owrite : Bool) (oxfer : Nat) : TrapInfo :=
  let rel := relOf s (partyKey a.party) other
  let info1 := space + accCode a.kind * 2 ^ 2 + okind * 2 ^ 6 + rel * 2 ^ 10 +
    (if rel ≤ 1 then other.tile * 2 ^ 13 else 0) + (if owrite then 2 ^ 19 else 0) +
    (if rel = 0 ∧ (okind = 3 ∨ okind = 4) then oxfer % 2 ^ 32 * 2 ^ 24 else 0)
  let aux := if rel = 2 ∨ rel = 3 then [word other.queue, (taskOf s other).trec.completion, 0, 0] else []
  ⟨cause, word granVa, word info1, aux⟩

/-! ### Pieces of an access -/

/-- `n` bytes of one place from `addr` on, and the address by which a report names the first (R107). -/
structure Piece where
  place : Place
  addr : Nat
  n : Nat
  report : Nat
deriving DecidableEq, Repr

/-- A granule with its report address. -/
abbrev Touch := Gran × Nat

/-- The granules a piece touches, lowest first. -/
def Piece.touches (p : Piece) : List Touch :=
  if p.n = 0 then []
  else
    let g0 := p.addr / 32
    (List.range ((p.addr + p.n - 1) / 32 - g0 + 1)).map fun i =>
      (⟨p.place, g0 + i⟩, (p.report + 2 ^ 64 - p.addr % 32) % 2 ^ 64 + 32 * i)

/-- The space code of a report. -/
def placeSpace : Place → Nat
  | .pad _ => 2
  | _ => 0

/-- The constant marks a write to a granule would break: those of tasks that still run (R76). -/
def constHits (s : State) (g : Gran) : List ConstMark :=
  s.dev.consts.filter fun c => c.gran == g && (taskOf s c.loader).published == .no

/-- Of several hits, the one a report names is open (log 5). -/
def pickHit {α : Type} (s : State) (site : Nat) (l : List α) : Option α := l[freeAt s site % max 1 l.length]?

/-- The touch of least report address among those that satisfy `p`. -/
def lowestTouch (p : Touch → Bool) (ts : List Touch) : Option Touch :=
  ts.foldl (fun acc t => if p t then (match acc with | some b => if t.2 < b.2 then some t else acc | none => some t) else acc)
    none

/-- The conflict check of R105 with the constant check of R76, which comes first: the report of the lowest-addressed
granule that fails, if any (R106). -/
def orderTrap (s : State) (a : Access) (ts : List Touch) : Option TrapInfo :=
  let hit := if a.claims then lowestTouch (fun t => !(constHits s t.1).isEmpty) ts else none
  match hit with
  | some t =>
    match pickHit s (2 ^ 64 + t.2) (constHits s t.1) with
    | some c => some (raceReport s 0x081 a (placeSpace t.1.place) t.2 c.loader 0 false 0)
    | none => none
  | none =>
    match lowestTouch (fun t => s.dev.marks.any (conflicts s.dev.marks a t.1)) ts with
    | none => none
    | some t =>
      match pickHit s (2 ^ 64 + t.2) (s.dev.marks.filter (conflicts s.dev.marks a t.1)) with
      | some m => some (raceReport s 0x080 a (placeSpace t.1.place) t.2 (partyKey m.party) (accCode m.kind) m.write m.xfer)
      | none => none

/-! ### Marks -/

/-- Whether two marks are of one party, kind and granule. -/
def sameMark (m n : Mark) : Bool :=
  m.gran == n.gran && m.party == n.party && m.kind == n.kind && m.write == n.write && m.sync == n.sync

/-- Keep a mark; a later access of the same party, kind and granule takes the place of an earlier one. -/
def addMark : List Mark → Mark → List Mark
  | [], m => [m]
  | n :: l, m => if sameMark n m then m :: l else n :: addMark l m

/-- Keep the marks of an access that has been performed (R105). -/
def mark (a : Access) (ts : List Touch) (s : State) : State :=
  onDev (fun d => { d with
    marks := ts.foldl (fun l t => addMark l ⟨t.1, a.party, a.kind, a.write, a.sync, a.stamps, a.xfer, a.scope⟩) d.marks }) s

/-- `perform` of R151: check an access at its serialisation points and keep its marks. -/
def perform (a : Access) (ts : List Touch) (s : State) : Except Stop State :=
  match orderTrap s a ts with
  | some t => .error (.trap t)
  | none => .ok (mark a ts s)

/-- Keep the constant marks of a load (R76). -/
def markConst (k : StrandKey) (ts : List Touch) (s : State) : State :=
  onDev (fun d => { d with
    consts := ts.foldl (fun l t =>
      if l.any (fun c => c.gran == t.1 && c.loader.queue == k.queue && c.loader.record == k.record) then l
      else l ++ [⟨t.1, k, none⟩]) d.consts }) s

/-! ### A strand's ordering state -/

/-- The ordering state of the strand in focus. -/
def onOrd (f : OrderState → OrderState) (s : State) : State := onFocus (fun t => { t with ord := f t.ord }) s

/-- All that is ordered before a synchronising instruction of strand `k`: what it knows and its own program order. -/
def ordClock (k : StrandKey) (o : OrderState) : Clock := ⟨addSeen o.clock.seen ⟨k, o.po⟩, o.clock.limited⟩

/-- The next place in program order. -/
def nextPo (s : State) : State := onOrd (fun o => { o with po := o.po + 1 }) s

/-- An access of the strand in focus. -/
def strandAccess (s : State) (kind : AccKind) (write sync : Bool) : Access :=
  ⟨.strand (me s), ordClock (me s) s.tile.ord, kind, write, sync, write, 0, .sys, [⟨s.tile.ord.po, .sys⟩]⟩

/-- The scope at which an order acts at a place: system scope on a scratchpad acts at gang scope (R100). -/
def scopeAt (p : Place) (sc : Scope) : Scope :=
  match p, sc with
  | .pad _, .sys => .gang
  | _, sc => sc

/-- The releases carried by `n` bytes of a place. -/
def relsOf (s : State) (p : Place) (a n : Nat) : List Release :=
  (s.dev.syncs.filter fun x => x.place == p && decide (a ≤ x.addr ∧ x.addr < a + n)).flatMap (·.rels)

/-- Change what is kept of the bytes from `a` on, `n` of them. -/
def onRels (p : Place) (a n : Nat) (f : SyncLoc → SyncLoc) (s : State) : State :=
  onDev (fun d => { d with
    syncs := d.syncs.map fun x => if x.place == p && decide (a ≤ x.addr ∧ x.addr < a + n) then f x else x }) s

/-- The value of `n` bytes is overwritten by an access that is no atomic: a reader of the new value pairs with no earlier
release, until an atomic write follows; a publication pairs with every later value (R97, R99). -/
def clearRels (p : Place) (a n : Nat) (s : State) : State :=
  onRels p a n (fun x => { x with
    rels := x.rels.filter (·.pub), past := x.past ++ x.rels.filter fun r => !r.pub && !x.past.contains r }) s

/-- An atomic write: a reader of its value pairs with every earlier release of the location (R99). -/
def reviveRels (p : Place) (a n : Nat) (s : State) : State :=
  onRels p a n (fun x => { x with rels := x.rels ++ x.past.filter (fun r => !x.rels.contains r), past := [] }) s

/-- Add releases to `n` bytes. -/
def addRels (p : Place) (a n : Nat) (rels : List Release) (s : State) : State :=
  if rels.isEmpty then s
  else
    onDev (fun d => { d with
      syncs := (List.range n).foldl (fun l i =>
        if l.any (fun x => x.place == p && x.addr == a + i) then
          l.map fun x => if x.place = p ∧ x.addr = a + i then { x with rels := x.rels ++ rels } else x
        else l ++ [⟨p, a + i, rels, []⟩]) d.syncs }) s

/-- Acquire from releases at scope `sc`: those whose pair of scopes holds both ways (R99). -/
def acquireFrom (k : StrandKey) (sc : Scope) (rels : List Release) (c : Clock) : Clock :=
  rels.foldl (fun c r => if insideScope r.scope r.by_ k && insideScope sc k r.by_ then joinClock c r.clock else c) c

/-- The releases that a read at scope `sc` can pair with: the publication of a completion only with one at device or
system scope (R97). -/
def pairable (sc : Scope) (rels : List Release) : List Release :=
  rels.filter fun r => !r.pub || match sc with | .dev | .sys => true | .tile | .gang => false

/-- The strand in focus performs a synchronising read of `n` bytes: it meets the releases there, and with an acquire
order takes them (R99). -/
def syncRead (p : Place) (a n : Nat) (acq : Bool) (sc : Scope) (s : State) : State :=
  let rels := pairable (scopeAt p sc) (relsOf s p a n)
  let k := me s
  onOrd (fun o => { o with
    met := o.met ++ rels.filter (fun r => !o.met.contains r)
    clock := if acq then acquireFrom k (scopeAt p sc) rels o.clock else o.clock }) s

/-- The strand in focus performs a synchronising write of `n` bytes: with a release order it releases, and releases of
its earlier FENCEs go with it; an atomic keeps the releases that were there and brings earlier ones back (R99). -/
def syncWrite (p : Place) (a n : Nat) (rel atomic : Bool) (sc : Scope) (s : State) : State :=
  let k := me s
  let own : List Release := if rel then [⟨k, scopeAt p sc, ordClock k s.tile.ord, false, false⟩] else []
  let fences := s.tile.ord.fences.map fun r => { r with scope := scopeAt p r.scope }
  let s := if atomic then reviveRels p a n s else clearRels p a n s
  nextPo (addRels p a n (own ++ fences) s)

/-- A plain write of `n` bytes. -/
def plainWrite (p : Place) (a n : Nat) (s : State) : State := clearRels p a n s

/-- FENCE (R99, R169). -/
def fenceOrder (acq rel : Bool) (sc : Scope) (s : State) : State :=
  let k := me s
  let s := onOrd (fun o => { o with clock := if acq then acquireFrom k sc o.met o.clock else o.clock }) s
  nextPo (onOrd (fun o => { o with
    fences := if rel then ⟨k, sc, ordClock k o, false, false⟩ :: o.fences.filter (fun r => r.scope != sc) else o.fences }) s)

/-- A flit for which strand `k` lacks an acknowledgement: a window store of its own, or the acknowledgement itself. -/
def Flit.owes (k : StrandKey) (f : Flit) : Bool := f.sender == k && ((f.kind == 1 && f.elem.isNone) || f.kind == 5)

/-- A store of strand `k`, or an acknowledgement for it, waits at the network interface of a stopped tile (R33, R392). -/
def owedAt (k : StrandKey) (t : Tile) : Bool := t.net.rx.any (Flit.owes k) || t.net.outbound.any fun f => f.2.owes k

/-- Accesses of strand `k` that have no acknowledgement yet: reduction AMOs still in the routers, and stores held for a
stopped tile (R95, R111). -/
def owedAcks (s : State) (k : StrandKey) : Bool :=
  (s.dev.router.any fun a => a.parts.any fun p => p.1 == k) || owedAt k s.tile || s.others.any fun t => owedAt k t.2

/-- A synchronising instruction is performed only after every access of its region has its acknowledgement (R95). -/
def awaitAcks (s : State) : Except Stop Unit := need (!owedAcks s (me s)) (.wait .acks)

/-! ### Pseudo-regions (R96) -/

/-- Close accesses: the marks that satisfy `p` join their strand's program order at place `po`, toward parties inside
their scope (R96). -/
def closeMarks (p : Mark → Bool) (po : Nat) (s : State) : State :=
  onDev (fun d => { d with
    marks := d.marks.map fun m => if p m then { m with stamps := ⟨po, m.scope⟩ :: m.stamps } else m }) s

end Sys2Proof.Machine
end

