-- ==== Sys2Proof/Machine/Flags.lean ====
section
/-!
DEFINITION. The status and control registers (R52, R55-R57, R120, R121, R136-R138) and every computation on them: SUBST
bits, the rounding mode of an instruction, bank power states, and the values RDCTL reads and WRCTL writes.
-/

namespace Sys2Proof.Machine

open Sys2Proof

/-- Set SUBST bits: they are sticky (R55). -/
def setSubst (b : BitVec 3) (s : State) : State := onFocus (Tile.onSeq fun q => { q with subst := q.subst ||| b }) s

/-- Set SUBST bits on tile `n`, for an engine (R55). -/
def setSubstOn (n : Nat) (b : BitVec 3) (s : State) : State :=
  onTile n (Tile.onSeq fun q => { q with subst := q.subst ||| b }) s

/-- All the SUBST bits of a list of results (R55). -/
def substOf (rs : List Rep) : BitVec 3 := rs.foldl (fun b r => b ||| r.2) 0

/-- rm(): the RND field if it names a mode, else ROUND.MODE (R52, R151). -/
def roundMode (s : State) (r : Rnd) : RMode :=
  match r with
  | .dyn => RMode.ofBits s.tile.seq.round
  | .rne => .rne
  | .rtz => .rtz
  | .rdn => .rdn
  | .rup => .rup

/-- rm() as the two bits a command keeps (R180). -/
def roundBits (s : State) (r : Rnd) : BitVec 2 :=
  match r with
  | .dyn => s.tile.seq.round
  | .rne => 0
  | .rtz => 1
  | .rdn => 2
  | .rup => 3

/-- UFCOUNT accumulates and saturates (R57). -/
def addUf (n : Nat) (s : State) : State :=
  onFocus (Tile.onSeq fun q => { q with ufcount := word (min (q.ufcount.toNat + n) (2 ^ 64 - 1)) }) s

/-! ### Register banks (R121, R187) -/

/-- The state of bank `k`: 0 on, 1 retention, 2 gated (R121). -/
def bankState (vb : BitVec 8) (k : Nat) : Nat := fieldOf vb.toNat (2 * k) 2

/-- The bank of a vector register (R135). -/
def bankOf (r : VReg) : Nat := r.val / 16

/-- Named vector registers: a gated bank raises BANK_OFF, banks in retention stall the instruction until a retention
wake has turned them on (R121, R187). -/
def useBanks (s : State) (rs : List VReg) : Except Stop Unit :=
  if rs.any (fun r => bankState s.tile.seq.vbank (bankOf r) == 2) then .error (.cause 0x002 0)
  else if rs.any (fun r => bankState s.tile.seq.vbank (bankOf r) == 1) then
    .error (.wait (.retention (BitVec.ofNat 4 ((List.range 4).foldl (fun m k =>
      if rs.any (fun r => bankOf r == k && bankState s.tile.seq.vbank k == 1) then m + 2 ^ k else m) 0))))
  else .ok ()

/-- Turn the banks of a mask on, from retention (R121). -/
def wakeBanks (banks : BitVec 4) (vb : BitVec 8) : BitVec 8 :=
  BitVec.ofNat 8 ((List.range 4).foldl (fun m k =>
    m + (if banks.toNat.testBit k && bankState vb k == 1 then 0 else bankState vb k) * 4 ^ k) 0)

/-- The vector registers after VBANK changes: a bank that leaves the gated state reads zero (R121). -/
def regsAfterBank (old new : BitVec 8) (v : Vector VecWord 64) : Vector VecWord 64 :=
  Vector.ofFn fun i => if bankState old (i.val / 16) = 2 ∧ bankState new (i.val / 16) ≠ 2 then 0 else v[i]

/-! ### RDCTL and WRCTL (R136, R179, R180) -/

/-- The tracking of a channel (R17). -/
def chanState (t : Tile) : Chan → ChanState
  | .load => t.chLoad
  | .store => t.chStore
  | .acc => t.chAcc

/-- The quota balance in nanojoules as QUOTA shows it (R120, R414). -/
def quotaBal (s : State) : Word := wordOfInt ((taskOf s (me s)).balance / 1000)

/-- What RDCTL reads (R136). -/
def readCtl (s : State) (r : CtlReg) : Word :=
  let q := s.tile.seq
  match r with
  | .round => q.round.setWidth 64
  | .sat => q.ufthr.setWidth 64
  | .subst => q.subst.setWidth 64
  | .ufcount => q.ufcount
  | .vbank => q.vbank.setWidth 64
  | .quota => quotaBal s
  | .cycle => q.cycle
  | .vl => word q.vl
  | .cwlr => word s.tile.chLoad.readMark
  | .cwlv => word s.tile.chLoad.visMark
  | .cwsr => word s.tile.chStore.readMark
  | .cwsv => word s.tile.chStore.visMark
  | .cwar => word s.tile.chAcc.readMark
  | .cwav => word s.tile.chAcc.visMark

/-- WRCTL VBANK: a state code of 3 raises CTL_ACCESS; a bank that goes to retention or off waits until no earlier
engine command reads its registers, which hold nothing here because a command takes its registers when it issues
(R179, R180, R239). -/
def writeVbank (x : Word) (s : State) : Except Stop State :=
  let new : BitVec 8 := x.setWidth 8
  if (List.range 4).any (fun k => bankState new k == 3) then .error (.cause 0x004 0)
  else .ok (onFocus (Tile.onSeq fun q => { q with vbank := new, v := regsAfterBank q.vbank new q.v }) s)

/-- What WRCTL does (R179). -/
def writeCtl (r : CtlReg) (x : Word) (s : State) : Except Stop State :=
  match r with
  | .round => .ok (onFocus (Tile.onSeq fun q => { q with round := x.setWidth 2 }) s)
  | .sat => .ok (onFocus (Tile.onSeq fun q => { q with ufthr := x.setWidth 16 }) s)
  | .subst => .ok (onFocus (Tile.onSeq fun q => { q with subst := q.subst &&& ~~~(x.setWidth 3) }) s)
  | .ufcount => .ok (onFocus (Tile.onSeq fun q => { q with ufcount := x }) s)
  | .vbank => writeVbank x s
  | .quota | .cycle | .vl | .cwlr | .cwlv | .cwsr | .cwsv | .cwar | .cwav => .error (.cause 0x004 0)

end Sys2Proof.Machine
end

