-- ==== Sys2Proof/Machine/Operands.lean ====
section
/-!
DEFINITION. Operand forms: the lanes of vector registers and their guards (R140, R151), effective addresses and the
checks of the three spaces (R68-R73), typed pages (R87-R89), and the shared strand accesses: element loads and stores
checked whole before any part is performed (R215-R218).
-/

namespace Sys2Proof.Machine

open Sys2Proof

/-! ### Lanes (R140, R151) -/

/-- Lanes of a vector register at type `t`. -/
def vlmax (t : Fmt) : Nat := 2048 / t.bits

/-- elem(v, i, t): the bits of lane `i`. -/
def elem (v : VecWord) (i : Nat) (t : Fmt) : Nat := (v.extractLsb' (i * t.bits) t.bits).toNat

/-- The lowest byte of lane `i`. -/
def laneByte (t : Fmt) (i : Nat) : Nat := i * t.bits / 8

/-- active(i): below VL, and the guard bit of the lane's lowest byte, inverted by GINV (R140). -/
def activeLane (s : State) (t : Fmt) (g : Guard) (i : Nat) : Bool :=
  decide (i < s.tile.seq.vl) && ((getP s g.p).getLsbD (laneByte t i) != g.inv)

/-- The active lanes, ascending. -/
def activeLanes (s : State) (t : Fmt) (g : Guard) : List Nat :=
  (List.range (vlmax t)).filter (activeLane s t g)

/-- A vector register with lane `i` of type `t` replaced. -/
def setElem (v : VecWord) (i : Nat) (t : Fmt) (x : Nat) : VecWord :=
  (v &&& ~~~(BitVec.ofNat 2048 ((2 ^ t.bits - 1) * 2 ^ (i * t.bits)))) |||
    BitVec.ofNat 2048 (x % 2 ^ t.bits * 2 ^ (i * t.bits))

/-- Write the given lanes, the others keep their contents (R140). -/
def setElems (v : VecWord) (t : Fmt) (xs : List (Nat × Nat)) : VecWord :=
  xs.foldl (fun v x => setElem v x.1 t x.2) v

/-- The bytes of a vector register. -/
def vecBytes (v : VecWord) : List Byte := leBytes 256 v.toNat

/-- A vector register from bytes, zero beyond them. -/
def bytesVec (bs : List Byte) : VecWord := BitVec.ofNat 2048 (leNat bs)

/-! ### Spaces (R68-R71) -/

/-- ea(a, off): base plus the signed offset, modulo 2^64 (R69). -/
def effAddr (s : State) (a : SReg) (off : BitVec 20) : Nat := (getS s a + off.signExtend 64).toNat

/-- On whose behalf an access is made: the tile it is made from, and the strand. -/
structure Who where
  tile : Nat
  key : StrandKey
deriving DecidableEq, Repr

/-- The strand in focus. -/
def self (s : State) : Who := ⟨s.tileNo, me s⟩

/-- Bytes found in storage, with the page they lie in when the space is global. -/
structure Spot where
  piece : Piece
  leaf : Option Leaf
deriving DecidableEq, Repr

/-- The address by which reports name a scratchpad byte of the accessing strand's gang (R107). -/
def padReport (i off : Nat) : Nat := i * 0x200000 + off

/-- Bytes of the own scratchpad (R70). -/
def localSpot (w : Who) (addr n : Nat) : Except Stop Spot :=
  if addr + n ≤ 0x200000 then .ok ⟨⟨.pad w.tile, addr, n, padReport w.key.tile addr⟩, none⟩
  else .error (.cause 0x048 (max addr 0x200000))

/-- Bytes of a peer's scratchpad through the gang window (R71). -/
def windowSpot (s : State) (w : Who) (addr n : Nat) : Except Stop Spot :=
  let peer := addr / 0x200000
  let off := addr % 0x200000
  if 0x8000000 ≤ addr ∨ gangSize s w.key ≤ peer then .error (.cause 0x049 addr)
  else if 0x200000 < off + n then .error (.cause 0x049 ((peer + 1) * 0x200000))
  else if peer = w.key.tile then .ok ⟨⟨.pad w.tile, off, n, addr⟩, none⟩
  else
    match (gangOf s w.key).tiles[peer]? with
    | some t => .ok ⟨⟨.pad t, off, n, addr⟩, none⟩
    | none => .error (.wait (.peer peer none))

/-- The byte at `addr` of the task's address space, of the access that starts at `start` (R69, R371). -/
def globalByte (s : State) (w : Who) (u : Use) (start addr : Nat) : Except Stop Spot :=
  (locateIn s (strandSpace s w.key) u start addr).map fun f => ⟨⟨f.place, f.addr, 1, addr⟩, some f.leaf⟩

/-- Bytes of the task's address space: those in the page of the first byte and, where they run into the next page, those
that lie there (R69, R371). -/
def globalPair (s : State) (w : Who) (u : Use) (addr n : Nat) : Except Stop (Spot × Option Spot) := do
  let k := min n (4096 - addr % 4096)
  let f ← globalByte s w u addr addr
  let head : Spot := { f with piece := { f.piece with n := k } }
  if n ≤ k then .ok (head, none)
  else
    let g ← globalByte s w u addr ((addr + k) % 2 ^ 64)
    .ok (head, some { g with piece := { g.piece with n := n - k } })

/-- Bytes of the task's address space that lie in one page. -/
def globalSpot (s : State) (w : Who) (u : Use) (addr n : Nat) : Except Stop Spot := (globalPair s w u addr n).map (·.1)

/-- Bytes of a space (R68). -/
def spotAt (s : State) (w : Who) (sp : Space) (u : Use) (addr n : Nat) : Except Stop Spot :=
  match sp with
  | .glob => globalSpot s w u addr n
  | .loc => localSpot w addr n
  | .win => windowSpot s w addr n

/-- Bytes of a space, with those of a second page where they run into one. -/
def spotPair (s : State) (w : Who) (sp : Space) (u : Use) (addr n : Nat) : Except Stop (Spot × Option Spot) :=
  match sp with
  | .glob => globalPair s w u addr n
  | _ => (spotAt s w sp u addr n).map fun p => (p, none)

/-- Record the use of a page (R372, R376). -/
def useSpot (w : Who) (u : Use) (p : Spot) (s : State) : State :=
  match p.leaf with
  | some x => touch (strandSpace s w.key) u ⟨x, p.piece.place, p.piece.addr⟩ s
  | none => s

/-- Uncorrectable data in a line read (R412). -/
def poisonTrap (s : State) (p : Piece) : Except Stop Unit :=
  need (!(p.place == .dev && poisoned s p.addr p.n)) (.cause 0x1C3 0)

/-! ### Typed pages (R87-R89) -/

/-- The format code of a page, if it is typed (R87). -/
def pageFmt (x : Option Leaf) : Option Nat :=
  match x with
  | some l => if pteTyped l.entry then some (pteFmt l.entry) else none
  | none => none

/-- Bytes of storage that one element of type `t` takes in a page of format `p`; an F4 element is reached through its
byte (R73, R88). -/
def storedBytes (p : Option Nat) (t : Fmt) : Nat :=
  match p with
  | none => max 1 (t.bits / 8)
  | some c => match Fmt.ofCode c with | some f => max 1 (f.bits / 8) | none => max 1 (t.bits / 8)

/-- The DS8 block size of a page (R368). -/
def pageBlock (e : Nat) : Nat := 16 * 2 ^ pteGeom e

/-- The virtual address of the exponent byte of an element of a DS8 page (R87, R370). -/
def exponentAddr (s : State) (fn : Nat) (x : Leaf) (addr : Nat) : Nat :=
  ((fnRegs s fn).etbase.toNat + x.vbase / 16 + (addr - x.vbase) / pageBlock x.entry) % 2 ^ 64

/-- Convert the stored element of a page of format `p` to `t` (R88): integers narrow to integers by their low bits. -/
def convertElem (p : Fmt) (mode : RMode) (e : Nat) (t : Fmt) (raw : Nat) : Rep :=
  if p = t then (raw, 0) else roundTo t mode .none 127 p.isInt (decodeNum p e raw)

/-- Whether a load of type `t` may take its elements from a page of format `p` (R88). -/
def loadFormatOk (p : Option Nat) (t : Fmt) (codec : Bool) : Bool :=
  match p with
  | none => true
  | some c => match Fmt.ofCode c with | some f => f == t || t != .ds8 | none => codec && 16 ≤ c

/-- Whether a write of type `t` may go to a page of format `p` (R89). -/
def storeFormatOk (p : Option Nat) (t : Fmt) : Bool :=
  match p with
  | none => true
  | some c => c == t.code

/-! ### Elements of an access -/

/-- One element of a strand access: its lane, its address, which nibble of the byte an F4 lane is, and whether no rule asks
for its alignment: an indexed lane (R73; log 54). -/
structure Elem where
  lane : Nat
  addr : Nat
  high : Bool
  loose : Bool
deriving DecidableEq, Repr

/-- An element with its storage, in a DS8 page that must be converted its exponent byte, and its bytes in a second page. -/
structure ElemSpot where
  elem : Elem
  spot : Spot
  expo : Option Spot
  tail : Option Spot
deriving DecidableEq, Repr

/-- The storage of an element. -/
def ElemSpot.spots (x : ElemSpot) : List Spot := x.spot :: x.tail.toList

/-- The exponent byte that an element of a DS8 page needs for a load of another type (R88, R370). -/
def findExponent (s : State) (u : Use) (t : Fmt) (e : Elem) (x : Option Leaf) : Except Stop (Option Spot) :=
  match pageFmt x, x with
  | some 0x0E, some l =>
    if u == .read && t != .ds8 then do
      let ex ← spotAt s (self s) .glob .read (exponentAddr s (taskOf s (me s)).fn l e.addr) 1
      need (pageFmt ex.leaf == none) (.cause 0x054 ex.piece.report)
      .ok (some ex)
    else .ok none
  | _, _ => .ok none

/-- INFO0 of a stop, by which the lowest faulting address is chosen (R114). -/
def Stop.addr : Stop → Nat
  | .trap t => t.info0.toNat
  | .wait _ => 0
  | .service _ _ _ _ fail => fail.info0.toNat

/-- The lesser of two stops: the lower cause, then the lower address (R115, R217). -/
def worse (a b : Stop) : Stop := if b.code < a.code ∨ (b.code = a.code ∧ b.addr < a.addr) then b else a

/-- Two checks of which the lower cause is reported (R115). -/
def both {α β : Type} (x : Except Stop α) (y : Except Stop β) : Except Stop (α × β) :=
  match x, y with
  | .ok a, .ok b => .ok (a, b)
  | .error e, .ok _ => .error e
  | .ok _, .error e => .error e
  | .error a, .error b => .error (worse a b)

/-- Find the storage of one element of type `t`, with the checks of R69-R73 and R371. -/
def findElem (s : State) (sp : Space) (u : Use) (t : Fmt) (e : Elem) : Except Stop ElemSpot := do
  let first ← spotAt s (self s) sp u e.addr 1
  let n := storedBytes (pageFmt first.leaf) t
  let spots ← spotPair s (self s) sp u e.addr n
  let (_, ex) ← both (need (e.loose || e.addr % n == 0) (.cause 0x04A e.addr)) (findExponent s u t e spots.1.leaf)
  .ok ⟨e, spots.1, ex, spots.2⟩

/-- The storage of the one element of a scalar access: the address checks of its space, then MISALIGNED against the
stored element size, then the page (R73, R115, R215, R219). -/
def findScalar (s : State) (sp : Space) (u : Use) (t : Fmt) (addr : Nat) : Except Stop ElemSpot := do
  match sp with
  | .glob => need (canonical addr) (.cause 0x040 addr)
  | .loc => let _ ← localSpot (self s) addr (storedBytes none t)
  | .win => let _ ← windowSpot s (self s) addr (storedBytes none t)
  let n :=
    match sp, globalSpot s (self s) u addr 1 with
    | .glob, .ok f => storedBytes (pageFmt f.leaf) t
    | _, _ => storedBytes none t
  need (addr % n == 0) (.cause 0x04A addr)
  findElem s sp u t ⟨0, addr, false, false⟩

/-- Check every element; of several stops the least is reported (R217). -/
def findElems (s : State) (sp : Space) (u : Use) (t : Fmt) : List Elem → Except Stop (List ElemSpot)
  | [] => .ok []
  | e :: es => (both (findElem s sp u t e) (findElems s sp u t es)).map fun x => x.1 :: x.2

/-- The touches of a list of elements. -/
def touchesOf (xs : List ElemSpot) : List Touch := xs.flatMap fun x => x.spots.flatMap fun p => p.piece.touches

/-- The touches of the exponent bytes that a list of elements needs. -/
def expoTouches (xs : List ElemSpot) : List Touch :=
  xs.flatMap fun x => match x.expo with | some e => e.piece.touches | none => []

/-- The lowest address at which a page of the elements satisfies `bad`. -/
def lowestBad (bad : Option Leaf → Bool) (xs : List ElemSpot) : Option Nat :=
  (xs.flatMap ElemSpot.spots).foldl (fun acc p =>
    if bad p.leaf then (match acc with | some b => some (min b p.piece.report) | none => some p.piece.report) else acc) none

/-- The bytes of a piece as a constant load sees them: of a granule that the host has rewritten since the task first
loaded it, the old or the new contents (R74, R76; log 48). -/
def pieceBytes (s : State) (const : Bool) (p : Piece) : List Byte :=
  (List.range p.n).map fun i =>
    let a := p.addr + i
    let now := (placeMem s p.place).read a
    if const then
      match s.dev.consts.find? fun c => c.gran == ⟨p.place, a / 32⟩ && c.loader.queue == (me s).queue &&
          c.loader.record == (me s).record with
      | some ⟨_, _, some old⟩ => if freeAt s (2 ^ 65 + a / 32) % 2 = 0 then now else old.getD (a % 32) now
      | _ => now
    else now

/-- The stored bytes of an element. -/
def elemBytes (s : State) (const : Bool) (x : ElemSpot) : List Byte := x.spots.flatMap fun p => pieceBytes s const p.piece

/-- The bits of an element. -/
def rawElem (s : State) (const : Bool) (t : Fmt) (x : ElemSpot) : Nat :=
  let raw := leNat (elemBytes s const x)
  let four : Bool := match pageFmt x.spot.leaf with | some c => c == 0x0D | none => t == .f4
  if four then (if x.elem.high then raw / 16 else raw % 16) else raw

/-- The value of an element at type `t`, converted from its page's format (R88). -/
def elemValue (s : State) (const : Bool) (t : Fmt) (x : ElemSpot) : Rep :=
  let raw := rawElem s const t x
  match pageFmt x.spot.leaf with
  | none => (raw, 0)
  | some c =>
    match Fmt.ofCode c with
    | none => (raw, 0)
    | some p =>
      let e := match x.expo with | some ex => leNat (pieceBytes s false ex.piece) | none => 127
      convertElem p (RMode.ofBits s.tile.seq.round) e t raw

/-- Use every page of an access (R372). -/
def useSpots (u : Use) (xs : List ElemSpot) (s : State) : State :=
  xs.foldl (fun s x =>
    let s := x.spots.foldl (fun s p => useSpot (self s) u p s) s
    match x.expo with | some ex => useSpot (self s) .read ex s | none => s) s

/-- A peer's tile must be able to answer a read (R33, R391). -/
def servedPeers (s : State) (xs : List ElemSpot) : Except Stop Unit :=
  match xs.find? fun x => match x.spot.piece.place with | .pad n => n != s.tileNo && unserved (tileAt s n) | _ => false with
  | some x => .error (.wait (.peer (x.spot.piece.report / 0x200000) none))
  | none => .ok ()

/-- No line that the spots lie in is poisoned (R412). -/
def spotsSound (s : State) : List Spot → Except Stop Unit
  | [] => .ok ()
  | p :: ps => do poisonTrap s p.piece; spotsSound s ps

/-- Every line of an access, exponent bytes among them, is sound (R370, R412). -/
def poisonFree (s : State) (xs : List ElemSpot) : Except Stop Unit :=
  spotsSound s (xs.flatMap fun x => x.spots ++ x.expo.toList)

/-- The format that fixes a whole access: the probe's page if there is one, else the first element's (R88). -/
def fixedFmt (probe : Option ElemSpot) (xs : List ElemSpot) : Option Nat :=
  match probe with
  | some p => pageFmt p.spot.leaf
  | none => match xs with | x :: _ => pageFmt x.spot.leaf | [] => none

/-- Check an access whole (R217): the elements, and, for LDV and STV, the page of A as if lane 0 were active. -/
def checkAccess (s : State) (sp : Space) (u : Use) (t : Fmt) (probe : Option Nat) (es : List Elem)
    (fmtOk : Option Nat → Bool) : Except Stop (List ElemSpot) := do
  let (a, xs) ←
    match probe, sp with
    | some a, .glob => (both (globalSpot s (self s) u a 1) (findElems s sp u t es)).map fun r =>
        (some (a, pageFmt r.1.leaf), r.2)
    | _, _ => (findElems s sp u t es).map fun xs => (none, xs)
  let p := match a with | some (_, p) => p | none => fixedFmt none xs
  match a, lowestBad (fun l => pageFmt l != p || !fmtOk p) xs with
  | some (a, p), some b => .error (.cause 0x054 (if fmtOk p then b else min a b))
  | some (a, p), none => if fmtOk p then .ok xs else .error (.cause 0x054 a)
  | none, some b => .error (.cause 0x054 b)
  | none, none => .ok xs

/-! ### The shared strand accesses -/

/-- Whether a load is constant: global, plain, no .bp (R74). -/
def constLoad (m : MemOp) : Bool := m.space == .glob && m.order == .plain && !m.bp

/-- The acquires of a load, after all of its elements have been read (R99, R218). -/
def acquireAll (m : MemOp) (xs : List ElemSpot) (s : State) : State :=
  nextPo ((xs.flatMap ElemSpot.spots).foldl (fun s p => syncRead p.piece.place p.piece.addr p.piece.n true m.scope s) s)

/-- Accesses of one strand to one granule keep their program order (R102): a reduction AMO of its own that is still in
the routers at a touched granule comes first. -/
def ownRouted (s : State) (ts : List Touch) : Except Stop Unit :=
  need (!(s.dev.router.any fun a => (a.parts.any fun p => p.1 == me s) && ts.any fun t => t.1 == ⟨a.place, a.addr / 32⟩))
    (.wait .acks)

/-- The reads of a checked load at their serialisation points: it waits for acknowledgements where it synchronises, and
its order is checked (R95, R105, R217, R218). -/
def performReads (s : State) (m : MemOp) (xs : List ElemSpot) : Except Stop State := do
  let sync := m.order != .plain
  servedPeers s xs
  ownRouted s (touchesOf xs)
  if sync then awaitAcks s
  let s ← perform (strandAccess s (if sync then .sync else .load) false sync) (touchesOf xs) s
  perform (strandAccess s .load false false) (expoTouches xs) s

/-- What a load whose reads have been performed leaves: constant marks on its elements' granules (log 48), used pages, and
acquires (R74, R76, R99, R372). -/
def noteLoad (m : MemOp) (xs : List ElemSpot) (s : State) : State :=
  let s := if constLoad m then markConst (me s) (touchesOf xs) s else s
  let s := useSpots .read xs s
  if m.order != .plain then acquireAll m xs s else s

/-- Perform a checked load, and give each lane its value with the SUBST bits of conversions (R55, R88, R217, R218). -/
def performLoad (s : State) (m : MemOp) (xs : List ElemSpot) : Except Stop (State × List (Nat × Rep)) := do
  let s ← performReads s m xs
  poisonFree s xs
  .ok (noteLoad m xs s, xs.map fun x => (x.elem.lane, elemValue s (constLoad m) m.ty x))

/-- Store bytes, or one nibble, at a piece, on behalf of `w`; `elem` names the copy whose element they are. A store to a
tile that is frozen or halted waits at its network interface (R33, R217, R391). -/
def putPiece (w : Who) (elem : Option (Chan × Nat × Nat)) (p : Piece) (nib : Option Bool) (bytes : List Byte) (s : State) :
    State :=
  match p.place with
  | .pad n =>
    if n != w.tile && unserved (tileAt s n) then postFlit w.tile n ⟨1, w.key, false, p.addr, bytes, nib, elem⟩ s
    else setPlaceMem s p.place (landBytes (placeMem s p.place) p.addr nib bytes)
  | _ => setPlaceMem s p.place (landBytes (placeMem s p.place) p.addr nib bytes)

/-- Store bytes, or one nibble, at a piece, on behalf of the strand in focus. -/
def storePiece (p : Piece) (nib : Option Bool) (bytes : List Byte) (s : State) : State :=
  putPiece (self s) none p nib bytes s

/-- Write one element's bits; an F4 lane writes only its nibble (R217). -/
def storeElem (t : Fmt) (s : State) (x : ElemSpot) (v : Nat) : State :=
  let p := x.spot.piece
  if t = .f4 then storePiece p (some x.elem.high) [BitVec.ofNat 8 (v % 16)] s
  else
    let s := storePiece p none (leBytes p.n v) s
    match x.tail with
    | some q => storePiece q.piece none (leBytes q.piece.n (v / 2 ^ (8 * p.n))) s
    | none => s

/-- Write the elements in ascending lane order (R217). -/
def storeElems (t : Fmt) (val : Nat → Nat) (xs : List ElemSpot) (s : State) : State :=
  xs.foldl (fun s x => storeElem t s x (val x.elem.lane)) s

/-- The ordering effect of writes: a release is one release for all elements; a plain write ends earlier releases of
its bytes (R99, R218). -/
def writeOrder (m : MemOp) (xs : List ElemSpot) (s : State) : State :=
  let ps := (xs.flatMap ElemSpot.spots).map (·.piece)
  if m.order = .plain then ps.foldl (fun s p => plainWrite p.place p.addr p.n s) s
  else
    let k := me s
    let own := fun (p : Place) => (⟨k, scopeAt p m.scope, ordClock k s.tile.ord, false, false⟩ : Release)
    nextPo (ps.foldl (fun s p =>
      addRels p.place p.addr p.n (own p.place :: s.tile.ord.fences.map fun r => { r with scope := scopeAt p.place r.scope })
        (clearRels p.place p.addr p.n s)) s)

/-- Perform a checked store (R217, R218). -/
def performStore (s : State) (m : MemOp) (val : Nat → Nat) (xs : List ElemSpot) : Except Stop State := do
  let sync := m.order != .plain
  ownRouted s (touchesOf xs)
  if sync then awaitAcks s
  let s ← perform (strandAccess s (if sync then .sync else .store) true sync) (touchesOf xs) s
  let s := useSpots .write xs s
  .ok (writeOrder m xs (storeElems m.ty val xs s))

/-! ### Scalar loads by the system instructions -/

/-- Read `n` bytes from `addr` on, of the coherent plain load of the strand that starts at `start` (R75, R176). -/
def coherentFrom (s : State) (start addr : Nat) : Nat → Except Stop (State × List Byte)
  | 0 => .ok (s, [])
  | n + 1 => do
    let p ← globalByte s (self s) .read start addr
    ownRouted s p.piece.touches
    let s ← perform (strandAccess s .load false false) p.piece.touches s
    poisonTrap s p.piece
    let s := useSpot (self s) .read p s
    let (s, rest) ← coherentFrom s start (addr + 1) n
    .ok (s, (placeMem s p.piece.place).read p.piece.addr :: rest)

/-- Read `n` bytes at a global address as coherent plain loads of the strand (R75, R176). -/
def coherentBytes (s : State) (addr n : Nat) : Except Stop (State × List Byte) := coherentFrom s addr addr n

/-- Read `n` bytes of the own scratchpad as plain loads of the strand (R181). -/
def localBytes (s : State) (addr n : Nat) : Except Stop (State × List Byte) := do
  let p ← localSpot (self s) addr n
  let s ← perform (strandAccess s .load false false) p.piece.touches s
  .ok (s, s.tile.pad.readBytes addr n)

end Sys2Proof.Machine
end

