-- ==== Sys2Proof/Machine/Beats.lean ====
section
/-!
DEFINITION. Beats, token records, manifests and the packing of elements into messages (R258, R293, R294, R302, R306).
-/

namespace Sys2Proof.Machine

open Sys2Proof

/-! ### Token records (R258) -/

/-- The 16-byte record of a token as a number. -/
def tokRecord : Tok → Nat
  | .elem c r v =>
    c.toNat + r.toNat * 2 ^ 32 + (match v with | some x => x.toNat * 2 ^ 64 + 2 ^ 101 | none => 0)
  | .stop k => 2 ^ 96 + k.val * 2 ^ 98
  | .done => 2 * 2 ^ 96

/-- Whether a record has a defined kind and zero reserved bits (R294). -/
def recordOk (r : Nat) : Bool := fieldOf r 96 2 != 3 && fieldOf r 102 26 == 0

/-- The token of a record. -/
def tokOf (r : Nat) : Tok :=
  match fieldOf r 96 2 with
  | 0 => .elem (BitVec.ofNat 32 r) (BitVec.ofNat 32 (r / 2 ^ 32))
      (if fieldOf r 101 1 = 1 then some (BitVec.ofNat 32 (r / 2 ^ 64)) else none)
  | 1 => .stop (Fin.ofNat 8 (fieldOf r 98 3))
  | _ => .done

/-! ### Beats (R293, R294) -/

/-- Whether the beat is an END. -/
def isEnd (b : Beat) : Bool := fieldOf b.side.toNat 0 2 == 2
/-- Whether the beat is DATA. -/
def isData (b : Beat) : Bool := fieldOf b.side.toNat 0 2 == 0
/-- Whether the beat is TOKENS. -/
def isTokens (b : Beat) : Bool := fieldOf b.side.toNat 0 2 == 1

/-- Valid bytes of a beat (R293). -/
def beatLen (b : Beat) : Nat :=
  if isData b then 8 * (fieldOf b.side.toNat 5 3 + 1) else if isTokens b then 16 * (fieldOf b.side.toNat 5 2 + 1) else 0

/-- The token records of a TOKENS beat. -/
def beatRecords (b : Beat) : List Nat :=
  (List.range (fieldOf b.side.toNat 5 2 + 1)).map fun i => fieldOf b.data.toNat (128 * i) 128

/-- Whether a beat may be taken (R294). -/
def beatOk (b : Beat) : Bool :=
  fieldOf b.side.toNat 0 2 != 3 && fieldOf b.side.toNat 2 3 == 0 &&
    (isData b || fieldOf b.side.toNat 7 1 == 0) && (!isEnd b || fieldOf b.side.toNat 5 3 == 0) &&
    b.data.toNat / 2 ^ (8 * beatLen b) == 0 && (!isTokens b || (beatRecords b).all recordOk)

/-- The valid bytes of a beat. -/
def beatBytes (b : Beat) : List Byte := leBytes (beatLen b) b.data.toNat

/-- A beat of bytes: `kind` 0 DATA by 8-byte words, 1 TOKENS by records. -/
def mkBeat (kind : Nat) (bs : List Byte) : Beat :=
  let cnt := if kind = 0 then ceilDiv bs.length 8 - 1 else ceilDiv bs.length 16 - 1
  ⟨BitVec.ofNat 512 (leNat bs), BitVec.ofNat 8 (kind + cnt * 32)⟩

/-- The END beat. -/
def endBeat : Beat := ⟨0, 2⟩

/-- Cut bytes into `n` beats. -/
def mkBeats (kind : Nat) : Nat → List Byte → List Beat
  | 0, _ => []
  | n + 1, bs => mkBeat kind (bs.take 64) :: mkBeats kind n (bs.drop 64)

/-- A message of bytes: DATA beats and END (R306). -/
def dataMessage (bs : List Byte) : List Beat := mkBeats 0 (ceilDiv bs.length 64) bs ++ [endBeat]

/-! ### Packing of elements (R306) -/

/-- Elements of `bits` bits packed densely, as a number. -/
def packNat (bits : Nat) : List Nat → Nat
  | [] => 0
  | x :: xs => x % 2 ^ bits + packNat bits xs * 2 ^ bits

/-- A beat that ends what a load or a copy waits for: END, or one that cannot be taken. -/
def beatEnds (b : Beat) : Bool := isEnd b || !beatOk b || isTokens b

/-- The bytes of packed elements. -/
def packBytes (bits : Nat) (xs : List Nat) : List Byte := leBytes (ceilDiv (bits * xs.length) 8) (packNat bits xs)

/-- `n` elements of `bits` bits unpacked from a number. -/
def unpackNat (bits : Nat) : Nat → Nat → List Nat
  | 0, _ => []
  | n + 1, x => x % 2 ^ bits :: unpackNat bits n (x / 2 ^ bits)

/-- The data of the beats of a message. -/
def messageBytes (bs : List Beat) : List Byte := (bs.filter isData).flatMap beatBytes

/-- The elements a returned message holds, or none when bits beyond the last whole element are nonzero (R306). -/
def returnedElems (obits : Nat) (bs : List Beat) : Option (List Nat) :=
  let data := messageBytes bs
  let n := 8 * data.length / max 1 obits
  let x := leNat data
  if x / 2 ^ (n * obits) = 0 then some (unpackNat obits n x) else none

/-! ### Bound regions and their manifests (R38, R90, R302) -/

/-- The physical region that a strand's gang names by `i`, if it is below the gang's region count (R38, R39). -/
def regionNo (s : State) (k : StrandKey) (i : Nat) : Option Nat := (gangOf s k).regions[i]?

/-- A port entry of the manifest of the gang's region `i`. -/
def manPort (s : State) (k : StrandKey) (i port : Nat) : Option ManPort := do
  let r ← regionNo s k i
  let m ← (regionAt s r).manifest
  m.ports[port]?

/-! ### Messages at a region port (R306) -/

/-- A message reaches a port of the gang's region `i`, behind those that came before it, unless its user has one there. -/
def enterPort (k : StrandKey) (i port : Nat) (user : PortUser) (bytes : List Byte) (s : State) : State :=
  match regionNo s k i with
  | some r => onRegion r (fun g =>
      if g.serving.any (·.user == user) then g else { g with serving := g.serving ++ [⟨port, user, dataMessage bytes⟩] }) s
  | none => s

/-- The message that a port serves: the one that reached it first. -/
def servedMsg (g : Region) (port : Nat) : Option PortMsg := g.serving.find? (·.port == port)

/-- Whether a message of a user is the one that a port of the gang's region `i` serves. -/
def mayServe (s : State) (k : StrandKey) (i port : Nat) (user : PortUser) : Bool :=
  match regionNo s k i with
  | none => false
  | some r => (regionAt s r).state == .bound && match servedMsg (regionAt s r) port with | some m => m.user == user | none => false

/-- Whether every beat of a user's message has been accepted by its port, its END too. -/
def messageSent (s : State) (k : StrandKey) (i port : Nat) (user : PortUser) : Bool :=
  match (regionNo s k i).bind fun r => servedMsg (regionAt s r) port with
  | some m => m.user == user && m.out.isEmpty
  | none => false

/-- ROLE codes (R302). -/
def roleTile : Nat := 1
/-- COPYIN. -/
def roleCopyIn : Nat := 2
/-- COPYOUT. -/
def roleCopyOut : Nat := 3
/-- CODEC. -/
def roleCodec : Nat := 4

/-- The gang region, its codec port and the port entry that serve codec `c` (R90, R306): of several regions that declare it,
the first in gang-relative order (log 52). -/
def codecPort (s : State) (k : StrandKey) (c : Nat) : Option (Nat × Nat × ManPort) :=
  ((List.range (gangOf s k).regions.length).findSome? fun i => do
    let r ← regionNo s k i
    let m ← (regionAt s r).manifest
    if m.codecs.testBit (c - 16) then
      let j ← (List.range 8).find? fun j => match m.ports[j]? with | some p => p.role == roleCodec && p.ifmt == c | none => false
      let p ← m.ports[j]?
      some (i, j, p)
    else none)

end Sys2Proof.Machine
end

