-- ==== Sys2Proof/Machine/Descriptors.lean ====
section
/-!
DEFINITION. Tensor descriptors (R77 to R82): the record, the driver table and the private window, the checks of R81, the
address and the block exponent of an element, and narrowing (R82, R182).
-/

namespace Sys2Proof.Machine

open Sys2Proof

/-- The fields of a 64-byte descriptor given as a number (R77). -/
def descOf (x : Nat) : Option Desc :=
  (Space.ofCode (fieldOf x 64 2)).map fun sp => {
    base := fieldOf x 0 64, space := sp, fmt := fieldOf x 67 5, ndim := fieldOf x 72 3, bgeom := fieldOf x 75 2,
    bdim := fieldOf x 77 3, esrc := x.testBit 80, rights := fieldOf x 81 5, efix := fieldOf x 88 8,
    fregion := fieldOf x 96 4, fpath := x.testBit 100, fport := fieldOf x 101 3,
    ext := (List.range 5).map fun d => fieldOf x (128 + 24 * d) 24,
    stride := (List.range 5).map fun d => signedOf 40 (fieldOf x (248 + 40 * d) 40),
    ebase := fieldOf x 448 64, origin := [0, 0, 0, 0, 0],
    rootExt := (List.range 5).map fun d => fieldOf x (128 + 24 * d) 24, tdi := 0 }

/-- Whether a descriptor record is refused at use (R68, R77). -/
def descRefused (x : Nat) : Bool :=
  let ndim := fieldOf x 72 3
  fieldOf x 86 2 != 0 || fieldOf x 104 24 != 0 || !x.testBit 66 || fieldOf x 64 2 == 3 || ndim == 0 || 5 < ndim ||
    (fieldOf x 67 5 == 0x0E && ndim ≤ fieldOf x 77 3) ||
    (List.range 5).any fun d =>
      if d < ndim then fieldOf x (128 + 24 * d) 24 == 0
      else fieldOf x (128 + 24 * d) 24 != 0 || fieldOf x (248 + 40 * d) 40 != 0

/-- A driver-table entry as the command that names `tdi` reads it (R78, R80, R350). -/
def driverDesc (s : State) (k : StrandKey) (index tdi : Nat) : Except Stop Desc := do
  let q := queueAt s k.queue
  need (decide (index < q.dtsize)) (.cause 0x050 tdi)
  let bytes ← devRead s (strandSpace s k) ((q.dtbase.toNat + 64 * index) % 2 ^ 64) 64
  let x := leNat bytes
  need (!descRefused x) (.cause 0x051 tdi)
  match descOf x with
  | some d => .ok { d with tdi := tdi }
  | none => .error (.cause 0x051 tdi)

/-- The driver-table index that a descriptor index stands for (R78, R82). -/
def rootIndex (s : State) (tdi : Nat) : Nat :=
  if tdi < 0xFFC0 then tdi else match s.tile.window[tdi - 0xFFC0]? with | some (some p) => p.root | _ => tdi

/-- The driver-table entry that a command of the strand in focus names has been read: its page is used (R80, R372). -/
def useDesc (tdi : Nat) (s : State) : State :=
  devUsed (strandSpace s (me s)) (((queueAt s (me s).queue).dtbase.toNat + 64 * rootIndex s tdi) % 2 ^ 64) 64 s

/-- desc(i): the descriptor a command of the strand in focus names (R78, R80, R82). The root's entry is read anew, so that
what a driver has rewritten there since a narrowing counts; the extents are not judged again (log 49). -/
def getDesc (s : State) (tdi : Nat) : Except Stop Desc :=
  if tdi < 0xFFC0 then driverDesc s (me s) tdi tdi
  else
    match s.tile.window[tdi - 0xFFC0]? with
    | some (some p) => do
      let r ← driverDesc s (me s) p.root tdi
      .ok { r with origin := p.origin, ext := p.ext, rights := Nat.land p.rights r.rights, fpath := p.fpath && r.fpath }
    | _ => .error (.cause 0x051 tdi)

/-- Rights bits (R77). -/
def rightRead : Nat := 1
/-- Write. -/
def rightWrite : Nat := 2
/-- Copy-path. -/
def rightPath : Nat := 4
/-- Fibre-scan. -/
def rightScan : Nat := 8
/-- Atomic. -/
def rightAtomic : Nat := 16

/-- The rights a use needs, with copy-path for a copy through FPATH (R81). -/
def needRights (d : Desc) (tdi rights : Nat) : Except Stop Unit :=
  need (Nat.land d.rights rights == rights) (.cause 0x052 tdi)

/-- The fabric path check of R81 with the port's role (R39, R306); `role` is what the copy's direction needs. -/
def checkPath (s : State) (d : Desc) (role : Nat) : Except Stop Unit :=
  if !d.fpath then .ok ()
  else if (gangOf s (me s)).regions.length ≤ d.fregion then .error (.cause 0x100 0)
  else
    match manPort s (me s) d.fregion d.fport with
    | some p => need (p.role == role) (.trap ⟨0x100, 0, 2, []⟩)
    | none => .error (.trap ⟨0x100, 0, 2, []⟩)

/-- The fabric path check of R81 for a use that is no copy: FREGION below the gang's region count (R39). -/
def checkRegion (s : State) (d : Desc) : Except Stop Unit :=
  need (!d.fpath || decide (d.fregion < (gangOf s (me s)).regions.length)) (.cause 0x100 0)

/-- Bits of an element of a native format code. -/
def codeBits (c : Nat) : Option Nat := (Fmt.ofCode c).map Fmt.bits

/-- Extent in dimension `i`, 1 where unused (R223). -/
def dimOf (d : Desc) (i : Nat) : Nat := if i < d.ndim then d.ext.getD i 1 else 1

/-- Elements that the descriptor spans. -/
def descCount (d : Desc) : Nat := (List.range 5).foldl (fun n i => n * dimOf d i) 1

/-- The index tuple of linear element `n`, dimension 0 fastest. -/
def tupleOf (d : Desc) (n : Nat) : List Nat :=
  ((List.range 5).foldl (fun (acc : List Nat × Nat) i => (acc.1 ++ [acc.2 % dimOf d i], acc.2 / dimOf d i)) ([], n)).1

/-- The element offset of a tuple: the root's, at origin plus tuple (R79, R82). -/
def elemOffset (d : Desc) (t : List Nat) : Int :=
  (List.range 5).foldl (fun acc i => acc + ((d.origin.getD i 0 + t.getD i 0 : Nat) : Int) * d.stride.getD i 0) 0

/-- The bit address of the element at offset `off` of `bits` bits (R79). -/
def elemBit (d : Desc) (bits : Nat) (off : Int) : Int := 8 * (d.base : Int) + off * bits

/-- The byte address of an element, modulo 2^64, and the bit within the byte (R79). -/
def elemByte (d : Desc) (bits : Nat) (off : Int) : Nat × Nat :=
  let b := elemBit d bits off
  (wrapTo 64 (b / 8), (b % 8).toNat)

/-- The linear index L of the block exponent of a tuple (R79), over the root's extents (R82). -/
def blockIndex (d : Desc) (t : List Nat) : Nat :=
  let g := 16 * 2 ^ d.bgeom
  ((List.range d.ndim).foldl (fun (acc : Nat × Nat) i =>
    let x := d.origin.getD i 0 + t.getD i 0
    let e := d.rootExt.getD i 1
    let x := if i = d.bdim then x / g else x
    let e := if i = d.bdim then ceilDiv e g else e
    (acc.1 + x * acc.2, acc.2 * e)) (0, 1)).1

/-- The lowest and the highest element offset that a descriptor spans. -/
def offsetRange (d : Desc) : Int × Int :=
  (List.range 5).foldl (fun (acc : Int × Int) i =>
    let st := d.stride.getD i 0
    let a := (d.origin.getD i 0 : Int) * st
    let b := ((d.origin.getD i 0 + dimOf d i - 1 : Nat) : Int) * st
    (acc.1 + min a b, acc.2 + max a b)) (0, 0)

/-! ### Narrowing (R181, R182) -/

/-- The fields of a narrowing block given as a number (R181). -/
def narrowField (x i : Nat) : Nat := fieldOf x (32 * i) 32

/-- The private entry that narrowing parent `tdi` by block `x` makes, after the checks of R182 that follow the address
check. -/
def narrow (s : State) (tdi : Nat) (d : Desc) (x : Nat) : Except Stop PrivDesc := do
  let last := narrowField x 10
  need (last / 64 == 0 && (List.range 5).all fun i => decide (narrowField x (5 + i) ≤ 0x00FFFFFF)) (.cause 0x051 tdi)
  let rights := last % 32
  let keepPath := last.testBit 5
  need (Nat.land rights d.rights == rights && (!keepPath || d.fpath)) (.cause 0x052 tdi)
  need ((List.range 5).all fun i =>
    let o := narrowField x i
    let n := narrowField x (5 + i)
    if i < d.ndim then decide (1 ≤ n ∧ o + n ≤ d.ext.getD i 0) else o == 0 && n == 0) (.cause 0x053 tdi)
  .ok {
    root := rootIndex s tdi
    origin := (List.range 5).map fun i => d.origin.getD i 0 + narrowField x i
    ext := (List.range 5).map fun i => narrowField x (5 + i)
    rights := rights
    fpath := keepPath }

end Sys2Proof.Machine
end

