-- ==== Sys2Proof/Machine/Queues.lean ====
section
/-!
DEFINITION. The engine command queues, transfer identifiers, watermarks and reply queues of a tile (R13 to R19, R34).
-/

namespace Sys2Proof.Machine

open Sys2Proof

/-- The command queue of an engine. -/
def engQueue (t : Tile) : Eng → List QCmd
  | .load => t.qLoad
  | .store => t.qStore
  | .matrix => t.qMatrix
  | .fibre => t.qFibre

/-- Put the command queue of an engine. -/
def setEngQueue (e : Eng) (q : List QCmd) (t : Tile) : Tile :=
  match e with
  | .load => { t with qLoad := q }
  | .store => { t with qStore := q }
  | .matrix => { t with qMatrix := q }
  | .fibre => { t with qFibre := q }

/-- Entries of each engine's queue (R13). -/
def queueRoom : Eng → Nat
  | .load => 32 | .store => 32 | .matrix => 16 | .fibre => 32

/-- Engine number `i` as the drain masks number them (R34). -/
def engOf (i : Nat) : Eng := match i with | 0 => .load | 1 => .store | 2 => .matrix | _ => .fibre

/-- The place of an engine's counter in `Tile.issued`. -/
def engIx : Eng → Fin 4
  | .load => 0 | .store => 1 | .matrix => 2 | .fibre => 3

/-- The transfer identifier of a command, 0 for no copy (R113). -/
def xferOf (c : QCmd) : Nat := match copyId c.body with | some (_, id) => id | none => 0

/-- Change the tracking of a channel. -/
def onChan (ch : Chan) (f : ChanState → ChanState) (t : Tile) : Tile :=
  match ch with
  | .load => { t with chLoad := f t.chLoad }
  | .store => { t with chStore := f t.chStore }
  | .acc => { t with chAcc := f t.chAcc }

/-- Whether a copy in flight runs on the copy channel of an engine. -/
def flightOn (e : Eng) (c : QCmd) : Bool :=
  match copyId c.body, e with
  | some (.load, _), .load => true
  | some (.store, _), .store => true
  | _, _ => false

/-- The queue of engine `e` on tile `n` is drained of strand `k`'s commands: none is in the queue, and, for a copy
channel, none is still to become visible (R34). -/
def drained (t : Tile) (k : StrandKey) (e : Eng) : Bool :=
  !((engQueue t e).any fun c => c.owner == k) && !(t.flight.any fun c => c.owner == k && flightOn e c)

/-- Every queue that a drain mask names is drained (R34, R174). -/
def maskDrained (t : Tile) (k : StrandKey) (mask : BitVec 4) : Bool :=
  (List.range 4).all fun i => !mask.toNat.testBit i || drained t k (engOf i)

/-- Every queue of strand `k` is drained, and no copy of it is still to become visible (R35). -/
def allDrained (t : Tile) (k : StrandKey) : Bool :=
  maskDrained t k 0xF && !(t.flight.any fun c => c.owner == k)

/-! ### Watermarks (R17) -/

/-- Advance a watermark over the contiguous run of done identifiers. -/
def runUp (done : List Nat) : Nat → Nat → Nat
  | 0, m => m
  | n + 1, m => if done.contains (m + 1) then runUp done n (m + 1) else m

/-- Identifier `id` has finished reading its source. -/
def chanRead (id : Nat) (c : ChanState) : ChanState :=
  let done := id :: c.readDone
  let m := runUp done done.length c.readMark
  { c with readMark := m, readDone := done.filter (m < ·) }

/-- Identifier `id` is visible; a visible copy has also been read. -/
def chanVisible (id : Nat) (c : ChanState) : ChanState :=
  let c := if c.readMark < id ∧ ¬ c.readDone.contains id then chanRead id c else c
  let done := id :: c.visDone
  let m := runUp done done.length c.visMark
  { c with visMark := m, visDone := done.filter (m < ·) }

/-! ### Reply queues (R18, R19) -/

/-- Change a reply queue. -/
def onReply (q : QReg) (f : ReplyQ → ReplyQ) (t : Tile) : Tile := { t with replies := t.replies.set q (f t.replies[q]) }

/-- Reserve an entry: REPLY_OVERFLOW when entries and reservations would exceed 16 (R18). -/
def reserveReply (reply : Option QReg) (s : State) : Except Stop State :=
  match reply with
  | none => .ok s
  | some q =>
    let r := s.tile.replies[q]
    if 16 < r.entries.length + r.reserved + 1 then .error (.cause 0x0C4 0)
    else .ok (onFocus (onReply q fun r => { r with reserved := r.reserved + 1 }) s)

/-- Post an entry to a reply queue of tile `n` for strand `k`; entries for a strand that has ended are discarded
(R18, R35). -/
def postReply (n : Nat) (k : StrandKey) (reply : Option QReg) (entry : Nat) (s : State) : State :=
  match reply with
  | none => s
  | some q =>
    if (tileAt s n).owner = some k then
      onTile n (onReply q fun r => { entries := r.entries ++ [word entry], reserved := r.reserved - 1 }) s
    else s

/-- An entry of a kind (R19). -/
def replyEntry (kind x : Nat) : Nat := kind * 2 ^ 60 + x % 2 ^ 60

/-! ### Issue -/

/-- Issue a command of the strand in focus: the reply entry is reserved, the queue must have room (R15), and the
command's pseudo-region opens after all that precedes it in program order (R96). -/
def issue (e : Eng) (body : Cmd) (reply : Option QReg) (s : State) : Except Stop State := do
  let t ← reserveReply reply s
  need (decide ((engQueue s.tile e).length < queueRoom e)) (.wait (.room e))
  let seq := s.tile.issued[engIx e] + 1
  let cmd : QCmd := {
    owner := me s, seq := seq, body := body, clock := ordClock (me s) s.tile.ord, reply := reply, vpc := getPc s,
    started := false, finished := false, rd := 0, wr := 0, buf := [], beats := [], pass := 0, run := 0, replays := 0,
    cost := 0, flags := 0, droop := false, held := none }
  .ok (nextPo (onFocus (fun x =>
    setEngQueue e (engQueue x e ++ [cmd]) { x with issued := x.issued.set (engIx e) seq }) t))

/-- The outcome of an instruction that issued a command to engine `e`: it retires, and its command is fresh until the
next instruction retires (R116). -/
def finishIssue (e : Eng) (s : State) (r : Except Stop State) : Host.Outcome State Fault Refusal :=
  match r with
  | .ok t => .next (onFocus (fun x => { x with fresh := some (e, x.issued[engIx e]) }) (advance t))
  | .error st => .next (stopShort s.tileNo st s)

/-- The next transfer identifier of a channel goes to this copy (R17, R227). -/
def takeId (ch : Chan) (s : State) : State := onFocus (onChan ch fun c => { c with last := c.last + 1 }) s

/-- The copies of engine `e` in flight. -/
def flightOf (t : Tile) (e : Eng) : List QCmd := t.flight.filter fun c => flightEng c == e

/-- Change the command with number `seq` of strand `k` that was issued to engine `e` of tile `n`: it stands in the
engine's queue or, a copy that its channel has finished, in flight. -/
def onCmd (n : Nat) (e : Eng) (k : StrandKey) (seq : Nat) (f : QCmd → QCmd) (s : State) : State :=
  onTile n (fun t =>
    if (flightOf t e).any fun c => c.owner == k && c.seq == seq then
      { t with flight := mapFirst (fun c => flightEng c == e && c.owner == k && c.seq == seq) f t.flight }
    else setEngQueue e (mapFirst (fun c => c.owner == k && c.seq == seq) f (engQueue t e)) t) s

/-- A copy of engine `e` in flight is held: its engine starts no further command (R116, R231). -/
def stalled (t : Tile) (e : Eng) : Bool := (flightOf t e).any fun c => c.held.isSome

/-- The command at the head of an engine's queue. -/
def headCmd (s : State) (n : Nat) (e : Eng) : Option QCmd := (engQueue (tileAt s n) e).head?

/-- Remove the head command of an engine's queue. -/
def popCmd (n : Nat) (e : Eng) (s : State) : State := onTile n (fun t => setEngQueue e (engQueue t e).tail t) s

end Sys2Proof.Machine
end

