-- ==== Sys2Proof/Machine/Control.lean ====
section
/-!
DEFINITION. Branches, NOP, BRK, TRAP, YIELD, END and FEAT (R131, R161 to R168).
-/

namespace Sys2Proof.Machine

open Sys2Proof

/-- Go to a target: any transfer to a VPC that is not canonical traps at the transfer (R161); a taken transfer leaves
the folio (R337). -/
def jumpTo (target : Word) (s : State) : Except Stop State :=
  if canonical target.toNat then .ok (onFocus (fun t => { t with folio := none }) (setPc target s))
  else .error (.cause 0x040 target.toNat)

/-- A branch condition (R131). -/
def condHolds (c : Cond) (x y : Word) : Bool :=
  match c with
  | .eq => x == y
  | .ne => x != y
  | .lt => x.slt y
  | .ge => !x.slt y
  | .ltz => x.ult y
  | .gez => !x.ult y

/-- B.cond (R131). -/
def execBCond (c : Cond) (a b : SReg) (off : BitVec 24) (s : State) : Host.Outcome State Fault Refusal :=
  if condHolds c (getS s a) (getS s b) then finishJump s (jumpTo (getPc s + off.signExtend 64 * 8) s)
  else finish s (.ok s)

/-- J (R161). -/
def execJ (imm : BitVec 28) (s : State) : Host.Outcome State Fault Refusal :=
  finishJump s (jumpTo (getPc s + imm.signExtend 64 * 8) s)

/-- JL: LR is S63 (R161). -/
def execJl (imm : BitVec 28) (s : State) : Host.Outcome State Fault Refusal :=
  finishJump s ((jumpTo (getPc s + imm.signExtend 64 * 8) s).map (setS 63 (getPc s + 8)))

/-- JR: the target is read before the link is written (R161). -/
def execJr (d a : SReg) (s : State) : Host.Outcome State Fault Refusal :=
  finishJump s do
    let t := getS s a
    need (t.toNat % 8 == 0) (.cause 0x005 t.toNat)
    let u ← jumpTo t s
    .ok (setS d (getPc s + 8) u)

/-- NOP (R162). -/
def execNop (s : State) : Host.Outcome State Fault Refusal := finish s (.ok s)

/-- BRK: with a debugger attached the strand halts at the boundary after it, else BREAKPOINT (R123, R163). -/
def execBrk (tag : Fin 512) (s : State) : Host.Outcome State Fault Refusal :=
  if (taskOf s (me s)).debugger then .next (onFocus (fun t => { t with run := .halted .running }) (advance s))
  else finish s (.error (.cause 0x003 tag.val))

/-- TRAP (R164). -/
def execTrap (n : Fin 32) (a b : SReg) (s : State) : Host.Outcome State Fault Refusal :=
  finish s (.error (.trap ⟨0x1E0 + n.val, getS s a, getS s b, []⟩))

/-- YIELD: with a request pending it retires and the strand stops cooperatively after it; the posting keeps counting
toward the deadline while the engines come to rest (R29, R166). A YIELD that retires in the deadline clock wins: no
deadline counts any more (R32). -/
def execYieldTo (d : SReg) (s : State) : Host.Outcome State Fault Refusal :=
  match s.tile.yieldReq with
  | none => finish s (.ok (setS d 0 s))
  | some n => .next (onFocus (fun t => { t with
      run := .resting .yield, yieldReq := if n ≤ t.sincePost then none else t.yieldReq }) (advance (setS d 1 s)))

/-- END: a release at system scope, then, once the named queues have drained, the strand ends; its program counter
stands after the END (R167, R443). -/
def execEndStrand (mask : BitVec 4) (s : State) : Host.Outcome State Fault Refusal :=
  let r : Except Stop Unit := do
    awaitAcks s
    need (maskDrained s.tile (me s) mask) (.wait (.drained mask))
  match r with
  | .error e => .next (stopShort s.tileNo e s)
  | .ok () => .next (endStrand s.tileNo (advance (nextPo s)))

/-- A FEAT that returns a nonzero value marks the feature live (R168, R381). -/
def markLive (id v : Nat) (s : State) : State :=
  onFocus (Tile.onSeq fun q =>
    match find? q.live id with
    | some old => { q with live := keep q.live id (max old v) }
    | none => if q.live.length < 64 then { q with live := q.live ++ [(id, v)] } else { q with liveOverflow := true }) s

/-- FEAT (R168). -/
def execFeat (d : SReg) (id : BitVec 16) (s : State) : Host.Outcome State Fault Refusal :=
  let v := Config.rubric s.dev.fwGen id.toNat
  finish s (.ok (setS d (word v) (if v = 0 then s else markLive id.toNat v s)))

end Sys2Proof.Machine
end

