-- ==== Sys2Proof/Machine/LoadStore.lean ====
section
/-!
DEFINITION. Loads, stores and atomics of a strand (spec chapter 09, R214 to R221).
-/

namespace Sys2Proof.Machine

open Sys2Proof

/-! ### Scalar loads and stores (R215) -/

/-- The register image of `x`: sign-extended for an S type, else zero-extended (R215, R219). -/
def extendElem (t : Fmt) (x : Nat) : Word := if t.isS then wordOfInt (signedOf t.bits x) else word (x % 2 ^ t.bits)

/-- LD (R215). -/
def execLd (d a : SReg) (m : MemOp) (s : State) : Host.Outcome State Fault Refusal :=
  finish s do
    let addr := effAddr s a m.off
    let x ← findScalar s m.space .read m.ty addr
    need (loadFormatOk (pageFmt x.spot.leaf) m.ty false) (.cause 0x054 addr)
    let (t, vals) ← performLoad s m [x]
    .ok (setS d (extendElem m.ty (vals.headD (0, (0, 0))).2.1) (setSubst (substOf (vals.map (·.2))) t))

/-- ST (R215). -/
def execSt (d a : SReg) (m : MemOp) (s : State) : Host.Outcome State Fault Refusal :=
  finish s do
    let addr := effAddr s a m.off
    let x ← findScalar s m.space .write m.ty addr
    need (storeFormatOk (pageFmt x.spot.leaf) m.ty) (.cause 0x054 addr)
    performStore s m (fun _ => (getS s d).toNat) [x]

/-! ### Lane addresses (R216) -/

/-- Whether lanes are nibbles of a run: F4 storage (R216). -/
def nibbleRun (p : Option Nat) (t : Fmt) : Bool := match p with | some c => c == 0x0D | none => t == .f4

/-- The elements of LDV and STV from address `a`, in a page of format `p` (R216). -/
def runElems (p : Option Nat) (t : Fmt) (a : Nat) (lanes : List Nat) : List Elem :=
  lanes.map fun i =>
    if nibbleRun p t then ⟨i, (a + i / 2) % 2 ^ 64, i % 2 == 1, false⟩
    else ⟨i, (a + i * storedBytes p t) % 2 ^ 64, false, false⟩

/-- The elements of LDVS and STVS (R216). -/
def strideElems (a stride : Nat) (lanes : List Nat) : List Elem :=
  lanes.map fun i => ⟨i, (a + i * stride) % 2 ^ 64, false, false⟩

/-- The elements of LDVX and STVX, for which no rule asks an alignment (R73, R216; log 54). -/
def indexElems (a : Nat) (v : VecWord) (lanes : List Nat) : List Elem :=
  lanes.map fun i => ⟨i, wrapTo 64 ((a : Int) + signedOf 32 (elem v i .s32)), false, true⟩

/-- LDVX and STVX take at most VLB / 4 lanes (R216). -/
def indexLanes (s : State) (t : Fmt) (g : Guard) : List Nat := (activeLanes s t g).filter (· < vlb / 4)

/-- The format of the page of A, where it can be reached (R216). -/
def fmtAt (s : State) (sp : Space) (u : Use) (a : Nat) : Option Nat :=
  match sp, globalSpot s (self s) u a 1 with
  | .glob, .ok f => pageFmt f.leaf
  | _, _ => none

/-! ### Loads through a fabric codec (R88, R90, R306) -/

/-- The elements of a codec page as the load path sends them: IBITS each, in lane order. -/
def codecRaw (s : State) (const : Bool) (ibits : Nat) (xs : List ElemSpot) : List Nat :=
  xs.map fun x =>
    let raw := leNat (elemBytes s const x)
    if ibits < 8 then (if x.elem.high then raw / 2 ^ ibits else raw) % 2 ^ ibits else raw

/-- The elements of codec storage: `ibits` bits each (R216). -/
def codecElems (run : Bool) (ibits a stride : Nat) (lanes : List Nat) : List Elem :=
  lanes.map fun i =>
    if run then ⟨i, (a + i * ibits / 8) % 2 ^ 64, i * ibits % 8 != 0, false⟩
    else ⟨i, (a + i * stride) % 2 ^ 64, false, false⟩

/-- Find codec elements: as `findElem`, with the stored size of the codec. -/
def findCodec (s : State) (ibits : Nat) : List Elem → Except Stop (List ElemSpot)
  | [] => .ok []
  | e :: es =>
    let n := max 1 (ibits / 8)
    let one : Except Stop ElemSpot := do
      let spots ← globalPair s (self s) .read e.addr n
      need (e.addr % n == 0) (.cause 0x04A e.addr)
      .ok ⟨e, spots.1, none, spots.2⟩
    (both one (findCodec s ibits es)).map fun x => x.1 :: x.2

/-- The units that the beats of a message of `n` elements hold, by whole words (R293, R302). -/
def wireUnits (bits n : Nat) : Nat := 64 * ceilDiv (n * bits) 64 / max 1 bits

/-- What the operator has returned, as elements, or the trap it deserves (R294, R303, R306). It must give as many elements
as it took: those of the message, or those that the message's whole words hold, of which the first are taken (log 27). -/
def codecResult (region port sent : Nat) (mp : ManPort) (beats : List Beat) : Except Stop (List Nat) :=
  match beats.find? fun b => !beatOk b || isTokens b with
  | some b => .error (.trap ⟨0x102, word port, b.side.setWidth 64, []⟩)
  | none =>
    let bad (n : Nat) : Stop := .trap ⟨0x103, word (Config.ratioInfo region port), word (sent + n * 2 ^ 32), []⟩
    match returnedElems mp.obits beats with
    | none => .error (bad (8 * (messageBytes beats).length / max 1 mp.obits))
    | some ys =>
      if ys.length = sent ∨ ys.length = wireUnits mp.ibits sent then .ok (ys.take sent) else .error (bad ys.length)

/-- Start a codec message, or wait for the rest of it: the strand of tile `n` blocks until the operator's END has come
back, and the load is executed again. -/
def codecWait (region port : Nat) (bytes : List Byte) (s : State) : Host.Outcome State Fault Refusal :=
  let s := if s.tile.codec.isNone then enterPort (me s) region port (.load s.tileNo) bytes s else s
  .next (blockOn s.tileNo .codec (onFocus (fun t => { t with codec := some (t.codec.getD (bytes, [])) }) s))

/-- The type that a returned element has: OFMT, or its raw bits when OFMT names no native format. -/
def ofmtOf (mp : ManPort) : Option Fmt := Fmt.ofCode mp.ofmt

/-- The gang region, port and port entry of a codec; the port of none is one of 8-bit elements for the checks that come
before CODEC_UNBOUND (R88, R90, R115). -/
def codecBits (s : State) (c : Nat) : Nat := match codecPort s (me s) c with | some (_, _, m) => m.ibits | none => 8

/-- The elements of a load from a codec page, checked whole and read: the state after the reads (R115, R217). -/
def readCodec (s : State) (d : VReg) (m : MemOp) (c a : Nat) (run : Bool) (stride : Nat) (lanes : List Nat) :
    Except Stop (State × List ElemSpot) := do
  useBanks s [d]
  let bits := codecBits s c
  let xs ← findCodec s bits (codecElems run bits a stride lanes)
  match lowestBad (fun l => pageFmt l != some c) xs with
  | some b => .error (.cause 0x054 b)
  | none => do
    let t ← performReads s { m with ty := .z8 } xs
    need (codecPort s (me s) c).isSome (.cause 0x101 0)
    poisonFree t xs
    .ok (noteLoad m xs t, xs)

/-- LDV and LDVS of type `t` from a page of codec format `c` (R88, R90, R306). -/
def loadCodec (d : VReg) (m : MemOp) (c a : Nat) (run : Bool) (stride : Nat) (lanes : List Nat) (s : State) :
    Host.Outcome State Fault Refusal :=
  match readCodec s d m c a run stride lanes, codecPort s (me s) c with
  | .ok (t, xs), some (region, port, mp) =>
    let done : Bool := match s.tile.codec with | some (_, bs) => bs.any beatEnds | none => false
    if done then
      finish s do
        let beats := (s.tile.codec.getD ([], [])).2
        let ys ← codecResult region port xs.length mp beats
        let conv := ys.map fun y =>
          match ofmtOf mp with
          | some f => convertElem f (RMode.ofBits s.tile.seq.round) 127 m.ty y
          | none => (y % 2 ^ m.ty.bits, 0)
        let vals := (xs.map (·.elem.lane)).zip (conv.map (·.1))
        let t := onFocus (fun u => { u with codec := none }) t
        .ok (setV d (setElems (getV s d) m.ty vals) (setSubst (substOf conv) t))
    else codecWait region port (packBytes mp.ibits (codecRaw s (constLoad m) mp.ibits xs)) s
  | .ok _, none => finish s (.error (.cause 0x101 0))
  | .error e, _ => finish s (.error e)

/-! ### Vector loads and stores (R216-R218) -/

/-- A vector load of checked elements. -/
def loadVec (d : VReg) (m : MemOp) (probe : Option Nat) (named : List VReg) (es : List Elem) (codec : Bool)
    (s : State) : Host.Outcome State Fault Refusal :=
  finish s do
    useBanks s named
    let xs ← if es.isEmpty then .ok [] else checkAccess s m.space .read m.ty probe es (fun p => loadFormatOk p m.ty codec)
    let (t, vals) ← performLoad s m xs
    .ok (setV d (setElems (getV s d) m.ty (vals.map fun v => (v.1, v.2.1))) (setSubst (substOf (vals.map (·.2))) t))

/-- A vector store of checked elements. -/
def storeVec (d : VReg) (m : MemOp) (probe : Option Nat) (named : List VReg) (es : List Elem) (s : State) :
    Host.Outcome State Fault Refusal :=
  finish s do
    useBanks s named
    let xs ← if es.isEmpty then .ok [] else checkAccess s m.space .write m.ty probe es (fun p => storeFormatOk p m.ty)
    performStore s m (fun i => elem (getV s d) i m.ty) xs

/-- Whether a page format is a fabric codec (R42). -/
def codecFmt (p : Option Nat) : Option Nat := match p with | some c => if 16 ≤ c then some c else none | none => none

/-- LDV (R216). Of the two rows of R88's table that a load of DS8 from a codec page meets, FORMAT_ACCESS governs (log 51). -/
def execLdv (d : VReg) (a : SReg) (m : MemOp) (g : Guard) (s : State) : Host.Outcome State Fault Refusal :=
  let addr := effAddr s a m.off
  let lanes := activeLanes s m.ty g
  let p := fmtAt s m.space .read addr
  match codecFmt p, lanes with
  | some c, _ :: _ => if m.ty = .ds8 then loadVec d m (some addr) [d] (runElems p m.ty addr lanes) false s
    else loadCodec d m c addr true 0 lanes s
  | _, _ => loadVec d m (some addr) [d] (runElems p m.ty addr lanes) false s

/-- STV (R216). -/
def execStv (d : VReg) (a : SReg) (m : MemOp) (g : Guard) (s : State) : Host.Outcome State Fault Refusal :=
  let addr := effAddr s a m.off
  storeVec d m (some addr) [d] (runElems (fmtAt s m.space .write addr) m.ty addr (activeLanes s m.ty g)) s

/-- LDVS (R216). -/
def execLdvs (d : VReg) (a b : SReg) (m : MemOp) (g : Guard) (s : State) : Host.Outcome State Fault Refusal :=
  let addr := effAddr s a m.off
  let lanes := activeLanes s m.ty g
  match lanes with
  | i :: _ =>
    match codecFmt (fmtAt s m.space .read ((addr + i * (getS s b).toNat) % 2 ^ 64)) with
    | some c =>
      if m.ty = .ds8 then loadVec d m none [d] (strideElems addr (getS s b).toNat lanes) false s
      else loadCodec d m c addr false (getS s b).toNat lanes s
    | none => loadVec d m none [d] (strideElems addr (getS s b).toNat lanes) false s
  | [] => loadVec d m none [d] [] false s

/-- STVS (R216). -/
def execStvs (d : VReg) (a b : SReg) (m : MemOp) (g : Guard) (s : State) : Host.Outcome State Fault Refusal :=
  storeVec d m none [d] (strideElems (effAddr s a m.off) (getS s b).toNat (activeLanes s m.ty g)) s

/-- LDVX (R216). -/
def execLdvx (d : VReg) (a : SReg) (b : VReg) (m : MemOp) (g : Guard) (s : State) : Host.Outcome State Fault Refusal :=
  loadVec d m none [d, b] (indexElems (effAddr s a m.off) (getV s b) (indexLanes s m.ty g)) false s

/-- STVX (R216). -/
def execStvx (d : VReg) (a : SReg) (b : VReg) (m : MemOp) (g : Guard) (s : State) : Host.Outcome State Fault Refusal :=
  storeVec d m none [d, b] (indexElems (effAddr s a m.off) (getV s b) (indexLanes s m.ty g)) s

/-! ### Atomics (R219-R221) -/

/-- The synchronising read and write halves of an atomic that has been performed (R99). -/
def atomicOrder (m : MemOp) (p : Piece) (wrote : Bool) (s : State) : State :=
  let s := syncRead p.place p.addr p.n (m.order == .acq || m.order == .ar) m.scope s
  if wrote then syncWrite p.place p.addr p.n (m.order == .rel || m.order == .ar) true m.scope s else nextPo s

/-- An AMO on a peer's scratchpad waits there while the peer's tile is stopped, behind what came before it (R33, R390). -/
def amoServed (s : State) (p : Piece) (operand : Nat) : Except Stop Unit :=
  match p.place with
  | .pad n => need (n == s.tileNo || amoTurn (me s) (tileAt s n))
      (.wait (.peer (keyOn s n).tile (some (p.addr, leBytes p.n operand))))
  | _ => .ok ()

/-- Find and check the location of an atomic: MISALIGNED, then the page for the read half and the write half, then the
format (R89, R219, R221, R371). -/
def findAtomic (s : State) (m : MemOp) (addr operand : Nat) : Except Stop ElemSpot := do
  let x ← findScalar s m.space .update m.ty addr
  need (storeFormatOk (pageFmt x.spot.leaf) m.ty) (.cause 0x054 addr)
  if m.order != .plain then awaitAcks s
  amoServed s x.spot.piece operand
  .ok x

/-- The flit of an AMO that has been performed on a peer's scratchpad is gone. -/
def amoLanded (p : Piece) (s : State) : State :=
  match p.place with
  | .pad n => if n = s.tileNo then s else dropAmo (me s) n s
  | _ => s

/-- Perform an atomic on a found location: `new` gives what is written, if anything, from the old bits; the old bits
are answered. A CAS that writes nothing still claims its granule for the constant check (R76, R219). -/
def performAtomic (s : State) (m : MemOp) (x : ElemSpot) (new : Nat → Option Nat) : Except Stop (State × Nat) := do
  let p := x.spot.piece
  let old := (placeMem s p.place).readNat p.addr p.n
  let wrote := (new old).isSome
  let s ← perform { strandAccess s .sync wrote true with claims := true } p.touches s
  poisonTrap s p
  let s := useSpot (self s) .update x.spot s
  let s := match new old with
    | some v => setPlaceMem s p.place ((placeMem s p.place).writeNat p.addr p.n (v % 2 ^ m.ty.bits))
    | none => s
  .ok (amoLanded p (atomicOrder m p wrote s), old)

/-- CAS (R219). -/
def execCas (d a b : SReg) (m : MemOp) (s : State) : Host.Outcome State Fault Refusal :=
  finish s do
    let n := m.ty.bits
    let x ← findAtomic s m (effAddr s a m.off) (getS s b).toNat
    ownRouted s x.spot.piece.touches
    let expected := (getS s d).toNat % 2 ^ n
    let (t, old) ← performAtomic s m x (fun old => if old = expected then some ((getS s b).toNat % 2 ^ n) else none)
    .ok (setS d (extendElem m.ty old) t)

/-- The AMO operations, in the order of their opcodes (R220). -/
inductive AmoKind where
  | add | and | or | xor | min | max | minz | maxz | swap | faddF32 | faddBf16
deriving DecidableEq, Repr

/-- The code by which the routers tell operations apart. -/
def amoCode : AmoKind → Nat
  | .add => 0 | .and => 1 | .or => 2 | .xor => 3 | .min => 4 | .max => 5 | .minz => 6 | .maxz => 7 | .swap => 8
  | .faddF32 => 9 | .faddBf16 => 10

/-- The new value of `n` bits (R220); float additions round with RNE whatever ROUND says and set no SUBST bit (R112). -/
def amoValue (op : AmoKind) (n old x : Nat) : Nat :=
  match op with
  | .add => (old + x) % 2 ^ n
  | .and => Nat.land old x
  | .or => Nat.lor old x
  | .xor => Nat.xor old x
  | .min => if signedOf n x < signedOf n old then x else old
  | .max => if signedOf n old < signedOf n x then x else old
  | .minz => if x < old then x else old
  | .maxz => if old < x then x else old
  | .swap => x
  | .faddF32 => (addElems .f32 .rne .none [decodeNum .f32 127 old, decodeNum .f32 127 x]).1
  | .faddBf16 => (addElems .bf16 .rne .none [decodeNum .bf16 127 old, decodeNum .bf16 127 x]).1

/-- A reduction AMO that may travel as a posted request: order plain, destination S0, global (R111, R221). -/
def reduction (d : SReg) (m : MemOp) : Bool := m.order == .plain && d == 0 && m.space == .glob

/-- Post a reduction AMO to the routers (R111): its page and its conflicts are checked now and its marks kept, it is
performed at its home slice later, possibly merged with others unless .det or the task's deterministic bit forbids it. -/
def postReduction (op : AmoKind) (det : Bool) (m : MemOp) (x : ElemSpot) (operand : Nat) (s : State) :
    Except Stop State := do
  let p := x.spot.piece
  let s ← perform (strandAccess s .sync true true) p.touches s
  poisonTrap s p
  let r : RouterAmo := {
    opcode := amoCode op, ty := m.ty, fn := (taskOf s (me s)).fn, va := word p.report, place := p.place, addr := p.addr,
    operand := operand, parts := [(me s, s.tile.ord.fences)],
    noMerge := det || (taskOf s (me s)).trec.det }
  .ok (nextPo (onDev (fun d => { d with router := d.router ++ [r] }) (useSpot (self s) .update x.spot s)))

/-- An AMO (R220, R221). -/
def execAmo (op : AmoKind) (d a b : SReg) (det : Bool) (m : MemOp) (s : State) : Host.Outcome State Fault Refusal :=
  finish s do
    let n := m.ty.bits
    let operand := (getS s b).toNat % 2 ^ n
    let x ← findAtomic s m (effAddr s a m.off) operand
    if reduction d m then postReduction op det m x operand s
    else do
      ownRouted s x.spot.piece.touches
      let (t, old) ← performAtomic s m x (fun old => some (amoValue op n old operand))
      .ok (setS d (extendElem m.ty old) t)

/-- AMO.add (R220). -/
def execAmoAdd (d a b : SReg) (det : Bool) (m : MemOp) (s : State) := execAmo .add d a b det m s
/-- AMO.and (R220). -/
def execAmoAnd (d a b : SReg) (det : Bool) (m : MemOp) (s : State) := execAmo .and d a b det m s
/-- AMO.or (R220). -/
def execAmoOr (d a b : SReg) (det : Bool) (m : MemOp) (s : State) := execAmo .or d a b det m s
/-- AMO.xor (R220). -/
def execAmoXor (d a b : SReg) (det : Bool) (m : MemOp) (s : State) := execAmo .xor d a b det m s
/-- AMO.min (R220). -/
def execAmoMin (d a b : SReg) (det : Bool) (m : MemOp) (s : State) := execAmo .min d a b det m s
/-- AMO.max (R220). -/
def execAmoMax (d a b : SReg) (det : Bool) (m : MemOp) (s : State) := execAmo .max d a b det m s
/-- AMO.minz (R220). -/
def execAmoMinz (d a b : SReg) (det : Bool) (m : MemOp) (s : State) := execAmo .minz d a b det m s
/-- AMO.maxz (R220). -/
def execAmoMaxz (d a b : SReg) (det : Bool) (m : MemOp) (s : State) := execAmo .maxz d a b det m s
/-- AMO.swap (R220). -/
def execAmoSwap (d a b : SReg) (det : Bool) (m : MemOp) (s : State) := execAmo .swap d a b det m s
/-- AMO.fadd.f32 (R112, R220). -/
def execAmoFaddF32 (d a b : SReg) (det : Bool) (m : MemOp) (s : State) := execAmo .faddF32 d a b det m s
/-- AMO.fadd.bf16 (R112, R220). -/
def execAmoFaddBf16 (d a b : SReg) (det : Bool) (m : MemOp) (s : State) := execAmo .faddBf16 d a b det m s

end Sys2Proof.Machine
end

