-- ==== Sys2Proof/Machine/System.lean ====
section
/-!
DEFINITION. Synchronisation, waits, reply queues, device enqueue, identity, control registers and descriptor narrowing
(R169 to R182).
-/

namespace Sys2Proof.Machine

open Sys2Proof

/-! ### FENCE and barriers (R169-R171) -/

/-- FENCE: waits for the acknowledgements of its region; its order decides which pairs it can form (R99, R169). -/
def execFence (order : Order) (scope : Scope) (s : State) : Host.Outcome State Fault Refusal :=
  finish s do
    awaitAcks s
    .ok (fenceOrder (order == .acq || order == .ar) (order == .rel || order == .ar) scope s)

/-- Member `i`'s pending bit of barrier `k` (R171). -/
def isPending (g : Gang) (k i : Nat) : Bool := (g.pending.getD k []).contains i

/-- A barrier number at or above the task's count (R170). -/
def checkBarrier (s : State) (k : Fin 16) : Except Stop Unit :=
  need (decide (k.val < (taskOf s (me s)).trec.nbar)) (.cause 0x082 k.val)

/-- A list with element `i` changed, long enough to hold it. -/
def alterAt {α : Type} (d : α) (f : α → α) : Nat → List α → List α
  | 0, [] => [f d]
  | 0, x :: l => f x :: l
  | n + 1, [] => d :: alterAt d f n []
  | n + 1, x :: l => x :: alterAt d f n l

/-- The arrival of the strand in focus at barrier `k`: its pending bit is set and it releases at gang scope (R94, R171). -/
def arrive (k : Nat) (s : State) : State :=
  let key := me s
  let c := ordClock key s.tile.ord
  nextPo (onGang key.queue key.record key.gang (fun g => { g with
    pending := alterAt [] (key.tile :: ·) k g.pending
    arrived := alterAt [] ((key.tile, c) :: ·) k g.arrived }) s)

/-- The return of the strand on tile `n` from barrier `k`: an acquire at gang scope of every arrival of the instances
completed (R99, R171). -/
def barReturnOn (n k : Nat) (s : State) : State :=
  let c := (gangOf s (keyOn s n)).done.getD k Clock.none
  onTile n (fun t => { t with ord := { t.ord with clock := joinClock t.ord.clock c, po := t.ord.po + 1 } }) s

/-- The return of the strand in focus from barrier `k`. -/
def barReturn (k : Nat) (s : State) : State := barReturnOn s.tileNo k s

/-- Whether the strand in focus has no arrival outstanding at barrier `k`. -/
def barClear (s : State) (k : Nat) : Bool := !isPending (gangOf s (me s)) k (me s).tile

/-- BARA: waits for the instance of an earlier arrival, then arrives (R171). -/
def execBara (k : Fin 16) (s : State) : Host.Outcome State Fault Refusal :=
  finish s do
    checkBarrier s k
    need (barClear s k.val) (.wait (.barrier k.val))
    awaitAcks s
    .ok (arrive k.val s)

/-- BARW (R171). -/
def execBarw (k : Fin 16) (s : State) : Host.Outcome State Fault Refusal :=
  finish s do
    checkBarrier s k
    need (barClear s k.val) (.wait (.barrier k.val))
    awaitAcks s
    .ok (barReturn k.val s)

/-- BAR: BARA then BARW as one instruction. Once it has arrived it blocks, and returns when its instance has completed
(R171). -/
def execBar (k : Fin 16) (s : State) : Host.Outcome State Fault Refusal :=
  let pre : Except Stop Unit := do
    checkBarrier s k
    need (barClear s k.val) (.wait (.barrier k.val))
    awaitAcks s
  match pre with
  | .error e => .next (stopShort s.tileNo e s)
  | .ok () =>
    if s.tile.barStage = some k.val then .next (advance (barReturn k.val s))
    else .next (blockOn s.tileNo (.barrier k.val) (onFocus (fun t => { t with barStage := some k.val }) (arrive k.val s)))

/-! ### Waits (R172-R174) -/

/-- The threshold of a WAITC: at most the last identifier issued (R172). -/
def waitThreshold (s : State) (ch : Chan) (a : SReg) : Nat := min (getS s a).toNat (chanState s.tile ch).last

/-- Whether mark `m` belongs to a copy of strand `k` on channel `ch` with identifier at most `t`. -/
def coveredCopy (k : StrandKey) (ch : Chan) (t : Nat) (m : Mark) : Bool :=
  match m.party with
  | .copy o c id => o == k && c == ch && decide (id ≤ t)
  | _ => false

/-- The engine sequence number of the last CPYA that the threshold covers: matrix commands before it are closed by a
wait on the accumulator channel (R96, R254). -/
def accCover (s : State) (ch : Chan) (t : Nat) : Nat :=
  if ch = .acc then (s.tile.accSeq.filter fun e => decide (e.1 ≤ t)).foldl (fun m e => max m e.2) 0 else 0

/-- Whether mark `m` belongs to a matrix command of strand `k` issued before number `q`. -/
def coveredMatrix (k : StrandKey) (q : Nat) (m : Mark) : Bool :=
  match m.party with
  | .matrix o i => o == k && decide (i < q)
  | _ => false

/-- Close the pseudo-regions that a WAITC covers: sources, and for .V destinations too (R96, R172). -/
def closeCopies (vis : Bool) (ch : Chan) (t : Nat) (s : State) : State :=
  let k := me s
  let q := accCover s ch t
  closeMarks (fun m => (coveredCopy k ch t m && (m.kind == .copyRead || vis)) || coveredMatrix k q m) s.tile.ord.po s

/-- WAITC.R (R172). -/
def execWaitcR (ch : Chan) (a : SReg) (s : State) : Host.Outcome State Fault Refusal :=
  let t := waitThreshold s ch a
  finish s do
    need (decide (t ≤ (chanState s.tile ch).readMark)) (.wait (.mark ch false t))
    .ok (closeCopies false ch t s)

/-- WAITC.V: also an acquire, which ends a region (R94, R172). -/
def execWaitcV (ch : Chan) (a : SReg) (s : State) : Host.Outcome State Fault Refusal :=
  let t := waitThreshold s ch a
  finish s do
    need (decide (t ≤ (chanState s.tile ch).visMark)) (.wait (.mark ch true t))
    awaitAcks s
    .ok (nextPo (closeCopies true ch t s))

/-- WAITR (R173). -/
def execWaitr (d : SReg) (q : QReg) (b : SReg) (s : State) : Host.Outcome State Fault Refusal :=
  let p := s.tile.replies[q].entries.length
  let want := min (min (getS s b).toNat (p + s.tile.replies[q].reserved)) 16
  finish s do
    need (decide (want ≤ p)) (.wait (.replies q want))
    .ok (setS d (word p) s)

/-- WAITE (R174). -/
def execWaite (mask : BitVec 4) (s : State) : Host.Outcome State Fault Refusal :=
  finish s do
    need (maskDrained s.tile (me s) mask) (.wait (.drained mask))
    .ok s

/-! ### POPQ and PEEKQ (R175) -/

/-- Kind of a reply entry (R19). -/
def entryKind (x : Word) : Nat := fieldOf x.toNat 60 4

/-- The ordering effect of removing an entry: a collective's completion is an acquire for its named buffers and closes
its party; a graph's completion closes the run (R94, R96, R110). -/
def popOrder (x : Word) (s : State) : State :=
  let k := me s
  if entryKind x = 0xC then
    let n := fieldOf x.toNat 0 60
    let s := closeMarks (fun m => m.party == .coll k n) s.tile.ord.po s
    let gain := look Clock.none s.tile.collGain n
    let s := onOrd (fun o => { o with clock := joinClock o.clock gain }) s
    nextPo (onFocus (fun t => { t with collGain := drop? t.collGain n }) s)
  else if entryKind x = 2 then
    closeMarks (fun m => match m.party with | .graph o n => o == k && n % 2 ^ 32 == fieldOf x.toNat 0 32 | _ => false)
      s.tile.ord.po s
  else s

/-- POPQ (R175). -/
def execPopq (d : SReg) (q : QReg) (s : State) : Host.Outcome State Fault Refusal :=
  finish s do
    match s.tile.replies[q].entries with
    | [] => .error (.wait (.reply q))
    | x :: rest =>
      if entryKind x = 0xC then awaitAcks s
      .ok (setS d x (popOrder x (onFocus (onReply q fun r => { r with entries := rest }) s)))

/-- PEEKQ (R175). -/
def execPeekq (d : SReg) (q : QReg) (s : State) : Host.Outcome State Fault Refusal :=
  finish s do
    match s.tile.replies[q].entries with
    | [] => .error (.wait (.reply q))
    | x :: _ => .ok (setS d x s)

/-! ### LAUNCH and SIGINC (R176, R177) -/

/-- Whether queue `q` is open to device enqueue by the tenant of strand `k` (R176, R351). -/
def openTo (s : State) (k : StrandKey) (q : Nat) : Bool :=
  let r := queueAt s q
  decide (q < Config.queues) && r.devenq && r.owner == (taskOf s k).fn && r.state != .disabled && r.state != .error

/-- Slots of a queue (R350). -/
def queueSlots (r : Queue) : Nat := 2 ^ r.qlog2

/-- Whether a queue's ring is full (R176). -/
def queueFull (r : Queue) : Bool := (r.tail + 2 ^ 32 - r.head) % 2 ^ 32 == queueSlots r

/-- The address of ring slot `i` of a queue (R350). -/
def slotAddr (r : Queue) (i : Nat) : Nat := (r.qbase.toNat + 256 * (i % queueSlots r)) % 2 ^ 64

/-- Write bytes at an I/O address of a PASID. -/
def pasidWrite (fn pasid addr : Nat) : List Byte → State → Option State
  | [], s => some s
  | b :: bs, s => do
    let h ← hostPage s.dev fn (some pasid) addr
    pasidWrite fn pasid (addr + 1) bs (onDev (fun d => { d with host := d.host.write h b }) s)

/-- Read bytes at an I/O address of a PASID. -/
def pasidRead (s : State) (fn pasid addr : Nat) : Nat → Option (List Byte)
  | 0 => some []
  | n + 1 => do
    let h ← hostPage s.dev fn (some pasid) addr
    let rest ← pasidRead s fn pasid (addr + 1) n
    some (s.dev.host.read h :: rest)

/-- A queue enters ERROR (R350, R366); an ABORT under way completes first, and leaves the queue there (R362). -/
def queueError (q code : Nat) (s : State) : State :=
  onQueue q (fun r =>
    if r.state = .aborting then { r with err := if r.err = 0 then code else r.err }
    else { r with state := .error, err := code }) s

/-- Whether a ring slot in the tenant's address space can be reached: its page is a leaf of device memory (R350). -/
def slotLocal (s : State) (r : Queue) (u : Use) (i : Nat) : Bool :=
  match locate s (spaceOf s r.owner r.pasid) u (slotAddr r i) with
  | .ok f => f.place == .dev
  | .error _ => false

/-- A ring slot of a queue written, where it can be reached (R350). -/
def writeSlot (q i : Nat) (bytes : List Byte) (s : State) : Option State :=
  let r := queueAt s q
  if r.qhost then pasidWrite r.owner r.pasid (slotAddr r i) bytes s
  else if slotLocal s r .write i then
    match devWrite (spaceOf s r.owner r.pasid) (slotAddr r i) bytes s with
    | .ok t => some t
    | .error _ => none
  else none

/-- LAUNCH appends a 256-byte record to queue `q` and advances TAIL (R176), and S[d] receives 1. A ring slot that cannot be
translated or written puts the queue in ERROR with ERRCODE 3 (R350); then nothing has been enqueued, and S[d] receives 0
(log 18). -/
def appendRecord (d : SReg) (q : Nat) (bytes : List Byte) (s : State) : State :=
  match writeSlot q (queueAt s q).tail bytes s with
  | some t => setS d 1 (onQueue q (fun r => { r with tail := (r.tail + 1) % 2 ^ 32 }) t)
  | none => setS d 0 (queueError q 3 s)

/-- LAUNCH (R176). -/
def execLaunch (d a b : SReg) (s : State) : Host.Outcome State Fault Refusal :=
  finish s do
    let q := (getS s b).toNat
    let x := (getS s a).toNat
    need (openTo s (me s) q) (.cause 0x183 q)
    need (canonical x) (.cause 0x040 x)
    need (x % 256 == 0) (.cause 0x04A x)
    let (t, bytes) ← coherentBytes s x 256
    .ok (if queueFull (queueAt s q) then setS d 0 t else appendRecord d q bytes t)

/-- SIGINC: AMO.add of an 8-byte global counter with release order at device scope (R177). The counter may be S64, Z64
or untyped (R89). -/
def execSiginc (d a b : SReg) (s : State) : Host.Outcome State Fault Refusal :=
  finish s do
    let m : MemOp := ⟨.s64, .glob, .rel, .dev, false, 0⟩
    let x ← findScalar s .glob .update .s64 (getS s a).toNat
    let p := pageFmt x.spot.leaf
    need (storeFormatOk p .s64 || storeFormatOk p .z64) (.cause 0x054 (getS s a).toNat)
    ownRouted s x.spot.piece.touches
    awaitAcks s
    let (t, old) ← performAtomic s m x (fun old => some ((old + (getS s b).toNat) % 2 ^ 64))
    .ok (setS d (word old) (addRels x.spot.piece.place x.spot.piece.addr x.spot.piece.n
      [⟨me s, .dev, ordClock (me s) s.tile.ord, true, false⟩] t))

/-! ### RDID (R24, R25, R178) -/

/-- The value of an identity selector (R24, R178). -/
def identity (s : State) (n : Nat) : Nat :=
  let k := me s
  let r := (taskOf s k).trec
  match n with
  | 0x00 => k.tile
  | 0x01 => k.tile % r.gw
  | 0x02 => k.tile / r.gw
  | 0x03 => r.gw
  | 0x04 => r.gh
  | 0x05 => k.gang
  | 0x06 => k.gang % r.gx
  | 0x07 => k.gang / r.gx % r.gy
  | 0x08 => k.gang / (r.gx * r.gy)
  | 0x09 => r.gx
  | 0x0A => r.gy
  | 0x0B => r.gz
  | _ => r.nregion

/-- RDID: a privileged selector raises ILLEGAL_INSTRUCTION with the instruction word (R25, R178). -/
def execRdid (d : SReg) (n : BitVec 8) (s : State) : Host.Outcome State Fault Refusal :=
  if n.toNat ≤ 0x0C then finish s (.ok (setS d (word (identity s n.toNat)) s))
  else finish s (.error (.trap ⟨0x001, (Instr.rdid d n).encode, 0, []⟩))

/-! ### RDCTL and WRCTL (R179, R180) -/

/-- RDCTL (R179). -/
def execRdctl (d : SReg) (r : CtlReg) (s : State) : Host.Outcome State Fault Refusal :=
  finish s (.ok (setS d (readCtl s r) s))

/-- WRCTL (R179). -/
def execWrctl (r : CtlReg) (a : SReg) (s : State) : Host.Outcome State Fault Refusal :=
  finish s (writeCtl r (getS s a) s)

/-! ### TDNARROW (R181, R182) -/

/-- TDNARROW. -/
def execTdnarrow (slot : Fin 64) (a : SReg) (tdi : BitVec 16) (s : State) : Host.Outcome State Fault Refusal :=
  finish s do
    let d ← getDesc s tdi.toNat
    let x := (getS s a).toNat
    let _ ← localSpot (self s) x 44
    need (x % 4 == 0) (.cause 0x04A x)
    let (t, bytes) ← localBytes s x 44
    let p ← narrow s tdi.toNat d (leNat bytes)
    .ok (onFocus (fun u => { u with window := u.window.set slot (some p) }) (useDesc tdi.toNat t))

/-! ### Reserved encodings (R142) -/

/-- A reserved encoding raises ILLEGAL_INSTRUCTION with the instruction word (R142, R143). -/
def execReservedEncoding (w : Word) (s : State) : Host.Outcome State Fault Refusal :=
  finish s (.error (.trap ⟨0x001, w, 0, []⟩))

end Sys2Proof.Machine
end

