-- ==== Sys2Proof/Machine/Copies.lean ====
section
/-!
DEFINITION. Issuing copies, the ring instructions and COLL (R83 to R86, R222 to R235).
-/

namespace Sys2Proof.Machine

open Sys2Proof

/-! ### The local layout (R223) -/

/-- Row bytes: ceil(N0 x bits / 8). -/
def rowBytes (n0 bits : Nat) : Nat := ceilDiv (n0 * bits) 8

/-- The pitch in force: S[b], or the row bytes rounded up to a multiple of 32. -/
def pitchOf (b row : Nat) : Nat := if b = 0 then ceilDiv row 32 * 32 else b

/-- Rows of a descriptor: all its dimensions above the first. -/
def rowCount (d : Desc) : Nat := dimOf d 1 * dimOf d 2 * dimOf d 3 * dimOf d 4

/-- The check of S[a]. -/
def checkBase (a : Nat) : Except Stop Unit := need (a % 32 == 0) (.cause 0x04A a)

/-- The check of S[b]. -/
def checkPitch (b row : Nat) : Except Stop Unit := need (b == 0 || (b % 32 == 0 && decide (row ≤ b))) (.cause 0x053 b)

/-- The footprint lies in the scratchpad; INFO0 is the lowest byte of it that does not (R114). -/
def checkFootprint (a pitch rows row : Nat) : Except Stop Unit :=
  if a + (rows - 1) * pitch + row ≤ 0x200000 then .ok ()
  else
    let r := if a + row ≤ 0x200000 then (0x200000 - a - row) / pitch + 1 else 0
    .error (.cause 0x048 (max (a + r * pitch) 0x200000))

/-- Whether the bits from `bit` on touch a granule that `local_` holds. -/
def bitsTouch (local_ : Nat → Bool) (bit : Int) (bits : Nat) : Bool :=
  let last := bit + bits - 1
  (decide (0 ≤ bit) && local_ (bit / 256).toNat) || (decide (0 ≤ last) && local_ (last / 256).toNat)

/-- Whether a descriptor's elements share a granule with the granules that `local_` holds. -/
def descTouches (local_ : Nat → Bool) (d : Desc) (bits : Nat) : Bool :=
  (List.range (descCount d)).any fun i => bitsTouch local_ (elemBit d bits (elemOffset d (tupleOf d i))) bits

/-- Whether a granule holds a byte of the rows of a local layout. -/
def layoutGran (a pitch rows row g : Nat) : Bool :=
  (List.range rows).any fun r => decide ((a + r * pitch) / 32 ≤ g ∧ g ≤ (a + r * pitch + row - 1) / 32)

/-- A local descriptor must not share a granule with the local footprint (R223). -/
def checkOverlap (d : Desc) (tdi bits : Nat) (local_ : Nat → Bool) : Except Stop Unit :=
  need (!(d.space == .loc && descTouches local_ d bits)) (.cause 0x053 tdi)

/-- The addresses between which a descriptor's elements lie. -/
def spanOf (d : Desc) (bits : Nat) : Int × Int :=
  let (lo, hi) := offsetRange d
  ((elemBit d bits lo) / 8, (elemBit d bits hi + bits - 1) / 8)

/-- A span that lies in one canonical half of the address space. -/
def spanCanonical (sp : Int × Int) : Bool :=
  decide (0 ≤ sp.1 ∧ sp.2 < 2 ^ 56) || decide (2 ^ 64 - 2 ^ 56 ≤ sp.1 ∧ sp.2 < 2 ^ 64)

/-- ADDRESS_NONCANONICAL at issue, the footprint of a global descriptor being known then (R69; log 8). -/
def checkCanonical (d : Desc) (bits : Nat) : Except Stop Unit :=
  if d.space != .glob || spanCanonical (spanOf d bits) then .ok ()
  else
    match (List.range (descCount d)).find? fun i => !canonical (elemByte d bits (elemOffset d (tupleOf d i))).1 with
    | some i => .error (.cause 0x040 (elemByte d bits (elemOffset d (tupleOf d i))).1)
    | none => .ok ()

/-! ### Element bits (R42, R224, R302, R306) -/

/-- Element bits on the descriptor's side and on the local side. A codec format takes its width from the path's port,
or from the gang's codec port (R90, R302). -/
def copyBits (s : State) (d : Desc) (toLocal : Bool) : Except Stop (Nat × Nat) :=
  match (if d.fpath then manPort s (me s) d.fregion d.fport else none) with
  | some p =>
    let far := if toLocal then p.ibits else p.obits
    .ok ((codeBits d.fmt).getD far, if toLocal then p.obits else p.ibits)
  | none =>
    match codeBits d.fmt, codecPort s (me s) d.fmt with
    | some b, _ => .ok (b, b)
    | none, some (_, _, p) => .ok (p.ibits, p.ibits)
    | none, none => .error (.cause 0x101 0)

/-- The path that a copy through FPATH takes (R224). -/
def pathOf (d : Desc) : Option (Nat × Nat) := if d.fpath then some (d.fregion, d.fport) else none

/-- The rights a copy needs (R81). -/
def copyRights (d : Desc) (r : Nat) : Nat := r + if d.fpath then rightPath else 0

/-! ### Issuing copies (R222-R227) -/

/-- Issue a copy of a channel: it takes the next transfer identifier, and S[d] receives it (R227). -/
def issueCopy (ch : Chan) (body : Nat → Cmd) (d : SReg) (reply : Option QReg) (s : State) : Except Stop State := do
  let id := (chanState s.tile ch).last + 1
  let t ← issue (chanEng ch) (body id) reply s
  .ok (setS d (word id) (takeId ch t))

/-- A configured ring, or RING_INVALID (R83). -/
def getRing (s : State) (r : Fin 8) : Except Stop Ring :=
  match s.tile.rings[r] with
  | some x => .ok x
  | none => .error (.cause 0x058 r.val)

/-- CPYL, and CPYL.ring where `ring` names one (R222-R224). -/
def execLoadCopy (d a b : SReg) (ring : Option (Fin 8)) (x : XOp) (s : State) : Host.Outcome State Fault Refusal :=
  finishIssue .load s do
    let tdi := x.tdi.toNat
    let e ← getDesc s tdi
    needRights e tdi (copyRights e rightRead)
    checkPath s e roleCopyIn
    let (tb, lb) ← copyBits s e true
    let base := (getS s a).toNat
    let row := rowBytes (dimOf e 0) lb
    let pitch := pitchOf (getS s b).toNat row
    match ring with
    | none =>
      checkBase base
      checkPitch (getS s b).toNat row
      checkFootprint base pitch (rowCount e) row
      checkCanonical e tb
      checkOverlap e tdi tb (layoutGran base pitch (rowCount e) row)
    | some r =>
      checkPitch (getS s b).toNat row
      checkCanonical e tb
      match s.tile.rings[r] with
      | some g => checkOverlap e tdi tb (fun i => decide (g.base / 32 ≤ i ∧ i < (g.base + g.slotSize * g.count) / 32))
      | none => .ok ()
      let g ← getRing s r
      need (decide (pitch * rowCount e ≤ g.slotSize)) (.cause 0x058 r.val)
    issueCopy .load (fun id => .copy {
      id := id, toLocal := true, desc := e, base := base, pitch := pitch, ring := ring, slot := none, print := none,
      noData := false, scope := x.scope, rmode := s.tile.seq.round, path := pathOf e, tbits := tb, lbits := lb })
      d x.reply (useDesc tdi s)

/-- CPYL (R222). -/
def execCpyl (d a b : SReg) (x : XOp) (s : State) : Host.Outcome State Fault Refusal := execLoadCopy d a b none x s

/-- CPYL.ring (R222, R224): the a field is S0. -/
def execCpylRing (d : SReg) (ring : Fin 8) (b : SReg) (x : XOp) (s : State) : Host.Outcome State Fault Refusal :=
  execLoadCopy d 0 b (some ring) x s

/-- CPYS (R222, R224). -/
def execCpys (d a b : SReg) (x : XOp) (s : State) : Host.Outcome State Fault Refusal :=
  finishIssue .store s do
    let tdi := x.tdi.toNat
    let e ← getDesc s tdi
    needRights e tdi (copyRights e rightWrite)
    checkPath s e roleCopyOut
    let (tb, lb) ← copyBits s e false
    let base := (getS s a).toNat
    let row := rowBytes (dimOf e 0) lb
    let pitch := pitchOf (getS s b).toNat row
    checkBase base
    checkPitch (getS s b).toNat row
    checkFootprint base pitch (rowCount e) row
    checkCanonical e tb
    checkOverlap e tdi tb (layoutGran base pitch (rowCount e) row)
    issueCopy .store (fun id => .copy {
      id := id, toLocal := false, desc := e, base := base, pitch := pitch, ring := none, slot := none, print := none,
      noData := false, scope := x.scope, rmode := s.tile.seq.round, path := pathOf e, tbits := tb, lbits := lb })
      d x.reply (useDesc tdi s)

/-- CPYF, and CPYF.nd, of which only the fingerprint's granule is checked (R225). -/
def execCpyf (d a b c : SReg) (nd : Bool) (x : XOp) (s : State) : Host.Outcome State Fault Refusal :=
  finishIssue .load s do
    let tdi := x.tdi.toNat
    let e ← getDesc s tdi
    needRights e tdi (copyRights e rightRead)
    checkPath s e roleCopyIn
    let (tb, lb) ← copyBits s e true
    let base := (getS s a).toNat
    let print := (getS s c).toNat
    let row := rowBytes (dimOf e 0) lb
    let pitch := pitchOf (getS s b).toNat row
    if nd then checkCanonical e tb
    else do
      checkBase base
      checkPitch (getS s b).toNat row
      checkFootprint base pitch (rowCount e) row
      checkCanonical e tb
      checkOverlap e tdi tb (layoutGran base pitch (rowCount e) row)
    need (print % 32 == 0) (.cause 0x04A print)
    checkFootprint print 32 1 16
    issueCopy .load (fun id => .copy {
      id := id, toLocal := true, desc := e, base := base, pitch := pitch, ring := none, slot := none, print := some print,
      noData := nd, scope := x.scope, rmode := s.tile.seq.round, path := pathOf e, tbits := tb, lbits := lb })
      d x.reply (useDesc tdi s)

/-- Scope of a CPYA: device and system act as gang (R100, R222). -/
def padScope : Scope → Scope
  | .tile => .tile
  | _ => .gang

/-- CPYA (R226). -/
def execCpya (d a b c : SReg) (inDir : Bool) (t : Fmt) (sat : Bool) (reply : Option QReg) (scope : Scope) (s : State) :
    Host.Outcome State Fault Refusal :=
  finishIssue .matrix s do
    let w := (getS s c).toNat
    let row0 := fieldOf w 0 8
    let col0 := fieldOf w 8 8
    let rows := fieldOf w 16 8 + 1
    let cols := fieldOf w 24 8 + 1
    need (fieldOf w 32 32 == 0 && decide (row0 + rows ≤ 256) && decide (col0 + cols ≤ 256)) (.cause 0x0C0 0)
    let base := (getS s a).toNat
    let row := rowBytes cols t.bits
    let pitch := pitchOf (getS s b).toNat row
    checkBase base
    checkPitch (getS s b).toNat row
    checkFootprint base pitch rows row
    let u ← issueCopy .acc (fun id => .acc {
      id := id, inDir := inDir, row0 := row0, col0 := col0, rows := rows, cols := cols, base := base, pitch := pitch,
      fmt := t, sat := sat, scope := padScope scope, rmode := s.tile.seq.round }) d reply s
    .ok (onFocus (fun t => { t with accSeq := keep t.accSeq t.chAcc.last t.issued[2] }) u)

/-! ### Rings (R83-R86, R229-R231) -/

/-- Put ring `r` of tile `n`. -/
def setRing (n : Nat) (r : Fin 8) (x : Ring) (s : State) : State :=
  onTile n (fun t => { t with rings := t.rings.set r (some x) }) s

/-- The address of slot `k`. -/
def slotBase (x : Ring) (k : Nat) : Nat := x.base + k * x.slotSize

/-- Publication advances over every consecutive LANDED slot in fill order (R84, R231). -/
def publish : Nat → Ring → Ring
  | 0, x => x
  | n + 1, x =>
    if x.slots.getD x.pubIx .free = .landed then
      publish n { x with slots := x.slots.set x.pubIx .filled, filled := x.filled + 1, pubIx := (x.pubIx + 1) % x.count }
    else x

/-- Slot `k` becomes LANDED, and publication advances. -/
def land (k : Nat) (x : Ring) : Ring := publish x.count { x with slots := x.slots.set k .landed }

/-- Two configured extents overlap. -/
def extentsMeet (b1 n1 b2 n2 : Nat) : Bool := decide (b1 < b2 + n2 ∧ b2 < b1 + n1)

/-- Whether a queued command names ring `r`. -/
def namesRing (r : Fin 8) (c : QCmd) : Bool := match c.body with | .copy x => x.ring == some r | _ => false

/-- Whether RSETUP is allowed: a command left by an ended strand that names the ring forbids it too (R36, R83, R229). -/
def ringOk (s : State) (r : Fin 8) (base size count : Nat) : Bool :=
  base % 32 == 0 && size % 32 == 0 && decide (32 ≤ size ∧ size ≤ 0x100000 ∧ 1 ≤ count ∧ count ≤ 1024) &&
    decide (base + size * count ≤ 0x200000) &&
    (List.finRange 8).all (fun j =>
      j == r || match s.tile.rings[j] with
        | some y => !extentsMeet base (size * count) y.base (y.slotSize * y.count)
        | none => true) &&
    (match s.tile.rings[r] with | some y => y.slots.all (· == .free) | none => true) &&
    !(s.tile.qLoad.any (namesRing r))

/-- RSETUP (R229). -/
def execRsetup (ring : Fin 8) (a b c : SReg) (s : State) : Host.Outcome State Fault Refusal :=
  finish s do
    let base := (getS s a).toNat
    let size := (getS s b).toNat
    let count := (getS s c).toNat
    need (ringOk s ring base size count) (.cause 0x058 ring.val)
    .ok (setRing s.tileNo ring {
      base := base, slotSize := size, count := count, free := count, filled := 0, fillIx := 0, pubIx := 0, takeIx := 0,
      slots := List.replicate count .free, freedAt := List.replicate count 0, filler := List.replicate count 0 } s)

/-- RPUB (R84, R85, R230): the slot at the fill index lands at once. -/
def execRpub (d : SReg) (ring : Fin 8) (s : State) : Host.Outcome State Fault Refusal :=
  finish s do
    let x ← getRing s ring
    need (decide (0 < x.free)) (.wait (.ringFree ring))
    let k := x.fillIx
    let x := { x with free := x.free - 1, fillIx := (k + 1) % x.count, filler := x.filler.set k 0 }
    .ok (nextPo (setS d (word (slotBase x k)) (setRing s.tileNo ring (land k x) s)))

/-- Granules of slot `k` of a ring on tile `n`. -/
def inSlot (n : Nat) (x : Ring) (k : Nat) (g : Gran) : Bool :=
  g.place == .pad n && decide (slotBase x k / 32 ≤ g.index ∧ g.index < (slotBase x k + x.slotSize) / 32)

/-- Close the writes of copy `id` of strand `o` to slot `k`, at place `po`, toward the strand itself (R85). -/
def closeSlot (o : StrandKey) (id n : Nat) (x : Ring) (k po : Nat) (s : State) : State :=
  onDev (fun v => { v with marks := v.marks.map fun m =>
    if m.party = Party.copy o Chan.load id ∧ m.write = true ∧ inSlot n x k m.gran = true then
      { m with stamps := ⟨po, .tile⟩ :: m.stamps }
    else m }) s

/-- RTAKE (R84, R85, R230): an acquire at tile scope of the slot, so the copy that filled it is closed there toward
the strand itself. -/
def execRtake (d : SReg) (ring : Fin 8) (s : State) : Host.Outcome State Fault Refusal :=
  finish s do
    let x ← getRing s ring
    need (decide (0 < x.filled)) (.wait (.ringFilled ring))
    let k := x.takeIx
    let k0 := me s
    let id := x.filler.getD k 0
    let y := { x with slots := x.slots.set k .held, filled := x.filled - 1, takeIx := (k + 1) % x.count }
    let s := closeSlot k0 id s.tileNo x k s.tile.ord.po s
    .ok (nextPo (setS d (word (slotBase x k)) (setRing s.tileNo ring y s)))

/-- The oldest HELD slot: the first HELD one from the take index on (R84). -/
def oldestHeld (x : Ring) : Option Nat :=
  ((List.range x.count).map fun j => (x.takeIx + j) % x.count).find? fun k => x.slots.getD k .free == .held

/-- RFREE (R84, R85, R230): a release of the slot's granules toward the next copy that fills it. -/
def execRfree (ring : Fin 8) (s : State) : Host.Outcome State Fault Refusal :=
  finish s do
    let x ← getRing s ring
    match oldestHeld x with
    | none => .error (.cause 0x059 ring.val)
    | some k =>
      .ok (nextPo (setRing s.tileNo ring
        { x with slots := x.slots.set k .free, free := x.free + 1, freedAt := x.freedAt.set k s.tile.ord.po } s))

/-! ### COLL (R232, R233, R235) -/

/-- Kinds that reduce. -/
def reducing : CollKind → Bool
  | .allreduce | .reducescatter | .reduce => true
  | .allgather | .bcast => false

/-- The rights a collective needs (R233). -/
def collRights (k : CollKind) : Nat := rightRead + rightWrite + if reducing k then rightAtomic else 0

/-- Types that a reduction accepts (R233). -/
def collTypeOk (k : CollKind) (op : CollOp) (fmt : Nat) : Bool :=
  !reducing k || match Fmt.ofCode fmt with
    | some .s32 | some .s64 | some .z32 | some .z64 => true
    | some .f32 | some .bf16 => op == .add || op == .min || op == .max
    | _ => false

/-- Whether the strand's group operand is valid: at gang scope a mask with its own index and none beyond the gang; else
a handle of its function with the strand among its members (R233; log 9). -/
def groupOk (s : State) (scope : Scope) (group : Nat) : Bool :=
  let k := me s
  match scope with
  | .gang | .tile => group.testBit k.tile && group / 2 ^ gangSize s k == 0
  | .dev | .sys =>
    match s.dev.groups.find? fun g => g.handle == group && g.fn == (taskOf s k).fn with
    | some g => g.members.contains (s.dev.pkg, k.gang, k.tile)
    | none => false

/-- Under which key the COLLs of a mask or handle are counted (R233). -/
def collKey (scope : Scope) (group : Nat) : Nat :=
  match scope with
  | .gang | .tile => group
  | .dev | .sys => 2 ^ 64 + group

/-- Bits of an element of a collective's buffer. -/
def collBits (s : State) (k : StrandKey) (d : Desc) : Nat :=
  match codeBits d.fmt with
  | some b => b
  | none => match codecPort s k d.fmt with | some (_, _, m) => m.ibits | none => 8

/-- COLL. -/
def execColl (d a b : SReg) (kind : CollKind) (op : CollOp) (det : Bool) (tdi : BitVec 16) (q : QReg) (scope : Scope)
    (s : State) : Host.Outcome State Fault Refusal :=
  finishIssue .store s do
    let e ← getDesc s tdi.toNat
    needRights e tdi.toNat (collRights kind)
    checkRegion s e
    checkCanonical e (collBits s (me s) e)
    let group := (getS s a).toNat
    need (groupOk s scope group) (.cause 0x0D0 0)
    need (collTypeOk kind op e.fmt) (.cause 0x053 tdi.toNat)
    let seq := s.tile.seq.collSeq + 1
    let ck := collKey scope group
    let ix := look 0 s.tile.collCounts ck + 1
    let t ← issue .store (.coll {
      seq := seq, scope := scope, group := word group, index := ix, kind := kind, op := op, det := det,
      root := (getS s b).toNat, desc := e }) (some q) (useDesc tdi.toNat s)
    let t := onFocus (fun u => { u with collCounts := keep u.collCounts ck ix }) t
    .ok (setS d (word seq) (onFocus (Tile.onSeq fun r => { r with collSeq := seq }) t))

end Sys2Proof.Machine
end

