-- ==== Sys2Proof/Machine/Engines.lean ====
section
/-!
DEFINITION. What every engine step shares: the party of a command, its tracked accesses at their serialisation points,
holding a command on a fault or for service (R116, R117), and finishing one (R16, R18, R414).
-/

namespace Sys2Proof.Machine

open Sys2Proof

/-! ### Parties (R91) -/

/-- The party of a command. -/
def partyOf (c : QCmd) : Party :=
  match c.body with
  | .copy x => .copy c.owner (if x.toLocal then .load else .store) x.id
  | .acc x => .copy c.owner .acc x.id
  | .coll x => .coll c.owner x.seq
  | .go n _ => .graph c.owner n
  | .mma _ | .mzero _ _ _ _ | .mscale _ _ _ _ _ _ _ _ | .config _ _ => .matrix c.owner c.seq

/-- The scope toward which the closing of an access of a command counts: a copy's, for its destination writes only (R96). -/
def closeScope (c : QCmd) (kind : AccKind) : Scope :=
  match c.body, kind with
  | .copy x, .copyWrite => x.scope
  | .acc x, .copyWrite => x.scope
  | _, _ => .sys

/-- An access of a command: its pseudo-region is open, so nothing of it is ordered before anything yet (R96). -/
def cmdAccess (c : QCmd) (kind : AccKind) (write sync : Bool) : Access :=
  ⟨partyOf c, c.clock, kind, write, sync, write, xferOf c, closeScope c kind, []⟩

/-- On whose behalf a command of tile `n` accesses memory. -/
def cmdWho (n : Nat) (c : QCmd) : Who := ⟨n, c.owner⟩

/-! ### Engine accesses -/

/-- The storage of the `n` bytes of one access, byte by byte in global space (R69). -/
def engSpots (s : State) (w : Who) (sp : Space) (u : Use) (addr n : Nat) : Except Stop (List Spot) :=
  match sp with
  | .glob => (List.range n).mapM fun i => globalByte s w u addr ((addr + i) % 2 ^ 64)
  | _ => do
    let p ← spotAt s w sp u addr n
    .ok [p]

/-- Another tile's scratchpad must be able to answer a read (R33, R391). -/
def peersServed (s : State) (n : Nat) (ps : List Spot) : Except Stop Unit :=
  need (!ps.any fun p => match p.piece.place with | .pad m => m != n && unserved (tileAt s m) | _ => false) (.wait (.peer 0 none))

/-- The touches of spots. -/
def spotTouches (ps : List Spot) : List Touch := ps.flatMap fun p => p.piece.touches

/-- The bytes of spots. -/
def spotBytes (s : State) (ps : List Spot) : List Byte :=
  ps.flatMap fun p => (placeMem s p.piece.place).readBytes p.piece.addr p.piece.n

/-- Use the pages of spots. -/
def useAll (w : Who) (u : Use) (ps : List Spot) (s : State) : State := ps.foldl (fun s p => useSpot w u p s) s

/-- A tracked read by an engine (R105, R106). -/
def engRead (a : Access) (w : Who) (sp : Space) (addr n : Nat) (s : State) : Except Stop (State × List Byte) := do
  let ps ← engSpots s w sp .read addr n
  peersServed s w.tile ps
  spotsSound s ps
  let s ← perform a (spotTouches ps) s
  .ok (useAll w .read ps s, spotBytes s ps)

/-- What an engine stores: bytes, or one nibble of a byte, and the copy whose element they are. -/
structure Datum where
  bytes : List Byte
  nibble : Option Bool
  elem : Option (Chan × Nat × Nat)
deriving DecidableEq, Repr

/-- Whole bytes that belong to no copy. -/
def Datum.whole (bytes : List Byte) : Datum := ⟨bytes, none, none⟩

/-- An element of `bits` bits at bit `lo` of its first byte: an F4 element is one nibble (R217, R223). -/
def Datum.ofElem (bits lo v : Nat) (elem : Option (Chan × Nat × Nat)) : Datum :=
  if bits < 8 then ⟨[BitVec.ofNat 8 (v % 2 ^ bits)], some (lo == 4), elem⟩ else ⟨leBytes (bits / 8) v, none, elem⟩

/-- Write what an engine stores into spots. -/
def putSpots (w : Who) : List Spot → Datum → State → State
  | [], _, s => s
  | p :: ps, x, s =>
    putSpots w ps { x with bytes := x.bytes.drop p.piece.n } (putPiece w x.elem p.piece x.nibble (x.bytes.take p.piece.n) s)

/-- End the releases that spots carry (R99). -/
def clearSpots (ps : List Spot) (s : State) : State :=
  ps.foldl (fun s p => plainWrite p.piece.place p.piece.addr p.piece.n s) s

/-- A tracked write by an engine (R76, R105, R106); `fmtOk` judges the page of every byte (R89). -/
def engWrite (a : Access) (w : Who) (sp : Space) (fmtOk : Option Nat → Bool) (addr : Nat) (x : Datum)
    (s : State) : Except Stop State := do
  let ps ← engSpots s w sp .write addr x.bytes.length
  match ps.find? fun p => !fmtOk (pageFmt p.leaf) with
  | some p => .error (.cause 0x054 p.piece.report)
  | none =>
    let s ← perform a (spotTouches ps) s
    .ok (putSpots w ps x (clearSpots ps (useAll w .write ps s)))

/-- Read spots that have been found: every page must pass `fmtOk` (R88, R89), the read is tracked (R105, R106). -/
def readSpots (a : Access) (w : Who) (fmtOk : Option Nat → Bool) (ps : List Spot) (s : State) :
    Except Stop (State × List Byte) := do
  match ps.find? fun p => !fmtOk (pageFmt p.leaf) with
  | some p => .error (.cause 0x054 p.piece.report)
  | none =>
    peersServed s w.tile ps
    spotsSound s ps
    let s ← perform a (spotTouches ps) s
    .ok (useAll w .read ps s, spotBytes s ps)

/-- A tracked atomic by an engine: the old bits are answered, the new ones are a function of them (R92, R105). -/
def engUpdate (a : Access) (w : Who) (sp : Space) (fmtOk : Option Nat → Bool) (addr n : Nat) (f : Nat → Nat)
    (s : State) : Except Stop State := do
  let ps ← engSpots s w sp .update addr n
  match ps.find? fun p => !fmtOk (pageFmt p.leaf) with
  | some p => .error (.cause 0x054 p.piece.report)
  | none =>
    peersServed s w.tile ps
    spotsSound s ps
    let s ← perform a (spotTouches ps) s
    .ok (putSpots w ps (.whole (leBytes n (f (leNat (spotBytes s ps))))) (useAll w .update ps s))

/-! ### Elements of a source descriptor (R79, R88) -/

/-- The format that fixes the pages of a source: that of the page of element (0, …, 0) (R88), which is found with the
descriptor's element bits (log 51). -/
def sourceFmt (s : State) (w : Who) (d : Desc) (bits : Nat) : Except Stop (Option Nat) :=
  match d.space with
  | .glob => (globalSpot s w .read (elemByte d bits (elemOffset d [])).1 1).map fun p => pageFmt p.leaf
  | _ => .ok none

/-- Element bits by which a source's offsets count: the page's, or the descriptor's (R88). -/
def sourceBits (p : Option Nat) (bits : Nat) : Nat :=
  match p with
  | none => bits
  | some c => (codeBits c).getD bits

/-- The exponent byte of an element of a DS8 page, read at the page's exponent table (R87, R370). -/
def sourceExponent (a : Access) (w : Who) (ps : List Spot) (addr : Nat) (s : State) : Except Stop (State × Nat) :=
  match ps.head? with
  | some ⟨_, some x⟩ => do
    let es ← engSpots s w .glob .read (exponentAddr s (taskOf s w.key).fn x addr) 1
    let (s, bs) ← readSpots a w (· == none) es s
    .ok (s, leNat bs)
  | _ => .ok (s, 127)

/-- Read the stored bits of element `t` of a source: its page's format, the bits, and the spots (R79, R88). -/
def sourceRaw (a : Access) (w : Who) (d : Desc) (bits : Nat) (t : List Nat) (s : State) :
    Except Stop (State × Option Nat × Nat × List Spot × Nat) := do
  let p ← sourceFmt s w d bits
  let b := sourceBits p bits
  let (addr, lo) := elemByte d b (elemOffset d t)
  let ps ← engSpots s w d.space .read addr (max 1 (b / 8))
  let (s, bs) ← readSpots a w (· == p) ps s
  .ok (s, p, fieldOf (leNat bs) lo b, ps, addr)

/-- Element `t` of a source descriptor as its native format `f` (R79, R88). -/
def sourceElem (a : Access) (w : Who) (d : Desc) (f : Fmt) (rm : BitVec 2) (t : List Nat) (s : State) :
    Except Stop (State × Rep) := do
  let (s, p, raw, ps, addr) ← sourceRaw a w d f.bits t s
  match p with
  | none => .ok (s, raw, 0)
  | some c =>
    match Fmt.ofCode c with
    | none => .error (.cause 0x054 addr)
    | some g =>
      if g = f then .ok (s, raw, 0)
      else if f = .ds8 then .error (.cause 0x054 addr)
      else if g = .ds8 then do
        let (s, e) ← sourceExponent a w ps addr s
        .ok (s, convertElem g (RMode.ofBits rm) e f raw)
      else .ok (s, convertElem g (RMode.ofBits rm) 127 f raw)

/-! ### Holding a command (R116, R117) -/

/-- A command is held; a message of its own at a region port is dropped. -/
def setHeld (n : Nat) (e : Eng) (c : QCmd) (h : Held) (s : State) : State :=
  let s := onCmd n e c.owner c.seq (fun x => { x with held := some h }) s
  match copyId c.body with
  | some (ch, id) => dropServing (· == .copy n ch id) s
  | none => s

/-- Hold a command: on a fault until it is delivered, or for the service of a request; a wait leaves it as it is. -/
def holdCmd (n : Nat) (e : Eng) (c : QCmd) (st : Stop) (s : State) : State :=
  match st with
  | .trap t => setHeld n e c (.fault t) s
  | .wait _ => s
  | .service fn kind va size fail =>
    match askService fn kind va size s with
    | none => setHeld n e c (.fault fail) s
    | some (id, s) => setHeld n e c (.service id fail) s

/-- The effect of an engine step, or the command held. -/
def orHold (n : Nat) (e : Eng) (c : QCmd) (s : State) (r : Except Stop State) : State :=
  match r with
  | .ok t => t
  | .error st => holdCmd n e c st s

/-- A command that may go on: not held, and nothing its strand did before it still lacks an acknowledgement (R96). -/
def mayRun (s : State) (c : QCmd) : Bool := c.held.isNone && !owedAcks s c.owner

/-- The head command of an engine of tile `n`, where the engine may act on it: a command behind a held copy starts only
when that copy is released (R116). -/
def liveHead (s : State) (n : Nat) (e : Eng) : Option QCmd :=
  if enginesRun (tileAt s n) then
    match headCmd s n e with
    | some c => if mayRun s c && (c.started || !stalled (tileAt s n) e) then some c else none
    | none => none
  else none

/-- SUBST bits that a command's result sets, if its strand is still on the tile (R55). -/
def cmdSubst (n : Nat) (c : QCmd) (b : BitVec 3) (s : State) : State :=
  if (tileAt s n).owner = some c.owner then setSubstOn n b s else s

/-! ### Finishing a command (R16, R18, R414) -/

/-- Charge a finished command: the tile owes a report, and its ENERGY counter advances (R413, R415). -/
def chargeCmd (n : Nat) (k : StrandKey) (pj : Nat) (s : State) : State :=
  onTelemetry n (fun t => { t with energy := t.energy + word pj })
    (onTile n (fun t => { t with unreported := t.unreported ++ [(k, pj)] }) s)

/-- The head command of an engine finishes: it leaves the queue, is charged, and posts its entry (R16, R18, R414). -/
def finishCmd (n : Nat) (e : Eng) (c : QCmd) (entry pj : Nat) (s : State) : State :=
  postReply n c.owner c.reply entry (chargeCmd n c.owner pj (popCmd n e s))

end Sys2Proof.Machine
end

