-- ==== Sys2Proof/Machine/Matrix.lean ====
section
/-!
DEFINITION. The matrix instructions and the passes of the matrix engine (R236 to R255), with the sum order of R59 to
R62.
-/

namespace Sys2Proof.Machine

open Sys2Proof

/-! ### Type pairs (R243) -/

/-- Formats of A and B of a pair code, none for the pairs of other generations. -/
def pairFmts (code : Nat) : Option (Fmt × Fmt) :=
  match code with
  | 0 => some (.bf16, .bf16)
  | 1 => some (.f16, .f16)
  | 2 => some (.fa8, .fa8)
  | 3 => some (.fb8, .fb8)
  | 4 => some (.fa8, .fb8)
  | 5 => some (.fb8, .fa8)
  | 6 => some (.f4, .f4)
  | 7 => some (.f4, .fa8)
  | 8 => some (.s8, .s8)
  | 9 => some (.bf16, .ds8)
  | 10 => some (.ds8, .bf16)
  | _ => none

/-- K steps per tile clock. -/
def pairRate (code : Nat) : Nat := if code ≤ 1 then 1 else if code ≤ 8 then 2 else 4

/-! ### Operand specifiers (R237-R239) -/

/-- Bytes of a tile row: 32 elements. -/
def tileRowBytes (t : Fmt) : Nat := 32 * t.bits / 8

/-- RPITCH of a scratchpad specifier. -/
def specRPitch (v : Nat) : Nat := fieldOf v 30 16

/-- The operand of a scratchpad specifier, pitches in bytes. -/
def padOperand (v : Nat) (t : Fmt) (rows : Nat) : Operand :=
  let rp := if specRPitch v ≠ 0 then 32 * specRPitch v else 32 * ceilDiv (tileRowBytes t) 32
  let kp := if fieldOf v 46 16 ≠ 0 then 32 * fieldOf v 46 16 else rows * rp
  .pad (fieldOf v 0 27) (fieldOf v 27 3) rp kp

/-- Registers that a register operand spans. -/
def specRegs (v : Nat) (t : Fmt) (rows : Nat) : Nat × Nat := (v % 64, ceilDiv (rows * tileRowBytes t) 256)

/-- R237: bits that must be zero, then the alignment of BASE. -/
def checkSpecBits (reg : Bool) (v : Nat) : Except Stop Unit := do
  need (if reg then v / 64 == 0 else v / 2 ^ 62 == 0) (.cause 0x0C0 v)
  need (reg || fieldOf v 0 27 % 32 == 0) (.cause 0x04A (fieldOf v 0 27))

/-- R238: a nonzero RPITCH holds a tile row. -/
def checkSpecPitch (reg : Bool) (v : Nat) (t : Fmt) : Except Stop Unit :=
  need (reg || specRPitch v == 0 || decide (tileRowBytes t ≤ 32 * specRPitch v)) (.cause 0x0C0 0)

/-- The vector registers a register operand names (R187, R239). -/
def specNamed (v : Nat) (t : Fmt) (rows : Nat) : List VReg :=
  (List.range (specRegs v t rows).2).map fun i => Fin.ofNat 64 ((specRegs v t rows).1 + i)

/-- R239: a register operand holds one K tile, in registers up to V63. -/
def checkSpecRegs (reg : Bool) (v : Nat) (t : Fmt) (rows k : Nat) : Except Stop Unit :=
  need (!reg || decide (k ≤ 32 ∧ (specRegs v t rows).1 + (specRegs v t rows).2 ≤ 64)) (.cause 0x0C0 0)

/-- The operand with its register contents captured (R239). -/
def captureOperand (s : State) (reg : Bool) (v : Nat) (t : Fmt) (rows : Nat) : Operand :=
  if reg then .regs ((specNamed v t rows).flatMap fun r => vecBytes (getV s r)) else padOperand v t rows

/-- The byte of tile row `j` of K tile `kt` at which chunk `c` of 32 bytes starts (R238). -/
def chunkAddr (base rot rp kp j kt c : Nat) : Nat := base + kt * kp + j * rp + (c + j * rot) % max 1 (rp / 32) * 32

/-- Bytes of K tile `kt` that a command reads. -/
def tileBytesRead (t : Fmt) (k kt : Nat) : Nat := ceilDiv (min 32 (k - 32 * kt) * t.bits) 8

/-- The pieces of one row of a scratchpad operand: address and length by chunk (R238). -/
def rowPieces (base rot rp kp : Nat) (t : Fmt) (k j : Nat) : List (Nat × Nat) :=
  (List.range (ceilDiv k 32)).flatMap fun kt =>
    let n := tileBytesRead t k kt
    (List.range (ceilDiv n 32)).map fun c => (chunkAddr base rot rp kp j kt c, min 32 (n - 32 * c))

/-- The footprint of an operand (R238). -/
def operandPieces (o : Operand) (t : Fmt) (rows k : Nat) : List (Nat × Nat) :=
  match o with
  | .regs _ => []
  | .pad base rot rp kp => (List.range rows).flatMap fun j => rowPieces base rot rp kp t k j

/-! ### The operand window (R240) -/

/-- The end of the space of an operand window (R70, R71). -/
def windowEnd (s : State) (gang : Bool) : Nat :=
  if gang then min 0x8000000 (gangSize s (me s) * 0x200000) else 0x200000

/-- The lowest byte of pieces at or above `lim`. -/
def lowestBeyond (lim : Nat) (ps : List (Nat × Nat)) : Option Nat :=
  ps.foldl (fun acc p =>
    if p.1 + p.2 ≤ lim then acc
    else match acc with | some b => some (min b (max p.1 lim)) | none => some (max p.1 lim)) none

/-- The window descriptor, the bytes it must cover, and then its fabric path (R81, R115). -/
def checkWindow (s : State) (gang : Bool) (tdi : Nat) (ps : List (Nat × Nat)) : Except Stop Unit := do
  let d ← getDesc s tdi
  needRights d tdi rightRead
  need (d.space == (if gang then .win else .loc) && d.ndim == 1 && d.fmt == 0x04 && d.stride.getD 0 0 == 1)
    (.cause 0x053 tdi)
  match lowestBeyond (windowEnd s gang) ps with
  | some b => .error (.cause (if gang then 0x049 else 0x048) b)
  | none =>
    let lo := d.base + d.origin.getD 0 0
    need (ps.all fun p => decide (lo ≤ p.1 ∧ p.1 + p.2 ≤ lo + d.ext.getD 0 0)) (.cause 0x053 tdi)
    checkRegion s d

/-! ### MMA and MMAG (R241, R242, R244-R247) -/

/-- The bits of the shape word that must be zero (R242). -/
def shapeOk (gang : Bool) (w : Nat) : Bool :=
  fieldOf w 58 6 == 0 && (gang || fieldOf w 48 10 == 0) &&
    decide (fieldOf w 32 8 + fieldOf w 0 8 + 1 ≤ 256 ∧ fieldOf w 40 8 + fieldOf w 8 8 + 1 ≤ 256)

/-- Whether the group of the shape word is a tile group of the gang that holds the issuing tile (R247). -/
def groupTiles (s : State) (w : Nat) : Bool :=
  let r := (taskOf s (me s)).trec
  let gr := fieldOf w 48 2 + 1
  let gc := fieldOf w 50 2 + 1
  let org := fieldOf w 52 6
  let i := (me s).tile
  let gw := max 1 r.gw
  decide (org < r.gw * r.gh ∧ org % gw + gc ≤ r.gw ∧ org / gw + gr ≤ r.gh) &&
    decide (org % gw ≤ i % gw ∧ i % gw < org % gw + gc ∧ org / gw ≤ i / gw ∧ i / gw < org / gw + gr)

/-- Bytes of the exponent array (R241). -/
def exponentBytes (rows k geom : Nat) : Nat := rows * ceilDiv k (16 * 2 ^ geom)

/-- MMA and MMAG at their issue: the checks of R243, R242, R237 to R241 in that order, REPLY_OVERFLOW, and the capture
of register operands (R244; log 10). -/
def issueMma (gang : Bool) (d a b c : SReg) (o : MmaOp) (tdi : BitVec 16) (reply : Option QReg) (s : State) :
    Except Stop State :=
  match pairFmts o.pair.val with
  | none => .error (.cause 0x0C2 o.pair.val)
  | some (fa, fb) => do
    let w := (getS s c).toNat
    let m := fieldOf w 0 8 + 1
    let n := fieldOf w 8 8 + 1
    let k := fieldOf w 16 16 + 1
    let va := (getS s a).toNat
    let vb := (getS s b).toNat
    need (shapeOk gang w) (.cause 0x0C0 w)
    need (!gang || groupTiles s w) (.cause 0x0C1 w)
    checkSpecBits o.av va
    checkSpecBits o.bv vb
    checkSpecPitch o.av va fa
    checkSpecPitch o.bv vb fb
    checkSpecRegs o.av va fa m k
    checkSpecRegs o.bv vb fb n k
    useBanks s ((if o.av then specNamed va fa m else []) ++ if o.bv then specNamed vb fb n else [])
    let ds8 : Bool := o.pair.val == 9 || o.pair.val == 10
    let sw := if ds8 then (getS s d).toNat else 0
    let esrc := sw.testBit 29
    let geom := fieldOf sw 27 2
    let expo := if esrc then [(fieldOf sw 0 27, exponentBytes (if o.pair.val = 9 then n else m) k geom)] else []
    let oa := captureOperand s o.av va fa m
    let ob := captureOperand s o.bv vb fb n
    if o.av && o.bv then need (!esrc) (.cause 0x0C0 0)
    else checkWindow s gang tdi.toNat (operandPieces oa fa m k ++ operandPieces ob fb n k ++ expo)
    need (fieldOf sw 38 26 == 0) (.cause 0x0C0 sw)
    let t ← issue .matrix (.mma {
      gang := gang, pair := o.pair.val, sat := o.sat, a := oa, b := ob, m := m, n := n, k := k, row0 := fieldOf w 32 8,
      col0 := fieldOf w 40 8, eaddr := fieldOf sw 0 27, geom := geom, esrc := esrc,
      efix := if ds8 then fieldOf sw 30 8 else 127 }) reply (if o.av && o.bv then s else useDesc tdi.toNat s)
    .ok (if o.pair.val = 6 ∨ o.pair.val = 7 then setSubst 1 t else t)

/-- MMA (R244). -/
def execMma (d a b c : SReg) (o : MmaOp) (tdi : BitVec 16) (reply : Option QReg) (s : State) :
    Host.Outcome State Fault Refusal := finishIssue .matrix s (issueMma false d a b c o tdi reply s)

/-- MMAG (R246). -/
def execMmag (d a b c : SReg) (o : MmaOp) (tdi : BitVec 16) (reply : Option QReg) (s : State) :
    Host.Outcome State Fault Refusal := finishIssue .matrix s (issueMma true d a b c o tdi reply s)

/-! ### MZERO and MSCALE (R248, R249) -/

/-- An accumulator window in the layout of R226: row, column, rows, columns. -/
def accWindow (w : Nat) : Except Stop (Nat × Nat × Nat × Nat) := do
  let rows := fieldOf w 16 8 + 1
  let cols := fieldOf w 24 8 + 1
  need (fieldOf w 32 32 == 0 && decide (fieldOf w 0 8 + rows ≤ 256 ∧ fieldOf w 8 8 + cols ≤ 256)) (.cause 0x0C0 0)
  .ok (fieldOf w 0 8, fieldOf w 8 8, rows, cols)

/-- MZERO (R248). -/
def execMzero (a : SReg) (s : State) : Host.Outcome State Fault Refusal :=
  finishIssue .matrix s do
    let (r, c, rows, cols) ← accWindow (getS s a).toNat
    issue .matrix (.mzero r c rows cols) none s

/-- MSCALE (R249): the factor is taken when it issues. -/
def execMscale (a b : SReg) (int : Bool) (sat : Bool) (sh : Fin 64) (s : State) : Host.Outcome State Fault Refusal :=
  finishIssue .matrix s do
    let (r, c, rows, cols) ← accWindow (getS s a).toNat
    issue .matrix (.mscale r c rows cols int sat (getS s b) sh.val) none s

/-! ### The accumulator store (R72) -/

/-- The address of element (r, c) in the accumulator store as the model keeps it. -/
def accAddr (r c : Nat) : Nat := 4 * (256 * r + c)

/-- Read an element. -/
def accRead (t : Tile) (r c : Nat) : Nat := t.accum.readNat (accAddr r c) 4

/-- Write an element. -/
def accWrite (r c v : Nat) (t : Tile) : Tile := { t with accum := t.accum.writeNat (accAddr r c) 4 v }

/-- The (row, column) pairs of a window. -/
def windowCells (row0 col0 rows cols : Nat) : List (Nat × Nat) :=
  (List.range rows).flatMap fun r => (List.range cols).map fun c => (row0 + r, col0 + c)

/-- Change every element of a window, collecting SUBST bits. -/
def mapWindow (f : Nat → Rep) (cells : List (Nat × Nat)) (t : Tile) : Tile × BitVec 3 :=
  cells.foldl (fun acc rc =>
    let y := f (accRead acc.1 rc.1 rc.2)
    (accWrite rc.1 rc.2 y.1 acc.1, acc.2 ||| y.2)) (t, 0)

/-- MSCALE of one element (R249). -/
def scaleElem (int sat : Bool) (w : Word) (sh x : Nat) : Rep :=
  let sel := SatSel.of sat false
  if int then
    let p := signedOf 32 x * signedOf 32 w.toNat
    roundTo .s32 .rne sel 127 true (.fin (decide (p < 0)) p.natAbs (-(sh : Int)) false)
  else roundTo .f32 .rne sel 127 false ((decodeNum .f32 127 x).mul (decodeNum .f32 127 (w.toNat % 2 ^ 32)))

/-! ### Group sums (R59-R62) -/

/-- floor(log2 |p|) of a nonzero finite product. -/
def numExp : Num → Int
  | .fin _ m e _ => Nat.log2 m + e
  | _ => 0

/-- Whether a product is finite and not zero. -/
def numNonzero : Num → Bool
  | .fin _ m _ _ => m != 0
  | _ => false

/-- A product cut toward zero to a multiple of 2^`u`, in those units, and whether anything was cut off (R60). -/
def cutAt (u : Int) : Num → Int × Bool
  | .fin s m e _ =>
    if u ≤ e then (signedNat s (m * 2 ^ (e - u).toNat), false)
    else
      let k := (u - e).toNat
      (signedNat s (m / 2 ^ k), m % 2 ^ k != 0)
  | _ => (0, false)

/-- One group of products added to the F32 accumulator (R60). -/
def groupF32 (sat : Bool) (acc : Nat) (ps : List Num) : Rep :=
  let sel := SatSel.of sat false
  let x := decodeNum .f32 127 acc
  let infPos := ps.contains (.inf false)
  let infNeg := ps.contains (.inf true)
  if x = .nan ∨ ps.contains .nan ∨ (infPos ∧ infNeg) then (0x7FC00000, 0)
  else if infPos || infNeg then roundTo .f32 .rne sel 127 false (sumNums .rne [x, .inf infNeg])
  else
    let qs := ps.filter numNonzero
    match qs.map numExp with
    | [] => (acc, 0)
    | e :: es =>
      let u := es.foldl max e - 65
      let sum := (qs.map fun p => (cutAt u p).1).foldl (· + ·) 0
      let sticky := qs.any fun p => (cutAt u p).2
      if sum = 0 then (acc, 0)
      else
        let twice := 2 * sum + (if sticky then (if 0 < sum then 1 else -1) else 0)
        roundTo .f32 .rne sel 127 false (sumNums .rne [x, .fin (decide (twice < 0)) twice.natAbs (u - 1) false])

/-- The exact integer of a product of integers. -/
def numInt : Num → Int
  | .fin s m e _ => signedNat s (m * 2 ^ e.toNat)
  | _ => 0

/-- One group of integer products added to the S32 accumulator (R61). -/
def groupS32 (sat : Bool) (acc : Nat) (ps : List Num) : Rep :=
  let v := signedOf 32 acc + (ps.map numInt).foldl (· + ·) 0
  fitInt .s32 sat v

/-- The products of a row and a column in groups of 32, in ascending K (R60). -/
def groupsOf : Nat → List Num → List (List Num)
  | 0, _ => []
  | n + 1, ps => ps.take 32 :: groupsOf n (ps.drop 32)

/-- An output element: every group in turn (R60, R61). -/
def outputElem (int sat : Bool) (acc : Nat) (row col : List Num) : Rep :=
  let ps := List.zipWith Num.mul row col
  (groupsOf (ceilDiv ps.length 32) ps).foldl (fun r g =>
    let y := if int then groupS32 sat r.1 g else groupF32 sat r.1 g
    (y.1, r.2 ||| y.2)) (acc, 0)

/-! ### Operand reads -/

/-- The bits of element `k` of a tile-row byte string. -/
def rowElem (t : Fmt) (row : List Byte) (k : Nat) : Nat :=
  if t.bits = 4 then (row.getD (k / 2) 0).toNat / (if k % 2 = 1 then 16 else 1) % 16
  else leNat ((row.drop (k * t.bits / 8)).take (t.bits / 8))

/-- The space of a command's scratchpad operands. -/
def mmaSpace (c : MmaCmd) : Space := if c.gang then .win else .loc

/-- Read pieces in order as tracked operand reads (R254). -/
def readPieces (q : QCmd) (n : Nat) (sp : Space) : List (Nat × Nat) → State → Except Stop (State × List Byte)
  | [], s => .ok (s, [])
  | p :: ps, s => do
    let (s, x) ← engRead (cmdAccess q .matrixRead false false) (cmdWho n q) sp p.1 p.2 s
    let (s, xs) ← readPieces q n sp ps s
    .ok (s, x ++ xs)

/-- The bytes of row `j` of an operand, K elements packed. -/
def operandRow (q : QCmd) (n : Nat) (sp : Space) (o : Operand) (t : Fmt) (k j : Nat) (s : State) :
    Except Stop (State × List Byte) :=
  match o with
  | .regs bytes => .ok (s, (bytes.drop (j * tileRowBytes t)).take (tileRowBytes t))
  | .pad base rot rp kp => readPieces q n sp (rowPieces base rot rp kp t k j) s

/-- The exponent bytes of row `j` of a DS8 operand, each a piece of its own (R241). -/
def exponentPieces (eaddr nb j : Nat) : List (Nat × Nat) := (List.range nb).map fun i => (eaddr + j * nb + i, 1)

/-- The block exponents of row `j` of a DS8 operand (R241). -/
def rowExponents (q : QCmd) (n : Nat) (c : MmaCmd) (j : Nat) (s : State) : Except Stop (State × List Byte) :=
  if c.esrc then
    readPieces q n (mmaSpace c) (exponentPieces c.eaddr (ceilDiv c.k (16 * 2 ^ c.geom)) j) s
  else .ok (s, [])

/-- The exact values of row `j` of an operand. -/
def operandVals (q : QCmd) (n : Nat) (c : MmaCmd) (o : Operand) (t : Fmt) (j : Nat) (s : State) :
    Except Stop (State × List Num) := do
  let (s, row) ← operandRow q n (mmaSpace c) o t c.k j s
  let (s, ex) ← if t = .ds8 then rowExponents q n c j s else .ok (s, [])
  let e := fun k => if c.esrc then (ex.getD (k / (16 * 2 ^ c.geom)) 0).toNat else c.efix
  .ok (s, (List.range c.k).map fun k => decodeNum t (e k) (rowElem t row k))

/-- The values of several rows. -/
def operandRows (q : QCmd) (n : Nat) (c : MmaCmd) (o : Operand) (t : Fmt) : List Nat → State →
    Except Stop (State × List (List Num))
  | [], s => .ok (s, [])
  | j :: js, s => do
    let (s, x) ← operandVals q n c o t j s
    let (s, xs) ← operandRows q n c o t js s
    .ok (s, x :: xs)

/-! ### Passes (R244, R250, R252) -/

/-- Column blocks of a command. -/
def colBlocks (c : MmaCmd) : Nat := ceilDiv c.n 32

/-- Passes of a command. -/
def passCount (c : MmaCmd) : Nat := ceilDiv c.m 64 * colBlocks c

/-- Rows of pass `p`. -/
def passRows (c : MmaCmd) (p : Nat) : List Nat :=
  (List.range 64).filterMap fun i => let m := 64 * (p / colBlocks c) + i; if m < c.m then some m else none

/-- Columns of pass `p`. -/
def passCols (c : MmaCmd) (p : Nat) : List Nat :=
  (List.range 32).filterMap fun i => let n := 32 * (p % colBlocks c) + i; if n < c.n then some n else none

/-- The write-back of a pass (R244). -/
def writeBack (c : MmaCmd) (rows cols : List Nat) (a b : List (List Num)) (t : Tile) : Tile × BitVec 3 :=
  (rows.zip a).foldl (fun acc ra =>
    (cols.zip b).foldl (fun acc cb =>
      let y := outputElem (c.pair == 8) c.sat (accRead acc.1 (c.row0 + ra.1) (c.col0 + cb.1)) ra.2 cb.2
      (accWrite (c.row0 + ra.1) (c.col0 + cb.1) y.1 acc.1, acc.2 ||| y.2)) acc) (t, 0)

/-- Clocks that one run of one pass is charged (R414). -/
def passClocks (c : MmaCmd) : Nat := ceilDiv c.k (pairRate c.pair) + 1

/-- The reply entry of a matrix command (R255). -/
def matrixEntry (q : QCmd) : Nat := 8 * 2 ^ 60 + min q.replays 65535 * 2 ^ 32 + q.seq % 2 ^ 32

/-- The charge of MZERO and MSCALE (R414). -/
def fillCharge (rows cols : Nat) : Nat := 745 * (ceilDiv (rows * cols) 2048 + 2)

/-- A pass that was not clean: it writes nothing, its replay is counted, and after 16 replays the command is held with
REPLAY_LIMIT (R250, R413). -/
def passUnclean (n : Nat) (q : QCmd) (c : MmaCmd) (droop : Bool) (s : State) : State :=
  let s := onCmd n .matrix q.owner q.seq (fun x => { x with cost := x.cost + passClocks c, droop := false }) s
  if q.run + 1 = 17 then holdCmd n .matrix q (.cause 0x1C2 q.pass) s
  else
    let s := onCmd n .matrix q.owner q.seq (fun x => { x with run := x.run + 1, replays := x.replays + 1 }) s
    onTelemetry n (fun t => if droop then { t with droopRep := t.droopRep + 1 } else { t with resRep := t.resRep + 1 }) s

/-- How a run of a pass went: a droop that was flagged while it ran makes it unclean (R250, R411). -/
def passCheck (q : QCmd) (check : PassCheck) : PassCheck := if q.droop then .droop else check

/-- One run of the pass at the cursor of an MMA or MMAG at the head of the queue. -/
def runPass (n : Nat) (q : QCmd) (c : MmaCmd) (check : PassCheck) (s : State) : State :=
  match pairFmts c.pair with
  | none => s
  | some (fa, fb) =>
    orHold n .matrix q s do
      let rows := passRows c q.pass
      let cols := passCols c q.pass
      let (t, a) ← operandRows q n c c.a fa rows s
      let (t, b) ← operandRows q n c c.b fb cols t
      match passCheck q check with
      | .residue => .ok (passUnclean n q c false t)
      | .droop => .ok (passUnclean n q c true t)
      | .clean =>
        let (u, flags) := writeBack c rows cols a b (tileAt t n)
        let t := cmdSubst n q flags (setTile t n u)
        let cost := q.cost + passClocks c
        if q.pass + 1 < passCount c then
          .ok (onCmd n .matrix q.owner q.seq (fun x => { x with pass := x.pass + 1, run := 0, cost := cost }) t)
        else .ok (finishCmd n .matrix q (matrixEntry q) (745 * (16 + cost)) t)

end Sys2Proof.Machine
end

