-- ==== Sys2Proof/Machine/CopySteps.lean ====
section
/-!
DEFINITION. The copy channels and CPYA at work: starting a copy, its element accesses, its operator path, and its end
(R16, R17, R84 to R90, R222 to R228, R231, R303, R306, R414).
-/

namespace Sys2Proof.Machine

open Sys2Proof

/-! ### Finding copies -/

/-- Whether a queued command is a copy that has started, and so will be in flight. -/
def startedCopy (c : QCmd) : Bool := c.started && match c.body with | .copy _ => true | _ => false

/-- Copies of the load and store channels in flight (R17), the one that each channel has started and not yet finished
counted with them, so that 64 are never exceeded. -/
def inFlight (t : Tile) : Nat :=
  (t.flight.filter fun c => flightOn .load c || flightOn .store c).length + ((t.qLoad ++ t.qStore).filter startedCopy).length

/-- Whether a command is copy `id` of channel `ch`. -/
def isCopy (ch : Chan) (id : Nat) (c : QCmd) : Bool := copyId c.body == some (ch, id)

/-- Copy `id` of channel `ch`, where it may act and satisfies `p`: in flight, or at the head of its queue and started. -/
def activeCopy (s : State) (n : Nat) (ch : Chan) (id : Nat) (p : QCmd → Bool) : Option QCmd :=
  let t := tileAt s n
  match (if enginesRun t then t.flight.find? fun c => isCopy ch id c && mayRun s c && p c else none) with
  | some c => some c
  | none =>
    match liveHead s n (chanEng ch) with
    | some c => if isCopy ch id c && c.started && p c then some c else none
    | none => none

/-! ### COPY_START (R16, R17, R84) -/

/-- Claim the ring slot at the fill index for copy `id`: FREE to FILLING, with the release of its last RFREE (R84, R85). -/
def claimSlot (n : Nat) (r : Fin 8) (id : Nat) (c : QCmd) (s : State) : Option (Nat × Clock × State) :=
  match (tileAt s n).rings[r] with
  | none => none
  | some x =>
    if x.free = 0 then none
    else
      let k := x.fillIx
      let lo := slotBase x k / 32
      let grans := (List.range (x.slotSize / 32)).map fun i => (⟨.pad n, lo + i⟩ : Gran)
      let gain : Limited := ⟨grans, [⟨c.owner, x.freedAt.getD k 0⟩]⟩
      let y := { x with slots := x.slots.set k .filling, free := x.free - 1, fillIx := (k + 1) % x.count
                        filler := x.filler.set k id }
      some (k, joinClock c.clock ⟨[], [gain]⟩, setRing n r y s)

/-- The head command of a copy channel starts: a copy with room among the 64 in flight and, for a ring, a free slot; a
COLL at once. A copy that an ended strand left behind takes a slot that its strand left FREE, and raises RING_INVALID where
there is none or the next strand has started (R86; log 50). -/
def copyStart (n : Nat) (e : Eng) (s : State) : State :=
  match liveHead s n e with
  | none => s
  | some c =>
    if c.started then s
    else
      match c.body with
      | .coll _ => onCmd n e c.owner c.seq (fun q => { q with started := true }) s
      | .copy x =>
        if 64 ≤ inFlight (tileAt s n) then s
        else
          match x.ring, x.slot with
          | some r, none =>
            let owner := (tileAt s n).owner
            match (if owner.all (· == c.owner) then claimSlot n r x.id c s else none) with
            | none =>
              if owner.isSome && owner.all (· == c.owner) && (tileAt s n).rings[r].isSome then s
              else holdCmd n e c (.cause 0x058 r.val) s
            | some (k, clock, t) =>
              let base := match (tileAt t n).rings[r] with | some y => slotBase y k | none => x.base
              onCmd n e c.owner c.seq (fun q => { q with
                started := true, clock := clock, body := .copy { x with slot := some k, base := base } }) t
          | _, _ => onCmd n e c.owner c.seq (fun q => { q with started := true }) s
      | _ => s

/-- COPY_START. -/
def execCopyStart (tile : Nat) (store : Bool) (s : State) : Host.Outcome State Fault Refusal :=
  .next (copyStart tile (if store then .store else .load) s)

/-! ### Elements of the local layout (R223) -/

/-- The byte and the bit within it of element (row, column) of a local layout. -/
def localAddr (base pitch bits row col : Nat) : Nat × Nat := (base + row * pitch + col * bits / 8, col * bits % 8)

/-- Read `bits` bits of an own-scratchpad element. -/
def localRead (a : Access) (w : Who) (at_ : Nat × Nat) (bits : Nat) (s : State) : Except Stop (State × Nat) := do
  let (s, bs) ← engRead a w .loc at_.1 (max 1 (bits / 8)) s
  .ok (s, fieldOf (leNat bs) at_.2 bits)

/-- Write `bits` bits of an own-scratchpad element (R223). -/
def localWrite (a : Access) (w : Who) (at_ : Nat × Nat) (bits v : Nat) (s : State) : Except Stop State :=
  engWrite a w .loc (fun _ => true) at_.1 (.ofElem bits at_.2 v none) s

/-- Where element `i` of a copy lies on the local side. -/
def copyLocal (x : CopyCmd) (i : Nat) : Nat × Nat :=
  let n0 := dimOf x.desc 0
  localAddr x.base x.pitch x.lbits (i / n0) (i % n0)

/-! ### The operator stages (R88, R224, R306) -/

/-- The codec that a copy's source page needs (R88, R90). -/
def copyCodec (s : State) (n : Nat) (c : QCmd) (x : CopyCmd) : Option Nat :=
  if x.toLocal then
    match sourceFmt s (cmdWho n c) x.desc x.tbits with
    | .ok (some p) => if 16 ≤ p ∧ p ≠ x.desc.fmt then some p else none
    | _ => none
  else none

/-- Stages of a copy: 0 its elements are read, 1 at the codec, 2 at the operator of its path, 3 its elements are ready. -/
def nextStage (codec path : Bool) (stage : Nat) : Nat :=
  if stage = 0 && codec then 1 else if stage ≤ 1 && path then 2 else 3

/-- All elements of a copy, as a bit set. -/
def allBits (n : Nat) : Nat := 2 ^ n - 1

/-- The region, port and manifest port that serve a stage: the codec's, or the path's. -/
def stagePort (s : State) (n : Nat) (c : QCmd) (x : CopyCmd) : Option (Nat × Nat × ManPort) :=
  if c.pass = 1 then (copyCodec s n c x).bind fun p => codecPort s c.owner p
  else x.path.bind fun (i, j) => (manPort s c.owner i j).map fun m => (i, j, m)

/-- The element read by a copy toward its first stage: the bits, and SUBST. -/
def copySource (n : Nat) (c : QCmd) (x : CopyCmd) (i : Nat) (s : State) : Except Stop (State × Rep) :=
  let w := cmdWho n c
  let a := cmdAccess c .copyRead false false
  if !x.toLocal then do
    let (s, v) ← localRead a w (copyLocal x i) x.lbits s
    .ok (s, v, 0)
  else
    match copyCodec s n c x with
    | some p =>
      match codecPort s c.owner p with
      | none => .error (.cause 0x101 0)
      | some (_, _, m) => do
        let (addr, lo) := elemByte x.desc m.ibits (elemOffset x.desc (tupleOf x.desc i))
        let ps ← engSpots s w x.desc.space .read addr (max 1 (m.ibits / 8))
        let (s, bs) ← readSpots a w (· == some p) ps s
        .ok (s, fieldOf (leNat bs) lo m.ibits, 0)
    | none =>
      match Fmt.ofCode x.desc.fmt with
      | some f => sourceElem a w x.desc f x.rmode (tupleOf x.desc i) s
      | none => do
        let (s, p, v, _, addr) ← sourceRaw a w x.desc x.tbits (tupleOf x.desc i) s
        need (p == none || p == some x.desc.fmt) (.cause 0x054 addr)
        .ok (s, v, 0)

/-- The write of an element to a copy's descriptor (R79, R89). Every page is judged by itself, so that one destination may
lie in untyped pages and in pages of its format (log 51). -/
def copyDest (n : Nat) (c : QCmd) (x : CopyCmd) (i v : Nat) (s : State) : Except Stop State :=
  let (addr, lo) := elemByte x.desc x.tbits (elemOffset x.desc (tupleOf x.desc i))
  let ok := fun p : Option Nat => match p with | none => true | some k => k == x.desc.fmt && decide (k < 16)
  engWrite (cmdAccess c .copyWrite true false) (cmdWho n c) x.desc.space ok addr
    (.ofElem x.tbits lo v ((copyId c.body).map fun u => (u.1, u.2, i))) s

/-- Record that a copy has read element `i`; after the last one it turns to its next stage. -/
def noteRead (codec path : Bool) (count i : Nat) (y : Rep) (c : QCmd) : QCmd :=
  let rd := Nat.lor c.rd (2 ^ i)
  { c with
    rd := rd, buf := keep c.buf i y.1, flags := c.flags ||| y.2
    pass := if rd = allBits count ∧ (codec || path) = true then nextStage codec path 0 else c.pass }

/-- The touches of a copy's source elements, or of its destination elements, as far as they can be found. -/
def copyTouches (s : State) (n : Nat) (c : QCmd) (write : Bool) : List Touch :=
  let here := fun (at_ : Nat × Nat) (bits : Nat) => match engSpots s (cmdWho n c) .loc .read at_.1 (max 1 (bits / 8)) with
    | .ok ps => spotTouches ps
    | .error _ => []
  match c.body with
  | .copy x => (List.range (descCount x.desc)).flatMap fun i =>
      if x.toLocal = write then here (copyLocal x i) x.lbits
      else
        match engSpots s (cmdWho n c) x.desc.space (if write then .write else .read)
            (elemByte x.desc x.tbits (elemOffset x.desc (tupleOf x.desc i))).1 (max 1 (x.tbits / 8)) with
        | .ok ps => spotTouches ps
        | .error _ => []
  | .acc x =>
      if x.inDir = write then []
      else (List.range (x.rows * x.cols)).flatMap fun i =>
        here (localAddr x.base x.pitch x.fmt.bits (i / x.cols) (i % x.cols)) x.fmt.bits
  | _ => []

/-- The report of a copy that meets a conflict names the lowest-addressed granule of the copy that conflicts (R106). -/
def wholeReport (s : State) (n : Nat) (c : QCmd) (write : Bool) (r : Except Stop State) : Except Stop State :=
  match r with
  | .error (.trap t) =>
    if t.cause = 0x080 ∨ t.cause = 0x081 then
      match orderTrap s (cmdAccess c (if write then .copyWrite else .copyRead) write false) (copyTouches s n c write) with
      | some u => .error (.trap u)
      | none => .error (.trap t)
    else r
  | _ => r

/-- The command with number `seq` of strand `k` that was issued to engine `e` of tile `n`. -/
def cmdAt (s : State) (n : Nat) (e : Eng) (k : StrandKey) (seq : Nat) : Option QCmd :=
  (flightOf (tileAt s n) e ++ engQueue (tileAt s n) e).find? fun c => c.owner == k && c.seq == seq

/-- A copy whose elements have come to an operator sends them there as one message (R306). -/
def sendStage (n : Nat) (e : Eng) (k : StrandKey) (seq : Nat) (s : State) : State :=
  match cmdAt s n e k seq with
  | none => s
  | some c =>
    match c.body, copyId c.body with
    | .copy x, some (ch, id) =>
      match (if c.pass == 1 || c.pass == 2 then stagePort s n c x else none) with
      | some (i, j, m) =>
        enterPort k i j (.copy n ch id) (packBytes m.ibits ((List.range (descCount x.desc)).map (look 0 c.buf))) s
      | none => s
    | _, _ => s

/-- A copy to the local side of a tile whose clock is stopped, of which requests are in the network (R33). -/
def stoppedCopy (s : State) (n id i : Nat) : Option (QCmd × CopyCmd) :=
  let t := tileAt s n
  match (if clockStopped t then (t.flight ++ t.qLoad.head?.toList).find? fun c =>
      isCopy .load id c && c.started && c.held.isNone && !c.rd.testBit i else none) with
  | some c =>
    match c.body with
    | .copy x => if x.path.isNone && (copyCodec s n c x).isNone && decide (i < descCount x.desc) then some (c, x) else none
    | _ => none
  | none => none

/-- An element of a copy comes back to a tile whose clock is stopped: it waits at the network interface, from the peer whose
scratchpad it was read from or through the local router port (R33, R390). -/
def postReturn (n : Nat) (c : QCmd) (x : CopyCmd) (i v : Nat) (s : State) : State :=
  let (off, lo) := copyLocal x i
  let d := Datum.ofElem x.lbits lo v (some (.load, x.id, i))
  match engSpots s (cmdWho n c) x.desc.space .read (elemByte x.desc x.tbits (elemOffset x.desc (tupleOf x.desc i))).1 1 with
  | .ok (⟨⟨.pad m, _, _, _⟩, _⟩ :: _) =>
    if m = n then s else postFlit m n ⟨3, keyOn s m, false, off, d.bytes, d.nibble, d.elem⟩ s
  | _ => postPort n ⟨3, c.owner, true, off, d.bytes, d.nibble, d.elem⟩ s

/-- A read that a copy of a stopped tile had in the network is performed, and its return waits (R33). -/
def returnRead (n id i : Nat) (s : State) : State :=
  match stoppedCopy s n id i with
  | none => s
  | some (c, x) =>
    orHold n .load c s <| wholeReport s n c false do
      let (s, y) ← copySource n c x i s
      .ok (postReturn n c x i y.1 (onCmd n .load c.owner c.seq (noteRead false false (descCount x.desc) i y) s))

/-- Element `i` of a copy of tile `n` waits at the network interface as a return (R33). -/
def returnWaits (s : State) (n id i : Nat) : Bool :=
  let is := fun f : Flit => f.kind == 3 && f.elem == some (.load, id, i)
  let t := tileAt s n
  t.net.rx.any is || (t.net.outbound.any fun g => g.1 == portIndex && is g.2) ||
    (peersOf s n).any fun m => (tileAt s m).net.outbound.any fun g => g.1 == (keyOn s n).tile && is g.2

/-- An element of a copy or a CPYA is read from its source. -/
def copyReadElem (n : Nat) (ch : Chan) (id i : Nat) (s : State) : State :=
  match activeCopy s n ch id fun c => !c.rd.testBit i with
  | none => if ch = .load then returnRead n id i s else s
  | some c =>
    let e := chanEng ch
    match c.body with
    | .copy x =>
      if descCount x.desc ≤ i then s
      else
        orHold n e c s <| wholeReport s n c false do
          let codec := (copyCodec s n c x).isSome
          let (s, y) ← copySource n c x i s
          .ok (sendStage n e c.owner c.seq
            (onCmd n e c.owner c.seq (noteRead codec x.path.isSome (descCount x.desc) i y) s))
    | .acc x =>
      if x.rows * x.cols ≤ i then s
      else
        orHold n e c s <| wholeReport s n c false do
          let row := i / x.cols
          let col := i % x.cols
          if x.inDir then
            let (s, v) ← localRead (cmdAccess c .copyRead false false) (cmdWho n c)
              (localAddr x.base x.pitch x.fmt.bits row col) x.fmt.bits s
            let y := if x.fmt.isInt then (v, 0) else roundTo .f32 .rne .none 127 false (decodeNum x.fmt 127 v)
            .ok (onCmd n e c.owner c.seq (noteRead false false (x.rows * x.cols) i y) s)
          else
            let v := accRead (tileAt s n) (x.row0 + row) (x.col0 + col)
            let y :=
              if x.fmt.isInt then fitInt x.fmt x.sat (signedOf 32 v)
              else roundTo x.fmt (RMode.ofBits x.rmode) (SatSel.of x.sat false) 127 false (decodeNum .f32 127 v)
            .ok (onCmd n e c.owner c.seq (noteRead false false (x.rows * x.cols) i y) s)
    | _ => s

/-- Record that a copy has written element `i`; a fingerprinted copy keeps its elements until the fingerprint is made. -/
def noteWrite (keepBuf : Bool) (i : Nat) (c : QCmd) : QCmd :=
  { c with wr := Nat.lor c.wr (2 ^ i), buf := if keepBuf then c.buf else drop? c.buf i }

/-- Whether a copy's elements may be written as they are read, or only when its operators have answered. -/
def readyElem (s : State) (n : Nat) (c : QCmd) (x : CopyCmd) : Bool :=
  c.pass == 3 || (c.pass == 0 && x.path.isNone && (copyCodec s n c x).isNone)

/-- The SUBST bits of a CPYA's conversions are set when its last write has been performed (R55). -/
def accSubst (n : Nat) (c : QCmd) (x : AccCmd) (i : Nat) (s : State) : State :=
  if Nat.lor c.wr (2 ^ i) = allBits (x.rows * x.cols) then cmdSubst n c c.flags s else s

/-- An element of a copy or a CPYA is written to its destination. -/
def copyWriteElem (n : Nat) (ch : Chan) (id i : Nat) (s : State) : State :=
  match activeCopy s n ch id fun c => !c.wr.testBit i && (find? c.buf i).isSome with
  | none => s
  | some c =>
    let e := chanEng ch
    let v := look 0 c.buf i
    match c.body with
    | .copy x =>
      if x.noData || !readyElem s n c x || (x.toLocal && returnWaits s n x.id i) then s
      else
        orHold n e c s <| wholeReport s n c true do
          let s ←
            if x.toLocal then
              localWrite (cmdAccess c .copyWrite true false) (cmdWho n c) (copyLocal x i) x.lbits v s
            else copyDest n c x i v s
          .ok (onCmd n e c.owner c.seq (noteWrite x.print.isSome i) s)
    | .acc x =>
      let row := i / x.cols
      let col := i % x.cols
      if x.inDir then
        accSubst n c x i
          (onCmd n e c.owner c.seq (noteWrite false i) (onTile n (accWrite (x.row0 + row) (x.col0 + col) v) s))
      else
        orHold n e c s <| wholeReport s n c true do
          let s ← localWrite (cmdAccess c .copyWrite true false) (cmdWho n c)
            (localAddr x.base x.pitch x.fmt.bits row col) x.fmt.bits v s
          .ok (accSubst n c x i (onCmd n e c.owner c.seq (noteWrite false i) s))
    | _ => s

/-- Every element of a copy has been read, and stands as it arrives at the local side. -/
def allReady (s : State) (n : Nat) (c : QCmd) (x : CopyCmd) : Bool :=
  c.rd == allBits (descCount x.desc) && readyElem s n c x

/-- The fingerprint of CPYF: 16 bytes of SHAKE256 over its packed elements (R225). -/
def printBytes (c : QCmd) (x : CopyCmd) : List Byte :=
  shake256 (packBytes x.lbits ((List.range (descCount x.desc)).map (look 0 c.buf))) 16

/-- CPYF writes its fingerprint. -/
def copyPrint (n id : Nat) (s : State) : State :=
  match activeCopy s n .load id fun c =>
      match c.body with | .copy x => !c.wr.testBit (descCount x.desc) | _ => false with
  | none => s
  | some c =>
    match c.body with
    | .copy x =>
      match x.print with
      | some addr =>
        if allReady s n c x then
          orHold n .load c s do
            let s ← engWrite (cmdAccess c .copyWrite true false) (cmdWho n c) .loc (fun _ => true) addr
              (.whole (printBytes c x)) s
            .ok (onCmd n .load c.owner c.seq (noteWrite true (descCount x.desc)) s)
        else s
      | none => s
    | _ => s

/-! ### Beats of an operator to a copy (R294, R303, R306) -/

/-- The operator of a copy's stage has ended its message: its elements, or the fault it deserves (R303, R306). -/
def stageDone (n : Nat) (c : QCmd) (x : CopyCmd) (region port : Nat) (m : ManPort) (beats : List Beat) (s : State) :
    Except Stop State := do
  let count := descCount x.desc
  let ys ← codecResult region port count m beats
  let conv : List Rep := ys.map fun y =>
    if c.pass = 1 then
      match Fmt.ofCode m.ofmt, Fmt.ofCode x.desc.fmt with
      | some f, some t => convertElem f (RMode.ofBits x.rmode) 127 t y
      | _, _ => (y, 0)
    else (y, 0)
  let buf := (List.range count).zip (conv.map (·.1))
  let e := if x.toLocal then .load else .store
  .ok (sendStage n e c.owner c.seq (onCmd n e c.owner c.seq (fun q => { q with
    buf := buf, beats := [], flags := q.flags ||| substOf conv, pass := nextStage true x.path.isSome q.pass }) s))

/-- A beat from the operator reaches the copy whose message its port serves: a bad one holds the copy with PORT_PROTOCOL
and is not taken; END, once the whole message has gone out, ends it (R294, R303, R306; log 55). -/
def beatToCopy (n : Nat) (ch : Chan) (id : Nat) (b : Beat) (s : State) : State :=
  match activeCopy s n ch id fun c => c.pass == 1 || c.pass == 2 with
  | none => s
  | some c =>
    match c.body with
    | .copy x =>
      match stagePort s n c x with
      | none => s
      | some (region, port, m) =>
        let user : PortUser := .copy n ch id
        if !mayServe s c.owner region port user || (isEnd b && !messageSent s c.owner region port user) then s
        else if !beatOk b || isTokens b then
          holdCmd n (chanEng ch) c (.trap ⟨0x102, word port, b.side.setWidth 64, []⟩) s
        else if isEnd b then
          orHold n (chanEng ch) c s (stageDone n c x region port m (c.beats ++ [b]) (dropServing (· == user) s))
        else onCmd n (chanEng ch) c.owner c.seq (fun q => { q with beats := q.beats ++ [b] }) s
    | _ => s

/-! ### Finishing (R16, R18, R227, R414) -/

/-- Every access of a copy has been performed (log 7). -/
def copyDone (s : State) (n : Nat) (c : QCmd) (x : CopyCmd) : Bool :=
  let count := descCount x.desc
  let want := (if x.noData then 0 else allBits count) + if x.print.isSome then 2 ^ count else 0
  allReady s n c x && c.wr == want

/-- Picojoules for a byte of the descriptor's side (R414). -/
def byteCharge (s : State) (w : Who) (d : Desc) (bits : Nat) : Nat :=
  match d.space with
  | .glob =>
    match globalSpot s w .read (elemByte d bits (elemOffset d [])).1 1 with
    | .ok p => if p.piece.place = .host then 40 else 28
    | .error _ => 28
  | _ => 4

/-- The charge of a copy (R414). -/
def copyCharge (s : State) (n : Nat) (c : QCmd) (x : CopyCmd) : Nat :=
  let b := ceilDiv (descCount x.desc * x.tbits) 8
  500 + b * byteCharge s (cmdWho n c) x.desc x.tbits + (if x.path.isSome then 6 * b else 0) +
    if x.print.isSome then b else 0

/-- A copy goes from its queue into flight, where it goes on. A copy that its channel had already finished, and that a
stop put back into its queue, posts no second entry and is not charged again (R18, R414). -/
def toFlight (n : Nat) (e : Eng) (c : QCmd) (kind id pj : Nat) (s : State) : State :=
  onTile n (fun t => { t with flight := t.flight ++ [{ c with finished := true }] })
    (if c.finished then popCmd n e s else finishCmd n e c (replyEntry kind id) pj s)

/-- A copy channel has issued every request of a copy into the network: the reads of a load, and the writes of a store,
which carry its elements as its operators have answered them (R16; when it has done so is open, log 7). -/
def requestsIssued (s : State) (n : Nat) (c : QCmd) (x : CopyCmd) : Bool := x.toLocal || allReady s n c x

/-- A copy channel finishes a command (R16, R227). -/
def issueFinish (n : Nat) (e : Eng) (s : State) : State :=
  match liveHead s n e with
  | none => s
  | some c =>
    match c.body with
    | .copy x =>
      if c.started && requestsIssued s n c x then
        toFlight n e c (if x.toLocal then 4 else 5) x.id (copyCharge s n c x) s
      else s
    | _ => s

/-- COPY_ISSUE_FINISH. -/
def execCopyIssueFinish (tile : Nat) (store : Bool) (s : State) : Host.Outcome State Fault Refusal :=
  .next (issueFinish tile (if store then .store else .load) s)

/-- CPYA at the head of the matrix queue: it starts, and finishes once every request has been issued (R16, R226). Its
accumulator accesses pass through the queue in order (R72, R91): outward, every element has been read when the next command
follows; inward, every one has been written. The bits of its conversions are set by then (R55, log 7). -/
def accStep (n : Nat) (c : QCmd) (x : AccCmd) (s : State) : State :=
  if !c.started then onCmd n .matrix c.owner c.seq (fun q => { q with started := true }) s
  else if (if x.inDir then c.wr else c.rd) = allBits (x.rows * x.cols) then
    toFlight n .matrix c 6 x.id (500 + 2 * (x.rows * rowBytes x.cols x.fmt.bits)) (cmdSubst n c c.flags s)
  else s

/-! ### In flight (R17, R231) -/

/-- Every source element of a copy has been read. -/
def sourceRead (c : QCmd) : Bool :=
  match c.body with
  | .copy x => c.rd == allBits (descCount x.desc)
  | .acc x => c.rd == allBits (x.rows * x.cols)
  | _ => false

/-- Every access of a copy or a CPYA has been performed. -/
def accessesDone (s : State) (n : Nat) (c : QCmd) : Bool :=
  match c.body with
  | .copy x => copyDone s n c x
  | .acc x => c.wr == allBits (x.rows * x.cols)
  | _ => false

/-- Whether a channel already counts copy `id` among those that have read their source. -/
def readNoted (w : ChanState) (id : Nat) : Bool := decide (id ≤ w.readMark) || w.readDone.contains id

/-- A copy has finished reading its source: the read watermark follows (R17). -/
def sourceReadDone (n : Nat) (ch : Chan) (id : Nat) (s : State) : State :=
  let t := tileAt s n
  match activeCopy s n ch id fun c => sourceRead c && t.owner == some c.owner with
  | none => s
  | some _ => if readNoted (chanState t ch) id then s else onTile n (onChan ch (chanRead id)) s

/-- COPY_SOURCE_READ_DONE. -/
def execCopySourceReadDone (tile : Nat) (ch : Chan) (id : Nat) (s : State) : Host.Outcome State Fault Refusal :=
  .next (sourceReadDone tile ch id s)

/-- A remote write of copy `id` of strand `k`'s channel `ch` still waits at a stopped tile. -/
def copyWritesWait (s : State) (k : StrandKey) (ch : Chan) (id : Nat) : Bool :=
  let mine := fun f : Flit => f.kind == 1 && f.sender == k && match f.elem with | some (c, j, _) => c == ch && j == id | none => false
  let waits := fun t : Tile => t.net.rx.any mine || t.net.outbound.any fun f => mine f.2
  waits s.tile || s.others.any fun t => waits t.2

/-- Land the ring slot of a copy (R84, R231). -/
def landCopy (n : Nat) (c : QCmd) (s : State) : State :=
  match c.body with
  | .copy x =>
    match x.ring, x.slot with
    | some r, some k =>
      if (tileAt s n).owner = some c.owner then
        match (tileAt s n).rings[r] with
        | some y => setRing n r (land k y) s
        | none => s
      else s
    | _, _ => s
  | _ => s

/-- A copy's destination writes are visible: the watermark advances, a ring slot lands, and it leaves the 64 in flight
(R17, R55, R84, R231). -/
def copyVisible (n : Nat) (ch : Chan) (id : Nat) (s : State) : State :=
  let t := tileAt s n
  match t.flight.find? fun c => isCopy ch id c && c.held.isNone && accessesDone s n c with
  | none => s
  | some c =>
    if enginesRun t && !copyWritesWait s c.owner ch id then
      let gone := fun d : QCmd => isCopy ch id d && d.owner == c.owner
      let s := onTile n (fun t => { t with flight := t.flight.eraseP gone }) s
      let s := if t.owner = some c.owner then onTile n (onChan ch (chanVisible id)) s else s
      landCopy n c (cmdSubst n c c.flags s)
    else s

/-- COPY_VISIBLE. -/
def execCopyVisible (tile : Nat) (ch : Chan) (id : Nat) (s : State) : Host.Outcome State Fault Refusal :=
  .next (copyVisible tile ch id s)

/-! ### MATRIX_PASS (R250) -/

/-- One step of the matrix engine of tile `n`. -/
def matrixStep (n : Nat) (check : PassCheck) (s : State) : State :=
  match liveHead s n .matrix with
  | none => s
  | some c =>
    match c.body with
    | .mma x => runPass n c x check s
    | .acc x => accStep n c x s
    | .mzero row0 col0 rows cols =>
      let u := (windowCells row0 col0 rows cols).foldl (fun t rc => accWrite rc.1 rc.2 0 t) (tileAt s n)
      finishCmd n .matrix c (matrixEntry c) (fillCharge rows cols) (setTile s n u)
    | .mscale row0 col0 rows cols int sat f sh =>
      let (u, flags) := mapWindow (scaleElem int sat f sh) (windowCells row0 col0 rows cols) (tileAt s n)
      finishCmd n .matrix c (matrixEntry c) (fillCharge rows cols) (cmdSubst n c flags (setTile s n u))
    | _ => s

/-- MATRIX_PASS. -/
def execMatrixPass (tile : Nat) (check : PassCheck) (s : State) : Host.Outcome State Fault Refusal :=
  .next (matrixStep tile check s)

end Sys2Proof.Machine
end

