-- ==== Sys2Proof/Machine/CollSteps.lean ====
section
/-!
DEFINITION. Collectives at work (R110, R232 to R235, R414): the participants of a collective, its agreement, its result,
its completion and its end by a lost participant.
-/

namespace Sys2Proof.Machine

open Sys2Proof

/-! ### Participants (R233) -/

/-- A member of a collective, in rank order: a strand of this package, or a member of another one. -/
inductive CollMember where
  | here (k : StrandKey)
  | away
deriving DecidableEq, Repr

/-- Set bits of a mask, ascending. -/
def maskBits (m : Nat) : List Nat := (List.range 64).filter fun i => m.testBit i

/-- The members of a collective that strand `k` takes part in, in rank order. -/
def collMembers (s : State) (k : StrandKey) (x : CollCmd) : List CollMember :=
  match x.scope with
  | .gang | .tile => (maskBits x.group.toNat).map fun i => .here { k with tile := i }
  | .dev | .sys =>
    match s.dev.groups.find? fun g => g.handle == x.group.toNat && g.fn == (taskOf s k).fn with
    | some g => g.members.map fun m =>
        if m.1 = s.dev.pkg then .here { k with gang := m.2.1, tile := m.2.2 } else .away
    | none => []

/-- The tile where strand `k` is or last was. -/
def tileOfKey (s : State) (k : StrandKey) : Option Nat := peerTile s k k.tile

/-- Whether command `c` is strand `k`'s COLL of the same collective as `x`. -/
def sameCollective (k : StrandKey) (x : CollCmd) (c : QCmd) : Bool :=
  c.owner == k && match c.body with
    | .coll y => y.group == x.group && y.index == x.index && collKey y.scope 0 == collKey x.scope 0
    | _ => false

/-- Strand `k`'s COLL of the collective, anywhere in its store queue. -/
def queuedColl (s : State) (x : CollCmd) (k : StrandKey) : Option (Nat × QCmd) := do
  let n ← tileOfKey s k
  let c ← (tileAt s n).qStore.find? (sameCollective k x)
  some (n, c)

/-- A COLL of a tile whose clock is stopped that has left the tile: its buffer lies in the task's address space (R33). -/
def awayColl (s : State) (n : Nat) : Option QCmd :=
  match clockStopped (tileAt s n), headCmd s n .store with
  | true, some c =>
    match c.body with
    | .coll x => if c.started && mayRun s c && x.desc.space == .glob then some c else none
    | _ => none
  | _, _ => none

/-- The command at the head of tile `n`'s store queue, where it may act. -/
def storeHead (s : State) (n : Nat) : Option QCmd := match liveHead s n .store with | some c => some c | none => awayColl s n

/-- Strand `k`'s COLL of the collective at the head of its queue, started. -/
def readyColl (s : State) (x : CollCmd) (k : StrandKey) : Option (Nat × QCmd) := do
  let n ← tileOfKey s k
  let c ← storeHead s n
  if sameCollective k x c && c.started then some (n, c) else none

/-- The participants of this package with their ranks, or none while one of them is not ready. -/
def readyMembers (s : State) (x : CollCmd) : Nat → List CollMember → Option (List (Nat × Nat × QCmd))
  | _, [] => some []
  | r, .away :: ms => readyMembers s x (r + 1) ms
  | r, .here k :: ms => do
    let (n, c) ← readyColl s x k
    let rest ← readyMembers s x (r + 1) ms
    some ((r, n, c) :: rest)

/-- The COLL of a command. -/
def collOf (c : QCmd) : Option CollCmd := match c.body with | .coll x => some x | _ => none

/-- A number for a collective: accesses made for it are those of one party (R91). -/
def collNumber (k : StrandKey) (x : CollCmd) : Nat :=
  (((k.queue * 2 ^ 32 + k.record) * 2 ^ 32 + (match x.scope with | .gang | .tile => k.gang + 1 | _ => 0)) * 2 ^ 68 +
    collKey x.scope x.group.toNat) * 2 ^ 64 + x.index

/-! ### Agreement (R235) -/

/-- The kinds whose element count must be a multiple of the participants. -/
def chunked : CollKind → Bool
  | .reducescatter | .allgather => true
  | _ => false

/-- The kinds with a root. -/
def rooted : CollKind → Bool
  | .bcast | .reduce => true
  | _ => false

/-- The participants agree (R235). -/
def agree (x : CollCmd) (n : Nat) (ys : List CollCmd) : Bool :=
  ys.all (fun y => y.kind == x.kind && y.op == x.op && y.desc.fmt == x.desc.fmt && descCount y.desc == descCount x.desc &&
      y.root == x.root && y.det == x.det) &&
    (!chunked x.kind || descCount x.desc % max 1 n == 0) && (!rooted x.kind || decide (x.root < n))

/-! ### Results (R233, R234) -/

/-- One application of a reduction (R233, R234). -/
def reduceTwo (op : CollOp) (t : Fmt) (a b : Nat) : Nat :=
  match op with
  | .add => (addElems t .rne .none [decodeNum t 127 a, decodeNum t 127 b]).1
  | .min => pickMin t false a b
  | .max => pickMin t true a b
  | .and => Nat.land a b
  | .or => Nat.lor a b
  | .xor => Nat.xor a b

/-- Remove element `i` of a list, keeping it aside. -/
def pluck (i : Nat) (l : List Nat) : Nat × List Nat := (l.getD i 0, l.take i ++ l.drop (i + 1))

/-- A reduction along a binary tree of the device's choice: `pick` names the two to be joined next. -/
def treeReduce (f : Nat → Nat → Nat) (pick : Nat → Nat) : Nat → List Nat → Nat
  | 0, l => l.headD 0
  | _, [] => 0
  | _, [x] => x
  | n + 1, l =>
    let (a, l1) := pluck (pick (2 * n) % l.length) l
    let (b, l2) := pluck (pick (2 * n + 1) % max 1 l1.length) l1
    treeReduce f pick n (f a b :: l2)

/-- The reduction of the participants' elements in rank order (R234). -/
def reduceAll (s : State) (site : Nat) (det : Bool) (op : CollOp) (t : Fmt) (xs : List Nat) : Nat :=
  match xs with
  | [] => 0
  | x :: rest =>
    if det || t.isInt || op != .add then rest.foldl (reduceTwo op t) x
    else treeReduce (reduceTwo op t) (fun i => freeAt s (site + i)) xs.length xs

/-- Whether rank `r` reads element `i` of its buffer. -/
def readsElem (x : CollCmd) (n r i : Nat) : Bool :=
  match x.kind with
  | .allgather => i / max 1 (descCount x.desc / max 1 n) == r
  | .bcast => r == x.root
  | _ => true

/-- Whether rank `r` writes element `i` of its buffer. -/
def writesElem (x : CollCmd) (n r i : Nat) : Bool :=
  match x.kind with
  | .allreduce | .allgather => true
  | .reducescatter => i / max 1 (descCount x.desc / max 1 n) == r
  | .bcast => r != x.root
  | .reduce => r == x.root

/-- The value that element `i` has afterwards, from the values by rank: `val r` is rank `r`'s (R233). -/
def collValue (s : State) (x : CollCmd) (n i : Nat) (det : Bool) (val : Nat → Nat) : Nat :=
  match x.kind with
  | .allgather => val (i / max 1 (descCount x.desc / max 1 n))
  | .bcast => val x.root
  | _ =>
    match Fmt.ofCode x.desc.fmt with
    | some t => reduceAll s (2 ^ 80 + i * 2 ^ 20) det x.op t ((List.range n).map val)
    | none => 0

/-! ### Accesses -/

/-- An access of a participant for its collective; the writes of the kinds that reduce count as atomics (R92, R233). -/
def collAccess (c : QCmd) (x : CollCmd) (write : Bool) : Access :=
  { cmdAccess c (if write then .collWrite else .collRead) write (write && reducing x.kind) with
    xfer := collNumber c.owner x }

/-- The spots of element `i` of a participant's buffer, and the bit within the first byte; the page must hold the
buffer's format (R88, R89). -/
def collSpots (s : State) (n : Nat) (c : QCmd) (x : CollCmd) (write : Bool) (i : Nat) :
    Except Stop (List Spot × Nat) := do
  let bits := collBits s c.owner x.desc
  let (addr, lo) := elemByte x.desc bits (elemOffset x.desc (tupleOf x.desc i))
  let ps ← engSpots s (cmdWho n c) x.desc.space (if write then .write else .read) addr (max 1 (bits / 8))
  let ok := fun p : Option Nat => match p with | none => true | some f => f == x.desc.fmt && (!write || decide (f < 16))
  match ps.find? fun p => !ok (pageFmt p.leaf) with
  | some p => .error (.cause 0x054 p.piece.report)
  | none => do
    peersServed s n ps
    if !write then spotsSound s ps
    match orderTrap s (collAccess c x write) (spotTouches ps) with
    | some t => .error (.trap t)
    | none => .ok (ps, lo)

/-- Check every element that a participant reads or writes. -/
def collCheck (s : State) (n : Nat) (c : QCmd) (x : CollCmd) (ranks r : Nat) : Except Stop Unit :=
  (List.range (descCount x.desc)).forM fun i => do
    if readsElem x ranks r i then
      let _ ← collSpots s n c x false i
    if writesElem x ranks r i then
      let _ ← collSpots s n c x true i

/-- The bits of element `i` of a participant's buffer. -/
def collRead (s : State) (n : Nat) (c : QCmd) (x : CollCmd) (i : Nat) : Nat :=
  match collSpots s n c x false i with
  | .ok (ps, lo) => fieldOf (leNat (spotBytes s ps)) lo (collBits s c.owner x.desc)
  | .error _ => 0

/-- Write element `i` of a participant's buffer. -/
def collWrite (n : Nat) (c : QCmd) (x : CollCmd) (i v : Nat) (s : State) : State :=
  match collSpots s n c x true i with
  | .ok (ps, lo) =>
    let bits := collBits s c.owner x.desc
    putSpots (cmdWho n c) ps (.ofElem bits lo v none) (clearSpots ps (useAll (cmdWho n c) .write ps s))
  | .error _ => s

/-- Keep the marks of what a participant read and wrote, and use the pages it read. -/
def collMark (n : Nat) (c : QCmd) (x : CollCmd) (ranks r : Nat) (s : State) : State :=
  (List.range (descCount x.desc)).foldl (fun s i =>
    let s :=
      if readsElem x ranks r i then
        match collSpots s n c x false i with
        | .ok (ps, _) => mark (collAccess c x false) (spotTouches ps) (useAll (cmdWho n c) .read ps s)
        | .error _ => s
      else s
    if writesElem x ranks r i then
      match collSpots s n c x true i with
      | .ok (ps, _) => mark (collAccess c x true) (spotTouches ps) s
      | .error _ => s
    else s) s

/-! ### COLL_COMPLETE -/

/-- The granules of a participant's buffer. -/
def collGrans (s : State) (n : Nat) (c : QCmd) (x : CollCmd) : List Gran :=
  (List.range (descCount x.desc)).flatMap fun i =>
    match engSpots s (cmdWho n c) x.desc.space .read
        (elemByte x.desc (collBits s c.owner x.desc) (elemOffset x.desc (tupleOf x.desc i))).1
        (max 1 (collBits s c.owner x.desc / 8)) with
    | .ok ps => (spotTouches ps).map (·.1)
    | .error _ => []

/-- What a collective's completion releases to every participant, for the granules of the named buffers only: all that was
ordered before each participant's COLL (R99, R110). -/
def collGain (s : State) (ms : List (Nat × Nat × QCmd)) : Clock :=
  let grans := ms.flatMap fun m => match collOf m.2.2 with | some y => collGrans s m.2.1 m.2.2 y | none => []
  let more := ms.flatMap fun m => m.2.2.clock.limited.map fun l => { l with grans := l.grans.filter grans.contains }
  ⟨[], ⟨grans, ms.foldl (fun l m => joinSeen l m.2.2.clock.seen) []⟩ :: more.filter fun l => !l.grans.isEmpty⟩

/-- The charge of a COLL (R414). -/
def collCharge (s : State) (c : QCmd) (x : CollCmd) : Nat :=
  500 + ceilDiv (descCount x.desc * collBits s c.owner x.desc) 8 *
    (match x.scope with | .gang | .tile => 4 | .dev | .sys => 28)

/-- The reply entry of a COLL: at a tile that does not serve the network now it waits at the interface (R33, R390). -/
def postCollReply (n : Nat) (c : QCmd) (entry : Nat) (s : State) : State :=
  match c.reply with
  | none => s
  | some q =>
    if unserved (tileAt s n) && (tileAt s n).owner == some c.owner then
      postPort n ⟨4, c.owner, true, q.val, leBytes 8 entry, none, none⟩ s
    else postReply n c.owner c.reply entry s

/-- A participant's COLL finishes: it is charged, its entry is posted, and the order it gives waits for the POPQ (R110,
R235). -/
def collFinish (gain : Clock) (m : Nat × Nat × QCmd) (s : State) : State :=
  let (_, n, c) := m
  match collOf c with
  | none => s
  | some x =>
    let s := postCollReply n c (replyEntry 0xC x.seq) (chargeCmd n c.owner (collCharge s c x) (popCmd n .store s))
    if (tileAt s n).owner = some c.owner then onTile n (fun t => { t with collGain := keep t.collGain x.seq gain }) s else s

/-- Hold every listed participant with a fault. -/
def holdAll (st : Stop) (ms : List (Nat × Nat × QCmd)) (s : State) : State :=
  ms.foldl (fun s m => holdCmd m.2.1 .store m.2.2 st s) s

/-- The first participant whose accesses cannot be made, with what stops it. -/
def collStopper (s : State) (ranks : Nat) : List (Nat × Nat × QCmd) → Option (Nat × QCmd × Stop)
  | [] => none
  | (r, n, c) :: ms =>
    match collOf c with
    | none => collStopper s ranks ms
    | some x =>
      match collCheck s n c x ranks r with
      | .error e => some (n, c, e)
      | .ok () => collStopper s ranks ms

/-- The value that rank `r` contributes at element `i`: another package's is open (log 17). -/
def rankValue (s : State) (x : CollCmd) (ms : List (Nat × Nat × QCmd)) (i r : Nat) : Nat :=
  match ms.find? fun m => m.1 == r with
  | some (_, n, c) => match collOf c with | some y => collRead s n c y i | none => 0
  | none => Config.remoteBuffer x.group.toNat x.index r i % 2 ^ (codeBits x.desc.fmt).getD 8

/-- The collective whose COLL heads the store queue of tile `n` completes, once every participant's COLL is at the head
of its own queue (R235). A disagreement with another package is open (log 17). -/
def collComplete (n : Nat) (s : State) : State :=
  match storeHead s n with
  | none => s
  | some c0 =>
    match collOf c0 with
    | none => s
    | some x =>
      let members := collMembers s c0.owner x
      let ranks := members.length
      match readyMembers s x 0 members with
      | none => s
      | some ms =>
        let away := members.contains .away
        let sound := agree x ranks (ms.filterMap fun m => collOf m.2.2) && !(away && freeAt s (2 ^ 71) % 2 == 1)
        if ms.isEmpty then s
        else if !sound then holdAll (.cause 0x0D0 0) ms s
        else
          match collStopper s ranks ms with
          | some (m, c, e) => holdCmd m .store c e s
          | none =>
            let det := x.det || (taskOf s c0.owner).trec.det
            let gain := collGain s ms
            let vals := (List.range (descCount x.desc)).map fun i =>
              (i, collValue s x ranks i det (rankValue s x ms i))
            let t := ms.foldl (fun t m =>
              match collOf m.2.2 with
              | none => t
              | some y => vals.foldl (fun t v => if writesElem y ranks m.1 v.1 then collWrite m.2.1 m.2.2 y v.1 v.2 t else t) t) s
            let t := ms.foldl (fun t m => match collOf m.2.2 with | some y => collMark m.2.1 m.2.2 y ranks m.1 t | none => t) t
            ms.foldl (fun t m => collFinish gain m t) t

/-- COLL_COMPLETE. -/
def execCollComplete (tile : Nat) (s : State) : Host.Outcome State Fault Refusal := .next (collComplete tile s)

/-! ### COLL_PARTICIPANT_LOST (R235) -/

/-- The name of a collective in the list of those that have lost a participant. -/
def lostKey (k : StrandKey) (x : CollCmd) : Nat × Nat × Nat × Nat × Nat × Nat :=
  (k.queue, k.record, (match x.scope with | .gang | .tile => k.gang | _ => 0), x.group.toNat,
    collKey x.scope 0 / 2 ^ 64, x.index)

/-- A member whose strand has ended without its COLL of the collective, or that was stopped with its gang. -/
def memberLost (s : State) (x : CollCmd) : CollMember → Bool
  | .away => true
  | .here k =>
    (match (gangOf s k).members[k.tile]? with | some .ended => true | _ => false) && (queuedColl s x k).isNone

/-- The participants that have issued their COLL, with their ranks. -/
def presentMembers (s : State) (x : CollCmd) : Nat → List CollMember → List (Nat × Nat × QCmd)
  | _, [] => []
  | r, .away :: ms => presentMembers s x (r + 1) ms
  | r, .here k :: ms =>
    match queuedColl s x k with
    | some (n, c) => (r, n, c) :: presentMembers s x (r + 1) ms
    | none => presentMembers s x (r + 1) ms

/-- What a survivor's buffer holds after the loss: each 32-byte granule that the kind writes there holds its old or its
new contents (R235); which is open (log 5), and so is what a participant that is gone contributed (log 17). -/
def scramble (n : Nat) (c : QCmd) (x : CollCmd) (s : State) : State :=
  let members := collMembers s c.owner x
  let ranks := members.length
  let ms := presentMembers s x 0 members
  let rank := (members.findIdx? (· == .here c.owner)).getD ranks
  let det := x.det || (taskOf s c.owner).trec.det
  (List.range (descCount x.desc)).foldl (fun t i =>
    if !writesElem x ranks rank i then t
    else
      let gran := (elemByte x.desc (collBits s c.owner x.desc) (elemOffset x.desc (tupleOf x.desc i))).1 / 32
      if freeAt s (2 ^ 72 + gran) % 2 = 0 then t
      else collWrite n c x i (collValue s x ranks i det (rankValue s x ms i)) t) s

/-- A participant, or a link that a participant of another package needs, is lost: the survivor on tile `n` takes
COLL_ABORTED, queue-precisely. -/
def participantLost (n : Nat) (s : State) : State :=
  match liveHead s n .store with
  | none => s
  | some c =>
    match collOf c with
    | none => s
    | some x =>
      if s.dev.lost.contains (lostKey c.owner x) || (collMembers s c.owner x).any (memberLost s x) then
        let s := onDev (fun d => { d with lost := lostKey c.owner x :: d.lost.filter (· != lostKey c.owner x) }) s
        holdCmd n .store c (.cause 0x0D1 0) (scramble n c x s)
      else s

/-- COLL_PARTICIPANT_LOST. -/
def execCollParticipantLost (tile : Nat) (s : State) : Host.Outcome State Fault Refusal := .next (participantLost tile s)

end Sys2Proof.Machine
end

