-- ==== Sys2Proof/Machine/Fetch.lean ====
section
/-!
DEFINITION. Fetching an instruction from a folio (R125, R337, R338, R340 to R342), the passage of time in a step, and
placing an instruction where the next step fetches it.
-/

namespace Sys2Proof.Machine

open Sys2Proof

/-! ### Code objects -/

/-- The code object of a task's record (R336, R353). -/
def objOf (s : State) (t : Task) : Option Obj := s.dev.objs.find? fun o => o.handle == t.trec.object && o.fn == t.fn

/-- The virtual root of a task's object. -/
def rootOf (s : State) (t : Task) : List Byte := match objOf s t with | some o => o.root | none => []

/-! ### Folios (R337, R338) -/

/-- Whether a folio covers a VPC. -/
def folioCovers (f : Folio) (vpc : Word) : Bool := decide (f.first.toNat ≤ vpc.toNat ∧ vpc.toNat ≤ f.last.toNat)

/-- The word of a folio at a VPC it covers. -/
def folioWord (f : Folio) (vpc : Word) : Word := f.words.getD ((vpc.toNat - f.first.toNat) / 8) (BitVec.allOnes 64)

/-- Whether a folio belongs to the cache key of a task (R338). -/
def folioOfTask (s : State) (t : Task) (f : Folio) : Bool :=
  f.tenant == t.trec.tenant && f.root == rootOf s t && f.binding == t.factors

/-- The cached folio that starts at a VPC, for a task's cache key (R337, R338). -/
def folioAt (s : State) (t : Task) (vpc : Word) : Option Folio :=
  s.dev.folios.find? fun f => folioOfTask s t f && f.first == vpc

/-- The word of the folio in hand: CODE_INTEGRITY when its page failed the leaf check and execution reaches it (R122,
R340). -/
def folioInstr (s : State) (f : Folio) (vpc : Word) : Except Stop Word :=
  if f.intact then .ok (folioWord f vpc)
  else .error (.trap ⟨0x141, f.page, word ((f.page.toNat - (taskOf s (me s)).base.toNat) / 4096), []⟩)

/-- Enter a folio at its first instruction; where none is cached the strand waits for the Scribe (R337, R338, R340). -/
def fetchEntry (s : State) (vpc : Word) : Except Stop (State × Word) :=
  if !canonical vpc.toNat then .error (.cause 0x040 vpc.toNat)
  else
    match folioAt s (taskOf s (me s)) vpc with
    | some f => (folioInstr s f vpc).map fun w =>
        (onFocus (fun t => { t with folio := some f, folioStale := false }) s, w)
    | none => .error (.wait .folio)

/-- Fetch the instruction at the VPC of the strand in focus: from the folio being executed, or, on a folio entry, from
the folio looked up there (R337, R338). -/
def fetch (s : State) : Except Stop (State × Word) :=
  let vpc := getPc s
  match s.tile.folio with
  | some f => if folioCovers f vpc then (folioInstr s f vpc).map fun w => (s, w) else fetchEntry s vpc
  | none => fetchEntry s vpc

/-- The root of a task is quarantined for its tenant (R341). -/
def quarantineRoot (t : Task) (s : State) : State :=
  onDev (fun d => { d with quarantine := (t.fn, rootOf s t) :: d.quarantine }) s

/-- A CODE_INTEGRITY raise quarantines the root for the tenant (R341). -/
def quarantineFor (e : Stop) (s : State) : State :=
  match e with
  | .trap t => if t.cause = 0x141 then quarantineRoot (taskOf s (me s)) s else s
  | _ => s

/-- What a fetch that failed leaves: the trap taken, or the strand waiting. -/
def fetchStop (e : Stop) (s : State) : State := stopShort s.tileNo e (quarantineFor e s)

/-! ### Time -/

/-- `k` tile clocks pass on tile `n`: CYCLE and the count toward a deadline advance while the tile holds the strand and its
clock runs, in a debug halt too (R28, R29, R119, R123, R137). -/
def passTime (k n : Nat) (t : Tile) : Tile :=
  let still := decide (Config.tiles ≤ n) || match t.run with | .frozen _ => true | _ => false
  if still then t
  else { t with seq := { t.seq with cycle := t.seq.cycle + word k }, sincePost := t.sincePost + k }

/-- The gang-relative region on which a port adapter waits: a source for a beat, a sink for room (R269). -/
def adapterWaits (t : Tile) (fn : UnitFn) : Option Nat :=
  match fn with
  | .src p _ => t.ports[p]?.bind fun x => if x.rx.isEmpty then x.binding.map (·.1) else none
  | .sinkPort p => t.ports[p]?.bind fun x => if 8 ≤ x.tx.length then x.binding.map (·.1) else none
  | _ => none

/-- Whether a unit waits on a region that the region manager has stopped (R269). -/
def waitsStopped (s : State) (k : StrandKey) (t : Tile) (fn : UnitFn) : Bool :=
  ((adapterWaits t fn).bind fun i => (gangOf s k).regions[i]?).any fun r => (regionAt s r).state == .stopped

/-- `k` more tile clocks without a movement in a running graph, unless a unit is held for service or waits on a stopped
region; a movement sets the count back (R269). -/
def countStill (s : State) (k : Nat) (t : Tile) : Tile :=
  match t.qFibre.head?, t.fibre.run with
  | some c, some r =>
    match c.body with
    | .go _ cfg =>
      if fibreRuns t && c.held.isNone && !(r.units.any fun u => u.2.held.isSome) &&
          !(cfg.any fun u => waitsStopped s c.owner t u.2.fn) then
        { t with fibre := { t.fibre with run := some { r with still := min (r.still + k) (2 ^ 20) } } }
      else t
    | _ => t
  | _, _ => t

/-- Tile clocks that pass in a step on a tile: at least one on the one in focus. How far the clocks move is timing, which
the spec leaves open (log 5). -/
def clocksOn (s : State) (n : Nat) : Nat := (if n = s.tileNo then 1 else 0) + freeAt s (2 ^ 70 + 2 + n)

/-- The clocks of a step pass on tile `n` (R28, R269). -/
def tickTile (s : State) (n : Nat) (t : Tile) : Tile := countStill s (clocksOn s n) (passTime (clocksOn s n) n t)

/-- Stretched clocks after a droop are counted as they pass (R411). -/
def stretch (k : Nat) (t : Telemetry) : Telemetry :=
  let d := min k t.stretchLeft
  { t with stretch := t.stretch + word d, stretchLeft := t.stretchLeft - d }

/-- Time passes in a step: the tiles' clocks and NCYCLE advance, and a fresh row of free values is drawn (R113, R137,
R411; log 5). -/
def tick (s : State) : State :=
  let m := 1 + freeAt s (2 ^ 70 + 1)
  { s with
    tile := tickTile s s.tileNo s.tile
    others := s.others.map fun e => (e.1, tickTile s e.1 e.2)
    dev := { s.dev with
      ncycle := s.dev.ncycle + word m
      telemetry := s.dev.telemetry.map fun e => (e.1, stretch (clocksOn s e.1) e.2) }
    draws := s.draws + 1 }

/-! ### Placing an instruction -/

/-- The strand that `withFetch` lets run: gang 0 of record 0 of queue 0, one member. -/
def soleKey : StrandKey := ⟨0, 0, 0, 0⟩

/-- The folio that holds one word at a VPC. -/
def oneWordFolio (vpc w : Word) : Folio :=
  ⟨0, [], [], word (vpc.toNat / 4096 * 4096), vpc, vpc, [w], true⟩

/-- The state with one instruction word where the next step fetches it. A tile without a running strand gets one, in
the state of a strand start (R22): the machine does not fetch at a program counter until the dispatcher has placed a
task, and this stands for that placement (log 4). -/
def withFetch (w : Word) (s : State) : State :=
  let s := { s with agenda := [] }
  match s.tile.owner with
  | some _ =>
    onFocus (fun t => { t with
      run := .running, folio := some (oneWordFolio t.seq.vpc w), net := { t.net with frozen := false, landing := false } }) s
  | none =>
    let task := Task.start 0 0 0 0 TaskRec.blank
    let gang : Gang := ⟨0, 0, 0, [.on s.tileNo], [], [], [], [], [s.tileNo], 0, false⟩
    let s := onDev (fun d => { d with tasks := task :: d.tasks, gangs := gang :: d.gangs }) s
    onFocus (fun t => { t with
      owner := some soleKey, run := .running, folio := some (oneWordFolio t.seq.vpc w), folioStale := false
      net := { t.net with frozen := false, landing := false } }) s

end Sys2Proof.Machine
end

