-- ==== Sys2Proof/Machine/Fibre.lean ====
section
/-!
DEFINITION. The fibre instructions (R256, R257, R268, R272 to R289): unit numbers, the checks at issue, the levels of a
graph, FGO and FKILL.
-/

namespace Sys2Proof.Machine

open Sys2Proof

/-! ### Units (R133, R256) -/

/-- Units of a class. -/
def unitCount (cls : Nat) : Nat := [8, 4, 4, 4, 4, 8, 4, 4, 2].getD cls 0

/-- The unit number of a class's unit 0. -/
def unitBase (cls : Nat) : Nat := [0, 8, 12, 16, 20, 24, 32, 36, 40].getD cls 0

/-- The slot of a graph unit: its unit number. -/
def slotOf (u : UnitRef) : Nat := unitBase u.cls.val + u.unit.val

/-- The slot of the source side of adapter `p`. -/
def srcSlot (p : Nat) : Nat := 42 + p

/-- The slot of the sink side of adapter `p`. -/
def sinkSlot (p : Nat) : Nat := 50 + p

/-- The unit number by which a slot is reported (R256). -/
def unitNo (slot : Nat) : Nat := if slot < 50 then slot else slot - 8

/-- FIBRE_CONFIG for a CLASS that the mnemonic cannot configure and a UNIT that the class has not (R133). -/
def checkUnit (u : UnitRef) (cls : Nat) : Except Stop Unit :=
  need (u.cls.val == cls && decide (u.unit.val < unitCount cls)) (.cause 0x0CA 0)

/-- The same for FSTEER, FMERGE and FCARRY: generator units, and ALU unit 0 (R133, R275). -/
def checkRouter (u : UnitRef) : Except Stop Unit :=
  need ((u.cls.val == 8 && decide (u.unit.val < 2)) || (u.cls.val == 6 && u.unit.val == 0)) (.cause 0x0CA 0)

/-! ### FIBRE_BUSY (R273) -/

/-- The oldest unfinished FGO of strand `k` on a tile. -/
def oldestGo (t : Tile) (k : StrandKey) : Option Nat :=
  t.qFibre.findSome? fun c => match c.body with | .go n _ => if c.owner = k then some n else none | _ => none

/-- A configuration command while an FGO of the strand is unfinished. -/
def notBusy (s : State) : Except Stop Unit :=
  match oldestGo s.tile (me s) with
  | some n => .error (.cause 0x0CB n)
  | none => .ok ()

/-! ### Configuration commands (R257, R274) -/

/-- Producers of endpoint `f`. -/
def producers (cfg : List (Nat × UnitCfg)) (f : Nat) : List Nat :=
  cfg.flatMap fun u => (u.2.outs.filter (· == f)).map fun _ => u.1

/-- Consumers of endpoint `f`: slot and input number of each. -/
def consumers (cfg : List (Nat × UnitCfg)) (f : Nat) : List (Nat × Nat) :=
  cfg.flatMap fun u => (List.range u.2.ins.length).filterMap fun i => if u.2.ins[i]? = some f then some (u.1, i) else none

/-- No endpoint has a second producer or a fifth consumer (R257). -/
def countsOk (cfg : List (Nat × UnitCfg)) : Bool :=
  (List.range 32).all fun f => decide ((producers cfg f).length ≤ 1 ∧ (consumers cfg f).length ≤ 4)

/-- Issue the configuration of a slot; an earlier one of the same slot is replaced (R257, R274). -/
def issueConfig (slot : Nat) (c : UnitCfg) (s : State) : Except Stop State := do
  let plan := keep (drop? s.tile.fibre.plan slot) slot c
  need (countsOk plan) (.cause 0x0CA 0)
  let t ← issue .fibre (.config slot c) none s
  .ok (onFocus (fun t => { t with fibre := { t.fibre with plan := plan } }) t)

/-- The endpoint numbers of fields. -/
def endpoints (l : List FReg) : List Nat := l.map (·.val)

/-! ### Descriptors of fibre units (R276, R280, R282) -/

/-- Descriptor TDI + `k` (R276). -/
def nextDesc (s : State) (tdi k : Nat) : Except Stop Desc := do
  need (decide (tdi + k ≤ 0xFFFF) && !(decide (tdi ≤ 0xFFBF) && decide (0xFFBF < tdi + k))) (.cause 0x050 (tdi + k))
  getDesc s (tdi + k)

/-- A descriptor that a scan names: its right, one dimension, and the format where the array is read. -/
def scanDesc (s : State) (tdi k : Nat) (fmt : Option Nat) : Except Stop Desc := do
  let d ← nextDesc s tdi k
  needRights d (tdi + k) rightScan
  need (d.ndim == 1 && (fmt.isNone || fmt == some d.fmt)) (.cause 0x053 (tdi + k))
  .ok d

/-- The number of descriptors that a scan names (R276). -/
def scanArrays (fmt : ScanFmt) (root : Bool) : Nat :=
  match fmt with
  | .dense | .clist => 1
  | .comp => 2
  | .bitmap => if root then 2 else 3

/-- The pages of the driver-table entries of `n` descriptors from `tdi` on are used (R372). -/
def useDescs (tdi n : Nat) (s : State) : State := (List.range n).foldl (fun s k => useDesc (tdi + k) s) s

/-- FSCAN (R276). -/
def execFscan (u : UnitRef) (d a : FReg) (fmt : ScanFmt) (root uniq : Bool) (tdi : BitVec 16) (s : State) :
    Host.Outcome State Fault Refusal :=
  finishIssue .fibre s do
    notBusy s
    checkUnit u 0
    let i := tdi.toNat
    let (n, d1, d2) ←
      match fmt with
      | .dense => do
        let x ← scanDesc s i 0 none
        .ok (dimOf x 0, none, none)
      | .comp => do
        let x ← scanDesc s i 0 (some 0x06)
        let y ← scanDesc s i 1 (some 0x06)
        .ok (0, some x, some y)
      | .bitmap => do
        let x ← scanDesc s i 0 none
        let y ← scanDesc s i 1 (some 0x07)
        if root then .ok (dimOf x 0, some y, none)
        else do
          let z ← scanDesc s i 2 (some 0x06)
          .ok (dimOf x 0, some y, some z)
      | .clist => do
        let x ← scanDesc s i 0 (some 0x06)
        .ok (dimOf x 0, some x, none)
    issueConfig (slotOf u) ⟨.scan fmt root uniq n d1 d2 s.tile.seq.round, endpoints [d],
      if root then [] else endpoints [a]⟩ (useDescs i (scanArrays fmt root) s)

/-- FISECT (R277). -/
def execFisect (u : UnitRef) (d c a b : FReg) (s : State) : Host.Outcome State Fault Refusal :=
  finishIssue .fibre s do
    notBusy s
    checkUnit u 1
    issueConfig (slotOf u) ⟨.isect, endpoints [d, c], endpoints [a, b]⟩ s

/-- FUNION (R277). -/
def execFunion (u : UnitRef) (d c a b : FReg) (s : State) : Host.Outcome State Fault Refusal :=
  finishIssue .fibre s do
    notBusy s
    checkUnit u 2
    issueConfig (slotOf u) ⟨.union, endpoints [d, c], endpoints [a, b]⟩ s

/-- FREPEAT (R278). -/
def execFrepeat (u : UnitRef) (d a b : FReg) (s : State) : Host.Outcome State Fault Refusal :=
  finishIssue .fibre s do
    notBusy s
    checkUnit u 3
    issueConfig (slotOf u) ⟨.rep, endpoints [d], endpoints [a, b]⟩ s

/-- FREDUCE (R279). -/
def execFreduce (u : UnitRef) (d a : FReg) (op : RedOp) (t : FTy) (sat : Bool) (rnd : Rnd) (s : State) :
    Host.Outcome State Fault Refusal :=
  finishIssue .fibre s do
    notBusy s
    checkUnit u 4
    issueConfig (slotOf u) ⟨.reduce op t sat (roundBits s rnd), endpoints [d], endpoints [a]⟩ s

/-- Formats that FVAL reads (R280). -/
def valueFmt (c : Nat) : Bool :=
  match Fmt.ofCode c with
  | some .s8 | some .s16 | some .s32 | some .z8 | some .z16 | some .z32 | some .f32 | some .f16 | some .bf16
  | some .fa8 | some .fb8 | some .f4 => true
  | _ => false

/-- FVAL (R280). -/
def execFval (u : UnitRef) (d a : FReg) (tdi : BitVec 16) (s : State) : Host.Outcome State Fault Refusal :=
  finishIssue .fibre s do
    notBusy s
    checkUnit u 5
    let x ← getDesc s tdi.toNat
    needRights x tdi.toNat (rightRead + rightScan)
    need (x.ndim == 1 && valueFmt x.fmt) (.cause 0x053 tdi.toNat)
    checkRegion s x
    issueConfig (slotOf u) ⟨.value x s.tile.seq.round, endpoints [d], endpoints [a]⟩
      (useDesc tdi.toNat s)

/-- FALU (R281). -/
def execFalu (u : UnitRef) (d a b : FReg) (op : AluOp) (t : FTy) (two sat : Bool) (rnd : Rnd) (imm : BitVec 9)
    (s : State) : Host.Outcome State Fault Refusal :=
  finishIssue .fibre s do
    notBusy s
    checkUnit u 6
    issueConfig (slotOf u) ⟨.alu op t two sat (roundBits s rnd) imm, endpoints [d],
      if two then endpoints [a, b] else endpoints [a]⟩ s

/-- The element format of a fibre type (R279). -/
def FTy.fmt : FTy → Fmt
  | .s32 => .s32 | .z32 => .z32 | .f32 => .f32

/-- FWRITE (R282). -/
def execFwrite (u : UnitRef) (a : FReg) (mode : WrMode) (t : FTy) (tdi : BitVec 16) (s : State) :
    Host.Outcome State Fault Refusal :=
  finishIssue .fibre s do
    notBusy s
    checkUnit u 7
    let x ← getDesc s tdi.toNat
    needRights x tdi.toNat (rightWrite + if mode = .add then rightAtomic else 0)
    need (x.ndim == 1 && (mode != .add || x.fmt == (FTy.fmt t).code)) (.cause 0x053 tdi.toNat)
    checkRegion s x
    issueConfig (slotOf u) ⟨.write mode t x s.tile.seq.round, [], endpoints [a]⟩ (useDesc tdi.toNat s)

/-- FGEN (R283). -/
def execFgen (u : UnitRef) (d a : FReg) (s : State) : Host.Outcome State Fault Refusal :=
  finishIssue .fibre s do
    notBusy s
    checkUnit u 8
    issueConfig (slotOf u) ⟨.gen, endpoints [d], endpoints [a]⟩ s

/-- FSTEER: data a, control b (R275, R284). -/
def execFsteer (u : UnitRef) (d c a b : FReg) (s : State) : Host.Outcome State Fault Refusal :=
  finishIssue .fibre s do
    notBusy s
    checkRouter u
    issueConfig (slotOf u) ⟨.steer, endpoints [d, c], endpoints [a, b]⟩ s

/-- FMERGE: data a and b, control c (R275, R284). -/
def execFmerge (u : UnitRef) (d c a b : FReg) (s : State) : Host.Outcome State Fault Refusal :=
  finishIssue .fibre s do
    notBusy s
    checkRouter u
    issueConfig (slotOf u) ⟨.merge, endpoints [d], endpoints [a, b, c]⟩ s

/-- FCARRY: initial a, back b (R275, R284). -/
def execFcarry (u : UnitRef) (d a b : FReg) (s : State) : Host.Outcome State Fault Refusal :=
  finishIssue .fibre s do
    notBusy s
    checkRouter u
    issueConfig (slotOf u) ⟨.carry, endpoints [d], endpoints [a, b]⟩ s

/-! ### Ports (R285, R286) -/

/-- An unbound port (R285, R286). -/
def needBound (s : State) (p : Fin 8) : Except Stop Unit := need s.tile.ports[p].binding.isSome (.cause 0x100 0)

/-- FSRC (R285). -/
def execFsrc (p : Fin 8) (d : FReg) (level : Fin 8) (s : State) : Host.Outcome State Fault Refusal :=
  finishIssue .fibre s do
    notBusy s
    needBound s p
    issueConfig (srcSlot p.val) ⟨.src p.val level.val, endpoints [d], []⟩ s

/-- FSINK.port (R286). -/
def execFsinkPort (p : Fin 8) (a : FReg) (s : State) : Host.Outcome State Fault Refusal :=
  finishIssue .fibre s do
    notBusy s
    needBound s p
    issueConfig (sinkSlot p.val) ⟨.sinkPort p.val, [], endpoints [a]⟩ s

/-- FSINK.q (R286). -/
def execFsinkQ (p : Fin 8) (a : FReg) (q : QReg) (count : Bool) (s : State) : Host.Outcome State Fault Refusal :=
  finishIssue .fibre s do
    notBusy s
    issueConfig (sinkSlot p.val) ⟨.sinkQ p.val q count, [], endpoints [a]⟩ s

/-- FSINK.l (R286). -/
def execFsinkL (p : Fin 8) (a : FReg) (mode : SinkMode) (addr : Fin 32768) (s : State) :
    Host.Outcome State Fault Refusal :=
  finishIssue .fibre s do
    notBusy s
    issueConfig (sinkSlot p.val) ⟨.sinkL p.val mode (64 * addr.val), [], endpoints [a]⟩ s

/-! ### Levels (R257, R275) -/

/-- The level of an endpoint, where it is known. -/
def levelAt (lv : List (Nat × Nat)) (f : Nat) : Option Nat := find? lv f

/-- The first known level. -/
def firstKnown : List (Option Nat) → Option Nat
  | [] => none
  | some x :: _ => some x
  | none :: l => firstKnown l

/-- The level of a unit's outputs, from what is known of its inputs (R275). -/
def outLevel (fn : UnitFn) (ins : List (Option Nat)) : Option Nat :=
  let a := ins.getD 0 none
  let b := ins.getD 1 none
  match fn with
  | .scan _ root _ _ _ _ _ => if root then some 0 else a.map (· + 1)
  | .isect | .union | .carry | .merge => firstKnown [a, b]
  | .rep => match a with | some x => some (x + 1) | none => b
  | .alu _ _ two _ _ _ => if two then firstKnown [a, b] else a
  | .reduce _ _ _ _ | .value _ _ | .steer => a
  | .gen => a.map (· + 1)
  | .src _ l => some l
  | .write _ _ _ _ | .sinkPort _ | .sinkQ _ _ _ | .sinkL _ _ _ => none

/-- One round of the computation of levels. -/
def levelRound : List (Nat × UnitCfg) → List (Nat × Nat) → List (Nat × Nat)
  | [], lv => lv
  | u :: us, lv =>
    levelRound us (match outLevel u.2.fn (u.2.ins.map (levelAt lv)) with
      | some l => u.2.outs.foldl (fun lv f => if (levelAt lv f).isSome then lv else keep lv f l) lv
      | none => lv)

/-- The levels after `n` rounds. -/
def levelRounds (cfg : List (Nat × UnitCfg)) : Nat → List (Nat × Nat) → List (Nat × Nat)
  | 0, lv => lv
  | n + 1, lv => levelRounds cfg n (levelRound cfg lv)

/-- The declared levels of a graph (R275). -/
def levelsOf (cfg : List (Nat × UnitCfg)) : List (Nat × Nat) := levelRounds cfg (cfg.length + 1) []

/-- What a unit requires of its inputs' levels (R275). -/
def levelsOk (fn : UnitFn) (ins : List (Option Nat)) : Bool :=
  ins.all Option.isSome &&
    let a := (ins.getD 0 none).getD 0
    let b := (ins.getD 1 none).getD 0
    let c := (ins.getD 2 none).getD 0
    match fn with
    | .scan _ root _ _ _ _ _ => root || decide (a ≤ 6)
    | .isect | .union | .carry => a == b
    | .rep => decide (a ≤ 6) && b == a + 1
    | .alu _ _ two _ _ _ => !two || a == b
    | .gen => decide (a ≤ 6)
    | .steer => b == 0
    | .merge => a == b && c == 0
    | .reduce _ _ _ _ | .value _ _ | .src _ _ | .write _ _ _ _ | .sinkPort _ | .sinkQ _ _ _ | .sinkL _ _ _ => true

/-! ### The checks of FGO (R257, R268, R287) -/

/-- Units configured for steer, merge or carry. -/
def isRouter : UnitFn → Bool
  | .steer | .merge | .carry => true
  | _ => false

/-- Units that end a graph. -/
def isSink : UnitFn → Bool
  | .write _ _ _ _ | .sinkPort _ | .sinkQ _ _ _ | .sinkL _ _ _ => true
  | _ => false

/-- The endpoints that the units which `us` reaches from endpoints `fs` write, `fs` with them, in `n` rounds. -/
def reachFrom (us : List (Nat × UnitCfg)) : Nat → List Nat → List Nat
  | 0, fs => fs
  | n + 1, fs =>
    reachFrom us n (fs ++ (us.filter fun u => u.2.ins.any fs.contains).flatMap fun u => u.2.outs.filter (!fs.contains ·))

/-- The outputs of a unit from which it can be reached again. -/
def cycleOuts (us : List (Nat × UnitCfg)) (u : Nat × UnitCfg) : List Nat :=
  u.2.outs.filter fun f => u.2.ins.any (reachFrom us us.length [f]).contains

/-- The inputs concerned when a unit's requirement on known levels fails (R275). -/
def wrongInputs (fn : UnitFn) (ins : List (Option Nat)) : List Nat :=
  let a := (ins.getD 0 none).getD 0
  let b := (ins.getD 1 none).getD 0
  match fn with
  | .rep => if 6 < a then [0] else [0, 1]
  | .steer => [1]
  | .merge => if a = b then [2] else [0, 1]
  | .scan _ _ _ _ _ _ _ | .gen => [0]
  | _ => [0, 1]

/-- Endpoints without a producer or without a consumer, with a unit at each (R257). -/
def loneEnds (cfg : List (Nat × UnitCfg)) : List (Nat × Option Nat) :=
  (List.range 32).flatMap fun f =>
    let ps := producers cfg f
    let cs := consumers cfg f
    if ps.isEmpty then cs.map fun c => (c.1, some f) else if cs.isEmpty then ps.map fun p => (p, some f) else []

/-- Outputs that lie on a cycle without a steer, merge or carry unit (R268). -/
def cycleEnds (cfg : List (Nat × UnitCfg)) : List (Nat × Option Nat) :=
  let rest := cfg.filter fun u => !isRouter u.2.fn
  rest.flatMap fun u => (cycleOuts rest u).map fun f => (u.1, some f)

/-- Inputs whose level a unit does not admit (R257, R275). -/
def levelEnds (cfg : List (Nat × UnitCfg)) : List (Nat × Option Nat) :=
  let lv := levelsOf cfg
  cfg.flatMap fun u =>
    let ins := u.2.ins.map (levelAt lv)
    if levelsOk u.2.fn ins || !ins.all Option.isSome then []
    else (wrongInputs u.2.fn ins).filterMap fun i => (u.2.ins[i]?).map fun f => (u.1, some f)

/-- Inputs whose level follows from nothing in the graph. -/
def openEnds (cfg : List (Nat × UnitCfg)) : List (Nat × Option Nat) :=
  let lv := levelsOf cfg
  cfg.flatMap fun u => (u.2.ins.filter fun f => (levelAt lv f).isNone).map fun f => (u.1, some f)

/-- Every way in which a graph fails: slot and endpoint concerned. That levels do not follow counts only where no endpoint
without a producer and no cycle explains it. -/
def graphFailures (cfg : List (Nat × UnitCfg)) : List (Nat × Option Nat) :=
  let bad := loneEnds cfg ++ cycleEnds cfg ++ levelEnds cfg
  (if bad.isEmpty then openEnds cfg else bad) ++ if cfg.any fun u => isSink u.2.fn then [] else [(0, none)]

/-- FIBRE_CONFIG of FGO; of several failures the one named is open, and so is the unit of a graph without FWRITE and FSINK
(log 5). -/
def checkGraph (s : State) (cfg : List (Nat × UnitCfg)) : Except Stop Unit :=
  match pickHit s (2 ^ 67) (graphFailures cfg) with
  | none => .ok ()
  | some (slot, some f) => .error (.trap ⟨0x0CA, word (unitNo slot), word f, []⟩)
  | some (_, none) => .error (.trap ⟨0x0CA, word (freeAt s (2 ^ 67 + 1)), BitVec.allOnes 64, []⟩)

/-! ### FGO and FKILL (R287-R289) -/

/-- The reply queues of a graph's queue-mode sinks. -/
def sinkQueues (cfg : List (Nat × UnitCfg)) : List QReg :=
  cfg.filterMap fun u => match u.2.fn with | .sinkQ _ q _ => some q | _ => none

/-- Reserve an entry for each queue-mode sink. -/
def reserveSinks : List QReg → State → Except Stop State
  | [], s => .ok s
  | q :: qs, s => do
    let t ← reserveReply (some q) s
    reserveSinks qs t

/-- FGO (R287). -/
def execFgo (d : SReg) (q : QReg) (s : State) : Host.Outcome State Fault Refusal :=
  finishIssue .fibre s do
    let cfg := s.tile.fibre.plan
    checkGraph s cfg
    let t ← reserveSinks (sinkQueues cfg) s
    let n := s.tile.seq.fgoSeq + 1
    let t ← issue .fibre (.go n cfg) (some q) t
    .ok (setS d (word n) (onFocus (Tile.onSeq fun r => { r with fgoSeq := n }) t))

/-- Release one reservation of a reply queue of tile `n`, where strand `k` still owns it (R288, R289). -/
def releaseReply (n : Nat) (k : StrandKey) (q : QReg) (s : State) : State :=
  if (tileAt s n).owner = some k then onTile n (onReply q fun r => { r with reserved := r.reserved - 1 }) s else s

/-- Release the reservations of a graph's queue-mode sinks. -/
def releaseSinks (n : Nat) (k : StrandKey) (cfg : List (Nat × UnitCfg)) (s : State) : State :=
  (sinkQueues cfg).foldl (fun s q => releaseReply n k q s) s

/-- The completion entry of a run (R288). -/
def goEntry (seq cause : Nat) (killed fail : Bool) : Nat :=
  2 * 2 ^ 60 + (if fail then 2 ^ 59 else 0) + (if killed then 2 ^ 58 else 0) + cause % 2 ^ 9 * 2 ^ 32 + seq % 2 ^ 32

/-- The FGO at the head of the fibre queue of tile `n` ends: its completion entry is posted, and the tokens on its edges
are gone (R288). A fibre command is not charged (R272). -/
def endRun (n : Nat) (c : QCmd) (entry : Nat) (s : State) : State :=
  let s := postReply n c.owner c.reply entry (popCmd n .fibre s)
  onTile n (fun t => { t with fibre := { t.fibre with run := none } }) s

/-- A run that did not finish normally: its sinks post nothing (R270, R288, R289). -/
def failRun (n : Nat) (c : QCmd) (seq cause : Nat) (cfg : List (Nat × UnitCfg)) (killed : Bool) (s : State) : State :=
  endRun n c (goEntry seq cause killed true) (releaseSinks n c.owner cfg s)

/-- Discard the commands of strand `k` in the fibre queue of tile `n` that have not started, with their reservations
(R289). -/
def discardFibre (n : Nat) (k : StrandKey) (s : State) : State :=
  let mine := (tileAt s n).qFibre.filter fun c => c.owner == k && !c.started
  let s := mine.foldl (fun s c =>
    match c.body with
    | .go _ cfg =>
      let s := releaseSinks n k cfg s
      match c.reply with | some q => releaseReply n k q s | none => s
    | _ => s) s
  onTile n (fun t => { t with qFibre := t.qFibre.filter fun c => c.owner != k || c.started }) s

end Sys2Proof.Machine
end

