-- ==== Sys2Proof/Machine/FibreSteps.lean ====
section
/-!
DEFINITION. The fibre engine: the grammar of edges, the step of every unit, scan reads, stores, the stall watchdog, and
the start and the end of a run (R258 to R271, R276 to R291).
-/

namespace Sys2Proof.Machine

open Sys2Proof

/-! ### A run and its edges -/

/-- A unit that has not begun. -/
def UnitState.blank : UnitState := ⟨0, 0, 0, 0, 0, 0, none, [], [], none, none, [], [], false, 0, none⟩

/-- An empty edge at the start of a run (R260). -/
def Edge.start (level : Nat) : Edge := ⟨[], level, level, false, none⟩

/-- The edge of endpoint `f`. -/
def edgeAt (r : Run) (f : Nat) : Edge := r.edges.getD f (Edge.start 0)

/-- The state of the unit in a slot. -/
def unitAt (r : Run) (slot : Nat) : UnitState := look UnitState.blank r.units slot

/-- The name of a consumer of an edge: slot and input. -/
def consumerId (slot i : Nat) : Nat := slot * 4 + i

/-- What input `i` of a unit presents: the first token it has not taken (R266). -/
def inputHead (r : Run) (c : UnitCfg) (slot i : Nat) : Option Tok :=
  ((edgeAt r (c.ins.getD i 32)).toks.find? fun t => !t.takenBy.contains (consumerId slot i)).map (·.tok)

/-- Take the head of input `i`; a token that every consumer has taken leaves its slot (R266). -/
def takeToken (cfg : List (Nat × UnitCfg)) (c : UnitCfg) (slot i : Nat) (r : Run) : Run :=
  let f := c.ins.getD i 32
  let ids := (consumers cfg f).map fun x => consumerId x.1 x.2
  let e := edgeAt r f
  let toks := mapFirst (fun t : EdgeTok => !t.takenBy.contains (consumerId slot i))
    (fun t => { t with takenBy := consumerId slot i :: t.takenBy }) e.toks
  { r with edges := r.edges.set f { e with toks := toks.filter fun t => !ids.all fun x => t.takenBy.contains x } }

/-- Breaches by their SUB codes (R262). -/
def subStopHigh : Nat := 1
/-- STRUCTURE. -/
def subStructure : Nat := 2
/-- ORDER. -/
def subOrder : Nat := 3
/-- EARLY_DONE. -/
def subEarly : Nat := 4
/-- AFTER_DONE. -/
def subAfter : Nat := 5
/-- VALUE_MISSING. -/
def subValue : Nat := 6
/-- REFERENCE_RANGE. -/
def subRange : Nat := 7

/-- The grammar check of a token written to an edge: the SUB of a breach, or the edge after it (R260). -/
def writeCheck (e : Edge) (t : Tok) : Except Nat Edge :=
  if e.ended then .error subAfter
  else
    match t with
    | .elem _ _ _ => .ok { e with m := 0, toks := e.toks ++ [⟨t, []⟩], last := some t }
    | .stop k =>
      if e.m < k.val then .error subStopHigh
      else .ok { e with m := if k.val < e.level then k.val + 1 else e.level, toks := e.toks ++ [⟨t, []⟩], last := some t }
    | .done =>
      let lastOk : Bool := match e.last with | some (.stop j) => decide (e.level ≤ j.val) | some _ => false | none => true
      if e.m = e.level ∧ lastOk = true then .ok { e with ended := true, toks := e.toks ++ [⟨t, []⟩], last := some t }
      else .error subEarly

/-- The trap of a breach (R262). -/
def breachTrap (r : Run) (ep slot sub side : Nat) (t : Tok) : TrapInfo :=
  let e := edgeAt r ep
  let rec_ := tokRecord t
  ⟨0x0C8, word (ep + unitNo slot * 2 ^ 5 + sub * 2 ^ 11 + e.level * 2 ^ 14 + e.m * 2 ^ 17 + side * 2 ^ 20),
    word (rec_ % 2 ^ 64), [word (rec_ / 2 ^ 64), 0, 0, 0]⟩

/-! ### The step of a unit -/

/-- What a unit can do next. -/
inductive UnitStep where
  /-- nothing: an input or a store is missing -/
  | idle
  /-- an array element must be read first: which array, which index -/
  | read (which ix : Nat)
  /-- a breach that the unit meets as a consumer, or would write: endpoint, SUB, side, token -/
  | breach (ep sub side : Nat) (t : Tok)
  /-- a fault of the adapter's port -/
  | fault (t : TrapInfo)
  /-- a step: inputs taken, tokens written by output, the unit after it, beats taken and beats sent on its port -/
  | move (takes : List Nat) (writes : List (Nat × Tok)) (u : UnitState) (pop : Nat) (push : List Beat)

/-- A step without beats. -/
def UnitStep.go (takes : List Nat) (writes : List (Nat × Tok)) (u : UnitState) : UnitStep := .move takes writes u 0 []

/-- The key of a read array element. -/
def readKey (which ix : Nat) : Nat := which * 2 ^ 40 + ix

/-- The absent reference (R258). -/
def absent : BitVec 32 := BitVec.allOnes 32

/-- The next stop level. -/
def stopUp (k : Fin 8) : Fin 8 := Fin.ofNat 8 (k.val + 1)

/-- An element to be written, or the breach of its coordinate or reference (R262, R263, R267). -/
def ranged (c : UnitCfg) (coord ref : Nat) (v : Option (BitVec 32)) (takes : List Nat) (u : UnitState) : UnitStep :=
  let t : Tok := .elem (BitVec.ofNat 32 coord) (BitVec.ofNat 32 ref) v
  if coord ≤ 0xFFFFFFFE ∧ ref ≤ 0xFFFFFFFE then .go takes [(0, t)] u else .breach (c.outs.getD 0 0) subRange 0 t

/-- The end of a scan's child fibre: E0, then the next parent, or D under ROOT. -/
def scanEnd (root : Bool) (u : UnitState) : UnitStep :=
  .go [] [(0, .stop 0)] { u with phase := if root then 3 else 0, arr := [], acc := [] }

/-- The parent of a fibre begins: `n1` reference, `n2` cursor, `n3` end, `n4` count. -/
def scanParent (fmt : ScanFmt) (p n : Nat) (start count : Nat) (u : UnitState) : UnitState :=
  match fmt with
  | .dense => { u with phase := 2, n1 := p, n2 := 0, n3 := n, n4 := 0, arr := [] }
  | .comp => { u with phase := 1, n1 := p, n2 := 0, n3 := 0, n4 := 0, arr := [] }
  | .bitmap => { u with phase := 1, n1 := p, n2 := 0, n3 := 0, n4 := 0, arr := [] }
  | .clist => { u with phase := 2, n1 := p, n2 := start, n3 := start + count, n4 := 0, arr := [] }

/-- The child fibre of a parent, token by token (R263). -/
def scanChild (c : UnitCfg) (fmt : ScanFmt) (root uniq : Bool) (n : Nat) (u : UnitState) : UnitStep :=
  let got := fun which ix => find? u.arr (readKey which ix)
  match fmt with
  | .dense =>
    if u.n2 < u.n3 then ranged c u.n2 (u.n1 * n + u.n2) none [] { u with n2 := u.n2 + 1 } else scanEnd root u
  | .comp =>
    if u.phase = 1 then
      match got 0 u.n1, got 0 (u.n1 + 1) with
      | some a, some b => .go [] [] { u with phase := 2, n2 := a, n3 := b, arr := [] }
      | none, _ => .read 0 u.n1
      | _, none => .read 0 (u.n1 + 1)
    else if u.n2 < u.n3 then
      match got 1 u.n2 with
      | some x => ranged c x u.n2 none [] { u with n2 := u.n2 + 1, arr := [] }
      | none => .read 1 u.n2
    else scanEnd root u
  | .bitmap =>
    let words := ceilDiv n 64
    if u.phase = 1 then
      if root then .go [] [] { u with phase := 2, acc := [0] }
      else
        match got 1 u.n1 with
        | some x => .go [] [] { u with phase := 2, acc := [BitVec.ofNat 32 x], arr := [] }
        | none => .read 1 u.n1
    else if u.n2 < words then
      match got 0 (u.n1 * words + u.n2) with
      | none => .read 0 (u.n1 * words + u.n2)
      | some x =>
        let lim := min 64 (n - 64 * u.n2)
        match (List.range lim).find? fun b => decide (u.n3 ≤ b) && x.testBit b with
        | some b =>
          ranged c (64 * u.n2 + b) ((u.acc.headD 0).toNat + u.n4) none [] { u with n3 := b + 1, n4 := u.n4 + 1 }
        | none => .go [] [] { u with n2 := u.n2 + 1, n3 := 0, arr := [] }
    else scanEnd root u
  | .clist =>
    if u.n2 < u.n3 then
      match got 0 u.n2 with
      | none => .read 0 u.n2
      | some x =>
        if uniq then ranged c x u.n2 none [] { u with n2 := u.n2 + 1, arr := [] }
        else
          let run := max 1 u.n4
          let out := ranged c x u.n2 (some (BitVec.ofNat 32 run)) [] { u with n2 := u.n2 + run, n4 := 0, arr := [] }
          if u.n2 + run < u.n3 then
            match got 0 (u.n2 + run) with
            | none => .read 0 (u.n2 + run)
            | some y => if y = x then .go [] [] { u with n4 := run + 1, arr := [(readKey 0 u.n2, x)] } else out
          else out
    else scanEnd root u

/-- A scan (R263, R276). -/
def stepScan (r : Run) (c : UnitCfg) (slot : Nat) (fmt : ScanFmt) (root uniq : Bool) (n count : Nat) (u : UnitState) :
    UnitStep :=
  if u.phase = 3 then .go [] [(0, .done)] { u with ended := true }
  else if u.phase ≠ 0 then scanChild c fmt root uniq n u
  else if root then .go [] [] (scanParent fmt 0 n 0 count u)
  else
    match inputHead r c slot 0 with
    | none => .idle
    | some (.elem x p v) =>
      if fmt = .clist then
        match v with
        | none => .breach (c.ins.getD 0 0) subValue 0 (.elem x p v)
        | some k => .go [0] [] (scanParent fmt p.toNat n p.toNat k.toNat u)
      else .go [0] [] (scanParent fmt p.toNat n 0 0 u)
    | some (.stop k) => .go [0] [(0, .stop (stopUp k))] u
    | some .done => .go [0] [(0, .done)] { u with ended := true }

/-- How high a token stands in the structure: elements, then stops by level, then D. -/
def rank : Tok → Nat
  | .elem _ _ _ => 0
  | .stop k => k.val + 1
  | .done => 9

/-- Of breaches on both inputs the one of the lower endpoint (R270). -/
def lowerSide (c : UnitCfg) (bad0 bad1 : Bool) : Nat :=
  if bad0 && bad1 then (if c.ins.getD 1 0 < c.ins.getD 0 0 then 1 else 0) else if bad0 then 0 else 1

/-- A breach on one side. -/
def sideBreach (c : UnitCfg) (side sub : Nat) (a b : Tok) : UnitStep :=
  .breach (c.ins.getD side 0) sub side (if side = 0 then a else b)

/-- Whether an element's coordinate does not rise within its fibre (R261). -/
def unordered (last : Option Nat) (x : BitVec 32) : Bool := match last with | some y => decide (x.toNat ≤ y) | none => false

/-- Intersect and union (R261, R264, R277). -/
def stepPair (r : Run) (c : UnitCfg) (slot : Nat) (union : Bool) (u : UnitState) : UnitStep :=
  match inputHead r c slot 0, inputHead r c slot 1 with
  | some (.elem x p v), some (.elem y q w) =>
    let both := decide (x = y)
    let left := decide (x.toNat ≤ y.toNat)
    let right := decide (y.toNat ≤ x.toNat)
    let bad0 := left && unordered u.lastA x
    let bad1 := right && unordered u.lastB y
    if bad0 || bad1 then sideBreach c (lowerSide c bad0 bad1) subOrder (.elem x p v) (.elem y q w)
    else
      let u := { u with
        lastA := if left then some x.toNat else u.lastA, lastB := if right then some y.toNat else u.lastB }
      if both then .go [0, 1] [(0, .elem x p v), (1, .elem y q w)] u
      else if left then .go [0] (if union then [(0, .elem x p v), (1, .elem x absent none)] else []) u
      else .go [1] (if union then [(0, .elem y absent none), (1, .elem y q w)] else []) u
  | some (.elem x p v), some t =>
    if t = .stop 0 then
      if unordered u.lastA x then sideBreach c 0 subOrder (.elem x p v) t
      else .go [0] (if union then [(0, .elem x p v), (1, .elem x absent none)] else []) { u with lastA := some x.toNat }
    else sideBreach c 0 subStructure (.elem x p v) t
  | some t, some (.elem y q w) =>
    if t = .stop 0 then
      if unordered u.lastB y then sideBreach c 1 subOrder t (.elem y q w)
      else .go [1] (if union then [(0, .elem y absent none), (1, .elem y q w)] else []) { u with lastB := some y.toNat }
    else sideBreach c 1 subStructure t (.elem y q w)
  | some s, some t =>
    if s = t then
      .go [0, 1] [(0, s), (1, t)] { u with lastA := none, lastB := none, ended := u.ended || s == .done }
    else sideBreach c (if rank s < rank t then 0 else 1) subStructure s t
  | _, _ => .idle

/-- FREPEAT (R278). -/
def stepRepeat (r : Run) (c : UnitCfg) (slot : Nat) (u : UnitState) : UnitStep :=
  match u.phase, inputHead r c slot 0, inputHead r c slot 1 with
  | 0, some (.elem x p v), some (.elem y _ _) =>
    .go [0, 1] [(0, .elem y p v)] { u with phase := 1, ref := p, val := v, n1 := x.toNat }
  | 0, some (.elem x p v), some t =>
    if t = .stop 0 then .go [0, 1] [(0, .stop 0)] u else sideBreach c 1 subStructure (.elem x p v) t
  | 0, some (.stop k), some t =>
    if t = .stop (stopUp k) then .go [0, 1] [(0, t)] u else sideBreach c 1 subStructure (.stop k) t
  | 0, some .done, some t =>
    if t = .done then .go [0, 1] [(0, .done)] { u with ended := true } else sideBreach c 1 subStructure .done t
  | _ + 1, _, some (.elem y _ _) => .go [1] [(0, .elem y u.ref u.val)] u
  | _ + 1, _, some t => if t = .stop 0 then .go [1] [(0, .stop 0)] { u with phase := 0 } else sideBreach c 1 subStructure t t
  | _, _, _ => .idle

/-- The value of a reduction (R279): the 32 bits and SUBST. -/
def reduceValue (op : RedOp) (t : FTy) (sat : Bool) (rm : BitVec 2) (xs : List Nat) : Rep :=
  let f := FTy.fmt t
  match op with
  | .add => if xs.isEmpty then (0, 0) else sumReduce f (RMode.ofBits rm) (SatSel.of sat false) (xs.map (decodeNum f 127))
  | .min =>
    match xs with
    | [] => (match t with | .s32 => 0x7FFFFFFF | .z32 => 0xFFFFFFFF | .f32 => 0x7F800000, 0)
    | x :: l => (l.foldl (pickMin f false) (pickMin f false x x), 0)
  | .max =>
    match xs with
    | [] => (match t with | .s32 => 0x80000000 | .z32 => 0 | .f32 => 0xFF800000, 0)
    | x :: l => (l.foldl (pickMin f true) (pickMin f true x x), 0)

/-- FREDUCE (R279): at E0 the element, then the stop. -/
def stepReduce (r : Run) (c : UnitCfg) (slot : Nat) (op : RedOp) (t : FTy) (sat : Bool) (rm : BitVec 2)
    (u : UnitState) : UnitStep :=
  match inputHead r c slot 0 with
  | none => .idle
  | some (.elem x p v) =>
    match v with
    | none => .breach (c.ins.getD 0 0) subValue 0 (.elem x p v)
    | some w => .go [0] [] { u with acc := u.acc ++ [w] }
  | some (.stop k) =>
    if k ≠ 0 then .go [0] [(0, .stop k)] u
    else if u.phase = 0 then
      let y := reduceValue op t sat rm (u.acc.map (·.toNat))
      .go [] [(0, .elem 0 (BitVec.ofNat 32 (min u.acc.length 0xFFFFFFFE)) (some (BitVec.ofNat 32 y.1)))]
        { u with phase := 1, n4 := u.n4 ||| y.2.toNat }
    else .go [0] [(0, .stop 0)] { u with phase := 0, acc := [] }
  | some .done => .go [0] [(0, .done)] { u with ended := true }

/-- FVAL (R264, R280). -/
def stepValue (r : Run) (c : UnitCfg) (slot : Nat) (u : UnitState) : UnitStep :=
  match inputHead r c slot 0 with
  | none => .idle
  | some (.elem x p _) =>
    if p = absent then .go [0] [(0, .elem x p (some 0))] u
    else
      match find? u.arr (readKey 0 p.toNat) with
      | some v => .go [0] [(0, .elem x p (some (BitVec.ofNat 32 v)))] { u with arr := [] }
      | none => .read 0 p.toNat
  | some (.stop k) => .go [0] [(0, .stop k)] u
  | some .done => .go [0] [(0, .done)] { u with ended := true }

/-- The exact value of 32 bits of a fibre type. -/
def ftyNum (t : FTy) (x : Nat) : Num := decodeNum (FTy.fmt t) 127 x

/-- The second operand of FALU without TWO: IMM9, or its integer value as F32 (R281). -/
def immBits (t : FTy) (imm : BitVec 9) : Nat :=
  match t with
  | .f32 => (roundTo .f32 .rne .none 127 false (.fin (decide (imm.toInt < 0)) imm.toInt.natAbs 0 false)).1
  | _ => (imm.signExtend 32).toNat

/-- An operation of FALU (R281). -/
def aluValue (op : AluOp) (t : FTy) (sat : Bool) (rm : BitVec 2) (p q : Nat) : Rep :=
  let f := FTy.fmt t
  let mode := RMode.ofBits rm
  let sel := SatSel.of sat false
  match op with
  | .add => addElems f mode sel [ftyNum t p, ftyNum t q]
  | .sub => addElems f mode sel [ftyNum t p, (ftyNum t q).neg]
  | .mul => roundTo f mode sel 127 true ((ftyNum t p).mul (ftyNum t q))
  | .min => (pickMin f false p q, 0)
  | .max => (pickMin f true p q, 0)
  | .and => (Nat.land p q, 0)
  | .or => (Nat.lor p q, 0)
  | .xor => (Nat.xor p q, 0)
  | .setlt => (if compareElems f .lt p q then 1 else 0, 0)
  | .seteq => (if compareElems f .eq p q then 1 else 0, 0)

/-- FALU (R261, R281). -/
def stepAlu (r : Run) (c : UnitCfg) (slot : Nat) (op : AluOp) (t : FTy) (two sat : Bool) (rm : BitVec 2)
    (imm : BitVec 9) (u : UnitState) : UnitStep :=
  let emit := fun (takes : List Nat) (x p : BitVec 32) (v w : Nat) =>
    let y := aluValue op t sat rm v w
    UnitStep.go takes [(0, .elem x p (some (BitVec.ofNat 32 y.1)))] { u with n4 := u.n4 ||| y.2.toNat }
  if two then
    match inputHead r c slot 0, inputHead r c slot 1 with
    | some (.elem x p v), some (.elem y q w) =>
      match v, w with
      | some v, some w => emit [0, 1] x p v.toNat w.toNat
      | _, _ => sideBreach c (lowerSide c v.isNone w.isNone) subValue (.elem x p v) (.elem y q w)
    | some (.elem x p v), some t => sideBreach c 1 subStructure (.elem x p v) t
    | some t, some (.elem y q w) => sideBreach c 0 subStructure t (.elem y q w)
    | some s, some t =>
      if s = t then .go [0, 1] [(0, s)] { u with ended := u.ended || s == .done }
      else sideBreach c (if rank s < rank t then 0 else 1) subStructure s t
    | _, _ => .idle
  else
    match inputHead r c slot 0 with
    | none => .idle
    | some (.elem x p v) =>
      match v with
      | some v => emit [0] x p v.toNat (immBits t imm)
      | none => .breach (c.ins.getD 0 0) subValue 0 (.elem x p v)
    | some (.stop k) => .go [0] [(0, .stop k)] u
    | some .done => .go [0] [(0, .done)] { u with ended := true }

/-- FWRITE: an element sends one store, by index and value (R261, R282). -/
def stepWrite (r : Run) (c : UnitCfg) (slot : Nat) (mode : WrMode) (u : UnitState) : UnitStep :=
  match inputHead r c slot 0 with
  | none => .idle
  | some (.elem x p v) =>
    let send := fun ix val => UnitStep.go [0] [] { u with sends := u.sends ++ [(ix, val)], n1 := u.n1 + 1 }
    match mode, v with
    | .crd, _ => send u.n1 x.toNat
    | .val, some w => send u.n1 w.toNat
    | .at, some w => send p.toNat w.toNat
    | .add, some w => send p.toNat w.toNat
    | _, none => .breach (c.ins.getD 0 0) subValue 0 (.elem x p v)
  | some (.stop _) => .go [0] [] u
  | some .done => .go [0] [] { u with ended := true }

/-- FGEN (R267). -/
def stepGen (r : Run) (c : UnitCfg) (slot : Nat) (u : UnitState) : UnitStep :=
  if u.phase = 0 then
    match inputHead r c slot 0 with
    | none => .idle
    | some (.elem x p v) =>
      .go [0] [] { u with
        phase := 1, n1 := x.toNat, n2 := p.toNat, n3 := match v with | some w => w.toNat | none => 0, n4 := 0 }
    | some (.stop k) => .go [0] [(0, .stop (stopUp k))] u
    | some .done => .go [0] [(0, .done)] { u with ended := true }
  else if u.n4 < u.n3 then ranged c (u.n1 + u.n4) (u.n2 + u.n4) none [] { u with n4 := u.n4 + 1 }
  else .go [] [(0, .stop 0)] { u with phase := 0 }

/-- The side that a control element selects: 0 when its VALUE bits are all zero (R284). -/
def sideOf (v : BitVec 32) : Nat := if v = 0 then 0 else 1

/-- The level of the fibres a router moves. -/
def routerLevel (r : Run) (c : UnitCfg) : Nat := (edgeAt r (c.ins.getD 0 0)).level

/-- Move one token of a whole fibre from input `i` to output `o`; after EL the unit turns to phase `next` (R284). -/
def moveFibre (r : Run) (c : UnitCfg) (slot i o next : Nat) (u : UnitState) : UnitStep :=
  match inputHead r c slot i with
  | none => .idle
  | some .done => .breach (c.ins.getD i 0) subStructure (i % 2) .done
  | some t => .go [i] [(o, t)] (if t = .stop (Fin.ofNat 8 (routerLevel r c)) then { u with phase := next } else u)

/-- FSTEER (R284). -/
def stepSteer (r : Run) (c : UnitCfg) (slot : Nat) (u : UnitState) : UnitStep :=
  if u.phase = 0 then
    match inputHead r c slot 1 with
    | none => .idle
    | some (.elem x p v) =>
      match v with
      | none => .breach (c.ins.getD 1 0) subValue 1 (.elem x p v)
      | some w => .go [1] [] { u with phase := 1, n1 := sideOf w }
    | some (.stop _) => .go [1] [] u
    | some .done =>
      match inputHead r c slot 0 with
      | none => .idle
      | some .done => .go [0, 1] [(0, .done), (1, .done)] { u with ended := true }
      | some t => .breach (c.ins.getD 0 0) subStructure 0 t
  else moveFibre r c slot 0 u.n1 0 u

/-- FMERGE; `free` is the SIDE that R262 leaves open for a breach on its control input (log 5). -/
def stepMerge (free : Nat) (r : Run) (c : UnitCfg) (slot : Nat) (u : UnitState) : UnitStep :=
  if u.phase = 0 then
    match inputHead r c slot 2 with
    | none => .idle
    | some (.elem x p v) =>
      match v with
      | none => .breach (c.ins.getD 2 0) subValue (free % 2) (.elem x p v)
      | some w => .go [2] [] { u with phase := 1, n1 := sideOf w }
    | some (.stop _) => .go [2] [] u
    | some .done =>
      match inputHead r c slot 0 with
      | none => .idle
      | some .done => .go [0, 2] [(0, .done)] { u with ended := true }
      | some t => .breach (c.ins.getD 0 0) subStructure 0 t
  else moveFibre r c slot u.n1 0 0 u

/-- FCARRY: phase 0 at a, 1 within a fibre of a, 2 at b, 3 within a fibre of b (R284). -/
def stepCarry (r : Run) (c : UnitCfg) (slot : Nat) (u : UnitState) : UnitStep :=
  match u.phase with
  | 0 =>
    match inputHead r c slot 0 with
    | none => .idle
    | some .done => .go [0] [(0, .done)] { u with ended := true }
    | some _ => moveFibre r c slot 0 0 2 { u with phase := 1 }
  | 1 => moveFibre r c slot 0 0 2 u
  | 2 =>
    match inputHead r c slot 1 with
    | none => .idle
    | some t =>
      if t = .stop (Fin.ofNat 8 (routerLevel r c)) then .go [1] [] { u with phase := 0 }
      else moveFibre r c slot 1 0 2 { u with phase := 3 }
  | _ => moveFibre r c slot 1 0 2 u

/-- FSRC (R294, R301): a record at a time of the TOKENS beat in hand. -/
def stepSrc (port : Nat) (rx : List Beat) (u : UnitState) : UnitStep :=
  match u.pack with
  | t :: ts => .go [] [(0, t)] { u with pack := ts, ended := u.ended || t == .done }
  | [] =>
    match rx with
    | [] => .idle
    | b :: _ =>
      if u.ended then (if beatOk b && isEnd b then .move [] [] u 1 [] else .idle)
      else if !beatOk b || isData b then .fault ⟨0x102, word port, b.side.setWidth 64, []⟩
      else if isEnd b then .move [] [] u 1 []
      else .move [] [] { u with pack := (beatRecords b).map tokOf } 1 []

/-- A TOKENS beat of up to four records. -/
def tokenBeat (ts : List Tok) : Beat := mkBeat 1 (ts.flatMap fun t => leBytes 16 (tokRecord t))

/-- FSINK.port (R301). -/
def stepSinkPort (r : Run) (c : UnitCfg) (slot : Nat) (u : UnitState) : UnitStep :=
  match inputHead r c slot 0 with
  | none => .idle
  | some t =>
    let pack := u.pack ++ [t]
    match t with
    | .elem _ _ _ =>
      if pack.length = 4 then .move [0] [] { u with pack := [] } 0 [tokenBeat pack] else .go [0] [] { u with pack := pack }
    | .stop _ => .move [0] [] { u with pack := [] } 0 [tokenBeat pack]
    | .done => .move [0] [] { u with pack := [], ended := true } 0 [tokenBeat pack, endBeat]

/-- FSINK.q (R286): count elements and keep the last value. -/
def stepSinkQ (r : Run) (c : UnitCfg) (slot : Nat) (u : UnitState) : UnitStep :=
  match inputHead r c slot 0 with
  | none => .idle
  | some (.elem _ _ v) => .go [0] [] { u with count := u.count + 1, val := match v with | some w => some w | none => u.val }
  | some (.stop _) => .go [0] [] u
  | some .done => .go [0] [] { u with ended := true }

/-- FSINK.l (R286): stores by byte address. -/
def stepSinkL (r : Run) (c : UnitCfg) (slot : Nat) (mode : SinkMode) (addr : Nat) (u : UnitState) : UnitStep :=
  match inputHead r c slot 0 with
  | none => .idle
  | some t =>
    let fin := t == .done
    match mode with
    | .val =>
      match t with
      | .elem x p v =>
        match v with
        | none => .breach (c.ins.getD 0 0) subValue 0 (.elem x p v)
        | some w => .go [0] [] { u with sends := u.sends ++ [(addr + 4 * u.n1, w.toNat)], n1 := u.n1 + 1 }
      | _ => .go [0] [] { u with ended := fin }
    | .tok => .go [0] [] { u with sends := u.sends ++ [(addr + 16 * u.n1, tokRecord t)], n1 := u.n1 + 1, ended := fin }
    | .count =>
      match t with
      | .elem _ _ _ => .go [0] [] { u with count := u.count + 1 }
      | .stop _ => .go [0] [] u
      | .done => .go [0] [] { u with sends := u.sends ++ [(addr, min u.count 0xFFFFFFFF)], ended := true }

/-- The root range of a coordinate list: EXT0 of its descriptor (R276). -/
def rootCount (d : Option Desc) : Nat := match d with | some x => dimOf x 0 | none => 0

/-- The next step of a unit: `rx` is the receive queue of its port. -/
def unitStep (free : Nat) (r : Run) (c : UnitCfg) (slot : Nat) (rx : List Beat) (u : UnitState) : UnitStep :=
  if u.held.isSome then .idle
  else if u.ended && !(match c.fn with | .src _ _ => true | _ => false) then .idle
  else
    match c.fn with
    | .scan fmt root uniq n d1 _ _ => stepScan r c slot fmt root uniq n (rootCount d1) u
    | .isect => stepPair r c slot false u
    | .union => stepPair r c slot true u
    | .rep => stepRepeat r c slot u
    | .reduce op t sat rm => stepReduce r c slot op t sat rm u
    | .value _ _ => stepValue r c slot u
    | .alu op t two sat rm imm => stepAlu r c slot op t two sat rm imm u
    | .write mode _ _ _ => stepWrite r c slot mode u
    | .gen => stepGen r c slot u
    | .steer => stepSteer r c slot u
    | .merge => stepMerge free r c slot u
    | .carry => stepCarry r c slot u
    | .src p _ => stepSrc p rx u
    | .sinkPort _ => stepSinkPort r c slot u
    | .sinkQ _ _ _ => stepSinkQ r c slot u
    | .sinkL _ mode addr => stepSinkL r c slot mode addr u

/-! ### The word path (R292) -/

/-- Set bits of a word. -/
def bitCount (x : Nat) : Nat := ((List.range 64).filter fun i => x.testBit i).length

/-- The root bitmap scan that produces endpoint `f` for one consumer only, with its N. -/
def wordScanOf (cfg : List (Nat × UnitCfg)) (f : Nat) : Option (Nat × Nat) :=
  match producers cfg f, consumers cfg f with
  | [p], [_] =>
    match find? cfg p with
    | some ⟨.scan .bitmap true _ n _ _ _, _, _⟩ => some (p, n)
    | _ => none
  | _, _ => none

/-- The two scans of an intersect that takes the word path, and their N. -/
def wordPair (cfg : List (Nat × UnitCfg)) (r : Run) (c : UnitCfg) : Option (Nat × Nat × Nat) :=
  match r.plain, c.fn, c.ins with
  | false, .isect, [f, g] =>
    match wordScanOf cfg f, wordScanOf cfg g with
    | some (x, n), some (y, m) => if n = m then some (x, y, n) else none
    | _, _ => none
  | _, _, _ => none

/-- The intersect whose word path a scan serves, with its N. -/
def wordPartner (cfg : List (Nat × UnitCfg)) (r : Run) (slot : Nat) : Option (Nat × Nat) :=
  cfg.findSome? fun v => match wordPair cfg r v.2 with
    | some (x, y, n) => if x = slot ∨ y = slot then some (v.1, n) else none
    | none => none

/-- The words at place `n1` of both scans of a word path, bits at or above N ignored, if both are there. -/
def wordsOfPair (r : Run) (x y n w : Nat) : Option (Nat × Nat) :=
  match find? (unitAt r x).arr (readKey 0 w), find? (unitAt r y).arr (readKey 0 w) with
  | some a, some b => some (a % 2 ^ (min 64 (n - 64 * w)), b % 2 ^ (min 64 (n - 64 * w)))
  | _, _ => none

/-- A step of an intersect on the word path: `n1` word, `n2` next bit, `n3` and `n4` set bits of earlier words. -/
def stepWords (r : Run) (x y n : Nat) (u : UnitState) : UnitStep :=
  if u.phase = 1 then .go [] [(0, .done), (1, .done)] { u with ended := true }
  else if ceilDiv n 64 ≤ u.n1 then .go [] [(0, .stop 0), (1, .stop 0)] { u with phase := 1 }
  else
    match wordsOfPair r x y n u.n1 with
    | none => .idle
    | some (a, b) =>
      let next := { u with n1 := u.n1 + 1, n2 := 0, n3 := u.n3 + bitCount a, n4 := u.n4 + bitCount b }
      let at_ := fun (base x i : Nat) =>
        Tok.elem (BitVec.ofNat 32 (64 * u.n1 + i)) (BitVec.ofNat 32 (base + bitCount (x % 2 ^ i))) none
      match (List.range 64).filter fun i => decide (u.n2 ≤ i) && a.testBit i && b.testBit i with
      | [] => .go [] [] next
      | i :: more =>
        .go [] [(0, at_ u.n3 a i), (1, at_ u.n4 b i)] (if more.isEmpty then next else { u with n2 := i + 1 })

/-- A scan of a word path reads the word that its intersect stands at. -/
def stepWordScan (r : Run) (partner n : Nat) (u : UnitState) : UnitStep :=
  let w := (unitAt r partner).n1
  if w < ceilDiv n 64 ∧ (find? u.arr (readKey 0 w)).isNone then .read 0 w else .idle

/-- The next step of a unit in its graph: nothing once the run is killed, a step of the word path, or its own. -/
def graphStep (free : Nat) (cfg : List (Nat × UnitCfg)) (r : Run) (c : UnitCfg) (slot : Nat) (rx : List Beat)
    (u : UnitState) : UnitStep :=
  if r.killed || u.held.isSome then .idle
  else
    match wordPair cfg r c, wordPartner cfg r slot with
    | some (x, y, n), _ => if u.ended then .idle else stepWords r x y n u
    | none, some (p, n) => stepWordScan r p n u
    | none, none => unitStep free r c slot rx u

/-- A scan of a word path as an architected context keeps it: what is left of its token sequence, `base` set bits of earlier
words (R292). -/
def plainScan (n : Nat) (v : UnitState) (base : Nat) (u : UnitState) : UnitState :=
  if v.phase = 1 then { u with phase := 3, ended := v.ended }
  else
    let word := (find? u.arr (readKey 0 v.n1)).getD 0 % 2 ^ (min 64 (n - 64 * v.n1))
    { u with phase := 2, n1 := 0, n2 := v.n1, n3 := v.n2, n4 := base + bitCount (word % 2 ^ v.n2), acc := [0] }

/-- A run as an architected context keeps it: without the word path, its scans standing where it stood (R292). -/
def plainRun (cfg : List (Nat × UnitCfg)) (r : Run) : Run :=
  let r := cfg.foldl (fun r v =>
    match wordPair cfg r v.2 with
    | none => r
    | some (x, y, n) =>
      let u := unitAt r v.1
      let units := keep (keep r.units x (plainScan n u u.n3 (unitAt r x))) y (plainScan n u u.n4 (unitAt r y))
      { r with units := keep units v.1 { UnitState.blank with ended := u.ended } }) r
  { r with plain := true }

/-! ### FIBRE_UNIT_STEP (R265, R266) -/

/-- The port of an adapter. -/
def adapterPort : UnitFn → Option (Fin 8)
  | .src p _ | .sinkPort p => some (Fin.ofNat 8 p)
  | _ => none

/-- Whether every output a step writes has a free slot, and its port room for its beats (R257, R265, R295). -/
def stepRoom (t : Tile) (r : Run) (c : UnitCfg) (writes : List (Nat × Tok)) (push : List Beat) : Bool :=
  writes.all (fun w => decide ((edgeAt r (c.outs.getD w.1 32)).toks.length < 8)) &&
    match adapterPort c.fn with
    | some p => decide (t.ports[p].tx.length + push.length ≤ 8)
    | none => true

/-- Write the tokens of a step; of breaches the one of the lowest endpoint is reported (R260, R270). -/
def writeTokens (c : UnitCfg) : List (Nat × Tok) → Run → Except (Nat × Nat × Tok) Run
  | [], r => .ok r
  | (o, t) :: ws, r =>
    let f := c.outs.getD o 32
    match writeCheck (edgeAt r f) t, writeTokens c ws { r with edges := match writeCheck (edgeAt r f) t with
      | .ok e => r.edges.set f e | .error _ => r.edges } with
    | .ok _, x => x
    | .error sub, .ok _ => .error (f, sub, t)
    | .error sub, .error y => .error (if y.1 < f then y else (f, sub, t))

/-- The running graph of tile `n`: the FGO at the head of its queue, its units, and the run. -/
def runningGo (s : State) (n : Nat) : Option (QCmd × Nat × List (Nat × UnitCfg) × Run) :=
  let t := tileAt s n
  if fibreRuns t then
    match t.qFibre.head?, t.fibre.run with
    | some c, some r => match c.body with | .go seq cfg => if c.held.isNone then some (c, seq, cfg, r) else none | _ => none
    | _, _ => none
  else none

/-- Put the run of tile `n`. -/
def setRun (n : Nat) (r : Run) (s : State) : State := onTile n (fun t => { t with fibre := { t.fibre with run := some r } }) s

/-- Put the state of a unit. -/
def setUnit (slot : Nat) (u : UnitState) (r : Run) : Run := { r with units := keep r.units slot u }

/-- The receive queue of an adapter's port. -/
def adapterRx (t : Tile) (c : UnitCfg) : List Beat := match adapterPort c.fn with | some p => t.ports[p].rx | none => []

/-- A port after an adapter's step has taken `pop` beats and sent `push`. -/
def stepPort (pop : Nat) (push : List Beat) (x : Port) : Port :=
  { x with
    rx := x.rx.drop pop, tx := x.tx ++ push
    broken := x.broken.drop ((x.rx.take pop).filter isEnd).length }

/-- The fault of the END that an adapter would take next (R303). -/
def endFault (t : Tile) (c : UnitCfg) (pop : Nat) : Option TrapInfo :=
  match adapterPort c.fn with
  | some p => if ((t.ports[p].rx.take pop).any isEnd) then t.ports[p].broken.head?.bind id else none
  | none => none

/-- The next step of the unit in a slot of tile `n`'s graph. -/
def slotStep (s : State) (n : Nat) (cfg : List (Nat × UnitCfg)) (r : Run) (v : Nat × UnitCfg) : UnitStep :=
  graphStep (freeAt s (2 ^ 68)) cfg r v.2 v.1 (adapterRx (tileAt s n) v.2) (unitAt r v.1)

/-- The breach that a unit would report in this clock, with its endpoint (R260 to R262). -/
def unitBreach (s : State) (n : Nat) (cfg : List (Nat × UnitCfg)) (r : Run) (v : Nat × UnitCfg) : Option (Nat × TrapInfo) :=
  match slotStep s n cfg r v with
  | .breach ep sub side t => some (ep, breachTrap r ep v.1 sub side t)
  | .move _ writes _ pop push =>
    if (endFault (tileAt s n) v.2 pop).isNone && stepRoom (tileAt s n) r v.2 writes push then
      match writeTokens v.2 writes r with
      | .error (ep, sub, t) => some (ep, breachTrap r ep v.1 sub 0 t)
      | .ok _ => none
    else none
  | _ => none

/-- The breach reported when a unit meets breach `b`: of those that other units would report, one of a lower endpoint may
have been met in the same clock (R270; whether it was is timing, log 5). -/
def reportedBreach (s : State) (n : Nat) (cfg : List (Nat × UnitCfg)) (r : Run) (b : Nat × TrapInfo) : TrapInfo :=
  let others := cfg.filterMap fun v => (unitBreach s n cfg r v).bind fun x => if x.1 < b.1 then some x.2 else none
  (pickHit s (2 ^ 76) (b.2 :: others)).getD b.2

/-- Whether a step moves a token or a beat (R269). -/
def stepMoves (takes : List Nat) (writes : List (Nat × Tok)) (pop : Nat) (push : List Beat) : Bool :=
  !(takes.isEmpty && writes.isEmpty && pop == 0 && push.isEmpty)

/-- The run after a unit's step whose outputs have been written. -/
def stepRun (cfg : List (Nat × UnitCfg)) (c : UnitCfg) (slot : Nat) (takes : List Nat) (v : UnitState) (moved : Bool)
    (r : Run) : Run :=
  let r := setUnit slot v (takes.foldl (fun r i => takeToken cfg c slot i r) r)
  if moved then { r with still := 0 } else r

/-- A unit takes one step; a breach or a port fault holds the FGO and moves nothing (R262, R265, R294). -/
def stepUnit (n slot : Nat) (s : State) : State :=
  match runningGo s n with
  | none => s
  | some (cmd, _, cfg, r) =>
    match find? cfg slot with
    | none => s
    | some c =>
      match unitBreach s n cfg r (slot, c), slotStep s n cfg r (slot, c) with
      | some b, _ => holdCmd n .fibre cmd (.trap (reportedBreach s n cfg r b)) s
      | none, .fault t => holdCmd n .fibre cmd (.trap t) s
      | none, .move takes writes v pop push =>
        match endFault (tileAt s n) c pop, stepRoom (tileAt s n) r c writes push, writeTokens c writes r with
        | some t, _, _ => holdCmd n .fibre cmd (.trap t) s
        | none, true, .ok r1 =>
          let s := setRun n (stepRun cfg c slot takes v (stepMoves takes writes pop push) r1) s
          match adapterPort c.fn with
          | some p => onTile n (fun t => { t with ports := t.ports.set p (stepPort pop push t.ports[p]) }) s
          | none => s
        | _, _, _ => s
      | none, _ => s

/-- FIBRE_UNIT_STEP. -/
def execFibreUnitStep (tile unit : Nat) (s : State) : Host.Outcome State Fault Refusal := .next (stepUnit tile unit s)

/-! ### Reads and stores of a run (R263, R280, R282, R286, R290, R291) -/

/-- Hold a unit for service, or its FGO for a delivered fault (R291). -/
def holdUnit (n slot : Nat) (c : QCmd) (st : Stop) (s : State) : State :=
  match st with
  | .trap t => holdCmd n .fibre c (.trap t) s
  | .wait _ => s
  | .service fn kind va size fail =>
    match askService fn kind va size s with
    | none => holdCmd n .fibre c (.trap fail) s
    | some (id, s) =>
      match (tileAt s n).fibre.run with
      | some r => setRun n (setUnit slot { unitAt r slot with held := some (.service id fail) } r) s
      | none => s

/-- The byte address at which a descriptor's element `i` would lie. -/
def elemAddr (d : Desc) (bits i : Nat) : Nat := (elemByte d bits (elemOffset d [i])).1

/-- DESC_BOUNDS of an index at or above EXT0 (R291). -/
def indexBound (d : Desc) (bits i : Nat) : Except Stop Unit :=
  need (decide (i < dimOf d 0)) (.trap ⟨0x053, word (elemAddr d bits i), word d.tdi, []⟩)

/-- A stored element widened exactly to 32 bits (R58, R280). -/
def widen (f : Fmt) (raw : Nat) : Nat :=
  if f.isInt then (roundTo .s32 .rne .none 127 true (decodeNum f 127 raw)).1
  else (roundTo .f32 .rne .none 127 false (decodeNum f 127 raw)).1

/-- The descriptor that array `which` of a unit is read through, the read type, and the rounding mode. -/
def readDesc (fn : UnitFn) (which : Nat) : Option (Desc × Fmt × BitVec 2) :=
  match fn with
  | .scan _ _ _ _ d1 d2 rm =>
    match if which = 0 then d1 else d2 with
    | some d => (Fmt.ofCode d.fmt).map fun f => (d, f, rm)
    | none => none
  | .value d rm => (Fmt.ofCode d.fmt).map fun f => (d, f, rm)
  | _ => none

/-- One array element read for a unit: DESC_BOUNDS, then the tracked read (R79, R105, R290, R291). -/
def readFor (n : Nat) (cmd : QCmd) (fn : UnitFn) (which ix : Nat) (s : State) : Except Stop (State × Rep) :=
  match readDesc fn which with
  | none => .ok (s, 0, 0)
  | some (d, f, rm) => do
    indexBound d f.bits ix
    let (s, y) ← sourceElem (cmdAccess cmd .fibreRead false false) (cmdWho n cmd) d f rm [ix] s
    .ok (s, match fn with | .value _ _ => (widen f y.1, y.2) | _ => y)

/-- A scan or value read returns its data (R263, R280). -/
def readReturn (n slot : Nat) (s : State) : State :=
  match runningGo s n with
  | none => s
  | some (cmd, _, cfg, r) =>
    match find? cfg slot with
    | none => s
    | some c =>
      match graphStep (freeAt s (2 ^ 68)) cfg r c slot [] (unitAt r slot) with
      | .read which ix =>
        if mayRun s cmd then
          match readFor n cmd c.fn which ix s with
          | .error st => holdUnit n slot cmd st s
          | .ok (s, y) =>
            let u := unitAt r slot
            let old := if (wordPartner cfg r slot).isSome then [] else u.arr
            setRun n { setUnit slot { u with arr := keep old (readKey which ix) y.1 } r with
              subst := r.subst ||| y.2, still := 0 } s
        else s
      | _ => s

/-- FIBRE_SCAN_READ_RETURN. -/
def execFibreScanReadReturn (tile unit : Nat) (s : State) : Host.Outcome State Fault Refusal :=
  .next (readReturn tile unit s)

/-- The exponent of the DS8 element `i` of a destination (R77, R79). -/
def destExponent (a : Access) (w : Who) (d : Desc) (i : List Nat) (s : State) : Except Stop (State × Nat) :=
  if d.fmt = 0x0E ∧ d.esrc = true then do
    let (s, bs) ← engRead { a with write := false, claims := false, kind := .fibreRead } w d.space
      ((d.ebase + blockIndex d i) % 2 ^ 64) 1 s
    .ok (s, leNat bs)
  else .ok (s, d.efix)

/-- The store of one element by FWRITE: bounds, conversion to FMT, and the write (R89, R282, R290). -/
def writeElem (n : Nat) (cmd : QCmd) (mode : WrMode) (t : FTy) (d : Desc) (rm : BitVec 2) (i v : Nat) (s : State) :
    Except Stop (State × BitVec 3) :=
  match Fmt.ofCode d.fmt with
  | none => do
    indexBound d 8 i
    .error (.cause 0x054 (elemAddr d 8 i))
  | some f => do
    indexBound d f.bits i
    let w := cmdWho n cmd
    let ok := fun p : Option Nat => storeFormatOk p f
    let (addr, lo) := elemByte d f.bits (elemOffset d [i])
    if mode = .add then
      let s ← engUpdate (cmdAccess cmd .fibreWrite true true) w d.space ok addr (f.bits / 8)
        (fun old => (addElems f .rne .none [decodeNum f 127 old, decodeNum f 127 v]).1) s
      .ok (s, 0)
    else
      let a := cmdAccess cmd .fibreWrite true false
      let (s, e) ← destExponent a w d [i] s
      let src := if mode = .crd then Fmt.z32 else FTy.fmt t
      let y := roundTo f (RMode.ofBits rm) .none e src.isInt (decodeNum src 127 v)
      let s ← engWrite a w d.space ok addr (.ofElem f.bits lo y.1 none) s
      .ok (s, y.2)

/-- The bytes of one scratchpad sink store. -/
def sinkBytes (mode : SinkMode) : Nat := match mode with | .tok => 16 | _ => 4

/-- One store that a write unit or a scratchpad sink has sent. -/
def performSend (n : Nat) (cmd : QCmd) (fn : UnitFn) (i v : Nat) (s : State) : Except Stop (State × BitVec 3) :=
  match fn with
  | .write mode t d rm => writeElem n cmd mode t d rm i v s
  | .sinkL _ mode _ => do
    let s ← engWrite (cmdAccess cmd .fibreWrite true false) (cmdWho n cmd) .loc (fun _ => true) i
      (.whole (leBytes (sinkBytes mode) v)) s
    .ok (s, 0)
  | _ => .ok (s, 0)

/-- The oldest store of a unit is performed; stores of one unit keep their order (R282, R290). -/
def performFibre (n slot : Nat) (s : State) : State :=
  match runningGo s n with
  | none => s
  | some (cmd, _, cfg, r) =>
    match find? cfg slot with
    | none => s
    | some c =>
      let u := unitAt r slot
      match u.sends with
      | [] => s
      | (i, v) :: rest =>
        if u.held.isNone && mayRun s cmd then
          match performSend n cmd c.fn i v s with
          | .error st => holdUnit n slot cmd st s
          | .ok (s, flags) => setRun n { setUnit slot { u with sends := rest } r with subst := r.subst ||| flags, still := 0 } s
        else s

/-! ### The stall watchdog (R269) -/

/-- Whether a unit's next step is open to it: a read that has not come back and a store that has not been performed are no
movement yet. -/
def unitMoves (s : State) (n : Nat) (cfg : List (Nat × UnitCfg)) (r : Run) (u : Nat × UnitCfg) : Bool :=
  match slotStep s n cfg r u with
  | .idle | .read _ _ => false
  | .breach _ _ _ _ | .fault _ => true
  | .move _ writes _ _ push => stepRoom (tileAt s n) r u.2 writes push

/-- Whether a unit has a step that waits only for output space. -/
def waitsForRoom (s : State) (n : Nat) (cfg : List (Nat × UnitCfg)) (r : Run) (u : Nat × UnitCfg) : Bool :=
  match slotStep s n cfg r u with
  | .move _ writes _ _ push => !stepRoom (tileAt s n) r u.2 writes push
  | _ => false

/-- The information words of FIBRE_STALL (R269). -/
def stallTrap (s : State) (n : Nat) (cfg : List (Nat × UnitCfg)) (r : Run) : TrapInfo :=
  let mask := fun (p : Nat → Bool) (l : List Nat) => l.foldl (fun m i => if p i then Nat.lor m (2 ^ i) else m) 0
  let holding := mask (fun f => !(edgeAt r f).toks.isEmpty) (List.range 32)
  let full := mask (fun f => decide (8 ≤ (edgeAt r f).toks.length)) (List.range 32)
  let blocked := (cfg.filter (waitsForRoom s n cfg r)).map fun u => unitNo u.1
  ⟨0x0C9, word (holding + full * 2 ^ 32), word (mask (fun _ => true) blocked), []⟩

/-- The no-movement count has reached 2^20 with the graph unfinished, no unit has a step open to it, and nothing that pauses
the count holds (R269). -/
def stallExpiry (n : Nat) (s : State) : State :=
  match runningGo s n with
  | none => s
  | some (cmd, _, cfg, r) =>
    let paused := cfg.any fun u => (unitAt r u.1).held.isSome || waitsStopped s cmd.owner (tileAt s n) u.2.fn
    if decide (r.still < 2 ^ 20) || paused || r.killed || cfg.any (unitMoves s n cfg r) then s
    else holdCmd n .fibre cmd (.trap (stallTrap s n cfg r)) s

/-- FIBRE_STALL_EXPIRY. -/
def execFibreStallExpiry (tile : Nat) (s : State) : Host.Outcome State Fault Refusal := .next (stallExpiry tile s)

/-! ### Start, end and kill (R274, R287 to R289) -/

/-- A configuration command takes effect and finishes at the head of the queue (R274). -/
def configApply (n : Nat) (s : State) : State :=
  match (if fibreRuns (tileAt s n) then liveHead s n .fibre else none) with
  | some c =>
    match c.body with
    | .config slot x =>
      let s := popCmd n .fibre s
      if (tileAt s n).owner = some c.owner then
        onTile n (fun t => { t with fibre := { t.fibre with units := keep t.fibre.units slot x } }) s
      else s
    | _ => s
  | none => s

/-- FIBRE_CONFIG_APPLY. -/
def execFibreConfigApply (tile : Nat) (s : State) : Host.Outcome State Fault Refusal := .next (configApply tile s)

/-- A run starts: every edge empty, the grammar reset, every counter at 0 (R260, R287). -/
def runStart (n : Nat) (s : State) : State :=
  match (if fibreRuns (tileAt s n) then liveHead s n .fibre else none), (tileAt s n).fibre.run with
  | some c, none =>
    match c.body with
    | .go seq cfg =>
      let lv := levelsOf cfg
      let r : Run := ⟨seq, (List.range 32).map fun f => Edge.start ((levelAt lv f).getD 0),
        cfg.map fun u => (u.1, UnitState.blank), 0, 0, false, false⟩
      setRun n r (onCmd n .fibre c.owner c.seq (fun x => { x with started := true }) s)
    | _ => s
  | _, _ => s

/-- GRAPH_RUN_START. -/
def execGraphRunStart (tile : Nat) (s : State) : Host.Outcome State Fault Refusal := .next (runStart tile s)

/-- The entry of a queue-mode sink (R286). -/
def sinkEntry (ep : Nat) (count : Bool) (u : UnitState) : Nat :=
  2 ^ 60 + ep * 2 ^ 55 + (if count then min u.count 0xFFFFFFFF
    else min u.count 0xFFFFFFFF % 2 ^ 16 * 2 ^ 32 + (match u.val with | some v => v.toNat | none => 0))

/-- Post the entries of a run's queue-mode sinks. -/
def postSinks (n : Nat) (k : StrandKey) (r : Run) (cfg : List (Nat × UnitCfg)) (s : State) : State :=
  cfg.foldl (fun s u =>
    match u.2.fn with
    | .sinkQ _ q count => postReply n k (some q) (sinkEntry (u.2.ins.getD 0 0) count (unitAt r u.1)) s
    | _ => s) s

/-- SUBST bits that the units of a run have set (R55, R279). -/
def runSubst (r : Run) (cfg : List (Nat × UnitCfg)) : BitVec 3 :=
  cfg.foldl (fun b u =>
    match u.2.fn with
    | .reduce _ _ _ _ | .alu _ _ _ _ _ _ => b ||| BitVec.ofNat 3 (unitAt r u.1).n4
    | _ => b) r.subst

/-- A run of tile `n` ends without finishing normally: the SUBST bits of its units are set, and its sinks post nothing
(R270, R279, R288, R289). -/
def failGo (n : Nat) (c : QCmd) (seq cause : Nat) (cfg : List (Nat × UnitCfg)) (killed : Bool) (s : State) : State :=
  failRun n c seq cause cfg killed
    (match (tileAt s n).fibre.run with | some r => cmdSubst n c (runSubst r cfg) s | none => s)

/-- Whether no unit of a run has a store still to be performed. -/
def sendsDone (r : Run) (cfg : List (Nat × UnitCfg)) : Bool := cfg.all fun u => (unitAt r u.1).sends.isEmpty

/-- A run finishes when every FWRITE and FSINK has taken its D and no store is still to be performed: the sinks' entries
are posted, then the completion entry (R288). A killed run finishes with its last store (R289). -/
def runFinish (n : Nat) (s : State) : State :=
  match runningGo s n with
  | some (c, seq, cfg, r) =>
    if !sendsDone r cfg then s
    else if r.killed then failGo n c seq 0 cfg true s
    else if cfg.all fun u => !isSink u.2.fn || (unitAt r u.1).ended then
      endRun n c (goEntry seq 0 false false) (postSinks n c.owner r cfg (cmdSubst n c (runSubst r cfg) s))
    else s
  | none => s

/-- GRAPH_RUN_FINISH. -/
def execGraphRunFinish (tile : Nat) (s : State) : Host.Outcome State Fault Refusal := .next (runFinish tile s)

/-- A resumed strand of tile `n` finds the FGO that a delivered fault had stopped finished, with FAIL and the cause (R270,
R291). -/
def finishHeldGo (n : Nat) (s : State) : State :=
  match (tileAt s n).qFibre.head? with
  | some c =>
    match c.body, c.held with
    | .go seq cfg, some (.delivered f) =>
      if (tileAt s n).owner = some c.owner then failGo n c seq f.cause cfg false s else s
    | _, _ => s
  | none => s

/-- Perform `k` stores of a unit, as far as that goes now. -/
def performSends (n slot : Nat) : Nat → State → State
  | 0, s => s
  | k + 1, s => performSends n slot k (performFibre n slot s)

/-- A run that is being killed: no unit moves any more, and reads that have not come back are dropped (R289). -/
def killedRun (r : Run) : Run :=
  { r with
    killed := true
    units := r.units.map fun u => (u.1, { u.2 with arr := [], held := if u.2.sends.isEmpty then none else u.2.held }) }

/-- FKILL of the running graph of the strand in focus: writes already sent are performed, and it finishes with the last of
them (R289). -/
def killRun (s : State) : State :=
  match runningGo s s.tileNo with
  | some (c, _, cfg, r) =>
    if c.owner = me s then
      runFinish s.tileNo (cfg.foldl (fun s u => performSends s.tileNo u.1 (unitAt r u.1).sends.length s)
        (setRun s.tileNo (killedRun r) s))
    else s
  | none => s

/-- FKILL (R289). -/
def execFkill (s : State) : Host.Outcome State Fault Refusal := finish s (.ok (killRun s))

/-- FKILL.clear (R289). -/
def execFkillClear (s : State) : Host.Outcome State Fault Refusal :=
  finish s (.ok (onFocus (fun t => { t with fibre := { t.fibre with units := [], plan := [] } })
    (discardFibre s.tileNo (me s) (killRun s))))

end Sys2Proof.Machine
end

