-- ==== Sys2Proof/Machine/Ports.lean ====
section
/-!
DEFINITION. The port instructions PORTB, PORTW, PORTR and PORTQ (R39, R294 to R300).
-/

namespace Sys2Proof.Machine

open Sys2Proof

/-! ### Bindings -/

/-- Put port `p` of the tile in focus. -/
def setPort (p : Fin 8) (x : Port) (s : State) : State := onFocus (fun t => { t with ports := t.ports.set p x }) s

/-- Whether a tile's port other than `p` has a binding. -/
def portHolds (t : Tile) (except : Option (Fin 8)) (b : Nat × Nat) : Bool :=
  (List.finRange 8).any fun i => some i != except && t.ports[i].binding == some b

/-- The tiles of the other members of a strand's gang, running or saved. -/
def peerTiles (s : State) (k : StrandKey) : List Tile :=
  let on := (gangOf s k).members.filterMap fun m =>
    match m with
    | .on n => if n = s.tileNo then none else some (tileAt s n)
    | _ => none
  on ++ (s.dev.saved.filter fun x => insideScope .gang k x.key && x.key != k).map fun x => tileAt s x.home

/-- Whether a region port is bound to another tile port of the gang (R297). -/
def boundElsewhere (s : State) (p : Fin 8) (b : Nat × Nat) : Bool :=
  portHolds s.tile (some p) b || (peerTiles s (me s)).any fun t => portHolds t none b

/-- Every beat in the outbound queue has been accepted (R297). -/
def portQuiet (s : State) (p : Fin 8) : Except Stop Unit := need s.tile.ports[p].tx.isEmpty (.wait (.portEmpty p))

/-- PORTB (R297). -/
def execPortb (p : Fin 8) (region : Fin 16) (rport : Fin 8) (s : State) : Host.Outcome State Fault Refusal :=
  finish s do
    let bad := fun (n : Nat) => Stop.trap ⟨0x100, word region.val, word n, []⟩
    need (decide (region.val < (gangOf s (me s)).regions.length)) (bad 0)
    match manPort s (me s) region.val rport.val with
    | some m => need (m.role == roleTile) (bad 2)
    | none => .error (bad 2)
    need (!boundElsewhere s p (region.val, rport.val)) (bad 1)
    portQuiet s p
    .ok (setPort p { s.tile.ports[p] with binding := some (region.val, rport.val) } s)

/-- PORTB.u (R297). -/
def execPortbU (p : Fin 8) (s : State) : Host.Outcome State Fault Refusal :=
  finish s do
    portQuiet s p
    .ok (setPort p { s.tile.ports[p] with binding := none } s)

/-! ### PORTW, PORTR and PORTQ -/

/-- A port whose adapter is configured for the direction raises FIBRE_CONFIG, an unbound one PORT_UNBOUND (R296). -/
def checkPort (s : State) (p : Fin 8) (slot : Nat) : Except Stop Unit := do
  need (find? s.tile.fibre.plan slot).isNone (.cause 0x0CA (42 + p.val))
  need s.tile.ports[p].binding.isSome (.cause 0x100 p.val)

/-- The beats of a vector register (R298). -/
def vecBeats (v : VecWord) (tok : Bool) : List Beat := mkBeats (if tok then 1 else 0) (vlb / 64) (vecBytes v)

/-- PORTW (R298). -/
def execPortw (p : Fin 8) (a : VReg) (tok fin : Bool) (s : State) : Host.Outcome State Fault Refusal :=
  finish s do
    useBanks s [a]
    checkPort s p (sinkSlot p.val)
    let body := vecBeats (getV s a) tok
    match body.find? fun b => !beatOk b with
    | some b => .error (.trap ⟨0x102, word p.val, b.side.setWidth 64, []⟩)
    | none =>
      let beats := body ++ if fin then [endBeat] else []
      let x := s.tile.ports[p]
      need (decide (x.tx.length + beats.length ≤ 8)) (.wait (.portRoom p beats.length))
      .ok (setPort p { x with tx := x.tx ++ beats } s)

/-- The longest run at the head of a receive queue that is all DATA or all TOKENS, at most `n` beats (R299). -/
def beatRun (tok : Bool) : Nat → List Beat → List Beat
  | 0, _ => []
  | _, [] => []
  | n + 1, b :: bs => if (if tok then isTokens b else isData b) then b :: beatRun tok n bs else []

/-- What PORTR takes: the run, and whether an END follows (R299). -/
def portTake (rx : List Beat) : List Beat × Bool × List Beat :=
  let run :=
    match rx with
    | b :: _ => if isTokens b then beatRun true (vlb / 64) rx else if isData b then beatRun false (vlb / 64) rx else []
    | [] => []
  match rx.drop run.length with
  | b :: _ => if isEnd b then (run, true, [b]) else if run.isEmpty then (run, false, [b]) else (run, false, [])
  | [] => (run, false, [])

/-- PORTR (R294, R299). -/
def execPortr (p : Fin 8) (d : SReg) (c : VReg) (s : State) : Host.Outcome State Fault Refusal :=
  finish s do
    useBanks s [c]
    checkPort s p (srcSlot p.val)
    let x := s.tile.ports[p]
    let (run, fin, met) := portTake x.rx
    match (run ++ met).find? fun b => !beatOk b with
    | some b => .error (.trap ⟨0x102, word p.val, b.side.setWidth 64, []⟩)
    | none =>
      let broke : Option TrapInfo := if fin then x.broken.head?.bind id else none
      match broke with
      | some t => .error (.trap t)
      | none =>
      let bytes := run.flatMap beatBytes
      let tok := run.any isTokens
      let s := setPort p { x with rx := x.rx.drop (run.length + if fin then 1 else 0), broken := if fin then x.broken.tail else x.broken } s
      let s := if run.isEmpty then s else setV c (bytesVec bytes) s
      .ok (setS d (word (bytes.length + (if tok then 2 ^ 62 else 0) + if fin then 2 ^ 63 else 0)) s)

/-- PORTQ (R300). -/
def execPortq (p : Fin 8) (d : SReg) (s : State) : Host.Outcome State Fault Refusal :=
  let x := s.tile.ports[p]
  let b := match x.binding with | some (i, j) => 2 ^ 24 + i * 2 ^ 25 + j * 2 ^ 29 | none => 0
  finish s (.ok (setS d (word (x.rx.length + (if x.rx.any isEnd then 2 ^ 8 else 0) + (8 - x.tx.length) * 2 ^ 16 + b)) s))

end Sys2Proof.Machine
end

