-- ==== Sys2Proof/Machine/Context.lean ====
section
/-!
DEFINITION. CTXSAVE and CTXLOAD (R183, R184), the record of an architected context (R379 to R384) and its sealing (R385
to R387, R420, R421).
-/

namespace Sys2Proof.Config

open Sys2Proof.Machine

/-! What R380 leaves open of sections 7 to 11: it gives each section its records and their sizes, and not how a record holds
its contents. What bytes stand for is kept with them when they are saved (`Dev.contexts`), and is open for others (log 12). -/

/-- The 64 bytes of an entry of the private descriptor window. -/
opaque windowRecord : Option PrivDesc → List Byte
/-- The 32 bytes of a ring. -/
opaque ringRecord : Option Ring → List Byte
/-- The 8 bytes of a port's binding. -/
opaque bindingBytes : Option (Nat × Nat) → List Byte
/-- The 8 bytes of a beat slot beside its data: the side-band, and whether the slot is used. -/
opaque slotBytes : Option (BitVec 8) → List Byte
/-- How many of those bytes stand before the data. -/
opaque slotPlace : Nat
/-- The 32 bytes of a queue header: the engine, commands issued so far, and the queue. -/
opaque queueHeader : Nat → Nat → List QCmd → List Byte
/-- The 128 bytes of a command. -/
opaque commandRecord : QCmd → List Byte
/-- The pass cursor of a matrix command: pass, run, replays. -/
opaque cursorBytes : Nat → Nat → Nat → List Byte
/-- The 256 bytes of a fibre unit's record: its configurations and its states in the run. -/
opaque unitRecord : List UnitCfg → List UnitState → List Byte
/-- The 32 bytes of an endpoint's record beside its tokens: producers, consumers, and the edge with the take state. -/
opaque endpointHead : List Nat → List (Nat × Nat) → Edge → List Byte
/-- How many of those bytes stand before the tokens. -/
opaque tokenPlace : Nat
/-- What bytes of sections 7 to 11 mean that no CTXSAVE has written. -/
opaque openOf : List Byte → Option OpenParts

end Sys2Proof.Config

namespace Sys2Proof.Machine

open Sys2Proof

/-! ### Sections (R380) -/

/-- Bytes cut or filled with zeros to a length. -/
def padTo (n : Nat) (bs : List Byte) : List Byte := bs.take n ++ List.replicate (n - bs.length) 0

/-- Words of eight bytes. -/
def wordsBytes (l : List Nat) : List Byte := l.flatMap (leBytes 8)

/-- The little-endian field of `n` bytes at an offset of a byte string. -/
def fieldAt (bs : List Byte) (off n : Nat) : Nat := leNat ((bs.drop off).take n)

/-- SCALAR, with S0 and, for a CTXSAVE, its destination as zero (R183, R380). -/
def scalarSection (t : Tile) (d : SReg) : List Byte :=
  wordsBytes ((List.finRange 64).map fun (i : Fin 64) => if i = 0 ∨ i = d then 0 else t.seq.s[i].toNat)

/-- CONTROL (R380). -/
def controlSection (t : Tile) : List Byte :=
  let q := t.seq
  padTo 256 (wordsBytes [q.round.toNat, q.ufthr.toNat, q.subst.toNat, q.ufcount.toNat, q.vbank.toNat, q.cycle.toNat,
    q.vl, t.chLoad.readMark, t.chLoad.visMark, t.chStore.readMark, t.chStore.visMark, t.chAcc.readMark, t.chAcc.visMark,
    t.chLoad.last, t.chStore.last, t.chAcc.last, q.collSeq, q.fgoSeq])

/-- PRED. -/
def predSection (t : Tile) : List Byte :=
  (List.finRange 16).flatMap fun (i : Fin 16) => leBytes 32 (if i = 0 then (BitVec.allOnes 256).toNat else t.seq.p[i].toNat)

/-- VECTOR: a gated bank is written as zero (R121). -/
def vectorSection (t : Tile) : List Byte :=
  (List.finRange 64).flatMap fun (i : Fin 64) => leBytes 256 (if bankState t.seq.vbank (bankOf i) = 2 then 0 else t.seq.v[i].toNat)

/-- REPLY. -/
def replySection (t : Tile) : List Byte :=
  (List.finRange 4).flatMap fun (i : Fin 4) =>
    let r := t.replies[i]
    padTo 144 (wordsBytes (r.entries.length :: r.reserved :: r.entries.map (·.toNat)))

/-- A held copy is saved unstarted; a matrix command keeps its cursor (R29, R228, R252). -/
def unstart (c : QCmd) : QCmd :=
  match c.body with
  | .copy _ | .acc _ => { c with started := false, rd := 0, wr := 0, buf := [], beats := [], pass := 0, flags := 0 }
  | .coll _ => { c with started := false }
  | .mma _ => { c with droop := false }
  | .mzero _ _ _ _ | .mscale _ _ _ _ _ _ _ _ | .config _ _ | .go _ _ => c

/-- The queue of engine `e` as an architected context keeps it: a held copy in flight stands at its head again (R29). -/
def contextQueue (t : Tile) (e : Eng) : List QCmd := (flightOf t e ++ engQueue t e).map unstart

/-- The fibre engine as an architected context keeps it: a run stands at a step boundary, without the word path (R271,
R292). -/
def contextFibre (t : Tile) : Fibre :=
  match t.qFibre.head?, t.fibre.run with
  | some c, some r => match c.body with | .go _ cfg => { t.fibre with run := some (plainRun cfg r) } | _ => t.fibre
  | _, _ => t.fibre

/-- The strand's part of the engines: its commands, held or queued. -/
def engineSection (t : Tile) (k : StrandKey) : EngineSection where
  queues := [.load, .store, .matrix, .fibre].map fun e => (contextQueue t e).filter fun c => c.owner == k
  issued := t.issued.toList
  accSeq := t.accSeq
  collCounts := t.collCounts
  collGain := t.collGain

/-- What R239 and R252 keep of a matrix command: its captured register operands, then its pass cursor. -/
def operandCopies (c : QCmd) : List Byte :=
  let regs := fun o : Operand => match o with | .regs bytes => bytes | .pad _ _ _ _ => []
  match c.body with
  | .mma x => regs x.a ++ regs x.b ++ Config.cursorBytes c.pass c.run c.replays
  | _ => []

/-- Length of the ENGINES section (R380). -/
def engineLength (e : EngineSection) : Nat := 128 + 128 * e.queues.flatten.length + (e.queues.flatten.flatMap operandCopies).length

/-- ENGINES: four headers, the commands, the operand copies and cursors (R380). -/
def engineBytes (e : EngineSection) : List Byte :=
  (List.range 4).flatMap (fun i => padTo 32 (Config.queueHeader i (e.issued.getD i 0) (e.queues.getD i []))) ++
    e.queues.flatten.flatMap (fun c => padTo 128 (Config.commandRecord c)) ++ e.queues.flatten.flatMap operandCopies

/-- A record of `n` bytes of which `data` is a part, `p` of the others standing before it. -/
def around (n p : Nat) (others data : List Byte) : List Byte :=
  let x := padTo (n - data.length) others
  let p := p % (n - data.length + 1)
  x.take p ++ data ++ x.drop p

/-- A beat slot of 72 bytes (R380). -/
def beatSlot (b : Option Beat) : List Byte :=
  around 72 Config.slotPlace (Config.slotBytes (b.map (·.side))) (leBytes 64 (match b with | some b => b.data.toNat | none => 0))

/-- A port's binding, then its outbound and its receive queue as 24 slots (R380). -/
def portRecord (p : Port) : List Byte :=
  padTo 8 (Config.bindingBytes p.binding) ++ (List.range 8).flatMap (fun i => beatSlot p.tx[i]?) ++
    (List.range 16).flatMap fun i => beatSlot p.rx[i]?

/-- An endpoint's record of 160 bytes: its tokens are records of R258, in order (R271, R380). -/
def endpointRecord (cfg : List (Nat × UnitCfg)) (f : Nat) (e : Edge) : List Byte :=
  around 160 Config.tokenPlace (Config.endpointHead (producers cfg f) (consumers cfg f) e)
    (padTo 128 (e.toks.flatMap fun t => leBytes 16 (tokRecord t.tok)))

/-- FIBRE: 50 unit records, then 32 endpoint records, by unit number and by endpoint name (R380). -/
def fibreBytes (x : Fibre) : List Byte :=
  let states := match x.run with | some r => r.units | none => []
  (List.range 50).flatMap (fun u => padTo 256 (Config.unitRecord
    ((x.units.filter fun c => unitNo c.1 == u).map (·.2)) ((states.filter fun c => unitNo c.1 == u).map (·.2)))) ++
    (List.range 32).flatMap fun f => endpointRecord x.units f (match x.run with | some r => edgeAt r f | none => Edge.start 0)

/-- The sections of a tile's context in ascending KIND (R380): `d` is the CTXSAVE's destination, the extents are those of
the scratchpad and the accumulator store, `faults` the records of faults held and not delivered. -/
def sectionsOf (t : Tile) (k : StrandKey) (d : SReg) (base len rows : Nat) (faults : List Byte) : List (List Byte) :=
  let e := engineSection t k
  [scalarSection t d, controlSection t, predSection t, vectorSection t, replySection t,
   t.seq.tables.flatMap (fun x => leBytes 2 x.toNat),
   padTo 4096 (t.window.toList.flatMap fun w => padTo 64 (Config.windowRecord w)),
   padTo 256 (t.rings.toList.flatMap fun r => padTo 32 (Config.ringRecord r)),
   padTo 13888 (t.ports.toList.flatMap portRecord), padTo (engineLength e) (engineBytes e),
   padTo 17920 (fibreBytes (contextFibre t)), t.pad.readBytes base len, t.accum.readBytes 0 (1024 * rows),
   padTo 512 faults]

/-- The bytes of sections 7 to 11. -/
def openBytes (sections : List (List Byte)) : List Byte := ((sections.drop 6).take 5).flatten

/-- What stands behind sections 7 to 11 of strand `k`'s context. -/
def openState (t : Tile) (k : StrandKey) : OpenParts :=
  ⟨t.window.toList, t.rings.toList, t.ports.toList, engineSection t k, contextFibre t⟩

/-- Keep what the open sections of a context stand for (log 12). -/
def keepContext (bytes : List Byte) (o : OpenParts) (s : State) : State :=
  onDev (fun d => { d with contexts := (bytes, o) :: d.contexts.filter fun c => c.1 != bytes }) s

/-- The next multiple of 64. -/
def alignUp (n : Nat) : Nat := ceilDiv n 64 * 64

/-- Offsets of sections placed one after another at multiples of 64 (R379). -/
def placeSections : Nat → List (List Byte) → List (Nat × List Byte)
  | _, [] => []
  | off, b :: bs => (off, b) :: placeSections (alignUp (off + b.length)) bs

/-- The bytes of placed sections from `off` on, zero between them. -/
def bodyBytes : Nat → List (Nat × List Byte) → List Byte
  | _, [] => []
  | off, (o, b) :: l => List.replicate (o - off) 0 ++ b ++ bodyBytes (o + b.length) l

/-! ### The header (R379) -/

/-- A directory entry. -/
def dirEntry (off len kind : Nat) : List Byte := leBytes 4 off ++ leBytes 4 len ++ leBytes 2 kind ++ List.replicate 6 0

/-- The directory of placed sections, kinds from `k` on. -/
def dirEntries : Nat → List (Nat × List Byte) → List Byte
  | _, [] => []
  | k, (o, b) :: l => dirEntry o b.length k ++ dirEntries (k + 1) l

/-- What the header of a context says besides its directory. -/
structure CtxHead where
  flags : Nat
  slot : Nat
  ctxid : Nat
  counter : Nat
  resume : Nat
  base : Nat
  len : Nat
  rows : Nat

/-- The header of 1,024 bytes (R379). -/
def headerBytes (h : CtxHead) (t : Tile) (length : Nat) (places : List (Nat × List Byte)) : List Byte :=
  let live := t.seq.live.flatMap fun e => leBytes 4 (e.1 % 2 ^ 16) ++ leBytes 4 e.2
  padTo 0x100
    (leBytes 4 0x58544353 ++ leBytes 2 1 ++ leBytes 2 h.flags ++ leBytes 4 (Config.sviVersion) ++ leBytes 2 vlb ++
     leBytes 1 h.slot ++ leBytes 1 t.seq.live.length ++ leBytes 4 h.ctxid ++ leBytes 4 0 ++ leBytes 8 h.counter ++
     leBytes 8 length ++ leBytes 8 h.resume ++ leBytes 4 h.base ++ leBytes 4 h.len ++ leBytes 2 h.rows ++ leBytes 6 0 ++
     leBytes 4 Config.rev) ++ padTo 0x200 live ++ padTo 0x100 (dirEntries 1 places)

/-- Length of a record with these sections. -/
def recordLength (places : List (Nat × List Byte)) : Nat :=
  match places.getLast? with
  | some (o, b) => o + b.length + 16
  | none => 0x410

/-- A whole record; `key` and its slot's values seal it (R386). -/
def recordBytes (t : Tile) (h : CtxHead) (key : Option (List Byte)) (sections : List (List Byte)) : List Byte :=
  let places := placeSections 0x400 sections
  let head := headerBytes h t (recordLength places) places
  let body := bodyBytes 0x400 places
  match key with
  | none => head ++ body ++ List.replicate 16 0
  | some x =>
    let iv := leBytes 4 h.ctxid ++ leBytes 8 h.counter
    let ct := gcmCrypt x iv body
    head ++ ct ++ gcmTag x iv head ct

/-! ### Key slots (R385) -/

/-- The key and CTXID of a slot of a function; a slot whose counter has reached 2^64 - 1 counts as empty (R183). -/
def keyOf (s : State) (fn slot : Nat) : Option (List Byte × Nat) :=
  if look 0 (fnRegs s fn).counters slot = 2 ^ 64 - 1 then none else find? (fnRegs s fn).keys slot

/-! ### CTXSAVE (R183) -/

/-- The descriptor of an image: global, one-dimensional, Z8, stride 1 (R183, R184). -/
def imageDesc (s : State) (tdi rights : Nat) : Except Stop Desc := do
  let d ← getDesc s tdi
  needRights d tdi rights
  need (d.space == .glob && d.ndim == 1 && d.fmt == 0x04 && d.stride.getD 0 0 == 1) (.cause 0x053 tdi)
  .ok d

/-- The engines of strand `k` are at rest: matrix and copy commands have completed, but for those that a fault holds and
those behind them (R29). -/
def atRest (t : Tile) (k : StrandKey) : Bool :=
  [Eng.load, Eng.store, Eng.matrix].all (fun e =>
    !((engQueue t e).any fun c => c.owner == k) ||
      match (engQueue t e).head? with
      | some c => c.owner == k && (c.held.isSome || (stalled t e && !c.started))
      | none => true) &&
    !(t.flight.any fun c => c.owner == k && c.held.isNone)

/-- The operand checks of CTXSAVE. -/
def checkExtents (x y z : Nat) : Except Stop Unit := do
  need (decide (x + y ≤ 0x200000)) (.cause 0x048 (max x 0x200000))
  need (x % 32 == 0) (.cause 0x04A x)
  need (y % 32 == 0) (.cause 0x04A y)
  need (decide (z ≤ 256)) (.cause 0x0C0 0)

/-- Write the bytes of an image as stores of the strand (R183). -/
def imageWrite (addr : Nat) (bytes : List Byte) (s : State) : Except Stop State :=
  engWrite (strandAccess s .store true false) (self s) .glob (fun p => storeFormatOk p .z8) addr (.whole bytes) s

/-- The tile once its engines have come to rest with no command held: the fibre commands are left (R29, R183). -/
def restTile (t : Tile) : Tile := { t with qLoad := [], qStore := [], qMatrix := [], flight := [] }

/-- CTXSAVE. The extent is compared with the size that the image will have when the engines have come to rest, and again
with its size then, which a command held for service adds to (R183). -/
def execCtxsave (d a b c : SReg) (tdi : BitVec 16) (sealed : Bool) (slot : Fin 64) (s : State) :
    Host.Outcome State Fault Refusal :=
  finish s do
    let x := (getS s a).toNat
    let y := (getS s b).toNat
    let z := (getS s c).toNat
    checkExtents x y z
    let e ← imageDesc s tdi.toNat rightWrite
    let k := me s
    let fn := (taskOf s k).fn
    need (decide (recordLength (placeSections 0x400 (sectionsOf (restTile s.tile) k d x y z [])) ≤ dimOf e 0))
      (.cause 0x053 tdi.toNat)
    checkRegion s e
    let key := if sealed then keyOf s fn slot.val else none
    need (!sealed || key.isSome) (.cause 0x187 slot.val)
    need (atRest s.tile k) (.wait .rest)
    let sections := sectionsOf s.tile k d x y z []
    let n := recordLength (placeSections 0x400 sections)
    need (decide (n ≤ dimOf e 0)) (.cause 0x053 tdi.toNat)
    let count := look 0 (fnRegs s fn).counters slot.val + 1
    let h : CtxHead := {
      flags := (if sealed then 1 else 0) + if s.tile.seq.liveOverflow then 8 else 0, slot := if sealed then slot.val else 0,
      ctxid := match key with | some (_, i) => i | none => 0, counter := if sealed then count else 0,
      resume := (getPc s + 8).toNat, base := x, len := y, rows := z }
    let t := if sealed then onFn fn (fun r => { r with counters := keep r.counters slot.val count }) s else s
    let t ← imageWrite (elemAddr e 8 0) (recordBytes s.tile h (key.map (·.1)) sections) (useDesc tdi.toNat t)
    .ok (setS d (word n) (keepContext (openBytes sections) (openState s.tile k) t))

/-! ### CTXLOAD (R184, R379-R387) -/

/-- CONTEXT_INVALID. -/
def ctxInvalid : Stop := .cause 0x184 0

/-- FEATURE_ABSENT. -/
def featureAbsent (id : Nat) : Stop := .cause 0x18A id

/-- Field readers of a header. -/
def headFlags (h : List Byte) : Nat := fieldAt h 0x006 2
/-- VLB. -/
def headVlb (h : List Byte) : Nat := fieldAt h 0x00C 2
/-- NLIVE. -/
def headLive (h : List Byte) : Nat := fieldAt h 0x00F 1
/-- COUNTER. -/
def headCounter (h : List Byte) : Nat := fieldAt h 0x018 8
/-- LENGTH. -/
def headLength (h : List Byte) : Nat := fieldAt h 0x020 8
/-- RESUME. -/
def headResume (h : List Byte) : Nat := fieldAt h 0x028 8
/-- SPBASE. -/
def headBase (h : List Byte) : Nat := fieldAt h 0x030 4
/-- SPLEN. -/
def headLen (h : List Byte) : Nat := fieldAt h 0x034 4
/-- ACCROWS. -/
def headRows (h : List Byte) : Nat := fieldAt h 0x038 2
/-- Offset of section `k`. -/
def dirOff (h : List Byte) (k : Nat) : Nat := fieldAt h (0x300 + 16 * (k - 1)) 4
/-- Length of section `k`. -/
def dirLen (h : List Byte) (k : Nat) : Nat := fieldAt h (0x300 + 16 * (k - 1) + 4) 4
/-- LIVE entry `i`. -/
def liveEntry (h : List Byte) (i : Nat) : Nat × Nat := (fieldAt h (0x100 + 8 * i) 2, fieldAt h (0x100 + 8 * i + 4) 4)

/-- The length that a header implies for section `k`; none for ENGINES (R380, R383). -/
def sectionLength (h : List Byte) (k : Nat) : Option Nat :=
  match k with
  | 1 => some 512
  | 2 => some 256
  | 3 => some (2 * headVlb h)
  | 4 => some (64 * headVlb h)
  | 5 => some 576
  | 6 => some 1024
  | 7 => some 4096
  | 8 => some 256
  | 9 => some 13888
  | 10 => none
  | 11 => some 17920
  | 12 => some (headLen h)
  | 13 => some (1024 * headRows h)
  | _ => some 512

/-- The directory obeys R380 and R383: 14 sections in ascending KIND, each of its length, and nothing behind them. -/
def directoryOk (h : List Byte) : Bool :=
  (List.range 14).all (fun i =>
    let k := i + 1
    fieldAt h (0x300 + 16 * i + 8) 2 == k && fieldAt h (0x300 + 16 * i + 10) 6 == 0 &&
      (match sectionLength h k with | some n => dirLen h k == n | none => decide (128 ≤ dirLen h k))) &&
    fieldAt h 0x3E0 32 == 0

/-- What else R379 and R380 say of a record, which is judged with the section contents (R383, R421): sections one after
another at multiples of 64 before the trailer, at most 64 liveness entries and 256 accumulator rows. -/
def layoutOk (h : List Byte) : Bool :=
  decide (headLive h ≤ 64 ∧ headRows h ≤ 256) &&
    (List.range 14).all fun i =>
      let k := i + 1
      dirOff h k % 64 == 0 && decide (0x400 ≤ dirOff h k ∧ dirOff h k + dirLen h k + 16 ≤ headLength h) &&
        (i == 0 || decide (dirOff h (k - 1) + dirLen h (k - 1) ≤ dirOff h k))

/-- Every reserved bit of the header is zero (R379, R383). -/
def headReserved (h : List Byte) : Bool :=
  headFlags h / 16 == 0 && fieldAt h 0x014 4 == 0 && fieldAt h 0x03A 6 == 0 && fieldAt h 0x044 0xBC == 0 &&
    (List.range 64).all fun i => fieldAt h (0x102 + 8 * i) 2 == 0

/-- The checks on the header, before the counter and the tag (R183, R383). -/
def headerOk (h : List Byte) (sealed : Bool) (ext : Nat) : Bool :=
  fieldAt h 0 4 == 0x58544353 && fieldAt h 4 2 == 1 && headReserved h && !(headFlags h).testBit 1 &&
    !(headFlags h).testBit 2 && (headFlags h).testBit 0 == sealed && headResume h % 8 == 0 && canonical (headResume h) &&
    decide (headBase h + headLen h ≤ 0x200000 ∧ headLength h ≤ ext) && directoryOk h

/-- Section `k` of a plaintext record. -/
def sectionAt (h rec_ : List Byte) (k : Nat) : List Byte := (rec_.drop (dirOff h k)).take (dirLen h k)

/-- Word `i` of the CONTROL section. -/
def controlWord (h rec_ : List Byte) (i : Nat) : Nat := fieldAt (sectionAt h rec_ 2) (8 * i) 8

/-- A ring that an image holds is one that RSETUP and the ring operations can leave (R83, R84; log 12). -/
def ringValid (r : Option Ring) : Bool :=
  match r with
  | none => true
  | some x =>
    x.base % 32 == 0 && x.slotSize % 32 == 0 && decide (32 ≤ x.slotSize ∧ 1 ≤ x.count ∧ x.count ≤ 1024) &&
      decide (x.base + x.slotSize * x.count ≤ 0x200000 ∧ x.free ≤ x.count ∧ x.filled ≤ x.count) &&
      decide (x.fillIx < x.count ∧ x.pubIx < x.count ∧ x.takeIx < x.count ∧ x.slots.length = x.count)

/-- A port that an image holds (R293, R295; log 12). -/
def portValid (p : Port) : Bool :=
  (match p.binding with | some (i, j) => decide (i < 16 ∧ j < 8) | none => true) &&
    decide (p.tx.length ≤ 8 ∧ p.rx.length ≤ 16)

/-- The reply queues of an image: entries and reservations, at most 16 together (R18, R380). -/
def imageReplies (bs : List Byte) : List ReplyQ :=
  (List.range 4).map fun i =>
    let n := fieldAt bs (144 * i) 8
    ⟨(List.range (min n 16)).map fun j => word (fieldAt bs (144 * i + 16 + 8 * j) 8), fieldAt bs (144 * i + 8) 8⟩

/-- Whether the counts of an image's reply queues are possible. -/
def repliesOk (bs : List Byte) : Bool :=
  (List.range 4).all fun i => decide (fieldAt bs (144 * i) 8 + fieldAt bs (144 * i + 8) 8 ≤ 16)

/-- What the bytes of sections 7 to 11 stand for: what was saved as these bytes, else what the device reads in them (log 12). -/
def partsOf (s : State) (bytes : List Byte) : Option OpenParts :=
  match s.dev.contexts.find? fun c => c.1 == bytes with
  | some c => some c.2
  | none => Config.openOf bytes

/-- Open parts that a strand can have left (R18, R83, R84, R295, R380). -/
def partsValid (h rec_ : List Byte) (o : OpenParts) : Bool :=
  decide (o.window.length = 64 ∧ o.rings.length = 8 ∧ o.ports.length = 8 ∧ o.engines.queues.length = 4 ∧
    o.engines.issued.length = 4 ∧ engineLength o.engines = dirLen h 10) &&
    o.rings.all ringValid && o.ports.all portValid && repliesOk (sectionAt h rec_ 5)

/-- The checks on the section contents (R184 step 2.5, R421): CONTEXT_INVALID for a record that is not laid out as R379 and
R380 say, or whose open parts mean nothing. -/
def openParts (s : State) (h rec_ : List Byte) : Except Stop OpenParts :=
  match layoutOk h, partsOf s ([7, 8, 9, 10, 11].flatMap (sectionAt h rec_)) with
  | true, some o => if partsValid h rec_ o then .ok o else .error ctxInvalid
  | _, _ => .error ctxInvalid

/-- The tests of R382 in their order. -/
def checkFeatures (s : State) (h rec_ : List Byte) : Except Stop Unit := do
  let ver := fieldAt h 8 4
  let own := Config.sviVersion
  need (ver / 2 ^ 16 == own / 2 ^ 16 && decide (ver % 2 ^ 16 ≤ own % 2 ^ 16)) (featureAbsent 1)
  let vb : BitVec 8 := BitVec.ofNat 8 (controlWord h rec_ 4)
  need (headVlb h == vlb || (List.range 4).all fun i => bankState vb i == 2) (featureAbsent 2)
  let bad := ((List.range (headLive h)).map (liveEntry h)).filter fun e =>
    decide (Config.rubric s.dev.fwGen e.1 < e.2)
  match bad with
  | [] => .ok ()
  | e :: es => .error (featureAbsent ((es.map (·.1)).foldl min e.1))
  need (!(headFlags h).testBit 3 || fieldAt h 0x40 4 == Config.rev) (featureAbsent 0xFFFF)

/-- The port bindings of an image can be made, the loading strand's own being released (R384). -/
def checkBindings (s : State) (ports : List Port) : Except Stop Unit :=
  let fails := (List.range 8).filterMap fun i =>
    match (ports.getD i ⟨none, [], [], []⟩).binding with
    | none => none
    | some (r, j) =>
      let tileRole : Bool := match manPort s (me s) r j with | some m => m.role == roleTile | none => false
      if tileRole && !((peerTiles s (me s)).any fun t => portHolds t none (r, j)) &&
          !((List.range i).any fun n => (ports.getD n ⟨none, [], [], []⟩).binding == some (r, j)) then none
      else some (Stop.trap ⟨0x100, word r, word i, []⟩)
  match fails with
  | [] => .ok ()
  | e :: _ => .error e

/-- The channel tracking that three CONTROL words give. -/
def imageChan (last read vis : Nat) : ChanState := ⟨last, read, vis, [], []⟩

/-- Commands of an image as this strand's own: they open with what the strand knows, and a command held by an answered
request is no longer held (R384). -/
def imageCmds (k : StrandKey) (clock : Clock) (l : List QCmd) : List QCmd :=
  l.map fun c => { c with owner := k, clock := clock, held := none, rd := 0, wr := 0, buf := [], beats := [] }

/-- A fault that a FAULTS slot of 128 bytes holds, as its trap record names it (R113, R380). -/
def faultOf (bs : List Byte) : Option TrapInfo :=
  if bs.all (· == 0) then none
  else some ⟨fieldAt bs 8 8 % 2 ^ 9, word (fieldAt bs 16 8), word (fieldAt bs 24 8),
    (List.range 4).map fun i => word (fieldAt bs (64 + 8 * i) 8)⟩

/-- The fault of an image's FAULTS slot `i`. -/
def imageFault (h rec_ : List Byte) (i : Nat) : Option TrapInfo :=
  faultOf (((sectionAt h rec_ 14).drop (128 * i)).take 128)

/-- The commands of an engine with a fault that was held and not delivered: it holds the first of them (R116, R380). -/
def withFault (f : Option TrapInfo) (l : List QCmd) : List QCmd :=
  match f, l with
  | some t, c :: cs => { c with held := some (.fault t) } :: cs
  | _, l => l

/-- The sequencer's registers of an image. -/
def imageSeq (h rec_ : List Byte) (q : Seq) : Seq :=
  let w := controlWord h rec_
  let vb : BitVec 8 := BitVec.ofNat 8 (w 4)
  let pb := headVlb h / 8
  { q with
    s := Vector.ofFn fun i => word (fieldAt (sectionAt h rec_ 1) (8 * i.val) 8)
    v := Vector.ofFn fun i =>
      if bankState vb (i.val / 16) = 2 then 0
      else BitVec.ofNat 2048 (fieldAt (sectionAt h rec_ 4) (headVlb h * i.val) (headVlb h))
    p := Vector.ofFn fun i => BitVec.ofNat 256 (fieldAt (sectionAt h rec_ 3) (pb * i.val) pb)
    vpc := word (headResume h)
    round := BitVec.ofNat 2 (w 0)
    ufthr := BitVec.ofNat 16 (w 1)
    subst := BitVec.ofNat 3 (w 2)
    ufcount := word (w 3)
    vbank := vb
    cycle := word (w 5)
    vl := w 6 % 2 ^ 13
    collSeq := w 16
    fgoSeq := w 17
    tables := (List.range 512).map fun i => BitVec.ofNat 16 (fieldAt (sectionAt h rec_ 6) (2 * i) 2)
    live := (List.range (headLive h)).map (liveEntry h)
    liveOverflow := (headFlags h).testBit 3 }

/-- The tile with an image's state (R184 step 3): bytes outside the saved extents stay. -/
def imageTile (h rec_ : List Byte) (o : OpenParts) (k : StrandKey) (t : Tile) : Tile :=
  let w := controlWord h rec_
  let c := ordClock k t.ord
  let cmds := fun i => imageCmds k c (o.engines.queues.getD i [])
  let q := fun i => withFault (imageFault h rec_ i) (cmds i)
  { t with
    seq := imageSeq h rec_ t.seq
    pad := t.pad.writeBytes (headBase h) (sectionAt h rec_ 12)
    accum := t.accum.writeBytes 0 (sectionAt h rec_ 13)
    replies := Vector.ofFn fun i => (imageReplies (sectionAt h rec_ 5)).getD i.val ⟨[], 0⟩
    chLoad := imageChan (w 13) (w 7) (w 8)
    chStore := imageChan (w 14) (w 9) (w 10)
    chAcc := imageChan (w 15) (w 11) (w 12)
    qLoad := t.qLoad ++ q 0
    qStore := t.qStore ++ q 1
    qMatrix := t.qMatrix ++ q 2
    qFibre := t.qFibre ++ q 3
    issued := Vector.ofFn fun i => o.engines.issued.getD i.val 0
    window := Vector.ofFn fun i => o.window.getD i.val none
    rings := Vector.ofFn fun i => (o.rings.getD i.val none).map fun r => { r with
      freedAt := List.replicate r.count t.ord.po, filler := List.replicate r.count 0 }
    ports := Vector.ofFn fun i => o.ports.getD i.val ⟨none, [], [], []⟩
    accSeq := o.engines.accSeq
    collCounts := o.engines.collCounts
    collGain := o.engines.collGain
    fibre := o.fibre
    async := t.async ++ (List.range 4).filterMap fun i => if (cmds i).isEmpty then imageFault h rec_ i else none
    folio := none }

/-- Open a sealed record: counter, then tag, then the plaintext (R386, R387, R420). -/
def unsealRecord (s : State) (fn slot : Nat) (h rec_ : List Byte) : Except Stop (List Byte) :=
  match keyOf s fn slot with
  | none => .error (.cause 0x187 slot)
  | some (key, ctxid) => do
    let count := look 0 (fnRegs s fn).counters slot
    need (headCounter h == count) (.trap ⟨0x185, word (headCounter h), word count, []⟩)
    let n := headLength h
    let iv := leBytes 4 ctxid ++ leBytes 8 (headCounter h)
    let ct := (rec_.drop 0x400).take (n - 16 - 0x400)
    need (gcmTag key iv h ct == rec_.drop (n - 16)) (.trap ⟨0x186, word (headCounter h), word slot, []⟩)
    .ok (h ++ gcmCrypt key iv ct ++ rec_.drop (n - 16))

/-- CTXLOAD. -/
def execCtxload (tdi : BitVec 16) (sealed : Bool) (slot : Fin 64) (s : State) : Host.Outcome State Fault Refusal :=
  finishJump s do
    let e ← imageDesc s tdi.toNat rightRead
    checkRegion s e
    let k := me s
    need (allDrained s.tile k) (.wait .allDrained)
    need (decide (0x410 ≤ dimOf e 0)) ctxInvalid
    let (_, h) ← coherentBytes s (elemAddr e 8 0) 0x400
    need (headerOk h sealed (dimOf e 0)) ctxInvalid
    let (t, raw) ← coherentBytes s (elemAddr e 8 0) (headLength h)
    let rec_ ← if sealed then unsealRecord s (taskOf s k).fn slot.val h raw else .ok raw
    let o ← openParts s h rec_
    checkFeatures s h rec_
    checkBindings s o.ports
    .ok (onFocus (imageTile h rec_ o k) (useDesc tdi.toNat t))

end Sys2Proof.Machine
end

