-- ==== Sys2Proof/Machine/Stops.lean ====
section
/-!
DEFINITION. Boundaries, deliveries and stops: what a strand meets at its SVI boundaries (R116, R117, R120), the three forms
of stop and the way off a tile (R28, R29, R119, R388, R390 to R393), restores (R31, R343, R389, R392), wakes (R30) and
barrier instances (R171).
-/

namespace Sys2Proof.Machine

open Sys2Proof

/-! ### All tiles -/

/-- Every tile that is held, with its number. -/
def allTiles (s : State) : List (Nat × Tile) := (s.tileNo, s.tile) :: s.others

/-- Change every tile. -/
def onTiles (f : Nat → Tile → Tile) (s : State) : State :=
  { s with tile := f s.tileNo s.tile, others := s.others.map fun e => (e.1, f e.1 e.2) }

/-- Forget the tile kept under a number. -/
def forgetTile (n : Nat) (s : State) : State :=
  if n = s.tileNo then { s with tile := Tile.blank } else { s with others := drop? s.others n }

/-! ### Waking (R30) -/

/-- Waits that R30 lists, at whose instruction a stop can be taken. -/
def restartable : WaitFor → Bool
  | .acks | .folio | .peer _ _ | .codec => false
  | .reply _ | .replies _ _ | .mark _ _ _ | .drained _ | .barrier _ | .ringFree _ | .ringFilled _ | .rest | .allDrained
  | .room _ | .portRoom _ _ | .portEmpty _ | .retention _ | .service _ _ => true

/-- Whether what the strand `k` on tile `n` waits for has come. A service ends by RESOLVE or COW_SERVICE, a retention
wake by its own step. -/
def waitOver (s : State) (n : Nat) (k : StrandKey) (w : WaitFor) : Bool :=
  let t := tileAt s n
  match w with
  | .reply q => !t.replies[q].entries.isEmpty
  | .replies q m => decide (m ≤ t.replies[q].entries.length)
  | .mark ch vis x => decide (x ≤ if vis then (chanState t ch).visMark else (chanState t ch).readMark)
  | .drained mask => maskDrained t k mask
  | .barrier b => !isPending (gangOf s k) b k.tile
  | .ringFree r => match t.rings[r] with | some x => decide (0 < x.free) | none => true
  | .ringFilled r => match t.rings[r] with | some x => decide (0 < x.filled) | none => true
  | .rest => atRest t k
  | .allDrained => allDrained t k
  | .room e => decide ((engQueue t e).length < queueRoom e)
  | .portRoom p m => decide (t.ports[p].tx.length + m ≤ 8)
  | .portEmpty p => t.ports[p].tx.isEmpty
  | .retention _ => false
  | .acks => !owedAcks s k
  | .service _ _ => false
  | .folio => (folioAt s (taskOf s k) t.seq.vpc).isSome
  | .peer i amo => match (gangOf s k).tiles[i]? with
    | some m => if amo.isSome then amoTurn k (tileAt s m) else !unserved (tileAt s m)
    | none => false
  | .codec => match t.codec with | some (_, bs) => bs.any beatEnds | none => true

/-- Let the strand of tile `n` run on. -/
def runOn (n : Nat) (s : State) : State := onTile n (fun t => { t with run := .running }) s

/-- BLOCKED_STRAND_WAKE: what the strand waited for has come; its instruction executes again (R30). -/
def execBlockedStrandWake (tile : Nat) (s : State) : Host.Outcome State Fault Refusal :=
  .next (match (tileAt s tile).run, (tileAt s tile).owner with
    | .blocked w, some k => if waitOver s tile k w then runOn tile s else s
    | _, _ => s)

/-- RETENTION_WAKE: the banks that the instruction names are turned on together (R121, R187). -/
def execRetentionWake (tile : Nat) (s : State) : Host.Outcome State Fault Refusal :=
  .next (match (tileAt s tile).run with
    | .blocked (.retention banks) =>
      runOn tile (onTile tile (Tile.onSeq fun q => { q with vbank := wakeBanks banks q.vbank }) s)
    | _ => s)

/-! ### Barrier instances (R171) -/

/-- Whether member `i` of a gang has arrived at barrier `k` or has ended. -/
def arrivedOrEnded (g : Gang) (k i : Nat) : Bool :=
  isPending g k i || match g.members[i]? with | some .ended => true | _ => false

/-- BARRIER_INSTANCE_COMPLETE: every member has arrived or ended, so the pending bits clear together. -/
def execBarrierInstanceComplete (queue record gang : Nat) (k : Fin 16) (s : State) : Host.Outcome State Fault Refusal :=
  let g := gangAt s queue record gang
  let bits := g.pending.getD k.val []
  let full := !bits.isEmpty && (List.range g.members.length).all (arrivedOrEnded g k.val)
  .next (if full then
      onGang queue record gang (fun g => { g with
        pending := alterAt [] (fun _ => []) k.val g.pending
        done := alterAt Clock.none (fun c => (g.arrived.getD k.val []).foldl (fun c a => joinClock c a.2) c) k.val g.done
        arrived := alterAt [] (fun _ => []) k.val g.arrived }) s
    else s)

/-- A stop meets a BAR that has arrived and waits (R30, R171). Unless the instance has completed, its own arrival is
withdrawn, with what it would have released; `retires` says that the stop is taken at a boundary, and then a BAR whose
instance has completed retires first. A forced stop leaves it to return on resume. -/
def withdraw (retires : Bool) (n : Nat) (s : State) : State :=
  match (tileAt s n).barStage, (tileAt s n).owner with
  | some b, some k =>
    if isPending (gangOf s k) b k.tile then
      onTile n (fun t => { t with barStage := none })
        (onGang k.queue k.record k.gang (fun g => { g with
          pending := alterAt [] (fun l => l.filter (· != k.tile)) b g.pending
          arrived := alterAt [] (fun l => l.filter (·.1 != k.tile)) b g.arrived }) s)
    else if retires then
      onTile n (fun t => Tile.onSeq (fun q => { q with vpc := q.vpc + 8 }) { t with
        run := .running, barStage := none, fresh := none }) (barReturnOn n b s)
    else s
  | _, _ => s

/-! ### Dropping commands (R362, R443) -/

/-- Drop command `seq` of strand `k`, in its queue or in flight, with those behind it in the queue and the graph run of a
dropped FGO (R443); later copies that the channel has already finished go on. -/
def dropFrom (n : Nat) (e : Eng) (k : StrandKey) (seq : Nat) (s : State) : State :=
  let gone := fun c : QCmd => c.owner == k && decide (seq ≤ c.seq)
  let ran := (engQueue (tileAt s n) e).any fun c => gone c && c.started && match c.body with | .go _ _ => true | _ => false
  let lost := fun c : QCmd => flightEng c == e && c.owner == k && c.seq == seq
  let s := onTile n (fun t => { setEngQueue e ((engQueue t e).filter fun c => !gone c) t with
    flight := t.flight.filter fun c => !lost c }) s
  let s := if ran then onTile n (fun t => { t with fibre := { t.fibre with run := none } }) s else s
  reapServing n s

/-! ### Deliveries at a boundary (R116, R117, R443) -/

/-- The faults held and not delivered among the commands of one queue that satisfy `p`. -/
def heldFault (p : QCmd → Bool) (q : List QCmd) : Option (QCmd × TrapInfo) :=
  q.findSome? fun c => match c.held with | some (.fault t) => if p c then some (c, t) else none | _ => none

/-- Of several engines that hold faults, the lowest ENGINE is delivered (R116). -/
def lowestFault (p : QCmd → Bool) (t : Tile) : Option (Eng × QCmd × TrapInfo) :=
  (List.range 4).findSome? fun i => (heldFault p (flightOf t (engOf i) ++ engQueue t (engOf i))).map fun x => (engOf i, x)

/-- After delivery a command stays held where its strand is held, and is dropped with those behind it where its strand
has ended (R116, R117). -/
def afterDelivery (n : Nat) (e : Eng) (k : StrandKey) (c : QCmd) (t : TrapInfo) (s : State) : State :=
  if (tileAt s n).owner = some k then onCmd n e k c.seq (fun x => { x with held := some (.delivered t) }) s
  else dropFrom n e k c.seq s

/-- Deliver an engine fault to the strand of tile `n` at its boundary: virtual-precisely at the issuing instruction when
the instruction after it has not retired, else with DEFERRED, the VPC being the next instruction's (R116). -/
def deliverFault (n : Nat) (k : StrandKey) (e : Eng) (c : QCmd) (t : TrapInfo) (s : State) : State :=
  let s := withdraw true n s
  let first := (tileAt s n).fresh == some (e, c.seq)
  let vpc := if first then c.vpc else (tileAt s n).seq.vpc
  afterDelivery n e k c t (takeTrap n ⟨vpc, !first, some (e, c.seq, xferOf c, decide (0 < c.replays))⟩ t s)

/-- Deliver the first asynchronous cause to the strand of tile `n` (R117). -/
def deliverAsync (n : Nat) (s : State) : State :=
  match (tileAt s n).async with
  | [] => s
  | t :: rest =>
    let s := onTile n (fun x => { x with async := rest }) (withdraw true n s)
    takeTrap n ⟨(tileAt s n).seq.vpc, false, none⟩ t s

/-- Stop the strand of tile `n` for its energy quota: a record with QUOTA_EXHAUSTED, and no fault policy (R117, R120). -/
def quotaStop (n : Nat) (s : State) : State :=
  match (tileAt s n).owner with
  | none => s
  | some k =>
    let s := withdraw true n s
    let s := writeRecord n k ⟨(tileAt s n).seq.vpc, false, none⟩ ⟨0x180, 0, 0, []⟩ s
    onTile n (fun t => { t with
      run := restInto .quota t.run, notice := false, sincePost := if t.yieldReq.isSome then t.sincePost else 0 }) s

/-- Whether the strand on a tile stands at an SVI boundary or is blocked at one (R30). -/
def atBoundary (t : Tile) : Bool :=
  match t.run with
  | .running => true
  | .blocked w => restartable w
  | _ => false

/-- The faults of a strand that are owed at its boundary. -/
def ownFault (t : Tile) : Option (StrandKey × Eng × QCmd × TrapInfo) :=
  t.owner.bind fun k => (lowestFault (fun c => c.owner == k) t).map fun x => (k, x)

/-- The deadline that counts on a tile: a posted request's, or, for a stop for cause, the task's DEADLINE from its boundary
(R29, R119). A YIELD that won its tie has none left (R32). -/
def deadlineOf (s : State) (t : Tile) (k : StrandKey) : Option Nat :=
  match t.yieldReq, t.run with
  | some d, _ => some d
  | none, .resting .yield | none, .halted (.resting .yield) => none
  | none, .resting _ => some (taskOf s k).trec.deadline
  | none, .halted (.resting _) => if atRest t k then none else some (taskOf s k).trec.deadline
  | none, _ => none

/-- Why a strand whose deadline has expired stays stopped; engines that have come to rest need no forced stop, but for a
strand in a debug halt, which leaves its tile in no other way (R29, R397). -/
def forcedWhy (t : Tile) (k : StrandKey) : Option StopWhy :=
  match t.run with
  | .running | .blocked _ => some .deadline
  | .resting w => if atRest t k then none else some (if w = .yield then .deadline else w)
  | .halted .running | .halted (.blocked _) => some .halt
  | .halted (.resting w) | .halted (.parked w) => some (.haltAt w)
  | .free | .parked _ | .frozen _ => none

/-- What an image says of the clock at which the tile stopped: NCYCLE, and whether a divider change was in progress (R388,
R409). -/
def noteStop (n : Nat) (s : State) : State :=
  onTile n (fun t => { t with atStop := t.atStop.orElse fun _ => some (s.dev.ncycle, changing s n (keyOn s n)) }) s

/-- A forced stop: the tile is stopped where it stands, a record with DEADLINE is written, and the arrival of a BAR that
waits is withdrawn (R28, R30, R119). -/
def forceStop (n : Nat) (k : StrandKey) (why : StopWhy) (s : State) : State :=
  onTile n (fun t => { t with run := .frozen why, yieldReq := none }) <| noteStop n
    (writeRecord n k ⟨(tileAt s n).seq.vpc, false, none⟩ ⟨0x181, 0, 0, []⟩ (withdraw false n s))

/-- What the strand in focus meets at its boundary before its next instruction: its deadline, when that has passed (R119),
an engine fault, else an asynchronous cause, else the exhaustion notice. -/
def boundaryStop (s : State) : Option State :=
  if (match s.tile.yieldReq with | some d => decide (d < s.tile.sincePost) | none => false) then
    some (forceStop s.tileNo (me s) .deadline s)
  else
  match ownFault s.tile with
  | some (k, e, c, t) => some (deliverFault s.tileNo k e c t s)
  | none =>
    if !s.tile.async.isEmpty then some (deliverAsync s.tileNo s)
    else if s.tile.notice then some (quotaStop s.tileNo s) else none

/-- The fault of a command whose strand has ended: a record, the policy for the rest of the task, and its queue dropped
(R443). -/
def deliverEnded (n : Nat) (e : Eng) (c : QCmd) (t : TrapInfo) (s : State) : State :=
  let k := c.owner
  let task := taskOf s k
  let vpc := ((task.endedPc.find? fun x => x.1 == k).map (·.2)).getD 0
  let s := writeRecord n k ⟨vpc, true, some (e, c.seq, xferOf c, decide (0 < c.replays))⟩ t s
  let s := dropFrom n e k c.seq (noteCause k t.cause s)
  if task.trec.policy = 0 then stopTask k.queue k.record s
  else if task.trec.policy = 1 then stopGang k.queue k.record k.gang s
  else s

/-- DEFERRED_FAULT_DELIVERY: a strand at a boundary, blocked ones too, takes its engine fault; else a fault of a command
whose strand has ended is reported (R116, R443). -/
def execDeferredFaultDelivery (tile : Nat) (s : State) : Host.Outcome State Fault Refusal :=
  let t := tileAt s tile
  .next (match (if atBoundary t then ownFault t else none) with
    | some (k, e, c, f) => deliverFault tile k e c f s
    | none =>
      match lowestFault (fun c => some c.owner != t.owner) t with
      | some (e, c, f) => deliverEnded tile e c f s
      | none => s)

/-- ASYNC_TRAP_DELIVERY (R117). -/
def execAsyncTrapDelivery (tile : Nat) (s : State) : Host.Outcome State Fault Refusal :=
  .next (if atBoundary (tileAt s tile) then deliverAsync tile s else s)

/-- An asynchronous cause for the strand of tile `n`; a tile without a strand takes none (R117). -/
def raiseAsync (n : Nat) (t : TrapInfo) (s : State) : State :=
  if (tileAt s n).owner.isSome then onTile n (fun x => { x with async := x.async ++ [t] }) s else s

/-- An asynchronous cause for every strand that satisfies `p`, running, stopped or saved. -/
def raiseAll (p : StrandKey → Bool) (t : TrapInfo) (s : State) : State :=
  onTiles (fun _ x => match x.owner with | some k => if p k then { x with async := x.async ++ [t] } else x | none => x) s

/-! ### Quota (R120, R414, R415) -/

/-- The strands of a task that stand on tiles. -/
def strandsOn (q r : Nat) (s : State) : List StrandKey :=
  (allTiles s).filterMap fun e =>
    e.2.owner.bind fun k => if decide (e.1 < Config.tiles) && k.queue == q && k.record == r then some k else none

/-- A charge falls on a task's balance. When it takes the balance to zero or less, the supervisor sends the exhaustion
notice to every strand of the task (R120, R415). -/
def chargeTask (k : StrandKey) (pj : Nat) (s : State) : State :=
  let all := strandsOn k.queue k.record s
  onTask k.queue k.record (fun t => { t with
    balance := t.balance - pj
    owed := if 0 < t.balance ∧ t.balance - pj ≤ 0 then all else t.owed }) s

/-- QUOTA_CHARGE_REPORT: a tile's finished commands are charged to their tasks' balances. -/
def execQuotaChargeReport (tile : Nat) (s : State) : Host.Outcome State Fault Refusal :=
  let l := (tileAt s tile).unreported
  .next (l.foldl (fun s x => chargeTask x.1 x.2 s) (onTile tile (fun t => { t with unreported := [] }) s))

/-- QUOTA_EXHAUSTION_NOTICE: the notice that the supervisor has sent reaches a tile of the task, whatever the balance is
by then (R120, R415). -/
def execQuotaExhaustionNotice (tile : Nat) (s : State) : Host.Outcome State Fault Refusal :=
  .next (match (tileAt s tile).owner with
    | some k =>
      if (taskOf s k).owed.contains k then
        onTile tile (fun t => { t with notice := true })
          (onTask k.queue k.record (fun t => { t with owed := t.owed.filter (· != k) }) s)
      else s
    | none => s)

/-! ### Leaving a tile (R28, R29, R388, R393) -/

/-- A place after tile `a`'s scratchpad has become tile `b`'s. -/
def movePlace (a b : Nat) (p : Place) : Place := if p = .pad a then .pad b else p

/-- A granule after the move. -/
def moveGran (a b : Nat) (g : Gran) : Gran := ⟨movePlace a b g.place, g.index⟩

/-- Ordering knowledge after the move. -/
def moveClock (a b : Nat) (c : Clock) : Clock :=
  { c with limited := c.limited.map fun l => { l with grans := l.grans.map (moveGran a b) } }

/-- A release after the move. -/
def moveRelease (a b : Nat) (r : Release) : Release := { r with clock := moveClock a b r.clock }

/-- Commands after the move. -/
def moveCmds (a b : Nat) (q : List QCmd) : List QCmd := q.map fun c => { c with clock := moveClock a b c.clock }

/-- What a tile knows of granules, after the move. -/
def moveTile (a b : Nat) (t : Tile) : Tile :=
  { t with
    qLoad := moveCmds a b t.qLoad, qStore := moveCmds a b t.qStore, qMatrix := moveCmds a b t.qMatrix
    qFibre := moveCmds a b t.qFibre, flight := moveCmds a b t.flight
    collGain := t.collGain.map fun x => (x.1, moveClock a b x.2)
    ord := { t.ord with
      clock := moveClock a b t.ord.clock, fences := t.ord.fences.map (moveRelease a b), met := t.ord.met.map (moveRelease a b) } }

/-- What a gang's barriers release, after the move. -/
def moveGang (a b : Nat) (g : Gang) : Gang :=
  { g with
    arrived := g.arrived.map fun l => l.map fun x => (x.1, moveClock a b x.2), done := g.done.map (moveClock a b) }

/-- A location and the releases it carries, after the move. -/
def moveSync (a b : Nat) (x : SyncLoc) : SyncLoc :=
  { x with place := movePlace a b x.place, rels := x.rels.map (moveRelease a b), past := x.past.map (moveRelease a b) }

/-- A user of a region port, after the move. -/
def moveUser (a b : Nat) (u : PortUser) : PortUser :=
  match u with
  | .copy n ch id => .copy (if n = a then b else n) ch id
  | .load n => .load (if n = a then b else n)

/-- What the device keeps for a strand's scratchpad and of its granules moves with it (R108). -/
def movePads (a b : Nat) (d : Dev) : Dev :=
  { d with
    marks := d.marks.map fun m => { m with gran := moveGran a b m.gran }
    consts := d.consts.map fun c => { c with gran := moveGran a b c.gran }
    syncs := d.syncs.map (moveSync a b)
    published := moveClock a b d.published
    router := d.router.map fun r => { r with
      place := movePlace a b r.place, parts := r.parts.map fun p => (p.1, p.2.map (moveRelease a b)) }
    gangs := d.gangs.map (moveGang a b)
    tasks := d.tasks.map fun t => { t with gain := moveClock a b t.gain }
    regions := d.regions.map fun r => (r.1, { r.2 with
      serving := r.2.serving.map fun m => { m with user := moveUser a b m.user } }) }

/-- Every granule of tile `a`'s scratchpad becomes tile `b`'s (R108). -/
def moveAll (a b : Nat) (s : State) : State := onDev (movePads a b) (onTiles (fun _ t => moveTile a b t) s)

/-- A number for a saved tile, beyond the physical ones. -/
def freeHome (s : State) : Nat :=
  ((List.range (s.dev.saved.length + 1)).map (Config.tiles + ·)).find? (fun v => !s.dev.saved.any fun x => x.home == v)
    |>.getD Config.tiles

/-- What stays on a physical tile that a strand has left: the memories' contents (R23). -/
def leftBehind (t : Tile) : Tile := { Tile.blank with pad := t.pad, accum := t.accum, unreported := t.unreported }

/-- The tile as an architected context keeps it: copies unstarted, no folio, no request posted. -/
def contextTile (t : Tile) : Tile :=
  { t with
    qLoad := contextQueue t .load, qStore := contextQueue t .store, qMatrix := contextQueue t .matrix, flight := []
    fibre := contextFibre t, folio := none, folioStale := false, yieldReq := none, sincePost := 0, notice := false
    fresh := none, atStop := none }

/-- The 520 bytes of a binding vector (R334). -/
def bindingVector (l : List (Option Word)) : List Byte :=
  (List.range 64).flatMap (fun i => leBytes 8 (match l.getD i none with | some w => w.toNat | none => 0)) ++
    leBytes 8 ((List.range 64).foldl (fun m i => if (l.getD i none).isSome then m + 2 ^ i else m) 0)

/-- CREDIT of an architected context: no flit is held, and every count is full (R393). -/
def fullCredit (s : State) (k : StrandKey) : List (Nat × Nat × Nat) :=
  ((List.range (gangSize s k)).filter (· != k.tile)).map (fun i => (i, 0, 8)) ++ [(portIndex, 0, 512)]

/-- FLAGS of an image: of a vellum image [0] debug halt and [1] a divider change in progress (R388); of a context that
hardware takes [1] HW and [3] OVERFLOW (R379). -/
def imageFlags (vellum : Bool) (why : StopWhy) (t : Tile) : Nat :=
  if vellum then
    (match why with | .halt | .haltAt _ => 1 | _ => 0) + if t.atStop.any (·.2) then 2 else 0
  else 2 + if t.seq.liveOverflow then 8 else 0

/-- The header of an image of the strand `k` on tile `n` (R379, R388). FENTRY of a strand in no folio is its VPC, where it
enters the next (log 56). -/
def imageHead (s : State) (n : Nat) (k : StrandKey) (vellum : Bool) (why : StopWhy) : ImageHead :=
  let t := tileAt s n
  let task := taskOf s k
  { flags := imageFlags vellum why t, rev := Config.rev, tver := Config.tver s.dev.fwGen, tenant := task.trec.tenant
    gang := k.gang, tile := k.tile, npend := t.net.rx.length, vpc := t.seq.vpc
    fentry := match t.folio with | some f => f.first | none => t.seq.vpc
    cycle := t.seq.cycle, ncycle := match t.atStop with | some x => x.1 | none => s.dev.ncycle
    root := rootOf s task, bind := shake256 (bindingVector task.factors) 64
    credit := if vellum then t.net.credit else fullCredit s k }

/-- Vellum images that the image pool of 256 MiB holds (R388). -/
def poolImages : Nat := 2 ^ 28 / 2461696

/-- The image pool is full, so that a further image spills (R388). -/
def poolFull (s : State) : Bool := decide (poolImages ≤ (s.dev.saved.filter fun x => x.vellum && !x.spilled).length)

/-- The other members of a gang hold the traffic to strand `k` (R391). -/
def holdAtPeers (k : StrandKey) (s : State) : State :=
  ((gangOf s k).tiles.filter fun m => (tileAt s m).owner != some k).foldl (fun s m =>
    onNet m (fun x => { x with holding := if x.holding.contains k.tile then x.holding else k.tile :: x.holding }) s) s

/-- Save the strand of tile `n` and free the tile. The interface of the saved tile stays frozen: traffic toward its gang
index waits at its senders until RECON (R391 to R393). -/
def saveTile (n : Nat) (vellum : Bool) (why : StopWhy) (s : State) : State :=
  match (tileAt s n).owner with
  | none => s
  | some k =>
    let v := freeHome s
    let t := tileAt s n
    let entry : Saved := ⟨k, vellum, Config.tver s.dev.fwGen, why, v, imageHead s n k vellum why, vellum && poolFull s⟩
    let t := if vellum then { t with yieldReq := none, sincePost := 0, notice := false } else contextTile t
    let image := { t with
      run := if vellum then .frozen why else .parked why
      net := { t.net with frozen := true, portHeld := true, credit := entry.head.credit }, unreported := [] }
    let s := setTile (setTile s v image) n (leftBehind (tileAt s n))
    let s := if vellum then s else dropServing (fun u => match u with | .copy m _ _ | .load m => m == n) s
    let s := onDev (fun d => { d with saved := d.saved ++ [entry] }) (moveAll n v s)
    let s := onTask k.queue k.record (fun t => { t with owed := t.owed.filter (· != k) }) s
    holdAtPeers k (setMember k .saved (onGang k.queue k.record k.gang (fun g => { g with tiles := g.tiles.set k.tile v }) s))

/-- The engines of a stopped strand are at rest, nothing of an earlier task is left on the tile, and its network
interface holds nothing (R29, R393). -/
def readyToSave (t : Tile) (k : StrandKey) : Bool :=
  atRest t k && t.net.rx.isEmpty && t.net.outbound.isEmpty &&
    (List.range 4).all fun i => (engQueue t (engOf i)).all fun c => c.owner == k

/-- Take the architected context of a strand whose engines are at rest: a strand held for service keeps its tile unless
its gang is being stopped; every other one leaves it (R28, R29, R117). -/
def takeContext (n : Nat) (why : StopWhy) (s : State) : State :=
  match why with
  | .hold _ _ _ =>
    if (tileAt s n).yieldReq.isSome then saveTile n false why s
    else onTile n (fun t => { contextTile t with run := .parked why, notice := t.notice })
      (dropServing (fun u => match u with | .copy m _ _ | .load m => m == n) s)
  | .yield | .deadline | .quota | .halt | .haltAt _ => saveTile n false why s

/-- STOP_FOR_CAUSE: a strand whose quota is exhausted stops at its boundary; a stopped strand whose engines have come to
rest is saved (R28, R29, R120). -/
def execStopForCause (tile : Nat) (s : State) : Host.Outcome State Fault Refusal :=
  let t := tileAt s tile
  .next (match t.run, t.owner with
    | .resting why, some k => if readyToSave t k then takeContext tile why s else s
    | _, some _ => if t.notice && atBoundary t then quotaStop tile s else s
    | _, none => s)

/-! ### Forced stops (R28, R32, R119, R388 to R391) -/

/-- DEADLINE_EXPIRY: a strand that has not stopped, or whose engines have not come to rest, is stopped by force
(R28, R29, R119). -/
def execDeadlineExpiry (tile : Nat) (s : State) : Host.Outcome State Fault Refusal :=
  let t := tileAt s tile
  .next (match t.owner with
    | some k =>
      match forcedWhy t k, deadlineOf s t k with
      | some why, some d => if d ≤ t.sincePost then forceStop tile k why s else s
      | _, _ => s
    | none => s)

/-- NI_FREEZE: the network interface of a stopped tile stops delivery and sends FREEZE (R391). -/
def execNiFreeze (tile : Nat) (s : State) : Host.Outcome State Fault Refusal :=
  let t := tileAt s tile
  .next (if clockStopped t && !t.net.frozen then
      onTile tile (fun t => { t with net := { t.net with frozen := true, acks := [], credit := [] } }) s
    else s)

/-- FREEZE_ACK: peer `peer` of the gang, or 64, the local router port, acknowledges: from now on it holds traffic to the
frozen index; its occupancy and its count are recorded (R391). -/
def execFreezeAck (tile peer : Nat) (s : State) : Host.Outcome State Fault Refusal :=
  let t := tileAt s tile
  .next (match t.owner with
    | none => s
    | some k =>
      if t.net.frozen && clockStopped t && !t.net.acks.contains peer && (peer == 64 || decide (peer < gangSize s k)) then
        let occ := if peer = 64 then waitingPort t else waitingFrom t { k with tile := peer }
        let count := (if peer = 64 then 512 else 8) - occ
        let s := onNet tile (fun x => { x with
          acks := peer :: x.acks, credit := x.credit ++ [(peer, occ, count)], portHeld := x.portHeld || peer == 64 }) s
        match (gangOf s k).tiles[peer]? with
        | some m => if peer < 64 ∧ m ≠ tile then
              onNet m (fun x => { x with holding := k.tile :: x.holding }) s
            else s
        | none => s
      else s)

/-- The freeze is complete: every member that stands on another tile and the local port have acknowledged (R391). -/
def freezeDone (s : State) (t : Tile) (k : StrandKey) : Bool :=
  t.net.frozen && t.net.acks.contains 64 &&
    (List.range (gangSize s k)).all fun i =>
      i == k.tile || t.net.acks.contains i || match (gangOf s k).members[i]? with | some (.on _) => false | _ => true

/-- Peers of a strand no longer hold the traffic to its index, and its interface serves again. -/
def unhold (n : Nat) (k : StrandKey) (s : State) : State :=
  let s := onNet n (fun x => { x with frozen := false, acks := [], credit := [], portHeld := false }) s
  (gangOf s k).tiles.foldl (fun s m => onNet m (fun x => { x with holding := x.holding.filter (· != k.tile) }) s) s

/-- The fault policy of a task for a strand that cannot go on: under hold there is no strand left to hold, and it ends. -/
def policyLost (n : Nat) (k : StrandKey) (s : State) : State :=
  let task := taskOf s k
  if task.trec.policy = 0 then stopTask k.queue k.record s
  else if task.trec.policy = 1 then stopGang k.queue k.record k.gang s
  else
    let s := unhold n k s
    let s := if (savedOf s k).isSome then dropSaved k s else haltNet n (endStrand n s)
    if task.trec.irq then signal task.fn task.trec.irqvec s else s

/-- A vellum image is lost to a scan parity error on tile `n`: SCAN_PARITY under the task's policy (R389). The image's state
stands at `home`: on the tile, or where it was saved. -/
def scanParity (n home : Nat) (k : StrandKey) (s : State) : State :=
  let s := onTelemetry n (fun t => { t with parity := t.parity + 1 }) s
  policyLost home k (noteCause k 0x1C1 (writeRecord home k ⟨(tileAt s home).seq.vpc, false, none⟩ ⟨0x1C1, 0, 0, []⟩ s))

/-- SCAN_OUT_COMPLETE: the vellum image is held and the tile is freed, or the image is discarded (R388, R389). -/
def execScanOutComplete (tile : Nat) (parityError : Bool) (s : State) : Host.Outcome State Fault Refusal :=
  let t := tileAt s tile
  .next (match t.run, t.owner with
    | .frozen why, some k =>
      if decide (tile < Config.tiles) && (savedOf s k).isNone && freezeDone s t k then
        (if parityError then scanParity tile tile k s else saveTile tile true why s)
      else s
    | _, _ => s)

/-! ### Flits (R33, R390, R392) -/

/-- The strand that sent a window AMO waits for it still. One that has been stopped executes its instruction again. -/
def amoWaits (s : State) (f : Flit) : Bool :=
  (allTiles s).any fun t => t.2.owner == some f.sender && match t.2.run with
    | .blocked (.peer _ (some _)) | .halted (.blocked (.peer _ (some _))) => true
    | _ => false

/-- What a flit that has left a tile's receive buffer does there: a window store lands, an element of a copy is written, a
reply entry is posted (R33, R390). -/
def landFlit (n : Nat) (f : Flit) (s : State) : State :=
  match f.kind with
  | 1 => onTile n (fun t => { t with pad := landBytes t.pad f.offset f.nibble f.bytes }) s
  | 3 => match f.elem with | some (ch, id, i) => copyWriteElem n ch id i s | none => s
  | 4 => postReply n f.sender (some (Fin.ofNat 4 f.offset)) (leNat f.bytes) s
  | _ => s

/-- The oldest flit of a tile's receive buffer is delivered, and its credit returns. A window AMO is delivered when its strand
performs it (R390). -/
def deliverOne (n : Nat) (s : State) : State :=
  match (tileAt s n).net.rx with
  | f :: rest =>
    if f.kind == 2 && amoWaits s f then s else releaseCredits n (landFlit n f (onNet n (NetIf.taken rest) s))
  | [] => s

/-- FLIT_DELIVERY. -/
def execFlitDelivery (tile : Nat) (s : State) : Host.Outcome State Fault Refusal :=
  let t := tileAt s tile
  .next (if t.net.frozen || clockStopped t then s else deliverOne tile s)

/-- The interface of tile `n` serves again: its peers and the port stop holding the traffic to it, those with credits release
what they held, and what the interface holds itself goes out (R392). -/
def reconnect (n : Nat) (s : State) : State := injectHeld n (releaseCredits n (unhold n (keyOn s n) s))

/-- RECON: a restored tile's interface tells its peers their counts (R392). -/
def execRecon (tile : Nat) (s : State) : Host.Outcome State Fault Refusal :=
  let t := tileAt s tile
  .next (if t.net.frozen && !clockStopped t && decide (tile < Config.tiles) then reconnect tile s else s)

/-! ### Restores (R31, R343, R389, R392) -/

/-- How a restored strand stands on its tile: after a forced stop whose engines had not come to rest they do so again. -/
def restoredRun (vellum : Bool) : StopWhy → RunState
  | .hold c q r => if vellum then .resting (.hold c q r) else .parked (.hold c q r)
  | .halt => .halted .running
  | .haltAt w => .halted (.resting w)
  | .yield | .deadline | .quota => .running

/-- Put a saved strand on tile `n`: the gang map is re-bound, and its interface stays frozen until RECON (R31, R392). -/
def placeSaved (x : Saved) (n : Nat) (s : State) : State :=
  let k := x.key
  let t := { tileAt s x.home with
    run := restoredRun x.vellum x.why, unreported := (tileAt s n).unreported, atStop := none }
  let s := moveAll x.home n (setTile (forgetTile x.home s) n t)
  let s := onDev (fun d => { d with saved := d.saved.filter fun y => y.key != k }) s
  setMember k (.on n) (onGang k.queue k.record k.gang (fun g => { g with tiles := g.tiles.set k.tile n }) s)

end Sys2Proof.Machine
end

