-- ==== Sys2Proof/Machine/Service.lean ====
section
/-!
DEFINITION. Accesses at their serialisation points, merging in the routers, beats on the port lanes, the service of page
causes (R374, R375), and the forming of folios (R337 to R340).
-/

namespace Sys2Proof.Machine

open Sys2Proof

/-! ### Reduction AMOs in the routers (R106, R111, R112) -/

/-- The AMO operation of a code. -/
def amoOf (c : Nat) : AmoKind :=
  match c with
  | 0 => .add | 1 => .and | 2 => .or | 3 => .xor | 4 => .min | 5 => .max | 6 => .minz | 7 => .maxz | 8 => .swap
  | 9 => .faddF32 | _ => .faddBf16

/-- A strand whose AMO has been performed has met the releases that were there (R99). -/
def meetRels (k : StrandKey) (rels : List Release) (s : State) : State :=
  onTiles (fun _ t => if t.owner = some k then
      { t with ord := { t.ord with met := t.ord.met ++ rels.filter fun r => !t.ord.met.contains r } }
    else t) s

/-- Two posted AMOs carry AMOs of one strand to one granule, so that they keep their program order (R102). -/
def ordersAmo (x y : RouterAmo) : Bool :=
  x.place == y.place && x.addr / 32 == y.addr / 32 && x.parts.any fun p => y.parts.any fun q => p.1 == q.1

/-- No AMO before place `i`, place `but` apart, must be performed before the AMO `r` (R102). -/
def amoFirst (l : List RouterAmo) (i : Nat) (but : Option Nat) (r : RouterAmo) : Bool :=
  (List.range i).all fun j => but == some j || match l[j]? with | some x => !ordersAmo x r | none => true

/-- The acknowledgement of an AMO comes back to its strand: where the strand's tile does not take it now, it waits at the
network interface (R33, R95, R390). -/
def ackTo (k : StrandKey) (s : State) : State :=
  match (allTiles s).find? fun t => t.2.owner == some k with
  | some t => if unserved t.2 then postPort t.1 ⟨5, k, true, 0, [], none, none⟩ s else s
  | none => s

/-- The AMO at place `i` of the routers is performed at its home slice; every AMO it carries counts as performed. -/
def routerPerform (i : Nat) (s : State) : State :=
  match s.dev.router[i]?.filter (amoFirst s.dev.router i none) with
  | none => s
  | some r =>
    let w := r.ty.bits / 8
    let old := (placeMem s r.place).readNat r.addr w
    let rels := relsOf s r.place r.addr w
    let s := setPlaceMem s r.place ((placeMem s r.place).writeNat r.addr w (amoValue (amoOf r.opcode) r.ty.bits old r.operand))
    let s := r.parts.foldl (fun s p =>
      addRels r.place r.addr w (p.2.map fun x => { x with scope := scopeAt r.place x.scope }) (meetRels p.1 rels s)) s
    r.parts.foldl (fun s p => ackTo p.1 s) (onDev (fun d => { d with router := d.router.eraseIdx i }) s)

/-- MEMORY_ACCESS_PERFORM: one posted access at its serialisation point. -/
def execMemoryAccessPerform (sel : AccessSel) (s : State) : Host.Outcome State Fault Refusal :=
  .next (match sel with
    | .copyRead n ch id i => copyReadElem n ch id i s
    | .copyWrite n ch id i => copyWriteElem n ch id i s
    | .copyPrint n id => copyPrint n id s
    | .routerAmo i => routerPerform i s
    | .fibreWrite n unit => performFibre n unit s)

/-- Whether a router may merge two AMOs (R111). -/
def mayMerge (x y : RouterAmo) : Bool :=
  x.opcode == y.opcode && x.ty == y.ty && x.place == y.place && x.addr == y.addr && !x.noMerge && !y.noMerge

/-- One AMO that carries the combined operand of two (R111, R112). -/
def mergeAmo (x y : RouterAmo) : RouterAmo :=
  { x with operand := amoValue (amoOf x.opcode) x.ty.bits x.operand y.operand, parts := x.parts ++ y.parts }

/-- ROUTER_AMO_MERGE of the AMOs at places `i` < `j`. -/
def execRouterAmoMerge (i j : Nat) (s : State) : Host.Outcome State Fault Refusal :=
  .next (match s.dev.router[i]?, s.dev.router[j]? with
    | some x, some y =>
      if i < j ∧ mayMerge x y = true ∧ amoFirst s.dev.router j (some i) y = true then
        onDev (fun d => { d with router := (d.router.set i (mergeAmo x y)).eraseIdx j }) s
      else s
    | _, _ => s)

/-! ### Beats (R293 to R295, R301 to R303, R315) -/

/-- The units that a beat counts for the ratio: elements of DATA, tokens of TOKENS (R302). -/
def beatUnits (bits : Nat) (b : Beat) : Nat :=
  if isData b then 8 * beatLen b / max 1 bits else if isTokens b then (beatRecords b).length else 0

/-- Input units after a beat, by message, the one under way last: an END closes it (R303). -/
def countIn (bits : Nat) (b : Beat) (l : List Nat) : List Nat :=
  if isEnd b then (if l.isEmpty then [0, 0] else l ++ [0])
  else match l.reverse with
    | [] => [beatUnits bits b]
    | x :: xs => (xs.reverse) ++ [x + beatUnits bits b]

/-- Whether a port of a region takes a beat from a lane: the region is bound, and the edge buffer has room (R302). -/
def edgeRoom (g : Region) (m : ManPort) (buf : List Beat) : Bool := g.state == .bound && decide (buf.length < m.depth)

/-- What the operator has left in an edge buffer: it takes beats when it pleases (R307; log 5). -/
def edgeLeft (s : State) (r : Nat) (port : Nat) (buf : List Beat) : List Beat :=
  buf.drop (freeAt s (2 ^ 72 + r * 8 + port) % (buf.length + 1))

/-- Whether a tile's ports move beats: its interface is neither frozen nor stopped (R391). -/
def portsRun (t : Tile) : Bool := !t.net.frozen && !clockStopped t

/-- Port `j` of physical region `r` takes beat `b`, `buf` being left in its edge buffer; a beat of a tile's stream counts for
the ratio (R302, R303). -/
def takeBeat (r j : Nat) (counted : Option Nat) (buf : List Beat) (b : Beat) (s : State) : State :=
  onRegion r (fun g => { g with
    edges := alterAt [] (fun _ => buf ++ [b]) j g.edges
    counts := match counted with
      | some bits => alterAt ([], 0) (fun c => (countIn bits b c.1, c.2)) j g.counts
      | none => g.counts
    atBoundary := alterAt true (fun _ => isEnd b) j g.atBoundary }) s

/-- A beat of a tile port's outbound queue goes to its region port. -/
def beatToRegion (n : Nat) (p : Fin 8) (s : State) : State :=
  let t := tileAt s n
  match t.owner, t.ports[p].binding, t.ports[p].tx with
  | some k, some (i, j), b :: rest =>
    match regionNo s k i, manPort s k i j with
    | some r, some m =>
      let g := regionAt s r
      let buf := edgeLeft s r j (g.edges.getD j [])
      if portsRun t && edgeRoom g m buf then
        takeBeat r j (some m.ibits) buf b
          (onTile n (fun t => { t with ports := t.ports.set p { t.ports[p] with tx := rest } }) s)
      else s
    | _, _ => s
  | _, _, _ => s

/-- The tile whose copy or load sends a message. -/
def userTile : PortUser → Nat
  | .copy n _ _ => n
  | .load n => n

/-- The next beat of the message that port `j` of physical region `r` serves, of a copy or a load, goes to the port (R306). -/
def beatToPort (r j : Nat) (s : State) : State :=
  let g := regionAt s r
  match servedMsg g j, g.manifest.bind fun m => m.ports[j]? with
  | some msg, some m =>
    match msg.out with
    | [] => s
    | b :: rest =>
      let buf := edgeLeft s r j (g.edges.getD j [])
      if portsRun (tileAt s (userTile msg.user)) && edgeRoom g m buf then
        takeBeat r j none buf b (onRegion r (fun g => { g with
          serving := mapFirst (fun x => x.port == j) (fun x => { x with out := rest }) g.serving }) s)
      else s
  | _, _ => s

/-- The fault of an operator whose output message ends with a count that breaks its ratio (R303). -/
def ratioFault (i j : Nat) (m : ManPort) (ins outs : Nat) : Option TrapInfo :=
  if m.rin = 0 ∨ outs * m.rin = ins * m.rout then none
  else some ⟨0x103, word (Config.ratioInfo i j), word (ins % 2 ^ 32 + outs * 2 ^ 32), []⟩

/-- The operator sends a beat from its region port to the tile port bound to it. -/
def beatToTile (n : Nat) (p : Fin 8) (b : Beat) (s : State) : State :=
  let t := tileAt s n
  match t.owner, t.ports[p].binding with
  | some k, some (i, j) =>
    match regionNo s k i, manPort s k i j with
    | some r, some m =>
      let g := regionAt s r
      if portsRun t && g.state == .bound && decide (t.ports[p].rx.length < 16) then
        let c := g.counts.getD j ([], 0)
        let outs := c.2 + beatUnits m.obits b
        let fault := if isEnd b then ratioFault i j m (c.1.headD 0) outs else none
        let s := onTile n (fun t => { t with ports := t.ports.set p { t.ports[p] with
          rx := t.ports[p].rx ++ [b]
          broken := if isEnd b then t.ports[p].broken ++ [fault] else t.ports[p].broken } }) s
        onRegion r (fun g => { g with
          counts := alterAt ([], 0) (fun c => if isEnd b then (c.1.tail, 0) else (c.1, outs)) j g.counts }) s
      else s
    | _, _ => s
  | _, _ => s

/-- The message of a user that its port serves, the region being bound (R306). -/
def servedFor (s : State) (u : PortUser) : Option PortMsg :=
  s.dev.regions.findSome? fun r =>
    if r.2.state = .bound then (r.2.serving.find? (·.user == u)).filter fun m => servedMsg r.2 m.port == some m else none

/-- The operator bound to a codec returns a beat to the load that waits on tile `n` and whose message its port serves; END
comes once the whole message has gone out (R306; log 55). -/
def beatToLoad (n : Nat) (b : Beat) (s : State) : State :=
  let t := tileAt s n
  match t.run, t.codec, servedFor s (.load n) with
  | .blocked .codec, some (sent, got), some m =>
    if got.any beatEnds || !portsRun t || (isEnd b && !m.out.isEmpty) then s
    else
      let s := onTile n (fun t => { t with codec := some (sent, got ++ [b]) }) s
      if beatEnds b then dropServing (· == .load n) s else s
  | _, _, _ => s

/-- BEAT_TRANSFER. -/
def execBeatTransfer (sel : BeatSel) (s : State) : Host.Outcome State Fault Refusal :=
  .next (match sel with
    | .toRegion n p => beatToRegion n p s
    | .toTile n p b => beatToTile n p b s
    | .toCopy n ch id b => beatToCopy n ch id b s
    | .toLoad n b => beatToLoad n b s
    | .toPort r j => beatToPort r j s)

/-! ### Requests (R373, R374) -/

/-- The 64 bytes of a request record (R374). -/
def requestBytes (r : Request) : List Byte :=
  leBytes 8 r.va ++ leBytes 8 (r.kind + r.size * 2 ^ 8 + r.id * 2 ^ 16) ++ leBytes 8 r.newAddr ++ List.replicate 40 0

/-- A frame of a page size is in a function's pool (R375). -/
def frameFor (s : State) (fn size : Nat) : Option (Nat × Nat) := (fnRegs s fn).pool.find? fun f => f.2 == size

/-- Whether a request is to be written to the ring: a copy-on-write with a free frame is served without one (R375). -/
def needsRecord (s : State) (r : Request) : Bool :=
  !r.recorded && r.answered.isNone && !(r.kind == 3 && (frameFor s r.fn r.size).isSome)

/-- The answer of a request reaches a command that it holds: a copy restarts from its first element, a matrix command
goes on at its cursor; without service the fault is held for delivery (R117, R228, R252, R374). -/
def answerCmd (id : Nat) (ok : Bool) (c : QCmd) : QCmd :=
  match c.held with
  | some (.service j fail) => if j = id then (if ok then doAgain c else { c with held := some (.fault fail) }) else c
  | _ => c

/-- The fault that a unit of a run held for request `id` delivers when service fails (R291). -/
def unitFail (id : Nat) (r : Run) : Option TrapInfo :=
  r.units.findSome? fun u => match u.2.held with | some (.service j t) => if j = id then some t else none | _ => none

/-- The answer reaches the units of a run. -/
def answerRun (id : Nat) (r : Run) : Run :=
  { r with units := r.units.map fun u =>
      match u.2.held with
      | some (.service j _) => if j = id then (u.1, { u.2 with held := none }) else u
      | _ => u }

/-- The answer reaches the fibre engine of a tile: without service the FGO holds the fault (R291). -/
def answerFibre (id : Nat) (ok : Bool) (t : Tile) : Tile :=
  match t.fibre.run with
  | none => t
  | some r =>
    let q :=
      match if ok then none else unitFail id r with
      | some f => mapFirst (fun c => match c.body with | .go n _ => c.started && n == r.seq | _ => false)
          (fun c => { c with held := some (.fault f) }) t.qFibre
      | none => t.qFibre
    { t with fibre := { t.fibre with run := some (answerRun id r) }, qFibre := q }

/-- The answer of request `id` reaches the engines of a tile. -/
def answerTile (id : Nat) (ok : Bool) (t : Tile) : Tile :=
  let t := { t with
    qLoad := t.qLoad.map (answerCmd id ok), qStore := t.qStore.map (answerCmd id ok)
    qMatrix := t.qMatrix.map (answerCmd id ok), qFibre := t.qFibre.map (answerCmd id ok)
    flight := t.flight.map (answerCmd id ok) }
  answerFibre id ok t

/-- The request that a strand waits for, with the fault of a failed service: in a debug halt too. -/
def awaited (t : Tile) : Option (Nat × TrapInfo) :=
  match t.run with
  | .blocked (.service j fail) | .halted (.blocked (.service j fail)) => some (j, fail)
  | _ => none

/-- The strands that wait for request `id`: each executes its instruction again, or takes the trap precisely (R117,
R374). -/
def answerStrands (id : Nat) (ok : Bool) : List Nat → State → State
  | [], s => s
  | n :: ns, s =>
    let s :=
      match awaited (tileAt s n) with
      | some (j, fail) =>
        if j = id then (if ok then onTile n (fun t => { t with run := runInto t.run }) s else trapAt n fail s) else s
      | none => s
    answerStrands id ok ns s

/-- Every access that joined request `id` walks again and replays, or is delivered unresolved (R374). -/
def answerAll (id : Nat) (ok : Bool) (s : State) : State :=
  answerStrands id ok ((allTiles s).map (·.1)) (onTiles (fun _ t => answerTile id ok t) s)

/-- A request is answered, and is no longer pending (R374). -/
def answer (id : Nat) (ok : Bool) (s : State) : State :=
  answerAll id ok (onDev (fun d => { d with requests := d.requests.filter fun r => !(r.id == id && r.kind != 4) }) s)

/-- A pending request of a function without a ring is delivered at once as unresolved; a copy-on-write that has been served
lets its writes replay without a record (R373). -/
def withoutRing (i : Nat) (r : Request) (s : State) : State :=
  answerAll r.id (r.kind == 4) (onDev (fun d => { d with requests := d.requests.eraseIdx i }) s)

/-- SERVICE_REQUEST_RECORD of the pending request at place `i`: once the ring has a slot, the record is written at FTAIL
and FVEC is signalled; the writes of a copy-on-write that has been served then replay (R373 to R375). -/
def execServiceRequestRecord (i : Nat) (s : State) : Host.Outcome State Fault Refusal :=
  .next (match s.dev.requests[i]?.filter (needsRecord s) with
    | none => s
    | some r =>
      let f := fnRegs s r.fn
      if f.fring = 0 then withoutRing i r s
      else if (f.ftail + 1) % 64 != f.fhead then
        let s := onDev (fun d => { d with mem := d.mem.writeBytes (f.fring * 4096 + 64 * f.ftail) (requestBytes r) }) s
        let s := onFn r.fn (fun x => { x with ftail := (x.ftail + 1) % 64 }) s
        let s := signal r.fn f.fvec s
        if r.kind = 4 then withoutRing i r s
        else onDev (fun d => { d with requests := d.requests.set i { r with recorded := true } }) s
      else s)

/-! ### Copy-on-write (R375) -/

/-- The first entry's device address and the number of the entries that map the page at `va`, with one of them (R367). -/
def pageEntries (s : State) (fn va : Nat) : Option (Nat × Nat × Nat) :=
  match walk s (spaceOf s fn 0) va with
  | .ok x =>
    let n := groupEntries (pteSize x.entry)
    let first := x.eaddr / 8 % 512 / n * n
    some (x.eaddr / 4096 * 4096 + 8 * first, n, x.entry)
  | .error _ => none

/-- An entry after the remap: the new ADDR, W = 1, COW = 0, all else kept (R375). The frames of the pool lie in device memory,
so that LOC of a host page becomes 0, as replay in the new frame needs it (log 57). -/
def remapped (frame e : Nat) : Nat :=
  let e := e - fieldOf e 20 44 * 2 ^ 20 + frame / 4096 * 2 ^ 20
  let e := if pteW e then e else e + 2 ^ 3
  let e := if pteHost e then e - 2 ^ 8 else e
  if pteCow e then e - 2 ^ 5 else e

/-- Write the new entries of a page's group. -/
def remapGroup (frame : Nat) (m : Memory) (first : Nat) : Nat → Memory
  | 0 => m
  | n + 1 => remapGroup frame (m.writeNat first 8 (remapped frame (m.readNat first 8))) (first + 8) n

/-- Where byte `i` of a page lies that a leaf entry maps; a host page is found by the function's translations (R368; log
57). -/
def pageByte (s : State) (fn e i : Nat) : Option (Place × Nat) :=
  let a := pteAddr e + i
  if pteHost e then
    (s.dev.ats.find? fun x => x.fn == fn && x.pasid.isSome && x.page == a / 4096).map fun x => (.host, x.target * 4096 + a % 4096)
  else some (.dev, a)

/-- The bytes of a page from byte `i` on. -/
def pageContents (s : State) (fn e i : Nat) : Nat → Option (List Byte)
  | 0 => some []
  | n + 1 => do
    let (p, a) ← pageByte s fn e i
    let rest ← pageContents s fn e (i + 1) n
    some ((placeMem s p).read a :: rest)

/-- A granule of the 4 KiB at `old` after its move to device address `new` (R375). -/
def frameGran (p : Place) (old new : Nat) (g : Gran) : Gran :=
  if g.place = p ∧ old / 32 ≤ g.index ∧ g.index < (old + 4096) / 32 then ⟨.dev, g.index - old / 32 + new / 32⟩ else g

/-- Race marks, constant-load marks and releases of 4 KiB move with the page (R76, R108, R375). -/
def moveFrame (p : Place) (old new : Nat) (d : Dev) : Dev :=
  { d with
    marks := d.marks.map fun m => { m with gran := frameGran p old new m.gran }
    consts := d.consts.map fun c => { c with gran := frameGran p old new c.gran }
    syncs := d.syncs.map fun x =>
      if x.place = p ∧ old ≤ x.addr ∧ x.addr < old + 4096 then { x with place := .dev, addr := x.addr - old + new } else x }

/-- Those of a whole page move. -/
def movePage (fn e frame : Nat) (s : State) : State :=
  (List.range (pageBytes (pteSize e) / 4096)).foldl (fun s j =>
    match pageByte s fn e (4096 * j) with
    | some (p, a) => onDev (moveFrame p a (frame + 4096 * j)) s
    | none => s) s

/-- Remove the cached translations of a range of a function (R376). -/
def forgetRange (fn lo n : Nat) (d : Dev) : Dev :=
  { d with tlb := d.tlb.filter fun e => !(e.fn == fn && decide (e.vbase < lo + n ∧ lo < e.vbase + e.size)) }

/-- COW_SERVICE of the pending request at place `i`: a frame is taken, the page copied and remapped, the old translation
invalidated; the held writes replay once the KIND 4 record has been written, or at once where the function has no ring (R373,
R375). -/
def execCowService (i : Nat) (s : State) : Host.Outcome State Fault Refusal :=
  .next (match s.dev.requests[i]? with
    | none => s
    | some r =>
      match frameFor s r.fn r.size, pageEntries s r.fn r.va with
      | some frame, some (first, n, e) =>
        if r.kind = 3 ∧ r.recorded = false ∧ pteCow e = true then
          match pageContents s r.fn e 0 (pageBytes r.size) with
          | none => answer r.id false s
          | some bytes =>
            let s := movePage r.fn e frame.1 s
            let s := onDev (fun d => { d with
              mem := remapGroup frame.1 (d.mem.writeBytes frame.1 bytes) first n
              requests := d.requests.set i { r with kind := 4, newAddr := frame.1 } }) s
            let s := onDev (forgetRange r.fn r.va (pageBytes r.size)) s
            let s := onFn r.fn (fun x => { x with pool := x.pool.eraseP fun f => f == frame }) s
            if (fnRegs s r.fn).fring = 0 then withoutRing i { r with kind := 4 } s else s
        else s
      | _, _ => s)

/-! ### Folios (R337 to R340) -/

/-- Whether an instruction ends a folio (R337). -/
def endsFolio (i : Instr) : Bool :=
  match i with
  | .j _ | .jl _ | .jr _ _ | .endStrand _ | .trap _ _ _ | .ctxload _ _ _ => true
  | _ => false

/-- The words of a folio, from those that are left of its page. -/
def folioRun : List Word → List Word
  | [] => []
  | w :: ws => if endsFolio (decodeWord w) then [w] else w :: folioRun ws

/-- The eight-byte words of `n` words of bytes. -/
def wordsOf : Nat → List Byte → List Word
  | 0, _ => []
  | n + 1, bs => word (leNat (bs.take 8)) :: wordsOf n (bs.drop 8)

/-- Leaf `i` of a text (R331). -/
def leafOf (i : Nat) (page : List Byte) : List Byte := shake256 ((0 : Byte) :: leBytes 4 i ++ page) 64

/-- Whether a page of an object's text, at index `i`, matches its leaf; a page beyond the text has no leaf to match. -/
def pageIntact (o : Obj) (i : Nat) (page : List Byte) : Bool :=
  match o.leaves[i]? with | some l => decide (i < o.textPages) && leafOf i page == l | none => false

/-- Whether a page-check result is of a page of a root. -/
def PageCheck.is (tenant : Nat) (root : List Byte) (page : Word) (c : PageCheck) : Bool :=
  c.tenant == tenant && c.root == root && c.page == page

/-- Keep the result of a page's check, in place of that of its earlier mapping (R340). -/
def notePage (c : PageCheck) (s : State) : State :=
  onDev (fun d => { d with pages := c :: d.pages.filter fun x => !x.is c.tenant c.root c.page }) s

/-- The text page of a task at `page`: its bytes, and whether it matches its leaf, which is checked once for each mapping of a
frame (R340). For an object loaded with EAGER a frame that does not match is refused: the page's earlier frame stays in use,
or, where there is none, the page counts as not present (R122, R342; log 41). INFO0 of a failed service is the VPC. -/
def textPage (s : State) (t : Task) (as : AddrSpace) (page vpc : Nat) : Except Stop (State × List Byte × Bool) := do
  let f ← (locate s as .fetch page).mapError fun e =>
    match e with
    | .trap i => .trap { i with info0 := word vpc }
    | .service fn kind va size fail => .service fn kind va size { fail with info0 := word vpc }
    | e => e
  need (!(f.place == .dev && poisoned s f.addr 4096)) (.cause 0x1C3 0)
  let s := touch as .fetch f s
  let bytes := (placeMem s f.place).readBytes f.addr 4096
  let root := rootOf s t
  let o := objOf s t
  let ok := o.any fun o => decide (t.base.toNat ≤ page) && pageIntact o ((page - t.base.toNat) / 4096) bytes
  let refused := !ok && o.any (·.eager)
  let checked := notePage ⟨t.trec.tenant, root, word page, f.place, f.addr, ok⟩ s
  match s.dev.pages.find? (PageCheck.is t.trec.tenant root (word page)) with
  | some c =>
    if c.place = f.place ∧ c.addr = f.addr then .ok (s, bytes, c.intact)
    else if refused then .ok (s, (placeMem s c.place).readBytes c.addr 4096, c.intact)
    else .ok (checked, bytes, ok)
  | none => if refused then .error (.service as.fn 2 page 0 (unresolved 2 vpc)) else .ok (checked, bytes, ok)

/-- The folio of a task that starts at a VPC (R337, R338). -/
def formFolio (s : State) (t : Task) (as : AddrSpace) (vpc : Nat) : Except Stop (State × Folio) := do
  let page := vpc / 4096 * 4096
  let (s, bytes, intact) ← textPage s t as page vpc
  let words := folioRun (wordsOf ((4096 - vpc % 4096) / 8) (bytes.drop (vpc % 4096)))
  .ok (s, {
    tenant := t.trec.tenant, root := rootOf s t, binding := t.factors, page := word page, first := word vpc,
    last := word (vpc + 8 * (words.length - 1)), words := words, intact := intact })

/-- Bytes that a folio takes: at most 128 + 24 for each instruction, else open; a function of its key, its page and its entry
(R337, R344; log 41). -/
def folioSize (s : State) (f : Folio) : Nat :=
  Config.folioBytes f.tenant f.root (Config.tver s.dev.fwGen) f.binding f.first f.words % (128 + 24 * f.words.length) + 1

/-- Bytes of the cached folios that satisfy `p`. -/
def foliosBytes (s : State) (p : Folio → Bool) : Nat := (s.dev.folios.map fun f => if p f then folioSize s f else 0).sum

/-- A strand executes on a physical tile: one that has stopped has left its folio (R337). -/
def executing (n : Nat) (t : Tile) : Bool :=
  decide (n < Config.tiles) && match t.run with | .running | .blocked _ => true | _ => false

/-- A folio that a strand executes is pinned (R338). -/
def pinned (s : State) (f : Folio) : Bool := (allTiles s).any fun t => executing t.1 t.2 && t.2.folio == some f

/-- The minimum shares granted to the functions from `f` on, `left` MiB being left: in ascending order until their sum would
exceed 128 MiB (R434). -/
def grantShares (s : State) : Nat → List Nat → List (Nat × Nat)
  | _, [] => []
  | left, f :: fs =>
    let want := (fnRegs s f).tcshare
    if want ≤ left then (f, want) :: grantShares s (left - want) fs else []

/-- The minimum share of a tenant, in bytes (R338, R434). -/
def minShare (s : State) (tenant : Nat) : Nat :=
  ((grantShares s 128 (List.range 65)).map fun x => if (fnRegs s x.1).tenant = tenant then x.2 * 2 ^ 20 else 0).sum

/-- Whether a folio may be evicted for one of tenant `tenant`: an unpinned one of the tenant, or of another that does not fit
within its minimum (R338). -/
def evictable (s : State) (tenant : Nat) (g : Folio) : Bool :=
  !pinned s g && (g.tenant == tenant || decide (minShare s g.tenant < foliosBytes s fun h => h.tenant == g.tenant))

/-- Whether a folio fits beside those that are cached. -/
def folioFits (s : State) (f : Folio) : Bool := decide (foliosBytes s (fun _ => true) + folioSize s f ≤ 2 ^ 27)

/-- Evict folios, the oldest first, until `f` fits or none may go (R338). -/
def makeRoom (f : Folio) : Nat → State → State
  | 0, s => s
  | n + 1, s =>
    if folioFits s f then s
    else
      match s.dev.folios.reverse.find? (evictable s f.tenant) with
      | some g => makeRoom f n (onDev (fun d => { d with folios := d.folios.filter (· != g) }) s)
      | none => s

/-- Keep a folio, once there is room; none where it cannot be held (R338, R340). -/
def keepFolio (f : Folio) (s : State) : Option State :=
  let s := makeRoom f s.dev.folios.length s
  if folioFits s f then some (onDev (fun d => { d with folios := f :: d.folios }) s) else none

/-- The Scribe forms the folio that the strand of tile `n` waits for, or raises what it meets at the instruction (R340). -/
def folioFor (n : Nat) (k : StrandKey) (s : State) : State :=
  let t := taskOf s k
  let vpc := (tileAt s n).seq.vpc.toNat
  if (folioAt s t (word vpc)).isSome then runOn n s
  else
    match formFolio s t (strandSpace s k) vpc with
    | .error e => stopShort n e s
    | .ok (s, f) =>
      match keepFolio f s with
      | some s => runOn n s
      | none => trapAt n ⟨0x142, word vpc, word (folioSize s f), []⟩ s

/-- The VPCs at which a task's folios must be formed before it is dispatched: every entry and declared folio entry (R339). -/
def aheadVpcs (s : State) (t : Task) : List Nat :=
  match objOf s t with
  | some o => (o.entries.map (·.1) ++ o.fentries).map fun off => (t.base.toNat + off) % 2 ^ 64
  | none => []

/-- Whether a task is held for its folios: PRETRANSLATE of its object or EAGER of its record (R339, R353). -/
def holdsForFolios (s : State) (t : Task) : Bool :=
  t.trec.eager || match objOf s t with | some o => o.pretranslate | none => false

/-- The folios that a held task still lacks. -/
def missingFolios (s : State) (t : Task) : List Nat :=
  if holdsForFolios s t then (aheadVpcs s t).filter fun v => (folioAt s t (word v)).isNone else []

/-- What the Scribe does ahead of dispatch for one folio: it forms it, or asks for a page that is not present; none where it
can do nothing (R339, R340). -/
def tryAhead (s : State) (t : Task) (vpc : Nat) : Option State :=
  match formFolio s t (spaceOf s t.fn t.pasid) vpc with
  | .ok (s, f) => keepFolio f s
  | .error (.service fn kind va size _) =>
    if (pendingRequest s.dev fn kind va).isSome then none else (askService fn kind va size s).map (·.2)
  | .error _ => none

/-- The Scribe works ahead of dispatch, on the first missing folio for which it can do something (R339, R340). -/
def scribeAhead (s : State) : State :=
  ((s.dev.tasks.filter fun t => t.published == .no && t.nextGang == 0).findSome? fun t =>
    (missingFolios s t).findSome? (tryAhead s t)).getD s

/-- FOLIO_FORMATION: for the strand that waits on tile `n`, or else ahead of dispatch. -/
def execFolioFormation (tile : Nat) (s : State) : Host.Outcome State Fault Refusal :=
  let t := tileAt s tile
  .next (match t.run, t.owner with
    | .blocked .folio, some k => folioFor tile k s
    | _, _ => scribeAhead s)

end Sys2Proof.Machine
end

