-- ==== Sys2Proof/Machine/Tasks.lean ====
section
/-!
DEFINITION. Queues, task records and completions (spec chapter 17: R350 to R357, R361 to R364, R366; R35, R97, R117, R334,
R341, R435, R443).
-/

namespace Sys2Proof.Machine

open Sys2Proof

/-! ### Records (R353) -/

/-- A task record and whether its reserved bits and unused waits are zero (R353). -/
def parseRecord (b : List Byte) : TaskRec :=
  let w := fun i => leNat ((b.drop (8 * i)).take 8)
  let nwait := fieldOf (w 3) 22 4
  let wait := fun i => (⟨word (w (12 + 2 * i)), fieldOf (w (13 + 2 * i)) 0 63, (w (13 + 2 * i)).testBit 63⟩ : WaitCond)
  let unused := (List.range 8).all fun i => decide (i < nwait) || (w (12 + 2 * i) == 0 && w (13 + 2 * i) == 0)
  { args := word (w 0)
    object := fieldOf (w 1) 0 32, entry := fieldOf (w 1) 32 8
    gw := fieldOf (w 1) 40 6 + 1, gh := fieldOf (w 1) 46 6 + 1
    gx := fieldOf (w 2) 0 16, gy := fieldOf (w 2) 16 16, gz := fieldOf (w 2) 32 16
    prio := fieldOf (w 3) 0 6, policy := fieldOf (w 3) 6 2, det := (w 3).testBit 8, handover := (w 3).testBit 9
    eager := (w 3).testBit 10, irq := (w 3).testBit 11, nregion := fieldOf (w 3) 12 5, nbar := fieldOf (w 3) 17 5
    nwait := nwait, irqvec := fieldOf (w 3) 32 11, tenant := fieldOf (w 3) 48 16
    completion := word (w 4), status := word (w 5), trapBase := word (w 6), trapSlots := fieldOf (w 7) 0 32
    deadline := fieldOf (w 8) 0 32, quota := signedOf 64 (w 9), factors := word (w 10), regions := w 11
    waits := (List.range (min nwait 8)).map wait
    resvOk := fieldOf (w 1) 52 12 == 0 && fieldOf (w 2) 48 16 == 0 && fieldOf (w 3) 26 6 == 0 && fieldOf (w 3) 43 5 == 0 &&
      fieldOf (w 7) 32 32 == 0 && fieldOf (w 8) 32 32 == 0 && (List.range 4).all (fun i => w (28 + i) == 0) && unused }

/-- Gangs of a task (R10). -/
def gangCount (r : TaskRec) : Nat := r.gx * r.gy * r.gz

/-- Read 256 bytes of ring slot `i` of a queue (R350); with QHOST = 0 the slot lies in device memory. -/
def readSlot (s : State) (q i : Nat) : Option (List Byte) :=
  let r := queueAt s q
  let a := slotAddr r i
  if r.qhost then pasidRead s r.owner r.pasid a 256
  else
    match locate s (spaceOf s r.owner r.pasid) .read a, devRead s (spaceOf s r.owner r.pasid) a 256 with
    | .ok f, .ok b => if f.place = .dev then some b else none
    | _, _ => none

/-- The pages of ring slot `i` of a queue have been used (R372). -/
def slotUsed (q i : Nat) (s : State) : State :=
  let r := queueAt s q
  if r.qhost then s else devUsed (spaceOf s r.owner r.pasid) (slotAddr r i) 256 s

/-- The binding vector of a task: the supplied value of each declared slot, else its default (R334). `vec` is the
520-byte vector of the record, or none. -/
def bindFactors (o : Obj) (vec : Option (List Byte)) : List (Option Word) :=
  (List.range 64).map fun slot =>
    match find? o.factors slot with
    | none => none
    | some (hasDef, dflt) =>
      match vec with
      | some b =>
        if (leNat ((b.drop 512).take 8)).testBit slot then some (word (leNat ((b.drop (8 * slot)).take 8)))
        else if hasDef then some dflt else none
      | none => if hasDef then some dflt else none

/-- COMPLETION and STATUS can be published through: aligned, canonical and writable (R354). -/
def publishable (s : State) (as : AddrSpace) (r : TaskRec) : Bool :=
  [r.completion.toNat, r.status.toNat].all fun a => a % 8 == 0 && canonical a && devWritable s as a 8

/-- The binding vector that a record names: none for address 0; the outer none where it cannot be read (R334). -/
def readFactors (s : State) (as : AddrSpace) (r : TaskRec) : Option (Option (List Byte)) :=
  if r.factors = 0 then some none
  else match devRead s as r.factors.toNat 520 with | .ok b => some (some b) | .error _ => none

/-- The pages of a binding vector that has been read have been used (R372). -/
def factorsUsed (as : AddrSpace) (r : TaskRec) (s : State) : State :=
  match readFactors s as r with
  | some (some _) => devUsed as r.factors.toNat 520 s
  | _ => s

/-- The most recent earlier record of the queue that dispatched a gang (R355). -/
def predecessor (s : State) (q : Nat) : Option Task := s.dev.tasks.reverse.find? fun t => t.queue == q && decide (0 < t.nextGang)

/-- The checks of R354, as pairs of detail and failure. -/
def recordChecks (s : State) (q fn : Nat) (as : AddrSpace) (r : TaskRec) : List (Nat × Bool) :=
  let obj := s.dev.objs.find? fun o => o.handle == r.object && o.fn == fn
  let entry := obj.bind fun o => o.entries[r.entry]?
  let addrs := [r.args.toNat, r.trapBase.toNat, r.factors.toNat] ++ r.waits.map (·.addr.toNat)
  let pred := predecessor s q
  [(1, !r.resvOk || r.policy == 3 || decide (16 < r.nregion ∨ 16 < r.nbar ∨ 8 < r.nwait ∨ 2 ^ 32 - 1 < gangCount r)),
   (2, entry.isNone),
   (3, decide (64 < r.gw * r.gh) ||
      match entry with | some (_, w, h) => (w != 0 && w != r.gw) || (h != 0 && h != r.gh) | none => false),
   (4, r.gx == 0 || r.gy == 0 || r.gz == 0),
   (5, r.tenant != (fnRegs s fn).tenant),
   (6, match obj with
      | some o => (List.range (min r.nregion 16)).any fun k => decide (o.images.length ≤ fieldOf r.regions (4 * k) 4)
      | none => false),
   (7, decide (r.quota ≤ 0) || r.trapSlots == 0),
   (8, !addrs.all canonical || r.trapBase.toNat % 128 != 0 || r.factors.toNat % 8 != 0 || (readFactors s as r).isNone),
   (9, r.handover && match pred with
      | none => true
      | some p => !(p.trec.gx == r.gx && p.trec.gy == r.gy && p.trec.gz == r.gz && p.trec.gw == r.gw && p.trec.gh == r.gh)),
   (10, !(fnRegs s fn).en)]

/-- The lowest detail that refuses a record, if any (R354). -/
def refusal (s : State) (q fn : Nat) (as : AddrSpace) (r : TaskRec) : Option Nat :=
  ((recordChecks s q fn as r).find? (·.2)).map (·.1)

/-! ### Publication (R35, R97, R356) -/

/-- How far strand `k` is known in a list. -/
def seenUpTo (l : List Seen) (k : StrandKey) : Nat := l.foldl (fun m x => if x.key = k then max m x.upTo else m) 0

/-- The pseudo-regions that a task's strands left open close at its publication (R35), each toward the parties inside its
scope (R96; log 53). -/
def closeTask (t : Task) (d : Dev) : Dev :=
  { d with marks := d.marks.map fun m =>
      let k := partyKey m.party
      if k.queue = t.queue ∧ k.record = t.record ∧ m.party ≠ .strand k then
        { m with stamps := ⟨seenUpTo t.endedPos k, m.scope⟩ :: m.stamps }
      else m }

/-- The strand that a publishing add counts as: of no gang (R97). -/
def publisherKey (t : Task) : StrandKey := ⟨t.queue, t.record, 2 ^ 32, 64⟩

/-- STATE codes of the status word (R356). -/
def pubCode : Published → Nat
  | .no => 0 | .ok => 1 | .faulted => 2 | .aborted => 3 | .cancelled => 4 | .refused => 5

/-- Write a status word and add to a counter: the two writes of a publication, or none where one cannot be made (R356). -/
def writeCompletion (as : AddrSpace) (status counter : Nat) (statusWord : Nat) (failed : Bool) (rel : Release) (s : State) :
    Option State :=
  match devWrite as status (leBytes 8 statusWord) s with
  | .error _ => none
  | .ok s =>
    match devRead s as counter 8, locate s as .update counter with
    | .ok b, .ok f =>
      let old := leNat b
      let new := (old % 2 ^ 63 + 1) % 2 ^ 63 + if failed || old.testBit 63 then 2 ^ 63 else 0
      match devWrite as counter (leBytes 8 new) s with
      | .ok s => some (addRels f.place f.addr 8 [rel] s)
      | .error _ => none
    | _, _ => none

/-- A draining queue is drained once every task of it that has dispatched a gang is published (R361). -/
def settleDrain (q : Nat) (s : State) : State :=
  if (queueAt s q).state = .draining ∧
      ¬ (s.dev.tasks.any fun t => t.queue == q && decide (0 < t.nextGang) && t.published == .no) then
    onQueue q (fun r => { r with state := .drained }) s
  else s

/-- PUBLICATION of record `r` of queue `q`: the status word, the counter, the interrupt, in this order; the release of
R97; a completion that cannot be written puts the queue in ERROR (R350, R356). -/
def publishAs (q r : Nat) (how : Published) (detail cause : Nat) (s : State) : State :=
  let t := taskAt s q r
  let as := spaceOf s t.fn t.pasid
  let w := pubCode how + detail * 2 ^ 8 + cause * 2 ^ 16 + min t.traps (2 ^ 32 - 1) * 2 ^ 32
  let rel : Release := ⟨publisherKey t, .sys, ⟨joinSeen [] t.endedPos, []⟩, false, true⟩
  match writeCompletion as t.trec.status.toNat t.trec.completion.toNat w (how != .ok) rel s with
  | none => queueError q 4 s
  | some s =>
    let s := onDev (fun d => { closeTask t d with published := joinClock d.published ⟨joinSeen [] t.endedPos, []⟩ }) s
    let s := onTask q r (fun t => { t with published := how }) s
    settleDrain q (if t.trec.irq then signal t.fn t.trec.irqvec s else s)

/-- Whether a command belongs to a task. -/
def ofTask (q r : Nat) (c : QCmd) : Bool := c.owner.queue == q && c.owner.record == r

/-- Whether a tile still holds something of a task: a strand, a command, a copy that is not yet visible. -/
def tileHolds (q r : Nat) (t : Tile) : Bool :=
  (match t.owner with | some k => k.queue == q && k.record == r | none => false) ||
    (List.range 4).any (fun i => (engQueue t (engOf i)).any (ofTask q r)) || t.flight.any (ofTask q r) ||
    t.net.rx.any (fun f => f.sender.queue == q && f.sender.record == r) ||
    t.net.outbound.any fun f => f.2.sender.queue == q && f.2.sender.record == r

/-- Every queue of every strand of the task has drained or been dropped, and none of its AMOs is under way (R35, R362,
R443). -/
def taskQuiet (s : State) (q r : Nat) : Bool :=
  !((allTiles s).any fun t => tileHolds q r t.2) &&
    !(s.dev.router.any fun a => a.parts.any fun p => p.1.queue == q && p.1.record == r)

/-- No gang of a task runs, is saved, or is still to be dispatched. -/
def gangsOver (s : State) (t : Task) : Bool :=
  (t.stopping || decide (gangCount t.trec ≤ t.nextGang)) &&
    (s.dev.gangs.filter fun g => g.queue == t.queue && g.record == t.record).all fun g => g.members.all (· == .ended)

/-- TASK_COMPLETION_PUBLISH: OK, or FAULTED with the first cause that was delivered (R35, R117, R356). An aborted task is
published by ABORT_COMPLETE. -/
def execTaskCompletionPublish (queue record : Nat) (s : State) : Host.Outcome State Fault Refusal :=
  .next (match s.dev.tasks.find? (Task.is queue record) with
    | none => s
    | some t =>
      if t.published = .no ∧ t.aborted = false ∧ (0 < t.nextGang ∨ t.stopping = true) ∧ gangsOver s t = true ∧
          taskQuiet s queue record = true then
        match t.firstCause with
        | some (c, _, _, _) => publishAs queue record .faulted 0 c s
        | none => publishAs queue record .ok 0 0 s
      else s)

/-! ### Becoming head (R352, R354, R358, R360) -/

/-- The head of a queue: the last record that became head. -/
def headTask (s : State) (q : Nat) : Option Task :=
  s.dev.tasks.reverse.find? fun t => t.queue == q && t.record == ((queueAt s q).head + 2 ^ 32 - 1) % 2 ^ 32

/-- Whether a head has been dispatched whole, refused, cancelled or otherwise finished, so that the next record may become
head (R358). -/
def headDone (t : Task) : Bool := t.published != .no || t.stopping || decide (gangCount t.trec ≤ t.nextGang)

/-- Whether a region holds an image for a function. -/
def holdsImage (fn handle ix : Nat) (r : Region) : Bool := r.image == some (fn, handle, ix)

/-- The tasks of a tenant at levels 0 to 3 that have reached head and are not published (R360). -/
def immediateCount (s : State) (fn : Nat) : Nat :=
  (s.dev.tasks.filter fun t => t.fn == fn && decide (t.trec.prio ≤ 3) && decide (t.level ≤ 3) && t.published == .no).length

/-- Tiles of the running and waiting gangs of immediate tasks (R360). -/
def immediateTiles (s : State) : Nat :=
  (s.dev.tasks.filter fun t => t.immediate && t.published == .no).foldl (fun n t =>
    let live := (s.dev.gangs.filter fun g => g.queue == t.queue && g.record == t.record &&
      g.members.any (· != .ended)).length
    n + t.trec.gw * t.trec.gh * (live + (gangCount t.trec - t.nextGang))) 0

/-- A machine check or a Ligature recovery is in progress: a bound region at 110 degrees is still to be stopped, or a link
retrains (R360, R410, R437; log 59). -/
def recovering (s : State) : Bool :=
  (s.dev.links.any fun l => l.2.retraining) || s.dev.regions.any fun r => decide (110 ≤ r.2.temp) && r.2.state == .bound

/-- The conditions of R360 other than the count, when a task becomes head (R435). -/
def immediateOk (s : State) (t : Task) : Bool :=
  let images := (List.range t.trec.nregion).map fun k => fieldOf t.trec.regions (4 * k) 4
  decide (24 * (immediateTiles s + t.trec.gw * t.trec.gh * gangCount t.trec) ≤ 10 * s.dev.immPool) &&
    decide (s.dev.immDl ≤ 16384) && !t.trec.handover && !recovering s &&
    (t.trec.eager || (aheadVpcs s t).all fun v => (folioAt s t (word v)).isSome) &&
    images.all fun ix => s.dev.regions.any fun r => r.2.state == .held && holdsImage t.fn t.trec.object ix r.2

/-- A task that becomes head at levels 0 to 3 beside four others runs as level 4 (R360). -/
def headLevel (s : State) (t : Task) : Nat := if t.trec.prio ≤ 3 ∧ 4 ≤ immediateCount s t.fn then 4 else t.trec.prio

/-- Add a task that becomes head; a published task of the same name, from before a RESET, gives way. -/
def addTask (t : Task) (d : Dev) : Dev :=
  { d with
    tasks := d.tasks.filter (fun x => !(Task.is t.queue t.record x)) ++ [t]
    gangs := d.gangs.filter fun g => !(g.queue == t.queue && g.record == t.record) }

/-- The record at HEAD becomes head: it is read and checked, and refused on failure (R352, R354). -/
def becomeHead (q : Nat) (s : State) : State :=
  let r := queueAt s q
  match readSlot s q r.head with
  | none => queueError q 3 s
  | some b =>
    let rec_ := parseRecord b
    let as := spaceOf s r.owner r.pasid
    let s := slotUsed q r.head s
    if !publishable s as rec_ then queueError q 4 s
    else
      let t := Task.start q r.head r.owner r.pasid rec_
      let s := factorsUsed as rec_ s
      let s := onQueue q (fun r => { r with head := (r.head + 1) % 2 ^ 32 }) s
      match refusal s q r.owner as rec_ with
      | some d => publishAs q r.head .refused d 0 (onDev (addTask t) s)
      | none =>
        match s.dev.objs.find? fun o => o.handle == rec_.object && o.fn == r.owner with
        | none => s
        | some o =>
          let t := { t with factors := bindFactors o ((readFactors s as rec_).bind id), base := o.base, level := headLevel s t }
          let t := { t with immediate := decide (t.level ≤ 3) && immediateOk s t }
          onDev (addTask t) s

/-- RECORD_HEAD. -/
def execRecordHead (queue : Nat) (s : State) : Host.Outcome State Fault Refusal :=
  let r := queueAt s queue
  let free := match headTask s queue with | some t => headDone t | none => true
  .next (if r.state = .running ∧ r.head ≠ r.tail ∧ free = true then becomeHead queue s else s)

/-! ### Waits (R341, R355, R357) -/

/-- The word of a wait's counter. -/
def waitWord (s : State) (t : Task) (w : WaitCond) : Option Nat :=
  match devRead s (spaceOf s t.fn t.pasid) w.addr.toNat 8 with | .ok b => some (leNat b) | .error _ => none

/-- Whether a wait is met. -/
def waitMet (s : State) (t : Task) (w : WaitCond) : Bool :=
  match waitWord s t w with | some x => decide (w.thresh ≤ x % 2 ^ 63) | none => false

/-- The lowest CANCEL wait whose counter reads FAILED (R357). -/
def cancelWait (s : State) (t : Task) : Option Nat :=
  (List.range t.trec.waits.length).find? fun i =>
    match t.trec.waits[i]? with
    | some w => !w.proceed && match waitWord s t w with | some x => x.testBit 63 | none => false
    | none => false

/-- The predecessor whose tiles a HANDOVER task takes over: the most recent earlier record that dispatched a gang. -/
def handedFrom (s : State) (t : Task) : Option Task :=
  (s.dev.tasks.takeWhile fun x => !Task.is t.queue t.record x).reverse.find? fun x =>
    x.queue == t.queue && decide (0 < x.nextGang)

/-- A HANDOVER task waits for its predecessor's publication (R355). -/
def handoverMet (s : State) (t : Task) : Bool :=
  !t.trec.handover || match handedFrom s t with | some p => p.published != .no | none => true

/-- Whether a task's root is quarantined for its tenant (R341). -/
def quarantined (s : State) (t : Task) : Bool := s.dev.quarantine.contains (t.fn, rootOf s t)

/-- What the SIGINCs on the counters of a task's waits have released (R177; log 26). -/
def waitGain (s : State) (t : Task) : Clock :=
  t.trec.waits.foldl (fun c w =>
    match locate s (spaceOf s t.fn t.pasid) .read w.addr.toNat with
    | .ok f => ((relsOf s f.place f.addr 8).filter (·.sig)).foldl (fun c r => joinClock c r.clock) c
    | .error _ => c) Clock.none

/-- The pages of the counters of a task's waits have been used (R372). -/
def waitsUsed (t : Task) (s : State) : State :=
  t.trec.waits.foldl (fun s w => devUsed (spaceOf s t.fn t.pasid) w.addr.toNat 8 s) s

/-- Re-evaluate the head of a queue: ready, cancelled, or, with a quarantined root, finished FAULTED undispatched (R341,
R357). -/
def evalWaits (q : Nat) (s : State) : State :=
  match headTask s q with
  | none => s
  | some t =>
    if (queueAt s q).state ≠ .running ∨ t.published ≠ .no ∨ t.stopping = true ∨ 0 < t.nextGang then s
    else if quarantined s t then publishAs q t.record .faulted 0 0 s
    else if t.ready then s
    else if handoverMet s t && t.trec.waits.all (waitMet s t) then
      let s := waitsUsed t s
      match cancelWait s t with
      | some w => publishAs q t.record .cancelled w 0 s
      | none => onTask q t.record (fun x => { x with ready := true, gain := waitGain s t }) s
    else waitsUsed t s

/-- WAIT_EVALUATION of the head of a queue. -/
def execWaitEvaluation (queue : Nat) (s : State) : Host.Outcome State Fault Refusal := .next (evalWaits queue s)

/-- WAIT_POLL_TIMER: every head is re-evaluated. -/
def execWaitPollTimer (s : State) : Host.Outcome State Fault Refusal :=
  .next (s.dev.queues.foldl (fun s q => evalWaits q.1 s) s)

/-- AGING_INTERVAL: for some of the ready heads, which timing decides (log 5), a further AGEINT of microseconds has passed
since they became ready; AGEINT = 0 disables aging (R347, R358). -/
def execAgingInterval (s : State) : Host.Outcome State Fault Refusal :=
  let age := fun t : Task =>
    if t.ready ∧ t.published = .no ∧ freeAt s (2 ^ 76 + t.queue * 2 ^ 32 + t.record) % 2 = 1 then
      { t with age := t.age + s.dev.ageInt }
    else t
  .next (if s.dev.ageInt = 0 then s else onDev (fun d => { d with tasks := d.tasks.map age, ageTicks := d.ageTicks + 1 }) s)

/-! ### Doorbells and queue commands (R351, R361 to R364, R366, R425) -/

/-- The queue that is the `k`-th that a function sees: the PF sees all, a VF its own in ascending number (R346). -/
def queueSeen (s : State) (fn k : Nat) : Option Nat :=
  if fn = 0 then (if k < Config.queues then some k else none)
  else ((List.range Config.queues).filter fun q => (queueAt s q).owner == fn)[k]?

/-- A doorbell's value above 2^QLOG2 records from HEAD exceeds the ring, one behind TAIL moves backwards (R351). -/
def ringDoorbell (q : Nat) (v : Nat) (s : State) : State :=
  let r := queueAt s q
  let ahead := (v % 2 ^ 32 + 2 ^ 32 - r.head) % 2 ^ 32
  if 2 ^ 32 ≤ v ∨ queueSlots r < ahead then queueError q 1 s
  else if ahead < (r.tail + 2 ^ 32 - r.head) % 2 ^ 32 then queueError q 2 s
  else onQueue q (fun r => { r with tail := v % 2 ^ 32 }) s

/-- DOORBELL: an 8-byte write into a function's BAR2. The first word of a page is the doorbell of the queue that the page
is (R346); it is ignored elsewhere in the page, in DISABLED and ERROR, during RESET, and on a queue that takes records
from LAUNCH (R351). An ABORT that has met an error ends in ERROR. -/
def execDoorbell (at_ : BellAddr) (v : Word) (s : State) : Host.Outcome State Fault Refusal :=
  .next (match (if at_.addr % 4096 = 0 then queueSeen s at_.fn (at_.addr / 4096) else none) with
    | none => s
    | some q =>
      let r := queueAt s q
      if r.state = .disabled ∨ r.state = .error ∨ (r.state = .aborting ∧ r.err ≠ 0) ∨ r.resetting = true ∨ r.devenq = true then s
      else ringDoorbell q v.toNat s)

/-- A function reaches a queue's block: the PF any, a VF its own (R346). -/
def reaches (s : State) (fn q : Nat) : Bool := decide (q < Config.queues) && (fn == 0 || (queueAt s q).owner == fn)

/-- The checks of ENABLE (R366). -/
def enableOk (s : State) (r : Queue) : Bool :=
  decide (1 ≤ r.qlog2 ∧ r.qlog2 ≤ 16) && canonical r.qbase.toNat && r.qbase.toNat % 256 == 0 &&
    canonical r.dtbase.toNat && r.dtbase.toNat % 64 == 0 && decide (r.dtsize ≤ 65472) && decide (r.owner ≤ 64) &&
    (fnRegs s r.owner).en

/-- QUEUE_ENABLE: from DISABLED or DRAINED; ignored in minimal mode (R361, R366, R425). -/
def execQueueEnable (fn queue : Nat) (s : State) : Host.Outcome State Fault Refusal :=
  let r := queueAt s queue
  .next (if reaches s fn queue && (r.state == .disabled || r.state == .drained) && s.dev.mode != .minimal then
      (if enableOk s r then onQueue queue (fun r => { r with state := .running, err := 0 }) s else queueError queue 5 s)
    else s)

/-- QUEUE_DRAIN (R361, R364). -/
def execQueueDrain (fn queue : Nat) (s : State) : Host.Outcome State Fault Refusal :=
  .next (if reaches s fn queue && (queueAt s queue).state == .running then
      settleDrain queue (onQueue queue (fun r => { r with state := .draining }) s)
    else s)

/-- Drop every command of a task on a tile, with the run of a dropped FGO. -/
def dropTask (q r : Nat) (t : Tile) : Tile :=
  let ran := t.qFibre.any fun c => ofTask q r c && c.started
  { t with
    qLoad := t.qLoad.filter fun c => !ofTask q r c, qStore := t.qStore.filter fun c => !ofTask q r c
    qMatrix := t.qMatrix.filter fun c => !ofTask q r c, qFibre := t.qFibre.filter fun c => !ofTask q r c
    flight := t.flight.filter fun c => !ofTask q r c
    fibre := if ran then { t.fibre with run := none } else t.fibre
    net := { t.net with
      rx := t.net.rx.filter fun f => !(f.sender.queue == q && f.sender.record == r)
      outbound := t.net.outbound.filter fun f => !(f.2.sender.queue == q && f.2.sender.record == r) } }

/-- Region ports drop the messages of copies that are gone from their queues. -/
def settleServing (s : State) : State := (allTiles s).foldl (fun s t => reapServing t.1 s) s

/-- Stop a task by scan: its gangs end, their images and contexts are discarded, and no trap record is written; requests
of its engines are dropped (R362). -/
def scanStop (q r : Nat) (s : State) : State :=
  let s := onTask q r (fun t => { t with aborted := true }) (stopTask q r s)
  settleServing (onTiles (fun _ t => dropTask q r t) s)

/-- Stop every unpublished task of a queue by scan. -/
def scanStopAll (q : Nat) : List Task → State → State
  | [], s => s
  | t :: ts, s => scanStopAll q ts (if t.queue = q ∧ t.published = .no then scanStop q t.record s else s)

/-- ABORT is accepted: it covers what is unpublished up to the present TAIL (R362). -/
def startAbort (q : Nat) (resetting : Bool) (s : State) : State :=
  scanStopAll q s.dev.tasks
    (onQueue q (fun r => { r with state := .aborting, abortTail := r.tail, resetting := resetting }) s)

/-- QUEUE_ABORT: ignored while ABORTING; a DISABLED queue has nothing to abort (R362, R364). -/
def execQueueAbort (fn queue : Nat) (s : State) : Host.Outcome State Fault Refusal :=
  let r := queueAt s queue
  .next (if reaches s fn queue && r.state != .disabled && r.state != .aborting then startAbort queue false s else s)

/-- QUEUE_RESET: an ABORT, or the one in progress, and then DISABLED (R363, R364). -/
def execQueueReset (fn queue : Nat) (s : State) : Host.Outcome State Fault Refusal :=
  let r := queueAt s queue
  .next (if !reaches s fn queue then s
    else if r.state = .aborting then onQueue queue (fun r => { r with resetting := true }) s
    else startAbort queue true s)

/-- Publish the aborted tasks that had become head, in record order. -/
def publishAborted (q : Nat) : List Task → State → State
  | [], s => s
  | t :: ts, s =>
    publishAborted q ts (if t.queue = q ∧ t.aborted = true ∧ t.published = .no then publishAs q t.record .aborted 0 0x182 s else s)

/-- Publish the records from HEAD to the accepted TAIL as ABORTED, each read from its slot; one that cannot be read or
published ends this (R362). -/
def publishBehind (q : Nat) : Nat → State → State
  | 0, s => s
  | n + 1, s =>
    let r := queueAt s q
    if r.head = r.abortTail then s
    else
      match readSlot s q r.head with
      | none => queueError q 3 s
      | some b =>
        let rec_ := parseRecord b
        if !publishable s (spaceOf s r.owner r.pasid) rec_ then queueError q 4 s
        else
          let t := { Task.start q r.head r.owner r.pasid rec_ with aborted := true, stopping := true }
          let s := onDev (addTask t) (slotUsed q r.head s)
          let s := publishAs q r.head .aborted 0 0x182 s
          publishBehind q n (onQueue q (fun r => { r with head := (r.head + 1) % 2 ^ 32 }) s)

/-- The end of an ABORT: DRAINED, or ERROR where it began there or met an error, or, for RESET, DISABLED with HEAD and TAIL
zero (R362, R363, R366). -/
def endAbort (q : Nat) (s : State) : State :=
  onQueue q (fun r =>
    if r.resetting then { r with head := 0, tail := 0, err := 0, state := .disabled, resetting := false }
    else if r.err ≠ 0 then { r with state := .error } else { r with state := .drained }) s

/-- ABORT_COMPLETE: once no request of the aborted tasks is under way, each record is published in order (R362). -/
def execAbortComplete (queue : Nat) (s : State) : Host.Outcome State Fault Refusal :=
  let quiet := s.dev.tasks.all fun t => t.queue != queue || t.published != .no || taskQuiet s queue t.record
  .next (if (queueAt s queue).state = .aborting ∧ quiet = true then
      let s := publishAborted queue s.dev.tasks s
      endAbort queue (publishBehind queue (2 ^ 16 + 1) s)
    else s)

end Sys2Proof.Machine
end

