-- ==== Sys2Proof/Machine/Placement.lean ====
section
/-!
DEFINITION. The dispatcher's placement of gangs (R11, R22, R23, R28, R31, R358 to R360, R401) and the restore of vellum
images (R343, R389).
-/

namespace Sys2Proof.Machine

open Sys2Proof

/-! ### Shapes (R359) -/

/-- The widest rectangle of least area that holds `n` tiles, searched from area `n` on. -/
def leastRect : Nat → Nat → Nat × Nat
  | 0, _ => (16, 8)
  | fuel + 1, area =>
    match (List.range 16).find? (fun i => area % (16 - i) == 0 && decide (area / (16 - i) ≤ 8)) with
    | some i => (16 - i, area / (16 - i))
    | none => leastRect fuel (area + 1)

/-- The physical rectangle of a gang shape. -/
def rectOf (gw gh : Nat) : Nat × Nat :=
  if gw ≤ 16 ∧ gh ≤ 8 then (gw, gh) else if gh ≤ 16 ∧ gw ≤ 8 then (gh, gw) else leastRect 128 (gw * gh)

/-- Where gang tile `i` stands in the rectangle. -/
def cellOf (gw gh i : Nat) : Nat × Nat :=
  if gw ≤ 16 ∧ gh ≤ 8 then (i % gw, i / gw)
  else if gh ≤ 16 ∧ gw ≤ 8 then (i / gw, i % gw)
  else (i % (rectOf gw gh).1, i / (rectOf gw gh).1)

/-- Tile at (x, y) of compute chiplet `c`. -/
def tileOn (c x y : Nat) : Nat := 128 * c + x + 16 * y

/-- The tiles of a gang whose rectangle starts at tile `p` of chiplet `c`, in gang-relative order. -/
def gangTiles (gw gh c p : Nat) : List Nat :=
  (List.range (gw * gh)).map fun i => tileOn c (p % 16 + (cellOf gw gh i).1) (p / 16 + (cellOf gw gh i).2)

/-- All tiles of that rectangle. -/
def rectTiles (gw gh c p : Nat) : List Nat :=
  let r := rectOf gw gh
  (List.range (r.1 * r.2)).map fun i => tileOn c (p % 16 + i % r.1) (p / 16 + i / r.1)

/-- No command, copy or packet of an earlier strand is left on a tile. -/
def tileDrained (t : Tile) : Bool :=
  (List.range 4).all (fun i => (engQueue t (engOf i)).isEmpty) && t.flight.isEmpty && t.net.rx.isEmpty &&
    t.net.outbound.isEmpty

/-- Whether a gang that HANDOVER task `h` has still to dispatch goes to tile `n`, which a strand of the predecessor or of `h`
itself was the last to use (R355; log 58). -/
def keptFor (s : State) (n : Nat) (h : Task) : Bool :=
  h.trec.handover && h.published == .no && !h.stopping && !h.aborted &&
    match handedFrom s h, (telemetryAt s n).lastKey with
    | some p, some k =>
      k.queue == h.queue && (k.record == p.record || k.record == h.record) && s.dev.gangs.any fun x =>
        x.queue == p.queue && x.record == p.record && decide (h.nextGang ≤ x.gang) && x.tiles.contains n
    | _, _ => false

/-- Whether tile `n` can be granted to task `t`: for another tenant, and for a restore, it must have drained (R23, R36); what
it holds is not kept for another task (R355). -/
def tileFree (s : State) (t : Task) (restore : Bool) (n : Nat) : Bool :=
  let x := tileAt s n
  x.owner.isNone && ((!restore && (telemetryAt s n).lastFn == some t.fn) || tileDrained x) &&
    !(s.dev.tasks.any fun h => !Task.is t.queue t.record h && keptFor s n h)

/-- Where a gang of task `t` fits on chiplet `c`: the first free rectangle. -/
def placeOn (s : State) (t : Task) (restore : Bool) (c : Nat) : Option Nat :=
  (List.range 128).find? fun p =>
    decide (p % 16 + (rectOf t.trec.gw t.trec.gh).1 ≤ 16 ∧ p / 16 + (rectOf t.trec.gw t.trec.gh).2 ≤ 8) &&
      (rectTiles t.trec.gw t.trec.gh c p).all (tileFree s t restore)

/-! ### Regions (R38, R394, R395, R401) -/

/-- The regions of a compute chiplet (R359). -/
def chipletRegions (c : Nat) : List Nat := (List.range 32).map (32 * c + ·)

/-- The image indexes that a task's record lists (R38, R353). -/
def imagesOf (t : Task) : List Nat := (List.range t.trec.nregion).map fun k => fieldOf t.trec.regions (4 * k) 4

/-- Whether region `r` serves, or will serve, place `i` of a gang: it holds the image and is not bound, or it is being
loaded for that place. -/
def regionServes (s : State) (t : Task) (g i ix r : Nat) : Bool :=
  let x := regionAt s r
  holdsImage t.fn t.trec.object ix x &&
    match x.state with
    | .idle | .held => true
    | .loading => x.boundTo == some (t.queue, t.record, g, i)
    | _ => false

/-- For each listed image from place `i` on, a loaded region, if there is one. -/
def matchRegions (s : State) (t : Task) (g c : Nat) : Nat → List Nat → List Nat → List (Option Nat)
  | _, _, [] => []
  | i, used, ix :: rest =>
    let r := (chipletRegions c).find? fun r => !used.contains r && regionServes s t g i ix r
    r :: matchRegions s t g c (i + 1) (used ++ r.toList) rest

/-- The regions to load for what is still missing: FREE ones, then IDLE ones, which are evicted (R400). -/
def fillRegions (s : State) (c : Nat) : List Nat → List (Option Nat) → Option (List Nat)
  | _, [] => some []
  | used, some r :: rest => (fillRegions s c used rest).map (r :: ·)
  | used, none :: rest =>
    let free := (chipletRegions c).filter fun r => !used.contains r
    match free.find? (fun r => (regionAt s r).state == .free) <|> free.find? (fun r => (regionAt s r).state == .idle) with
    | some r => (fillRegions s c (r :: used) rest).map (r :: ·)
    | none => none

/-- The regions of chiplet `c` for gang `g` of a task, in list order. -/
def chooseRegions (s : State) (t : Task) (g c : Nat) : Option (List Nat) :=
  let l := matchRegions s t g c 0 [] (imagesOf t)
  fillRegions s c (l.filterMap id) l

/-- A region made FREE: every flip-flop, LUT and buffer is cleared; the sensor and the throttle stay (R399, R410). -/
def Region.cleared (x : Region) : Region := { Region.blank with slotDly := x.slotDly, dlyMax := x.dlyMax, temp := x.temp }

/-- Start to load an image into a region that is FREE or evicted (R400, R401). -/
def loadRegion (fn handle ix : Nat) (forGang : Option (Nat × Nat × Nat × Nat)) (hold : Bool) (r : Nat) (s : State) : State :=
  onRegion r (fun x => { x.cleared with
    state := .loading, image := some (fn, handle, ix), boundTo := forGang, hold := hold }) s

/-- Load what is not loaded. -/
def loadMissing (t : Task) (g : Nat) : Nat → List Nat → State → State
  | _, [], s => s
  | i, r :: rs, s =>
    let ix := (imagesOf t).getD i 0
    loadMissing t g (i + 1) rs
      (if regionServes s t g i ix r then s else loadRegion t.fn t.trec.object ix (some (t.queue, t.record, g, i)) false r s)

/-- Whether every chosen region has its image and has left LOADING (R11, R401). -/
def allLoaded (s : State) (t : Task) (g : Nat) : Nat → List Nat → Bool
  | _, [] => true
  | i, r :: rs =>
    regionServes s t g i ((imagesOf t).getD i 0) r && (regionAt s r).state != .loading && allLoaded s t g (i + 1) rs

/-- The divider at binding: ceil(4,000 / CLKMAX) (R408). -/
def bindDivider (x : Region) : Nat :=
  match x.manifest with | some m => (4000 + m.clkMax - 1) / max 1 m.clkMax | none => 5

/-- Bind the regions of a gang: every state element and edge buffer is reset (R401). -/
def bindRegions (q r g : Nat) : Nat → List Nat → State → State
  | _, [], s => s
  | i, x :: xs, s =>
    bindRegions q r g (i + 1) xs (onRegion x (fun y => { y with
      state := .bound, boundTo := some (q, r, g, i), edges := [], counts := [], atBoundary := [], elements := []
      swapTo := none, serving := [], divider := bindDivider y, newDivider := none }) s)

/-- A region whose gang is over: BOUND becomes IDLE, or HELD where IMGHOLD reserved it; STOPPED and a region being
loaded for it become FREE (R400, R402). -/
def releaseRegion (x : Region) : Region :=
  match x.state with
  | .bound => { x with
      state := if x.hold then .held else .idle
      boundTo := none, edges := [], counts := [], atBoundary := [], elements := [], serving := [], newDivider := none
      swapTo := none }
  | .stopped | .loading | .standby => x.cleared
  | .free | .idle | .held => x

/-! ### Starting a strand (R22, R23, R36) -/

/-- Whether what a scratchpad's granule keeps still stands for a party: a copy that its strand left running, of a task not
yet published (R35, R36). -/
def leftoverMark (s : State) (m : Mark) : Bool :=
  match m.party with
  | .copy k _ _ => m.stamps.isEmpty && (taskOf s k).published == .no
  | _ => false

/-- What the serialisation points keep of tile `n`'s scratchpad when its next strand comes. -/
def clearPad (n : Nat) (s : State) : State :=
  onDev (fun d => { d with
    marks := d.marks.filter fun m => m.gran.place != .pad n || leftoverMark s m
    consts := d.consts.filter fun c => c.gran.place != .pad n
    syncs := d.syncs.filter fun x => x.place != .pad n }) s

/-- The registers at strand start (R22). -/
def startSeq (t : Task) (o : Option Obj) : Seq :=
  let entry := (o.bind fun o => o.entries[t.trec.entry]?).map (·.1)
  { Seq.blank with
    s := (Vector.replicate 64 0).set 1 t.trec.args
    vpc := word (t.base.toNat + entry.getD 0)
    live := match o with | some o => o.features | none => [] }

/-- The tile at strand start: what an earlier strand of the same tenant left in the queues keeps running (R22, R23,
R36). -/
def startTile (k : StrandKey) (t : Task) (o : Option Obj) (published : Clock) (clear : Bool) (old : Tile) : Tile :=
  { Tile.blank with
    owner := some k
    run := .running
    seq := startSeq t o
    pad := if clear then [] else old.pad
    accum := if clear then [] else old.accum
    qLoad := old.qLoad, qStore := old.qStore, qMatrix := old.qMatrix, qFibre := old.qFibre, flight := old.flight
    fibre := ⟨[], [], old.fibre.run⟩
    unreported := old.unreported
    ord := ⟨seenUpTo published.seen k + 1, published, [], []⟩
    net := { old.net with frozen := false, acks := [], credit := [], holding := [], portHeld := false, landing := false } }

/-- Start strand `i` of a gang on tile `n`. Memories are cleared after another tenant, and for a HANDOVER gang that has no
handed-over tiles (R23, R355; log 58). -/
def startStrand (t : Task) (g i n : Nat) (handed : Bool) (s : State) : State :=
  let k : StrandKey := ⟨t.queue, t.record, g, i⟩
  let clear := (telemetryAt s n).lastFn != some t.fn || (t.trec.handover && !handed)
  let s := clearPad n s
  let s := onTile n (startTile k t (objOf s t) (joinClock s.dev.published t.gain) clear) s
  onTelemetry n (fun x => { x with lastFn := some t.fn, lastKey := some k }) s

/-- Start every strand of a gang. -/
def startStrands (t : Task) (g : Nat) (handed : Bool) : Nat → List Nat → State → State
  | _, [], s => s
  | i, n :: ns, s => startStrands t g handed (i + 1) ns (startStrand t g i n handed s)

/-- The effective level of a task: PRIO, or 4 where it was demoted, lowered by one for each full AGEINT since it became ready,
but never below 4; levels 0 to 3 do not age (R347, R358, R360; log 5). -/
def effLevel (s : State) (t : Task) : Nat :=
  if t.level < 4 ∨ s.dev.ageInt = 0 then t.level else max 4 (t.level - t.age / s.dev.ageInt)

/-- Place gang `g` of a task on its tiles with its regions, and start it (R11, R358). -/
def startGang (t : Task) (g : Nat) (tiles regions : List Nat) (handed : Bool) (s : State) : State :=
  let gang : Gang := ⟨t.queue, t.record, g, tiles.map .on, regions, [], [], [], tiles, (fnRegs s t.fn).root, false⟩
  let s := onDev (fun d => { d with
    gangs := d.gangs.filter (fun x => !(Gang.is t.queue t.record g x)) ++ [gang]
    lastServed := keep d.lastServed (effLevel s t) t.queue
    stuck := d.stuck.filter (· != (t.queue, t.record)) }) s
  let s := onTask t.queue t.record (fun x => { x with nextGang := g + 1 }) s
  startStrands t g handed 0 tiles (bindRegions t.queue t.record g 0 regions s)

/-! ### Where an undispatched gang goes (R355, R359) -/

/-- The tiles handed over to gang `g`: those that ran gang `g` of the predecessor, all of them physical. -/
def handedTiles (s : State) (t : Task) (g : Nat) : Option (List Nat) :=
  if t.trec.handover then
    match handedFrom s t with
    | some p =>
      match s.dev.gangs.find? (Gang.is p.queue p.record g) with
      | some x => if x.tiles.all (fun n => decide (n < Config.tiles)) then some x.tiles else none
      | none => none
    | none => none
  else none

/-- The chiplet, tiles and regions for gang `g`, if there is room. -/
def roomFor (s : State) (t : Task) (g : Nat) : Option (List Nat × List Nat) :=
  match handedTiles s t g with
  | some ts =>
    if ts.all (tileFree s t false) then (chooseRegions s t g (chipletOf (ts.headD 0))).map fun rs => (ts, rs) else none
  | none =>
    (List.range 8).findSome? fun c =>
      match placeOn s t false c, chooseRegions s t g c with
      | some p, some rs => some (gangTiles t.trec.gw t.trec.gh c p, rs)
      | _, _ => none

/-! ### Pre-empted gangs (R28, R31, R360, R389, R394, R395) -/

/-- Whether a member runs, or has not yet stopped. -/
def memberStopped (s : State) (m : Member) : Bool :=
  match m with
  | .on n => match (tileAt s n).run with | .parked _ => true | _ => false
  | .saved | .ended => true

/-- A gang that has been stopped as a whole: some member has left its tile, and no member runs (R28). A gang whose images
are being restored is not one. -/
def preempted (s : State) (x : Gang) : Bool :=
  !x.stopping && x.members.any (· == .saved) && x.members.all (memberStopped s) &&
    !((allTiles s).any fun t => decide (t.1 < Config.tiles) && t.2.owner.any fun k =>
      k.queue == x.queue && k.record == x.record && k.gang == x.gang && (savedOf s k).isSome)

/-- Save the members of a stopped gang that were left on their tiles, held for service. -/
def saveParked : List Member → State → State
  | [], s => s
  | .on n :: ms, s =>
    saveParked ms (match (tileAt s n).run with | .parked w => saveTile n false w s | _ => s)
  | _ :: ms, s => saveParked ms s

/-- Set tile `n` aside for the image of strand `k`. -/
def reserveTile (k : StrandKey) (why : StopWhy) (n : Nat) (s : State) : State :=
  onTile n (fun t => { Tile.blank with
    owner := some k, run := .frozen why, pad := t.pad, accum := t.accum, unreported := t.unreported
    net := { Tile.blank.net with frozen := true } }) s

/-- Put the saved members of a gang on their tiles: a context runs on; for a vellum image the tile is set aside. Members
that have ended keep their old tile's number. -/
def resumeMembers (q r g : Nat) : Nat → List Nat → State → State
  | _, [], s => s
  | i, n :: ns, s =>
    let k : StrandKey := ⟨q, r, g, i⟩
    let s :=
      match savedOf s k with
      | none => s
      | some x =>
        let s := onTelemetry n (fun y => { y with lastFn := some (taskOf s k).fn, lastKey := some k }) (clearPad n s)
        if x.vellum then reserveTile k x.why n s else placeSaved x n s
    resumeMembers q r g (i + 1) ns s

/-- The target regions for a stopped gang's regions on chiplet `c`: a region already there, else FREE, else IDLE. -/
def relinkTargets (s : State) (c : Nat) (rs : List Nat) : Option (List Nat) :=
  let own := rs.map fun r => if (chipletRegions c).contains r then some r else none
  fillRegions s c (own.filterMap id) own

/-- Note where a stopped gang's regions will be relinked; a target other than the region itself is loaded for it. -/
def setTargets (q r g : Nat) : Nat → List Nat → List Nat → State → State
  | i, a :: as, b :: bs, s =>
    let s := onRegion a (fun x => { x with swapTo := some b }) s
    let s :=
      match (regionAt s a).image with
      | some (fn, h, ix) => if a = b then s else loadRegion fn h ix (some (q, r, g, i)) false b s
      | none => s
    setTargets q r g (i + 1) as bs s
  | _, _, _, s => s

/-- Whether a region has been relinked for its gang's resume: REGION_RELINK leaves it bound and naming itself. -/
def relinked (s : State) (r : Nat) : Bool := (regionAt s r).state == .bound && (regionAt s r).swapTo == some r

/-- Choose where the stopped regions of a gang are relinked, on a chiplet with room for its tiles. -/
def chooseTargets (t : Task) (x : Gang) (s : State) : Option State :=
  (List.range 8).findSome? fun c =>
    match placeOn s t true c, relinkTargets s c x.regions with
    | some _, some ts => some (setTargets x.queue x.record x.gang 0 x.regions ts s)
    | _, _ => none

/-- A gang waits for its regions to be stopped or relinked. -/
def regionsWait (s : State) (x : Gang) : Bool :=
  !x.regions.all (relinked s) && !x.regions.all fun y => (regionAt s y).state == .stopped && (regionAt s y).swapTo.isNone

/-- Place a stopped gang again: its regions are relinked on one chiplet first, then its members are put there (R31, R40,
R395). None where there is no room, or its regions are still being stopped or relinked. -/
def resumeGang (t : Task) (x : Gang) (s : State) : Option State :=
  if x.regions.all (relinked s) then
    let s := saveParked x.members s
    let chips := match x.regions with | [] => List.range 8 | y :: _ => [y / 32]
    chips.findSome? fun c =>
      (placeOn s t true c).map fun p =>
        let s := onDev (fun d => { d with
          gangs := d.gangs.filter (fun y => !(Gang.is x.queue x.record x.gang y)) ++
            d.gangs.filter (Gang.is x.queue x.record x.gang)
          lastServed := keep d.lastServed (effLevel s t) t.queue
          stuck := d.stuck.filter (· != (t.queue, t.record)) }) s
        let s := x.regions.foldl (fun s r => onRegion r (fun y => { y with swapTo := none }) s) s
        resumeMembers x.queue x.record x.gang 0 (gangTiles t.trec.gw t.trec.gh c p) s
  else if x.regions.all (fun y => (regionAt s y).state == .stopped && (regionAt s y).swapTo.isNone) then chooseTargets t x s
  else none

/-! ### Yield requests (R28, R119, R360) -/

/-- Post a yield request to the strand of tile `n`: a blocked strand stops at once, a held one leaves its tile (R28,
R119). -/
def postYield (d n : Nat) (s : State) : State :=
  let posted := fun t : Tile => { t with yieldReq := some d, sincePost := 0 }
  match (tileAt s n).run with
  | .blocked w =>
    if restartable w then onTile n (fun t => { posted t with run := .resting .yield }) (withdraw true n s) else onTile n posted s
  | .parked w => saveTile n false w s
  | .running | .resting _ | .halted _ => onTile n posted s
  | .free | .frozen _ => s

/-- Post a request to every member of a gang at once. -/
def postGang (d : Nat) : List Member → State → State
  | [], s => s
  | .on n :: ms, s => postGang d ms (postYield d n s)
  | _ :: ms, s => postGang d ms s

/-- A gang that runs: a member stands on a tile. -/
def gangRuns (x : Gang) : Bool := !x.stopping && x.members.any fun m => match m with | .on _ => true | _ => false

/-- A member of a gang has a yield request or a stopped clock. -/
def gangYields (s : State) (x : Gang) : Bool :=
  x.members.any fun m =>
    match m with
    | .on n => (tileAt s n).yieldReq.isSome || match (tileAt s n).run with | .frozen _ => true | _ => false
    | _ => false

/-- The gang to pre-empt for an immediate gang: at levels 4 to 63, the highest level first, and the latest dispatched
among equals (R360). -/
def victim (s : State) : Option Gang :=
  let level := fun x : Gang => effLevel s (taskAt s x.queue x.record)
  s.dev.gangs.foldl (fun best x =>
    if gangRuns x && decide (4 ≤ level x) then
      (match best with | some b => if level b ≤ level x then some x else some b | none => some x)
    else best) none

/-- Pre-empt one gang, unless one is already being stopped, or a machine check or a recovery is in progress (R28, R360). -/
def preempt (s : State) : State :=
  if recovering s || s.dev.gangs.any fun x => decide (4 ≤ effLevel s (taskAt s x.queue x.record)) && gangRuns x && gangYields s x
  then s
  else
    match victim s with
    | none => s
    | some x => postGang (min (taskAt s x.queue x.record).trec.deadline s.dev.immDl) x.members s

/-! ### The next gang (R358) -/

/-- Whether the folios that a task is held for have been formed (R339). -/
def foliosReady (s : State) (t : Task) : Bool := (missingFolios s t).isEmpty

/-- Whether a task may dispatch its next gang: a head of a running queue, or one that has started dispatch (R341, R358,
R361). -/
def mayDispatch (s : State) (t : Task) : Bool :=
  decide (t.nextGang < gangCount t.trec) &&
    if t.nextGang = 0 then
      (queueAt s t.queue).state == .running && (headTask s t.queue).any (Task.is t.queue t.record) && !quarantined s t &&
        foliosReady s t
    else true

/-- The pre-empted gang of a task that comes first. -/
def preemptedGang (s : State) (t : Task) : Option Gang :=
  s.dev.gangs.find? fun x => x.queue == t.queue && x.record == t.record && preempted s x

/-- Whether the dispatcher considers a task: ready, not over, its balance positive (R358, R416). -/
def candidate (s : State) (t : Task) : Bool :=
  t.ready && t.published == .no && !t.stopping && !t.aborted && decide (0 < t.balance) &&
    ((preemptedGang s t).isSome || mayDispatch s t)

/-- The order in which tasks are served: by level; in a level one that waits for room first, then round-robin after the
queue last served (R358). -/
def turnOf (s : State) (t : Task) : Nat :=
  let last := look 0 s.dev.lastServed (effLevel s t)
  effLevel s t * 2 ^ 20 + (if s.dev.stuck.contains (t.queue, t.record) then 0 else 2 ^ 16) +
    (t.queue + 2 * Config.queues - last - 1) % Config.queues

/-- The task to serve. -/
def nextTask (s : State) : Option Task :=
  (s.dev.tasks.filter (candidate s)).foldl (fun best t =>
    match best with | some b => if turnOf s t < turnOf s b then some t else some b | none => some t) none

/-- A gang that cannot be placed yet keeps its turn (R358). -/
def holdTurn (t : Task) (s : State) : State :=
  onDev (fun d => { d with
    stuck := if d.stuck.contains (t.queue, t.record) then d.stuck else d.stuck ++ [(t.queue, t.record)] }) s

/-- A gang without room keeps its turn, and an immediate one has a gang pre-empted (R358, R360). -/
def keepTurn (t : Task) (s : State) : State := if t.immediate then preempt (holdTurn t s) else holdTurn t s

/-- Place the next gang of a task, or start to load what it lacks, or keep its turn. -/
def serve (t : Task) (s : State) : State :=
  match preemptedGang s t with
  | some x =>
    match resumeGang t x s with
    | some s => if preempted s (gangAt s x.queue x.record x.gang) then holdTurn t s else s
    | none => if regionsWait s x then holdTurn t s else keepTurn t s
  | none =>
    match roomFor s t t.nextGang with
    | none => keepTurn t s
    | some (ts, rs) =>
      if allLoaded s t t.nextGang 0 rs then startGang t t.nextGang ts rs (handedTiles s t t.nextGang).isSome s
      else loadMissing t t.nextGang 0 rs (holdTurn t s)

/-- Whether a gang is over and none of its commands is left: its regions are free again (R400). -/
def gangOver (s : State) (x : Gang) : Bool :=
  x.members.all (· == .ended) && !((allTiles s).any fun t =>
    (List.range 4).any fun i => (engQueue t.2 (engOf i)).any fun c =>
      c.owner.queue == x.queue && c.owner.record == x.record && c.owner.gang == x.gang)

/-- Whether what a region is bound to, or being loaded for, is over. -/
def regionOver (s : State) (r : Region) : Bool :=
  match r.boundTo with
  | none => false
  | some (q, c, g, _) =>
    match s.dev.gangs.find? (Gang.is q c g) with
    | some x => gangOver s x
    | none => (taskAt s q c).stopping || (taskAt s q c).published != .no

/-- Whether region `n` is the target of a swap or a relink of a region whose gang is over: the swap is abandoned (R400). -/
def targetOver (s : State) (n : Nat) : Bool :=
  s.dev.regions.any fun r => r.1 != n && r.2.swapTo == some n && regionOver s r.2

/-- Regions of gangs that are over are released. -/
def reap (s : State) : State :=
  onDev (fun d => { d with regions := d.regions.map fun r =>
    (r.1, if targetOver s r.1 then r.2.cleared else if regionOver s r.2 then releaseRegion r.2 else r.2) }) s

/-- GANG_DISPATCH: one decision of the dispatcher (R358). -/
def execGangDispatch (s : State) : Host.Outcome State Fault Refusal :=
  let s := reap s
  .next (match nextTask s with
    | some t => serve t s
    | none => s)

/-! ### VELLUM_RESTORE (R343, R389) -/

/-- The folio in progress of an image, found by its key or formed again, and whether its page is intact (R343, R389). A page
that is not there now, or a folio that cannot be held, is met at execution. -/
def restoreFolio (s : State) (k : StrandKey) (f : Folio) : State × Option Folio :=
  let t := taskOf s k
  match folioAt s t f.first with
  | some g => (s, some g)
  | none =>
    match formFolio s t (strandSpace s k) f.first.toNat with
    | .ok (s, g) => if g.intact then (match keepFolio g s with | some s => (s, some g) | none => (s, none)) else (s, some g)
    | .error _ => (s, none)

/-- A restore is refused: the image is lost, and the record names its instruction. -/
def refuseImage (x : Saved) (info : TrapInfo) (stop : Bool) (s : State) : State :=
  let k := x.key
  let s := noteCause k info.cause (writeRecord x.home k ⟨(tileAt s x.home).seq.vpc, false, none⟩ info s)
  if stop then stopTask k.queue k.record s else policyLost x.home k s

/-- CODE_INTEGRITY of a restore (R114, R343). -/
def imageIntegrity (s : State) (k : StrandKey) (page : Word) : TrapInfo :=
  ⟨0x141, page, word ((page.toNat - (taskOf s k).base.toNat) / 4096), []⟩

/-- The page that an image's current instruction lies in. -/
def imagePage (s : State) (x : Saved) : Word := word ((tileAt s x.home).seq.vpc.toNat / 4096 * 4096)

/-- Restore an image on tile `n`: refused under another translator version, for a quarantined root, and where the page of the
folio in progress fails its check (R343, R389). -/
def restoreImage (x : Saved) (n : Nat) (s : State) : State :=
  if x.tver ≠ Config.tver s.dev.fwGen then refuseImage x ⟨0x18C, 0, 0, []⟩ false s
  else if quarantined s (taskOf s x.key) then refuseImage x (imageIntegrity s x.key (imagePage s x)) true s
  else
    match (tileAt s x.home).folio with
    | none => placeSaved x n s
    | some f =>
      match restoreFolio s x.key f with
      | (s, some g) =>
        if g.intact then onTile n (fun t => { t with folio := some g, folioStale := false }) (placeSaved x n s)
        else refuseImage x (imageIntegrity s x.key f.page) true (quarantineRoot (taskOf s x.key) s)
      | (s, none) => onTile n (fun t => { t with folio := none, folioStale := false }) (placeSaved x n s)

/-- VELLUM_RESTORE of the image that a tile was set aside for. Every device has one die revision (R442), so that only
the translator version can differ; a scan parity error discards the image (R389). -/
def execVellumRestore (sel : RestoreSel) (s : State) : Host.Outcome State Fault Refusal :=
  .next (match (tileAt s sel.tile).owner with
    | none => s
    | some k =>
      match savedOf s k with
      | some x =>
        if !x.vellum || decide (Config.tiles ≤ sel.tile) then s
        else if sel.parityError then scanParity sel.tile x.home k s
        else restoreImage x sel.tile s
      | none => s)

end Sys2Proof.Machine
end

