-- ==== Sys2Proof/Machine/Objects.lean ====
section
/-!
DEFINITION. Code objects and operator images as bytes, and the checks on them (R302, R305, R330 to R336, R398, R399).
-/

namespace Sys2Proof.Machine

open Sys2Proof

/-! ### Bytes -/

/-- `n` bytes from an offset. -/
def bytesAt (bs : List Byte) (off n : Nat) : List Byte := (bs.drop off).take n

/-- The `n` bytes from an offset are all zero. -/
def zeroAt (bs : List Byte) (off n : Nat) : Bool := (bytesAt bs off n).all (· == 0)

/-- Signed number of `n` bytes. -/
def signedAt (bs : List Byte) (off n : Nat) : Int := signedOf (8 * n) (fieldAt bs off n)

/-! ### Manifests (R302, R305) -/

/-- A port entry. -/
def parsePort (b : List Byte) : ManPort :=
  ⟨fieldAt b 0 1, fieldAt b 1 1, fieldAt b 2 1, fieldAt b 3 1, fieldAt b 4 1, fieldAt b 5 2, fieldAt b 7 2, fieldAt b 9 2⟩

/-- A manifest. -/
def parseManifest (b : List Byte) : Manifest where
  clkMin := fieldAt b 0x04 2
  clkMax := fieldAt b 0x06 2
  sites := fieldAt b 0x0C 2
  codecs := fieldAt b 0x0E 2
  ports := (List.range 8).map fun n => parsePort (bytesAt b (0x40 + 16 * n) 16)
  states := (List.range (fieldAt b 2 2)).map fun i =>
    (fieldAt b (0xC0 + 16 * i) 8, fieldAt b (0xC8 + 16 * i) 4, fieldAt b (0xCC + 16 * i) 4)

/-- Element bits agree with a format code: a native format has exactly its width, a codec code one of five (R302). -/
def bitsOk (code bits : Nat) : Bool :=
  match codeBits code with
  | some w => bits == w
  | none => decide (0x10 ≤ code ∧ code ≤ 0x1F) && [4, 8, 16, 32, 64].contains bits

/-- A port entry obeys R302; an unused one is only zero in its reserved bytes. -/
def portOk (p : ManPort) : Bool :=
  decide (p.role ≤ 4) &&
    (p.role == 0 ||
      (bitsOk p.ifmt p.ibits && bitsOk p.ofmt p.obits && decide (2 ≤ p.depth ∧ p.depth ≤ 1024) &&
        (p.role == 1 || (p.rin == 1 && p.rout == 1))))

/-- Bytes of buffers that a manifest declares (R305). -/
def bufferBytes (m : Manifest) : Nat :=
  (m.ports.map fun p => 64 * p.depth).foldl (· + ·) 0 +
    (m.states.map fun x => if x.2.2 = 2 then ceilDiv x.2.1 8 else 0).foldl (· + ·) 0

/-- The manifest bytes obey R302 and R305. -/
def manifestOk (b : List Byte) : Bool :=
  let m := parseManifest b
  fieldAt b 0 2 == 1 && decide (fieldAt b 2 2 ≤ 1024) && b.length == 0xC0 + 16 * fieldAt b 2 2 &&
    decide (1 ≤ m.clkMin ∧ m.clkMin ≤ m.clkMax ∧ m.clkMax ≤ 800 ∧ 1 ≤ m.sites ∧ m.sites ≤ 1536) && zeroAt b 0x10 48 &&
    m.ports.all portOk && (List.range 8).all (fun n => zeroAt b (0x4B + 16 * n) 5) && m.states.all (fun x => decide (x.2.2 ≤ 2)) &&
    decide (bufferBytes m ≤ 96 * 1024)

/-! ### Operator images (R398, R399) -/

/-- Check 1 of R399: magic, version, reserved bytes, offsets and sizes. -/
def imageShape (b : List Byte) : Bool :=
  let size := fieldAt b 0x20 8
  let manOff := fieldAt b 0x10 4
  let manSize := fieldAt b 0x14 4
  let netOff := fieldAt b 0x18 4
  let netSize := fieldAt b 0x1C 4
  fieldAt b 0 4 == 0x52504F46 && fieldAt b 4 2 == 1 && zeroAt b 6 2 && zeroAt b 0x28 24 && zeroAt b 0xF2 14 &&
    size == b.length && manOff % 64 == 0 && netOff % 64 == 0 &&
    decide (0x100 ≤ manOff ∧ manOff + manSize ≤ netOff ∧ netOff + netSize ≤ size)

/-- The manifest bytes of an image. -/
def imageManifest (b : List Byte) : List Byte := bytesAt b (fieldAt b 0x10 4) (fieldAt b 0x14 4)

/-- The checks of R399 in their order, for an image of a tenant: the first failure's code, or the manifest. -/
def checkImage (tenant : Nat) (b : List Byte) : Except Nat Manifest :=
  let key := word (fieldAt b 8 8)
  if !imageShape b then .error 1
  else if !Config.keyEnrolled tenant key then .error 2
  else if !Config.ed448Verify tenant key (bytesAt b 0 0x80) (bytesAt b 0x80 114) then .error 3
  else if shake256 (b.drop 0x100) 64 != bytesAt b 0x40 64 then .error 4
  else if !manifestOk (imageManifest b) then .error 5
  else if !Config.netlistOk b then .error 6
  else .ok (parseManifest (imageManifest b))

/-- The images of a FABRIC section, one after another, each of the SIZE its header gives; one that runs out of the section
takes what is left (R398). -/
def splitImages : Nat → List Byte → List (List Byte)
  | 0, _ => []
  | n + 1, bs =>
    let size := fieldAt bs 0x20 8
    bs.take (max 1 size) :: splitImages n (bs.drop (max 1 size))

/-! ### Merkle trees (R331) -/

/-- An interior node. -/
def nodeHash (l r : List Byte) : List Byte := shake256 ((1 : Byte) :: l ++ r) 64

/-- The next level: pairs in order, a last unpaired node unchanged. -/
def nextLevel : List (List Byte) → List (List Byte)
  | l :: r :: rest => nodeHash l r :: nextLevel rest
  | l => l

/-- The nodes of a level that are new: all but a node that rose unchanged. -/
def newNodes (below level : List (List Byte)) : List (List Byte) := level.take (below.length / 2)

/-- The distinct nodes above a level, and the root. -/
def treeAbove : Nat → List (List Byte) → List (List Byte) × List Byte
  | 0, l => ([], l.headD [])
  | fuel + 1, l =>
    if l.length ≤ 1 then ([], l.headD [])
    else
      let up := nextLevel l
      let (rest, root) := treeAbove fuel up
      (newNodes l up ++ rest, root)

/-- Pieces of `k` bytes. -/
def chunks (k : Nat) : Nat → List Byte → List (List Byte)
  | 0, _ => []
  | n + 1, bs => bs.take k :: chunks k n (bs.drop k)

/-- The MERKLE section lists every distinct node and hashes to the root, with the right count (R331, R336). -/
def merkleOk (pages : Nat) (nodes : List (List Byte)) (root : List Byte) : Bool :=
  let leaves := nodes.take pages
  let (up, r) := treeAbove 17 leaves
  decide (leaves.length = pages) && nodes == leaves ++ up && r == root

/-! ### Code objects (R330 to R334) -/

/-- A directory entry: kind, count, offset, size, and whether its reserved bytes are zero. -/
structure Sect where
  kind : Nat
  count : Nat
  off : Nat
  size : Nat
  clean : Bool

/-- The directory. -/
def directory (b : List Byte) : List Sect :=
  (List.range (min 11 (fieldAt b 0x0C 4))).map fun i =>
    let e := bytesAt b (0x140 + 32 * i) 32
    ⟨fieldAt e 0 2, fieldAt e 4 4, fieldAt e 8 8, fieldAt e 16 8, zeroAt e 2 2 && zeroAt e 24 8⟩

/-- The section of a kind. -/
def sectOf (b : List Byte) (kind : Nat) : Option Sect := (directory b).find? fun x => x.kind == kind

/-- The bytes of a section, none of an absent one. -/
def sectBytes (b : List Byte) (kind : Nat) : List Byte :=
  match sectOf b kind with | some x => bytesAt b x.off x.size | none => []

/-- COUNT of a section, 0 of an absent one. -/
def sectCount (b : List Byte) (kind : Nat) : Nat := match sectOf b kind with | some x => x.count | none => 0

/-- Number, count and size of a section obey the table of R330; the count of MERKLE is checked with its hashes (R336). -/
def sectOk (b : List Byte) (x : Sect) : Bool :=
  x.clean && x.off % 64 == 0 && (x.kind != 1 || x.off % 4096 == 0) &&
    match x.kind with
    | 1 => x.count == fieldAt b 0x10 4 && x.size == 4096 * x.count
    | 2 => x.size == 64 * x.count
    | 3 => x.count == 1 && x.size == fieldAt b 0x14 4
    | 4 => decide (1 ≤ x.count ∧ x.count ≤ 256) && x.size == 32 * x.count
    | 5 => decide (1 ≤ x.count ∧ x.count ≤ 65472) && x.size == 64 * x.count
    | 6 => decide (1 ≤ x.count ∧ x.count ≤ 16)
    | 7 => decide (1 ≤ x.count ∧ x.count ≤ 64) && x.size == 16 * x.count
    | 8 => decide (1 ≤ x.count ∧ x.count ≤ 256) && x.size == 8 * x.count
    | 9 => decide (1 ≤ x.count ∧ x.count ≤ 65536) && x.size == 4 * x.count
    | 10 => decide (1 ≤ x.count ∧ x.count ≤ 16)
    | 11 => true
    | _ => false

/-- Sections stand in ascending offset, do not overlap, and end within the object. -/
def sectsApart (size : Nat) : Nat → List Sect → Bool
  | _, [] => true
  | at_, x :: xs => decide (at_ ≤ x.off ∧ x.off + x.size ≤ size) && sectsApart size (x.off + x.size) xs

/-- The entries of ENTRY: name, offset, shape. -/
def entryList (b : List Byte) : List (List Byte) := chunks 32 (sectCount b 4) (sectBytes b 4)

/-- Where the header of the native variant after the one at `a` stands: past that one's blob (R335; log 60). -/
def nextVariant (b : List Byte) (a : Nat) : Nat := max (a + 320) (fieldAt b (a + 0x88) 8 + fieldAt b (a + 0x90) 8)

/-- The reserved bytes of the headers of `n` native variants from offset `a` of the section on are zero (R335, R336). -/
def variantsOk (b : List Byte) (a : Nat) : Nat → Bool
  | 0 => true
  | n + 1 => zeroAt b (a + 0x10A) 54 && variantsOk b (nextVariant b a) n

/-- The rules of R332 to R335 on entries: reserved bytes zero, offsets multiples of 8 in the text, MIN at least 1. -/
def entriesOk (b : List Byte) : Bool :=
  let text := 4096 * fieldAt b 0x10 4
  (entryList b).all (fun e => zeroAt e 30 2 && fieldAt e 24 4 % 8 == 0 && decide (fieldAt e 24 4 < text)) &&
    (chunks 16 (sectCount b 7) (sectBytes b 7)).all (fun e =>
      decide (fieldAt e 0 1 < 64) && decide (fieldAt e 1 1 < 2) && zeroAt e 2 6) &&
    (chunks 8 (sectCount b 8) (sectBytes b 8)).all (fun e => zeroAt e 2 2 && decide (1 ≤ fieldAt e 4 4)) &&
    (chunks 4 (sectCount b 9) (sectBytes b 9)).all (fun e => fieldAt e 0 4 % 8 == 0 && decide (fieldAt e 0 4 < text)) &&
    variantsOk (sectBytes b 10) 0 (min 16 (sectCount b 10))

/-- The header without its sections (R330). -/
def headerShape (b : List Byte) : Bool :=
  fieldAt b 0 4 == 0x414B4C53 && decide (fieldAt b 8 4 < 4) && decide (3 ≤ fieldAt b 0x0C 4 ∧ fieldAt b 0x0C 4 ≤ 11) &&
    decide (1 ≤ fieldAt b 0x10 4 ∧ fieldAt b 0x10 4 ≤ 65536) && zeroAt b 0x1C 4 && zeroAt b 0x30 16 && zeroAt b 0x132 14 &&
    decide (0x140 + 32 * fieldAt b 0x0C 4 ≤ fieldAt b 0x28 8)

/-- Header, directory and sections obey R330 to R335. -/
def objectShape (b : List Byte) : Bool :=
  headerShape b && (directory b).all (sectOk b) && sectsApart b.length (0x140 + 32 * fieldAt b 0x0C 4) (directory b) &&
    [1, 2, 4].all (fun k => ((directory b).filter fun x => x.kind == k).length == 1) &&
    (List.range 12).all (fun k => decide (((directory b).filter fun x => x.kind == k).length ≤ 1)) && entriesOk b

/-- What SECTDIGEST covers: the directory, then every section but TEXT and DEBUG, in directory order. -/
def digestBytes (b : List Byte) : List Byte :=
  bytesAt b 0x140 (32 * fieldAt b 0x0C 4) ++
    (directory b).flatMap fun x => if x.kind = 1 ∨ x.kind = 11 then [] else bytesAt b x.off x.size

/-- The features listed: identifier and minimum. -/
def featureList (b : List Byte) : List (Nat × Nat) :=
  (chunks 8 (sectCount b 8) (sectBytes b 8)).map fun e => (fieldAt e 0 2, fieldAt e 4 4)

/-- Declared factor slots: has a default, the default. -/
def factorList (b : List Byte) : List (Nat × Bool × Word) :=
  (chunks 16 (sectCount b 7) (sectBytes b 7)).map fun e => (fieldAt e 0 1, fieldAt e 1 1 == 1, word (fieldAt e 8 8))

/-- The first image that the region manager refuses, with its code (R336, R399). -/
def badImage (tenant : Nat) : Nat → List (List Byte) → Option (Nat × Nat)
  | _, [] => none
  | i, b :: bs => match checkImage tenant b with | .error c => some (i, c) | .ok _ => badImage tenant (i + 1) bs

/-- Whether no slot is named twice. -/
def distinctSlots : List Nat → Bool
  | [] => true
  | x :: xs => !xs.contains x && distinctSlots xs

/-- Text pages that do not match their leaves. -/
def badPages (leaves pages : List (List Byte)) : List Nat :=
  (List.range pages.length).filter fun i => leafOf i (pages.getD i []) != leaves.getD i []

/-- Status and detail of the first check that fails, in the order of R336; none where the object is loaded. -/
def objectFailure (s : State) (fn : Nat) (b : List Byte) : Option (Nat × Nat) :=
  let tenant := (fnRegs s fn).tenant
  let key := word (fieldAt b 0x20 8)
  let pages := fieldAt b 0x10 4
  let nodes := chunks 64 (sectCount b 2) (sectBytes b 2)
  let root := bytesAt b 0x40 64
  let absent := (featureList b).filter fun f => decide (Config.rubric s.dev.fwGen f.1 < f.2)
  if !objectShape b then some (1, 0)
  else if fieldAt b 4 2 != 1 || decide (Config.sviVersion % 2 ^ 16 < fieldAt b 6 2) then some (2, 0)
  else if !Config.keyEnrolled tenant key then some (3, 0)
  else if !Config.ed448Verify tenant key (bytesAt b 0 0xC0) (bytesAt b 0xC0 114) then some (4, 0)
  else if shake256 (digestBytes b) 64 != bytesAt b 0x80 64 then some (5, 0)
  else if !merkleOk pages nodes root then some (6, 0)
  else if (fieldAt b 8 4).testBit 0 && !(badPages nodes (chunks 4096 pages (sectBytes b 1))).isEmpty then
    some (7, (badPages nodes (chunks 4096 pages (sectBytes b 1))).headD 0)
  else if !absent.isEmpty then some (8, (absent.headD (0, 0)).1)
  else
    match badImage tenant 0 (splitImages (sectCount b 6) (sectBytes b 6)) with
    | some (i, c) => some (9, c + i * 2 ^ 8)
    | none =>
      if s.dev.quarantine.contains (fn, root) then some (0x0A, 0)
      else if !distinctSlots ((factorList b).map (·.1)) then some (0x0B, 0) else none

/-- The loaded object under its handle; the driver places its text where the model's configuration says (log 14). -/
def objectOf (fn handle : Nat) (b : List Byte) : Obj where
  handle := handle
  fn := fn
  root := bytesAt b 0x40 64
  eager := (fieldAt b 8 4).testBit 0
  pretranslate := (fieldAt b 8 4).testBit 1
  textPages := fieldAt b 0x10 4
  base := word (4096 * Config.textPage handle)
  entries := (entryList b).map fun e => (fieldAt e 24 4, fieldAt e 28 1, fieldAt e 29 1)
  factors := factorList b
  features := featureList b
  leaves := (chunks 64 (sectCount b 2) (sectBytes b 2)).take (fieldAt b 0x10 4)
  fentries := (chunks 4 (sectCount b 9) (sectBytes b 9)).map fun e => fieldAt e 0 4
  images := splitImages (sectCount b 6) (sectBytes b 6)

end Sys2Proof.Machine
end

