-- ==== Sys2Proof/Machine/Mailbox.lean ====
section
/-!
DEFINITION. The mailbox (R349, R444) and its commands on objects, folios, groups, translations, frames, requests, keys,
quota and held strands (R165, R232, R336, R341, R342, R365, R374 to R376, R385, R416, R436, R439).
-/

namespace Sys2Proof.Machine

open Sys2Proof

/-! ### Commands (R349, R444) -/

/-- The command word of a function's mailbox. -/
def mbWord (s : State) (fn : Nat) : Nat := (fnRegs s fn).mbCmd.toNat

/-- Bits of the command word, numbered as R349 numbers them. -/
def mbArg (s : State) (fn lo w : Nat) : Nat := fieldOf (mbWord s fn) lo w

/-- The operand of a function's mailbox. -/
def mbAddr (s : State) (fn : Nat) : Nat := (fnRegs s fn).mbOperand.toNat

/-- A failing check: status and detail word. -/
abbrev Fails := List (Nat × Nat)

/-- One failing check where `c` holds. -/
def failIf (c : Bool) (status : Nat) (detail : Nat := 0) : Fails := if c then [(status, detail)] else []

/-- The argument's bytes with a bit set outside `mask`, as invalid operands (R444). -/
def argReserved (s : State) (fn mask : Nat) : Fails :=
  ((List.range 8).filter fun i => Nat.land (fieldOf (mbWord s fn) (8 * i) 8) (255 - fieldOf mask (8 * i) 8) != 0).map fun i =>
    (0x17, i)

/-- The argument bits `[lo + w - 1 : lo]`, with the code. -/
def argBits (lo w : Nat) : Nat := 255 + (2 ^ w - 1) * 2 ^ lo

/-- Bytes of an operand block from `off` on, `n` of them, that must be zero. -/
def blockReserved (b : List Byte) (off n : Nat) : Fails :=
  ((List.range n).filter fun i => b.getD (off + i) 0 != 0).map fun i => (0x17, 2 ^ 31 + off + i)

/-- In minimal mode only ATTEST, FWSTAGE and RESTART are accepted (R425). -/
def modeFails (s : State) (code : Nat) : Fails :=
  failIf (s.dev.mode == .minimal && !(code == 0x15 || code == 0x16 || code == 0x17)) 0x13

/-- The failure that is reported: of lowest status; of several of one status, which one is open (R444; log 5). -/
def lowestFail (s : State) (l : Fails) : Option (Nat × Nat) :=
  let st := l.foldl (fun m x => min m x.1) 256
  let same := l.filter fun x => x.1 == st
  same[freeAt s (2 ^ 78) % max 1 same.length]?

/-- End a command: BUSY clears; a failure leaves the result as it was. -/
def endCommand (fn status detail : Nat) (result : Option Word) (s : State) : State :=
  onFn fn (fun r => { r with
    mbBusy := false, mbStatus := status, mbDetail := detail, mbResult := result.getD r.mbResult }) s

/-- Whether a function's mailbox is busy with a command. -/
def mbPending (s : State) (fn code : Nat) : Bool := (fnRegs s fn).mbBusy && mbWord s fn % 256 == code

/-- Run a command: its failing checks on the state, else its effect and result. -/
def mailbox (fn code : Nat) (fails : Fails) (effect : State → State × Option Word) (s : State) : State :=
  if !mbPending s fn code then s
  else
    match lowestFail s (modeFails s code ++ fails) with
    | some (st, d) => endCommand fn st d none s
    | none =>
      let (t, r) := effect s
      endCommand fn 0 0 r t

/-- Run a command that stays busy until a later step completes it. -/
def mailboxLong (fn code : Nat) (fails : Fails) (effect : State → State) (s : State) : State :=
  if !mbPending s fn code then s
  else
    match lowestFail s (modeFails s code ++ fails) with
    | some (st, d) => endCommand fn st d none s
    | none => effect s

/-- An operand that must be readable. -/
def unread {α : Type} (b : Option α) : Fails := failIf b.isNone 0x19

/-- MAILBOX_UNDEFINED_COMMAND: a code that no rule defines; in minimal mode too (R444). The debug commands answer a VF
themselves. -/
def execMailboxUndefinedCommand (fn : Nat) (s : State) : Host.Outcome State Fault Refusal :=
  let code := mbWord s fn % 256
  .next (if (fnRegs s fn).mbBusy && (code == 0 || decide (0x1A < code)) then endCommand fn 0x18 0 none s else s)

/-! ### LOAD and UNLOAD (R336, R349, R402) -/

/-- The bytes of the object at a host address, as long as its header says. -/
def readObject (s : State) (fn : Nat) : Option (List Byte) :=
  match dmaRead s fn (mbAddr s fn) 0x140 with
  | some h => if headerShape h then dmaRead s fn (mbAddr s fn) (fieldAt h 0x28 8) else some h
  | none => none

/-- LOAD. -/
def execLoad (fn : Nat) (s : State) : Host.Outcome State Fault Refusal :=
  let b := readObject s fn
  let refused := match b with | some x => (objectFailure s fn x).toList | none => []
  .next (mailbox fn 0x01 (refused ++ argReserved s fn 255 ++ unread b) (fun s =>
    let h := s.dev.nextHandle
    (onDev (fun d => { d with objs := d.objs ++ [objectOf fn h (b.getD [])], nextHandle := (h + 1) % 2 ^ 32 }) s,
      some (word h))) s)

/-- An object of a function. -/
def objByHandle (s : State) (fn h : Nat) : Option Obj := s.dev.objs.find? fun o => o.handle == h && o.fn == fn

/-- Whether a task of an object has become head and is not published, so that it is undispatched or running. -/
def objBusy (s : State) (fn h : Nat) : Bool :=
  s.dev.tasks.any fun t => t.fn == fn && t.trec.object == h && t.published == .no

/-- A region that holds an image of an unloaded object is released (R402). -/
def dropImages (fn h : Nat) (r : Region) : Region :=
  match r.image with
  | some (f, o, _) =>
    if f = fn ∧ o = h then r.cleared else r
  | none => r

/-- UNLOAD. -/
def execUnload (fn : Nat) (s : State) : Host.Outcome State Fault Refusal :=
  let h := mbArg s fn 8 32
  .next (mailbox fn 0x02 (failIf (objBusy s fn h) 0x0C ++ failIf (objByHandle s fn h).isNone 0x12 ++
      argReserved s fn (argBits 8 32)) (fun s =>
    (onDev (fun d => { d with
      objs := d.objs.filter fun o => !(o.handle == h && o.fn == fn)
      regions := d.regions.map fun r => (r.1, dropImages fn h r.2) }) s, none)) s)

/-! ### TCINV (R341, R342) -/

/-- The scope of a function's TCINV; scope 2 from a VF acts as scope 0 (R349). -/
def tcScope (s : State) (fn : Nat) : Nat := if mbArg s fn 8 2 = 2 ∧ fn ≠ 0 then 0 else mbArg s fn 8 2

/-- A set of text pages, by tenant, root and address. -/
abbrev TextPages := Nat → List Byte → Word → Bool

/-- A folio of one of the pages. -/
def TextPages.has (p : TextPages) (f : Folio) : Bool := p f.tenant f.root f.page

/-- The pages in the scope of a TCINV of function `fn` with root `root`. -/
def tcMatches (s : State) (fn scope : Nat) (root : List Byte) : TextPages := fun tenant r _ =>
  scope == 2 || (tenant == (fnRegs s fn).tenant && (scope == 0 || r == root))

/-- Remove the folios of the pages, from the partition and the tiles: a strand in one finishes it (R342). -/
def dropFolios (p : TextPages) (s : State) : State :=
  onTiles (fun _ t => match t.folio with | some f => if p.has f then { t with folioStale := true } else t | none => t)
    (onDev (fun d => { d with folios := d.folios.filter fun f => !p.has f }) s)

/-- Remove the recorded check results of the pages (R342). -/
def dropChecks (p : TextPages) (s : State) : State :=
  onDev (fun d => { d with pages := d.pages.filter fun c => !p c.tenant c.root c.page }) s

/-- The root that a TCINV names. -/
def tcRoot (s : State) (fn : Nat) : Option (List Byte) :=
  if tcScope s fn = 1 then dmaRead s fn (mbAddr s fn) 64 else some []

/-- TCINV: folios go and a quarantine is lifted; the command stays busy until TCINV_COMPLETE. -/
def execTcinv (fn : Nat) (s : State) : Host.Outcome State Fault Refusal :=
  let scope := tcScope s fn
  let root := tcRoot s fn
  .next (mailboxLong fn 0x03 (failIf (mbArg s fn 8 2 == 3) 0x17 1 ++ argReserved s fn (argBits 8 2) ++ unread root) (fun s =>
    let r := root.getD []
    onDev (fun d => { d with quarantine := d.quarantine.filter fun q =>
      !(scope == 2 || (q.1 == fn && (scope == 0 || q.2 == r))) })
      (dropChecks (tcMatches s fn scope r) (dropFolios (tcMatches s fn scope r) s))) s)

/-- A strand is still in an invalidated folio: one that has stopped has left it, and is in none until it fetches again. -/
def inStale (p : TextPages) (s : State) : Bool :=
  (allTiles s).any fun t => executing t.1 t.2 && t.2.folioStale && t.2.folio.any p.has

/-- TCINV_COMPLETE: no strand is left in a folio that TCINV removed, and BUSY clears (log 41). -/
def execTcinvComplete (fn : Nat) (s : State) : Host.Outcome State Fault Refusal :=
  let p := tcMatches s fn (tcScope s fn) ((tcRoot s fn).getD [])
  .next (if mbPending s fn 0x03 && !inStale p s then endCommand fn 0 0 none s else s)

/-! ### GROUP, UNGROUP, REGROUP (R232, R349, R436, R439) -/

/-- The members that an operand lists, in rank order. -/
def readGroup (s : State) (fn : Nat) : Option (List (Nat × Nat × Nat)) :=
  match dmaRead s fn (mbAddr s fn) 16 with
  | some h => (dmaRead s fn (mbAddr s fn) (Config.groupSpan h)).map Config.groupTriples
  | none => none

/-- Two packages share a number that the list names: another package behind a link holds this one's, or two others share
one (R436). -/
def packagesClash (s : State) (l : List (Nat × Nat × Nat)) : Bool :=
  l.any fun m =>
    (m.1 == s.dev.pkg && s.dev.links.any fun x => x.2.state == 2 && x.2.peer == m.1) ||
      (m.1 != s.dev.pkg && Config.sharedPackage m.1)

/-- The checks on a list. -/
def groupFails (s : State) (l : Option (List (Nat × Nat × Nat))) : Fails :=
  (match l with | some x => failIf (packagesClash s x) 0x15 | none => []) ++ unread l

/-- GROUP. -/
def execGroup (fn : Nat) (s : State) : Host.Outcome State Fault Refusal :=
  let l := readGroup s fn
  .next (mailbox fn 0x04 (groupFails s l ++ argReserved s fn 255) (fun s =>
    let h := s.dev.nextHandle
    (onDev (fun d => { d with groups := d.groups ++ [⟨h, fn, l.getD []⟩], nextHandle := (h + 1) % 2 ^ 32 }) s,
      some (word h))) s)

/-- A group of a function. -/
def hasGroup (s : State) (fn h : Nat) : Bool := s.dev.groups.any fun g => g.handle == h && g.fn == fn

/-- UNGROUP. -/
def execUngroup (fn : Nat) (s : State) : Host.Outcome State Fault Refusal :=
  let h := mbArg s fn 8 32
  .next (mailbox fn 0x05 (failIf (!hasGroup s fn h) 0x12 ++ argReserved s fn (argBits 8 32)) (fun s =>
    (onDev (fun d => { d with groups := d.groups.filter fun g => !(g.handle == h && g.fn == fn) }) s, none)) s)

/-- A stop for a fault that is held for service; behind a debug halt too. -/
def StopWhy.asHold : StopWhy → Option StopWhy
  | .hold c q x => some (.hold c q x)
  | .haltAt w => w.asHold
  | .yield | .deadline | .quota | .halt => none

/-- What is left of a stop once its hold is over: nothing, or the debug halt (R33). -/
def StopWhy.released : StopWhy → StopWhy
  | .haltAt _ => .halt
  | _ => .yield

/-- A held strand that has been saved goes on when its gang is placed again (R28). -/
def releaseSaved (k : StrandKey) (s : State) : State :=
  onDev (fun d => { d with saved := d.saved.map fun y => if y.key = k then { y with why := y.why.released } else y }) s

/-- The strand on tile `n` is past its held instruction, and its held commands are retried; a held FGO is found finished
(R270, R291, R365). -/
def pastHold (k : StrandKey) (n : Nat) (queuePrecise soft skip : Bool) (s : State) : State :=
  let s := onTile n (fun t => if soft || skip then Tile.onSeq (fun q => { q with vpc := q.vpc + 8 }) t else t) s
  if queuePrecise then finishHeldGo n (onTile n (retryAll k) s) else s

/-- Whether a strand is held for LINK_DOWN or COLL_ABORTED (R438). -/
def heldForLink (w : StopWhy) : Bool := match w with | .hold c _ _ => c == 0x1C4 || c == 0x0D1 | _ => false

/-- A COLL of the queue names a handle. -/
def namesHandle (h : Nat) (t : Tile) : Bool :=
  t.qStore.any fun c => match c.body with
    | .coll x => (match x.scope with | .dev | .sys => x.group.toNat == h | _ => false)
    | _ => false

/-- Let a strand held for a lost link go on: its COLL executes again from its issue (R439). -/
def regroupTile (n : Nat) (s : State) : State :=
  match (tileAt s n).run with
  | .parked w | .resting w | .halted (.parked w) | .halted (.resting w) =>
    if w.asHold.any heldForLink then resumeHeld n true false false s else s
  | _ => s

/-- A saved strand held for a lost link goes on when its gang is placed again. -/
def regroupSaved (f : StrandKey → Bool) (s : State) : State :=
  let mine := s.dev.saved.filter fun x => f x.key && x.why.asHold.any heldForLink
  mine.foldl (fun s x => releaseSaved x.key (pastHold x.key x.home true false false s)) s

/-- The gangs with a member whose COLL names a handle. -/
def gangsNaming (s : State) (h : Nat) : List (Nat × Nat × Nat) :=
  (allTiles s).filterMap fun t =>
    if namesHandle h t.2 then t.2.owner.map fun k => (k.queue, k.record, k.gang) else none

/-- Resume every gang held for a link whose COLL named the handle. -/
def resumeGroup (h : Nat) (s : State) : State :=
  let gs := gangsNaming s h
  let f := fun k : StrandKey => gs.contains (k.queue, k.record, k.gang)
  let tiles := (allTiles s).filterMap fun t =>
    if decide (t.1 < Config.tiles) && t.2.owner.any f then some t.1 else none
  regroupSaved f (tiles.foldl (fun s n => regroupTile n s) s)

/-- REGROUP: membership and ranks are replaced in place, and the gangs held for the group go on. -/
def execRegroup (fn : Nat) (s : State) : Host.Outcome State Fault Refusal :=
  let h := mbArg s fn 8 32
  let l := readGroup s fn
  .next (mailbox fn 0x18 (failIf (!hasGroup s fn h) 0x12 ++ groupFails s l ++ argReserved s fn (argBits 8 32)) (fun s =>
    let s := onDev (fun d => { d with
      groups := d.groups.map (fun g => if g.handle = h ∧ g.fn = fn then { g with members := l.getD [] } else g)
      lost := d.lost.filter fun x => !(x.2.2.2.1 == h && x.2.2.2.2.1 == collKey .dev 0 / 2 ^ 64) }) s
    (resumeGroup h s, none)) s)

/-! ### TLBINV (R376, R377) -/

/-- The virtual range of a TLBINV: all of it for the whole tenant. -/
def tlbRange (s : State) (fn : Nat) : Nat × Nat :=
  if mbArg s fn 8 2 = 1 then (0, 2 ^ 64) else (mbAddr s fn, 4096 * mbArg s fn 16 32)

/-- The text pages in a range of a function's addresses. -/
def folioIn (s : State) (fn lo n : Nat) : TextPages := fun tenant _ page =>
  tenant == (fnRegs s fn).tenant && decide (page.toNat < lo + n ∧ lo < page.toNat + 4096)

/-- Those of them whose object was not loaded with EAGER: for the others, the results stand against which a remap is checked
(R342). -/
def lazyIn (s : State) (fn lo n : Nat) : TextPages := fun tenant root page =>
  folioIn s fn lo n tenant root page && !(s.dev.objs.any fun o => o.eager && o.fn == fn && o.root == root)

/-- Reduction AMOs that were translated in a range are still in the routers (R376). -/
def amosIn (s : State) (fn lo n : Nat) : Bool :=
  s.dev.router.any fun r => r.fn == fn && decide (lo ≤ r.va.toNat ∧ r.va.toNat < lo + n)

/-- TLBINV: cached translations and folios of the range go; the command stays busy until TLBINV_COMPLETE. -/
def execTlbinv (fn : Nat) (s : State) : Host.Outcome State Fault Refusal :=
  let mask := if mbArg s fn 8 2 = 0 then argBits 8 2 + (2 ^ 32 - 1) * 2 ^ 16 else argBits 8 2
  .next (mailboxLong fn 0x06 (failIf (decide (2 ≤ mbArg s fn 8 2)) 0x17 1 ++ argReserved s fn mask) (fun s =>
    let (lo, n) := tlbRange s fn
    dropChecks (lazyIn s fn lo n) (dropFolios (folioIn s fn lo n) (onDev (forgetRange fn lo n) s))) s)

/-- TLBINV_COMPLETE: no strand is left in a removed folio, and no AMO of the range in the routers. In this model every other
access has been performed, or is held and walks again, once its step has ended (log 21). -/
def execTlbinvComplete (fn : Nat) (s : State) : Host.Outcome State Fault Refusal :=
  let (lo, n) := tlbRange s fn
  .next (if mbPending s fn 0x06 && !inStale (folioIn s fn lo n) s && !amosIn s fn lo n then
      endCommand fn 0 0 none (onDev (forgetRange fn lo n) s)
    else s)

/-! ### FRAMES and RESOLVE (R374, R375) -/

/-- FRAMES. -/
def execFrames (fn : Nat) (s : State) : Host.Outcome State Fault Refusal :=
  let count := mbArg s fn 8 8
  let size := mbArg s fn 16 3
  let list := dmaRead s fn (mbAddr s fn) (8 * count)
  let frames := (List.range count).map fun i => fieldAt (list.getD []) (8 * i) 8
  let unaligned := (List.range count).filter fun i => frames.getD i 0 % pageBytes size != 0
  .next (mailbox fn 0x07 (failIf (count == 0) 0x17 1 ++ failIf (decide (1 < size)) 0x17 2 ++
      argReserved s fn (argBits 8 11) ++
      (if list.isSome then unaligned.map (fun i => (0x17, 2 ^ 31 + 8 * i)) else []) ++ unread list) (fun s =>
    (onFn fn (fun r => { r with pool := r.pool ++ frames.map fun a => (a, size) }) s, none)) s)

/-- RESOLVE. A copy-on-write request that now finds a frame is served when it walks again (R374, R375). -/
def execResolve (fn : Nat) (s : State) : Host.Outcome State Fault Refusal :=
  let id := mbArg s fn 8 16
  let pending := s.dev.requests.any fun r => r.id == id && r.fn == fn && r.kind != 4
  .next (mailbox fn 0x08 (failIf (!pending) 0x12 ++ argReserved s fn (argBits 8 17)) (fun s =>
    (answer id ((mbWord s fn).testBit 24) s, none)) s)

/-! ### Key slots (R385, R430) -/

/-- Whether a function's key slot is empty. -/
def slotEmpty (s : State) (fn slot : Nat) : Bool := (find? (fnRegs s fn).keys slot).isNone

/-- The key that a KEYSET block unwraps to under the function's transport key. -/
def unwrapKey (s : State) (fn : Nat) (b : List Byte) : Option (List Byte) :=
  match (fnRegs s fn).transport with
  | some k => keyUnwrap k (bytesAt b 8 40)
  | none => none

/-- KEYSET. -/
def execKeyset (fn : Nat) (s : State) : Host.Outcome State Fault Refusal :=
  let slot := mbArg s fn 8 6
  let b := dmaRead s fn (mbAddr s fn) 48
  let key := b.bind (unwrapKey s fn)
  .next (mailbox fn 0x09 (failIf (!slotEmpty s fn slot) 0x0D ++ failIf (b.isSome && key.isNone) 0x0E ++
      argReserved s fn (argBits 8 6) ++ (match b with | some x => blockReserved x 4 4 | none => []) ++ unread b) (fun s =>
    (onFn fn (fun r => { r with keys := keep r.keys slot (key.getD [], fieldAt (b.getD []) 0 4) }) s, none)) s)

/-- KEYCLR: the slot is emptied and keeps its counter. -/
def execKeyclr (fn : Nat) (s : State) : Host.Outcome State Fault Refusal :=
  let slot := mbArg s fn 8 6
  .next (mailbox fn 0x0A (argReserved s fn (argBits 8 6)) (fun s =>
    (onFn fn (fun r => { r with keys := drop? r.keys slot }) s, none)) s)

/-- CTRGET. -/
def execCtrget (fn : Nat) (s : State) : Host.Outcome State Fault Refusal :=
  let slot := mbArg s fn 8 6
  .next (mailbox fn 0x0B (argReserved s fn (argBits 8 6)) (fun s =>
    (s, some (word (look 0 (fnRegs s fn).counters slot)))) s)

/-! ### QUOTAADD (R416) -/

/-- A task that a block names for a function: it has become head, is not published, and its queue is the function's. -/
def namedTask (s : State) (fn : Nat) (b : List Byte) : Option Task :=
  s.dev.tasks.find? fun t => Task.is (fieldAt b 0 2) (fieldAt b 4 4) t && t.published == .no && reaches s fn t.queue

/-- QUOTAADD: an amount in nanojoules joins the balance. A task whose balance becomes positive has its stopped gangs placed
again by the dispatcher (R358, R416); an exhaustion notice that has been sent still stops the strands that it has not
reached (R120, R415). -/
def execQuotaadd (fn : Nat) (s : State) : Host.Outcome State Fault Refusal :=
  let b := dmaRead s fn (mbAddr s fn) 32
  let task := b.bind (namedTask s fn)
  let reserved := match b with
    | some x => blockReserved x 0x0C 4 ++ blockReserved x 0x18 8
    | none => []
  .next (mailbox fn 0x14 (failIf (b.isSome && task.isNone) 0x12 ++ argReserved s fn 255 ++ reserved ++ unread b) (fun s =>
    match task with
    | none => (s, none)
    | some t =>
      (onTask t.queue t.record (fun t => { t with balance := t.balance + signedAt (b.getD []) 0x10 8 * 1000 }) s, none)) s)

/-! ### Held strands (R365) -/

/-- The strand that a block names. -/
def blockStrand (b : List Byte) : StrandKey := ⟨fieldAt b 0 2, fieldAt b 4 4, fieldAt b 8 4, fieldAt b 2 1⟩

/-- Why a strand is held, if it is: on its tile, or saved with its gang. -/
def holdOf (s : State) (k : StrandKey) : Option StopWhy :=
  match (gangOf s k).members[k.tile]? with
  | some (.on n) => match (tileAt s n).run with
    | .parked w | .resting w | .halted (.parked w) | .halted (.resting w) => w.asHold
    | _ => none
  | some .saved => (savedOf s k).bind fun y => y.why.asHold
  | _ => none

/-- The held strand that a function's block names, with its hold. -/
def namedHeld (s : State) (fn : Nat) (b : List Byte) : Option (StrandKey × StopWhy) :=
  let k := blockStrand b
  if reaches s fn k.queue && (taskOf s k).published == .no then (holdOf s k).map fun w => (k, w) else none

/-- The checks on a block of R365, but for SKIP. -/
def heldFails (s : State) (fn : Nat) (b : Option (List Byte)) : Fails :=
  match b with
  | none => unread b
  | some x => failIf (namedHeld s fn x).isNone 0x12 ++ failIf (decide (2 ≤ fieldAt x 3 1)) 0x17 (2 ^ 31 + 3) ++
      blockReserved x 0x0C 20

/-- Resume a held strand, on its tile at once, or, saved, when its gang is placed again (R28, R365). -/
def resumeStrand (k : StrandKey) (queuePrecise soft skip : Bool) (s : State) : State :=
  match (gangOf s k).members[k.tile]? with
  | some (.on n) =>
    let s := resumeHeld n queuePrecise soft skip s
    if queuePrecise then finishHeldGo n s else s
  | some .saved =>
    match savedOf s k with
    | none => s
    | some x => releaseSaved k (pastHold k x.home queuePrecise soft skip s)
  | _ => s

/-- HELDRESUME. -/
def execHeldresume (fn : Nat) (s : State) : Host.Outcome State Fault Refusal :=
  let b := dmaRead s fn (mbAddr s fn) 32
  let skip := (fieldAt (b.getD []) 3 1).testBit 0
  let held := b.bind (namedHeld s fn)
  let qp := match held with | some (_, .hold _ q _) => q | _ => false
  .next (mailbox fn 0x19 (failIf (skip && qp) 0x16 ++ argReserved s fn 255 ++ heldFails s fn b) (fun s =>
    match held with
    | some (k, .hold _ q soft) => (resumeStrand k q soft skip s, none)
    | _ => (s, none)) s)

/-- HELDABORT: the task stops as under the stop-task policy, and is published FAULTED with the held cause. -/
def execHeldabort (fn : Nat) (s : State) : Host.Outcome State Fault Refusal :=
  let b := dmaRead s fn (mbAddr s fn) 32
  let held := b.bind (namedHeld s fn)
  .next (mailbox fn 0x1A (argReserved s fn 255 ++ heldFails s fn b) (fun s =>
    match held with
    | some (k, .hold c _ _) =>
      (stopTask k.queue k.record (onTask k.queue k.record (fun t => { t with firstCause := some (c, 0, 0, 0) }) s), none)
    | _ => (s, none)) s)

end Sys2Proof.Machine
end

