-- ==== Sys2Proof/Machine/Regions.lean ====
section
/-!
DEFINITION. The region manager, clocks, heat and soft errors (R305, R394 to R397, R399 to R412), and the debug commands
(R33, R397).
-/

namespace Sys2Proof.Machine

open Sys2Proof

/-! ### Blocks of R403 -/

/-- The bound region that a function's block names: its task's key, its gang-relative index and its number. -/
def namedRegion (s : State) (fn : Nat) (b : List Byte) : Option (StrandKey × Nat × Nat) := do
  let k : StrandKey := ⟨fieldAt b 0 2, fieldAt b 4 4, fieldAt b 8 4, 0⟩
  let i := fieldAt b 2 1
  let r ← (gangOf s k).regions[i]?
  if reaches s fn k.queue && (regionAt s r).state == .bound && (regionAt s r).boundTo == some (k.queue, k.record, k.gang, i) then
    some (k, i, r)
  else none

/-- The image at an index of a task's object. -/
def imageAt (s : State) (t : Task) (ix : Nat) : Option (List Byte) := (objOf s t).bind fun o => o.images[ix]?

/-! ### IMGHOLD and IMGFREE (R402) -/

/-- Regions of a chiplet that can be held for an image: loaded with it and IDLE, then FREE. -/
def holdable (s : State) (fn h ix c : Nat) : List Nat :=
  (chipletRegions c).filter (fun r => (regionAt s r).state == .idle && holdsImage fn h ix (regionAt s r)) ++
    (chipletRegions c).filter fun r => (regionAt s r).state == .free

/-- Regions to hold, one from each chiplet in ascending order, and so on round. -/
def holdOrder (s : State) (fn h ix : Nat) : List Nat :=
  (List.range 32).flatMap fun i => (List.range 8).filterMap fun c => (holdable s fn h ix c)[i]?

/-- The checks that IMGHOLD and IMGFREE share: the image is the function's, and the count is 1 to 32. -/
def imgFails (s : State) (fn : Nat) : Fails :=
  let known := match objByHandle s fn (mbArg s fn 8 32) with | some o => decide (mbArg s fn 40 4 < o.images.length) | none => false
  failIf (!known) 0x12 ++ failIf (decide (mbArg s fn 44 6 = 0 ∨ 32 < mbArg s fn 44 6)) 0x17 5 ++ argReserved s fn (argBits 8 42)

/-- Hold one region. -/
def holdRegion (fn h ix r : Nat) (s : State) : State :=
  if (regionAt s r).state = .idle then onRegion r (fun x => { x with state := .held, hold := true }) s
  else loadRegion fn h ix none true r s

/-- IMGHOLD. -/
def execImghold (fn : Nat) (s : State) : Host.Outcome State Fault Refusal :=
  let h := mbArg s fn 8 32
  let ix := mbArg s fn 40 4
  let rs := (holdOrder s fn h ix).take (mbArg s fn 44 6)
  .next (mailbox fn 0x10 (failIf (rs.isEmpty && mbArg s fn 44 6 != 0) 0x0F ++ imgFails s fn) (fun s =>
    (rs.foldl (fun s r => holdRegion fn h ix r s) s, some (word rs.length))) s)

/-- IMGFREE. -/
def execImgfree (fn : Nat) (s : State) : Host.Outcome State Fault Refusal :=
  let h := mbArg s fn 8 32
  let ix := mbArg s fn 40 4
  let held := (List.range Config.regions).filter fun r => (regionAt s r).state == .held && holdsImage fn h ix (regionAt s r)
  .next (mailbox fn 0x11 (imgFails s fn) (fun s =>
    ((held.take (mbArg s fn 44 6)).foldl (fun s r => onRegion r (fun x => { x with state := .idle, hold := false }) s) s,
      none)) s)

/-! ### Loading (R399 to R401, R405) -/

/-- A region is made FREE. -/
def freeRegion (r : Nat) (s : State) : State := onRegion r Region.cleared s

/-- The region whose swap or relink loads region `r`. -/
def loadedFor (s : State) (r : Nat) : Option (Nat × Region) :=
  s.dev.regions.find? fun x => x.1 != r && x.2.swapTo == some r

/-- A gang's region was refused: its task completes FAULTED with OPERATOR_FAULT (R399). -/
def refuseLoad (x : Region) (s : State) : State :=
  match x.boundTo with
  | some (q, r, g, _) => stopTask q r (noteCause ⟨q, r, g, 0⟩ 0x103 s)
  | none => s

/-- The image of a region, checked again (R399). -/
def checkRegionImage (s : State) (x : Region) : Option Manifest :=
  match x.image with
  | some (fn, h, ix) =>
    match (objByHandle s fn h).bind fun o => o.images[ix]? with
    | some b => match checkImage (fnRegs s fn).tenant b with | .ok m => some m | .error _ => none
    | none => none
  | none => none

/-- REGION_LOAD_COMPLETE: IDLE, HELD under IMGHOLD, STANDBY for a swap, or, refused, FREE. -/
def execRegionLoadComplete (region : Nat) (s : State) : Host.Outcome State Fault Refusal :=
  let x := regionAt s region
  let from_ := loadedFor s region
  let relink := match from_ with | some (_, y) => y.state == .stopped | none => false
  .next (if x.state != .loading || relink then s
    else
      match checkRegionImage s x with
      | some m =>
        let st : RegState := if from_.isSome then .standby else if x.hold then .held else .idle
        onRegion region (fun y => { y with state := st, manifest := some m, boundTo := none }) s
      | none =>
        let s := match from_ with | some (o, _) => onRegion o (fun y => { y with swapTo := none }) s | none => s
        refuseLoad x (freeRegion region s))

/-! ### SWAP (R403 to R406) -/

/-- Whether a port of the old manifest is matched in the new one. -/
def portMatches (a b : ManPort) : Bool :=
  if a.role = 0 then b.role == 0
  else a.role == b.role && a.ifmt == b.ifmt && a.ofmt == b.ofmt && a.ibits == b.ibits && a.obits == b.obits &&
    a.rin == b.rin && a.rout == b.rout

/-- The clock of a divider lies within a manifest's range: 4,000 / N MHz (R407). -/
def clockFits (m : Manifest) (n : Nat) : Bool := decide (m.clkMin * n ≤ 4000 ∧ 4000 ≤ m.clkMax * n)

/-- The new image is compatible with the old one at a region's present clock (R404). -/
def compatible (x : Region) (new : Manifest) : Bool :=
  match x.manifest with
  | some old => (List.zipWith portMatches old.ports new.ports).all id && old.codecs == new.codecs && clockFits new x.divider
  | none => false

/-- A FREE region of a region's chiplet, else an IDLE one, which is evicted (R400, R405). -/
def spareRegion (s : State) (r : Nat) : Option Nat :=
  (chipletRegions (r / 32)).find? (fun x => (regionAt s x).state == .free) <|>
    (chipletRegions (r / 32)).find? fun x => (regionAt s x).state == .idle

/-- The checks of SWAP on what its block names. -/
def swapFails (s : State) (fn : Nat) (b : List Byte) : Fails :=
  match namedRegion s fn b with
  | none => failIf true 0x12
  | some (k, _, r) =>
    let t := taskOf s k
    let busy := failIf (regionAt s r).swapTo.isSome 0x10
    match imageAt s t (fieldAt b 3 1) with
    | none => failIf true 0x12 ++ busy
    | some img =>
      match checkImage (fnRegs s t.fn).tenant img with
      | .error c => (0x09, c + fieldAt b 3 1 * 2 ^ 8) :: busy
      | .ok m => failIf (!compatible (regionAt s r) m) 0x10 ++ busy

/-- Start a swap: the new image is loaded into a spare region of the chiplet, step 1 of R405. Where there is none yet, the
command waits, with BUSY set (log 22). -/
def execSwap (fn : Nat) (s : State) : Host.Outcome State Fault Refusal :=
  let b := dmaRead s fn (mbAddr s fn) 32
  let fails := argReserved s fn 255 ++ unread b ++
    match b with | some x => swapFails s fn x ++ blockReserved x 0x0C 20 | none => []
  .next (mailboxLong fn 0x12 fails (fun s =>
    match namedRegion s fn (b.getD []) with
    | none => s
    | some (k, _, r) =>
      match spareRegion s r with
      | none => s
      | some n =>
        let t := taskOf s k
        let s := loadRegion t.fn t.trec.object (fieldAt (b.getD []) 3 1) none false n s
        endCommand fn 0 0 none (onRegion r (fun x => { x with swapTo := some n }) s)) s)

/-- The operator has sent every output of the messages of tile streams that it has taken on port `j` of region `r`: no output
message is under way there, and where the port declares a ratio, every input message has had its END. Where it leaves the
ratio free, only the operator knows whether it owes an output (R302, R303, R405; log 5). -/
def portSent (s : State) (r : Nat) (old : Manifest) (x : Region) (j : Nat) : Bool :=
  let c := x.counts.getD j ([], 0)
  let free := match old.ports[j]? with | some p => p.rin == 0 | none => true
  c.2 == 0 && (decide (c.1.length ≤ 1) || (free && freeAt s (2 ^ 82 + r * 8 + j) % 2 == 1))

/-- Region `r` has sent every output, and no message of a copy or a load that a port has taken waits for its own. -/
def outputsSent (s : State) (r : Nat) (old : Manifest) (x : Region) : Bool :=
  (List.range 8).all (portSent s r old x) && x.serving.all fun m => !m.out.isEmpty

/-- Every port of region `r` stands at a message boundary, and every edge buffer fits its new depth (R405). -/
def quiesced (s : State) (r : Nat) (old new : Manifest) (x : Region) : Bool :=
  x.atBoundary.all id && outputsSent s r old x &&
    (List.range 8).all fun j => decide ((x.edges.getD j []).length ≤ match new.ports[j]? with | some p => p.depth | none => 0)

/-- The declared state elements of a region, as read back: what an operator holds is not described (log 5). -/
def readElements (s : State) (r : Nat) (m : Manifest) : List (Nat × Nat) :=
  (List.range m.states.length).map fun i =>
    ((m.states.getD i (0, 0, 0)).1, freeAt s (2 ^ 80 + r * 2 ^ 16 + i) % 2 ^ (m.states.getD i (0, 0, 0)).2.1)

/-- Elements that a manifest declares too, by name. -/
def sharedElements (m : Manifest) (l : List (Nat × Nat)) : List (Nat × Nat) :=
  l.filter fun e => m.states.any fun x => x.1 == e.1

/-- A gang's region becomes another one. -/
def moveRegion (x : Region) (a b : Nat) (s : State) : State :=
  match x.boundTo with
  | some (q, r, g, _) => onGang q r g (fun y => { y with regions := y.regions.map fun z => if z = a then b else z }) s
  | none => s

/-- SWAP_QUIESCE of the old region: steps 2 to 5 of R405. -/
def execSwapQuiesce (region : Nat) (s : State) : Host.Outcome State Fault Refusal :=
  let x := regionAt s region
  .next (match x.swapTo, x.manifest with
    | some n, some old =>
      match (regionAt s n).manifest with
      | some new =>
        if x.state = .bound ∧ (regionAt s n).state = .standby ∧ quiesced s region old new x = true then
          let els := sharedElements new (readElements s region old)
          let s := onRegion n (fun y => { y with
            state := .bound, boundTo := x.boundTo, edges := x.edges, counts := x.counts, atBoundary := x.atBoundary
            elements := els, divider := x.divider, newDivider := x.newDivider, serving := x.serving }) s
          let s := moveRegion x region n s
          onRegion region (fun y => { y with
            state := .idle, hold := false, boundTo := none, edges := [], counts := [], atBoundary := [], elements := []
            swapTo := none, newDivider := none, serving := [] }) s
        else s
      | none => s
    | _, _ => s)

/-! ### RCLOCK and reconfiguration tokens (R305, R408, R409) -/

/-- The divider for a requested clock: ceil(4,000 / MHz). -/
def dividerFor (mhz : Nat) : Nat := ceilDiv 4000 (max 1 mhz)

/-- RCLOCK. -/
def execRclock (fn : Nat) (s : State) : Host.Outcome State Fault Refusal :=
  let b := dmaRead s fn (mbAddr s fn) 32
  let mhz := fieldAt (b.getD []) 0x0C 2
  let named := b.bind (namedRegion s fn)
  let bad := match named with
    | some (_, _, r) => match (regionAt s r).manifest with
      | some m => mhz == 0 || !clockFits m (dividerFor mhz)
      | none => true
    | none => false
  let fails := argReserved s fn 255 ++ unread b ++
    match b with
    | some x => failIf named.isNone 0x12 ++ failIf bad 0x11 ++ blockReserved x 3 1 ++ blockReserved x 0x0E 18
    | none => []
  .next (mailbox fn 0x13 fails (fun s =>
    match named with
    | some (_, _, r) => (onRegion r (fun x => { x with newDivider := some (dividerFor mhz) }) s, none)
    | none => (s, none)) s)

/-- A manifest with another depth at one port. -/
def withDepth (m : Manifest) (port depth : Nat) : Manifest :=
  { m with ports := (List.range m.ports.length).map fun j =>
      if j = port then { m.ports.getD j ⟨0, 0, 0, 0, 0, 0, 0, 0⟩ with depth := depth }
      else m.ports.getD j ⟨0, 0, 0, 0, 0, 0, 0, 0⟩ }

/-- RECONFIG_TOKEN_APPLY: the depth of a drained edge changes, within the limits of the manifest (R302, R305). The operator
may have taken what the edge held (log 5). -/
def execReconfigTokenApply (region : Nat) (port : Fin 8) (depth : Nat) (s : State) : Host.Outcome State Fault Refusal :=
  let x := regionAt s region
  .next (match x.manifest with
    | some m =>
      let new := withDepth m port.val depth
      let left := edgeLeft s region port.val (x.edges.getD port.val [])
      if x.state = .bound ∧ left = [] ∧ 2 ≤ depth ∧ depth ≤ 1024 ∧ bufferBytes new ≤ 96 * 1024 then
        onRegion region (fun y => { y with manifest := some new, edges := alterAt [] (fun _ => []) port.val y.edges }) s
      else s
    | none => s)

/-! ### Stopping and relinking (R394 to R396) -/

/-- The gang that a region is bound to has been stopped as a whole. -/
def regionGangStopped (s : State) (x : Region) : Bool :=
  match x.boundTo with
  | some (q, r, g, _) => match s.dev.gangs.find? (Gang.is q r g) with | some y => preempted s y | none => false
  | none => false

/-- Every strand of a region's gang loses it (R394, R410). -/
def loseRegion (x : Region) (s : State) : State :=
  match x.boundTo with
  | some (q, r, g, _) => raiseAll (fun k => k.queue == q && k.record == r && k.gang == g) ⟨0x104, 0, 0, []⟩ s
  | none => s

/-- REGION_STOP: the clock halts between handshakes and the state is read back; a swap that has not redirected its routes
is abandoned (R394, R396). A readback CRC failure, which nothing in the model decides (log 5), loses the region. -/
def execRegionStop (region : Nat) (s : State) : Host.Outcome State Fault Refusal :=
  let x := regionAt s region
  .next (if x.state = .bound ∧ x.swapTo ≠ some region ∧ regionGangStopped s x = true then
      let lost := freeAt s (2 ^ 77) % 2 == 1
      let els := match x.manifest with | some m => if lost then [] else readElements s region m | none => []
      let s := match x.swapTo with | some n => freeRegion n s | none => s
      let s := onRegion region (fun y => { y with state := .stopped, elements := els, swapTo := none }) s
      if lost then loseRegion x s else s
    else s)

/-- REGION_RELINK of a stopped region onto its target: elements by name, edge buffers by port; what is not declared holds
its reset value (R394, R395). -/
def execRegionRelink (region : Nat) (s : State) : Host.Outcome State Fault Refusal :=
  let x := regionAt s region
  .next (match x.swapTo with
    | none => s
    | some n =>
      if x.state ≠ .stopped then s
      else
        match checkRegionImage s x with
        | none =>
          let s := refuseLoad x (freeRegion region s)
          if n = region then s else freeRegion n s
        | some m =>
          let s := onRegion n (fun y => { y with
            state := .bound, image := x.image, boundTo := x.boundTo, hold := x.hold, edges := x.edges, counts := x.counts
            atBoundary := x.atBoundary, elements := sharedElements m x.elements, divider := x.divider
            newDivider := x.newDivider, manifest := x.manifest, swapTo := some n, serving := x.serving }) s
          if n = region then s else freeRegion region (moveRegion x region n s))

/-! ### Heat (R410) -/

/-- SLOTDLY after a millisecond at a temperature. -/
def nextDelay (x : Region) (temp : Nat) : Nat :=
  if 95 ≤ temp then min (x.slotDly + 8) x.dlyMax else if temp < 90 then x.slotDly - 8 else x.slotDly

/-- THERMAL_TICK. -/
def execThermalTick (region temp : Nat) (s : State) : Host.Outcome State Fault Refusal :=
  .next (if region < Config.regions then
      onRegion region (fun x => { x with temp := temp % 256, slotDly := nextDelay x (temp % 256) }) s
    else s)

/-- REGION_MACHINE_CHECK: at 110 degrees the region is stopped. -/
def execRegionMachineCheck (region : Nat) (s : State) : Host.Outcome State Fault Refusal :=
  let x := regionAt s region
  .next (if 110 ≤ x.temp ∧ x.state = .bound then
      let s := match x.swapTo with | some n => if n = region then s else freeRegion n s | none => s
      loseRegion x (onRegion region (fun y => { y with state := .stopped, elements := [], swapTo := none, serving := [] }) s)
    else s)

/-! ### Tile clocks (R407, R409) -/

/-- The tiles of a compute chiplet. -/
def chipletTiles (c : Nat) : List Nat := (List.range 128).map (128 * c + ·)

/-- FORCED of a chiplet, formed again: the supervisor holds some tile's divider above TDIVREQ, or has just raised it. -/
def setForced (c : Nat) (s : State) : State :=
  let base := (clockAt s c).pending.getD (clockAt s c).req
  let held := fun n => (telemetryAt s n).newTdiv.getD (telemetryAt s n).tdiv
  onClock c (fun x => { x with forced := (chipletTiles c).any fun n => decide (base < held n) }) s

/-- A tile's divider once the changes accepted for it are in force: a throttle's, or TDIVREQ where the tile was not throttled;
never below TDIVREQ (R407). -/
def newDivider (x : ClockRegs) (t : Telemetry) : Nat :=
  match t.newTdiv, x.pending with
  | some d, _ => max x.req d
  | none, some old => if t.tdiv = old then x.req else max x.req t.tdiv
  | none, none => t.tdiv

/-- TDIVREQ_WRITE: values outside 4 to 64 are ignored. -/
def execTdivreqWrite (chiplet : Nat) (v : Word) (s : State) : Host.Outcome State Fault Refusal :=
  let n := fieldOf v.toNat 0 7
  .next (if chiplet < 8 ∧ 4 ≤ n ∧ n ≤ 64 ∧ s.dev.mode ≠ .minimal then
      onClock chiplet (fun x => { x with req := n, pending := some (x.pending.getD x.req) }) s
    else s)

/-- CLOCK_DIVIDER_CHANGE: the accepted value is in force from the next clock edge of its domain; a tile that is throttled
stays at the greater divider. -/
def execClockDividerChange (dom : ClockDomain) (s : State) : Host.Outcome State Fault Refusal :=
  .next (match dom with
    | .tiles c =>
      if (clockAt s c).pending.isSome || (chipletTiles c).any fun n => (telemetryAt s n).newTdiv.isSome then
        let x := clockAt s c
        let s := (chipletTiles c).foldl (fun s n => onTelemetry n (fun t => { t with tdiv := newDivider x t, newTdiv := none }) s) s
        setForced c (onClock c (fun x => { x with pending := none }) s)
      else s
    | .region r =>
      match (regionAt s r).newDivider with
      | some n => onRegion r (fun x => { x with divider := n, newDivider := none }) s
      | none => s)

/-- TILE_THROTTLE: the supervisor never lowers a divider below TDIVREQ; the change is in force from the next clock edge
(R407, R409). -/
def execTileThrottle (tile divider : Nat) (s : State) : Host.Outcome State Fault Refusal :=
  let c := chipletOf tile
  let base := (clockAt s c).pending.getD (clockAt s c).req
  .next (if tile < Config.tiles ∧ base ≤ divider ∧ divider ≤ 64 then
      setForced c (onTelemetry tile (fun t => { t with newTdiv := some divider }) s)
    else s)

/-! ### Droop and soft errors (R411, R412) -/

/-- DROOP_DETECTED: the next 32 tile clocks are stretched, and a matrix pass that is running will not be clean and replays.
Whether one is running at the clock of the flag is timing (log 5). -/
def execDroopDetected (tile : Nat) (s : State) : Host.Outcome State Fault Refusal :=
  let t := onTelemetry tile (fun t => { t with stretchLeft := 32 }) s
  .next (if Config.tiles ≤ tile then s
    else
      match liveHead s tile .matrix with
      | some q => match q.body with
        | .mma _ =>
          if freeAt s (2 ^ 79) % 2 == 1 then onCmd tile .matrix q.owner q.seq (fun x => { x with droop := true }) t else t
        | _ => t
      | none => t)

/-- ECC_ERROR. -/
def execEccError (place : EccPlace) (double : Bool) (s : State) : Host.Outcome State Fault Refusal :=
  .next (match place with
    | .tile n =>
      if Config.tiles ≤ n then s
      else if double then
        raiseAsync n ⟨0x1C0, 0, 0, []⟩ (onTelemetry n (fun t => { t with eccUnc := t.eccUnc + 1 }) s)
      else onTelemetry n (fun t => { t with eccCor := t.eccCor + 1 }) s
    | .line l => if double then onDev (fun d => { d with poison := l :: d.poison.filter (· != l) }) s else s)

/-- MEMORY_SCRUB of a line: a single error is corrected, a double one poisons the line. -/
def execMemoryScrub (line : Nat) (double : Bool) (s : State) : Host.Outcome State Fault Refusal :=
  .next (if double then onDev (fun d => { d with poison := d.poison.filter (· != line) ++ [line] }) s else s)

/-! ### Debug commands (R33, R397) -/

/-- The gangs that a debug command's argument can mean: it gives a linear gang index and no task; of several, which one is
open (log 23). -/
def debugGang (s : State) (fn : Nat) (p : Gang → Bool) : Option Gang :=
  let l := s.dev.gangs.filter fun g => g.gang == mbArg s fn 8 32 && p g
  l[freeAt s (2 ^ 78 + 1) % max 1 l.length]?

/-- The tiles that a debug command acts on: one member's, or with bit 46 the whole gang's. -/
def debugTiles (s : State) (fn : Nat) (g : Gang) : List Nat :=
  let tiles := g.members.map fun m => match m with | .on n => some n | _ => none
  if (mbWord s fn).testBit 46 then tiles.filterMap id
  else match tiles[mbArg s fn 40 6]? with | some (some n) => [n] | _ => []

/-- Whether a tile's strand is in a debug halt. -/
def isHalted (t : Tile) : Bool := match t.run with | .halted _ => true | _ => false

/-- How a strand stands that a debug command can halt: any that stands on its tile and is not halted yet. -/
def haltedAs : RunState → Option Halted
  | .running => some .running
  | .blocked w => some (.blocked w)
  | .resting w => some (.resting w)
  | .parked w => some (.parked w)
  | .free | .frozen _ | .halted _ => none

/-- Whether a tile's strand can be halted. -/
def canHalt (t : Tile) : Bool := t.owner.isSome && (haltedAs t.run).isSome

/-- What a debug command names: the gang's tiles that satisfy `p`. -/
def debugNamed (s : State) (fn : Nat) (p : Tile → Bool) : List Nat :=
  match debugGang s fn (fun g => (debugTiles s fn g).any fun n => p (tileAt s n)) with
  | some g => (debugTiles s fn g).filter fun n => p (tileAt s n)
  | none => []

/-- The checks of the debug commands: PF only, and a strand to act on. -/
def debugFails (s : State) (fn : Nat) (named : List Nat) : Fails :=
  failIf named.isEmpty 0x12 ++ argReserved s fn (argBits 8 39) ++ failIf (fn != 0) 0x18

/-- A debugger is attached to the task of the strand on a tile, whose later gangs it reaches too (R123, R163). -/
def attach (n : Nat) (s : State) : State := onTask (keyOn s n).queue (keyOn s n).record (fun t => { t with debugger := true }) s

/-- Halt the strand of a tile: a stop, which withdraws the arrival of a BAR that waits (R30, R33). -/
def haltTile (n : Nat) (s : State) : State :=
  match haltedAs (tileAt s n).run with
  | some was => attach n (onTile n (fun t => { t with run := .halted was }) (noteStop n (withdraw false n s)))
  | none => s

/-- DBGHALT. -/
def execDbghalt (fn : Nat) (s : State) : Host.Outcome State Fault Refusal :=
  let named := debugNamed s fn canHalt
  .next (mailbox fn 0x0C (debugFails s fn named) (fun s => (named.foldl (fun s n => haltTile n s) s, none)) s)

/-- How a strand goes on after a debug halt: a wait starts again, but for a service or a codec message that is under way
(R30, R33). -/
def unhalted : Halted → RunState
  | .blocked (.service id f) => .blocked (.service id f)
  | .blocked .codec => .blocked .codec
  | .running | .blocked _ => .running
  | .resting w => .resting w
  | .parked w => .parked w

/-- Deliver `k` flits of a tile's receive buffer. -/
def deliverMany (n : Nat) : Nat → State → State
  | 0, s => s
  | k + 1, s => deliverMany n k (deliverOne n s)

/-- Deliver a tile's pending list in arrival order, then let its strand go on. A window AMO of the list is performed by its
own strand; until it and what follows it have landed, the strand executes nothing (R33). -/
def resumeTile (n : Nat) (s : State) : State :=
  match (tileAt s n).run with
  | .halted was =>
    let s := deliverMany n (tileAt s n).net.rx.length s
    reconnect n (onTile n (fun t => { t with
      run := unhalted was, folio := none, folioStale := false, atStop := none
      net := { t.net with landing := !t.net.rx.isEmpty } }) s)
  | _ => s

/-- DBGRESUME. -/
def execDbgresume (fn : Nat) (s : State) : Host.Outcome State Fault Refusal :=
  let named := debugNamed s fn isHalted
  .next (mailbox fn 0x0D (debugFails s fn named) (fun s => (named.foldl (fun s n => resumeTile n s) s, none)) s)

/-- The data bytes of a flit: a nibble stands in its place in the byte (log 23). -/
def flitBytes (f : Flit) : List Byte :=
  match f.nibble with
  | some high => [withNibble 0 high (f.bytes.headD 0)]
  | none => f.bytes

/-- An entry of the pending list (R397): 96 bytes. -/
def pendingEntry (f : Flit) : List Byte :=
  padTo 96 (leBytes 1 f.kind ++ leBytes 1 (if f.port then 0xFF else f.sender.tile) ++ List.replicate 6 0 ++
    leBytes 8 f.offset ++ leBytes 8 (2 ^ f.bytes.length - 1) ++ List.replicate 8 0 ++ flitBytes f)

/-- The pending lists of the named strands. -/
def pendingList (s : State) (ns : List Nat) : List Flit := ns.flatMap fun n => (tileAt s n).net.rx

/-- Their bytes. -/
def pendingBytes (s : State) (ns : List Nat) : List Byte :=
  ns.flatMap fun n => (tileAt s n).net.rx.flatMap pendingEntry

/-- DBGPEND. -/
def execDbgpend (fn : Nat) (s : State) : Host.Outcome State Fault Refusal :=
  let named := debugNamed s fn isHalted
  let w := dmaWrite fn (mbAddr s fn) (pendingBytes s named) s
  .next (mailbox fn 0x0E (debugFails s fn named ++ failIf w.isNone 0x19) (fun s =>
    ((dmaWrite fn (mbAddr s fn) (pendingBytes s named) s).getD s, some (word (pendingList s named).length))) s)

/-- The record of a fault that engine `e` of tile `n` holds and has not delivered (R116, R380). -/
def faultRecord (s : State) (n : Nat) (e : Eng) : List Byte :=
  let t := tileAt s n
  let k := keyOn s n
  match heldFault (fun c => c.owner == k) (flightOf t e ++ engQueue t e) with
  | some (c, f) =>
    let first := t.fresh == some (e, c.seq)
    trapBytes s n k 0 ⟨if first then c.vpc else t.seq.vpc, !first, some (e, c.seq, xferOf c, decide (0 < c.replays))⟩ f
  | none => List.replicate 128 0

/-- The VIEW context of a strand with its whole scratchpad and accumulator store (R379, R397). -/
def viewBytes (s : State) (n : Nat) : List Byte :=
  let t := tileAt s n
  let h : CtxHead := {
    flags := 4 + if t.seq.liveOverflow then 8 else 0, slot := 0, ctxid := 0, counter := 0, resume := t.seq.vpc.toNat
    base := 0, len := Config.padBytes, rows := 256 }
  recordBytes t h none
    (sectionsOf t (keyOn s n) 0 0 Config.padBytes 256 ((List.range 4).flatMap fun i => faultRecord s n (engOf i)))

/-- DBGVIEW. -/
def execDbgview (fn : Nat) (s : State) : Host.Outcome State Fault Refusal :=
  let named := debugNamed s fn isHalted
  let bytes := named.flatMap (viewBytes s)
  .next (mailbox fn 0x0F (debugFails s fn named ++ failIf (dmaWrite fn (mbAddr s fn) bytes s).isNone 0x19) (fun s =>
    ((dmaWrite fn (mbAddr s fn) bytes s).getD s, none)) s)

end Sys2Proof.Machine
end

