-- ==== Sys2Proof/Machine/Registers.lean ====
section
/-!
DEFINITION. The host's registers (R345 to R348, R350, R373, R407, R410, R413, R426, R436, R437), its accesses to memory
(R109), links (R437, R438), and the start of the device with its firmware and identity (R423 to R432).
-/

namespace Sys2Proof.Machine

open Sys2Proof

/-! ### Reading registers (R6, R7, R346 to R348) -/

/-- A value at a bit position. -/
def at_ (x lo : Nat) : Nat := x * 2 ^ lo

/-- A flag at a bit position. -/
def flagAt (b : Bool) (lo : Nat) : Nat := if b then 2 ^ lo else 0

/-- MODE codes (R426). -/
def modeCode : Mode → Nat
  | .booting => 0 | .normal => 1 | .minimal => 2

/-- The boot status register (R426). -/
def bootStatus (d : Dev) : Nat :=
  d.stage + at_ (modeCode d.mode) 2 + at_ d.reason 8 + at_ d.failsAtEntry 16 + at_ d.detail 32

/-- STATE codes of a queue (R350). -/
def qstateCode : QState → Nat
  | .disabled => 0 | .running => 1 | .draining => 2 | .drained => 3 | .aborting => 4 | .error => 5

/-- A word of a queue's block; CMD reads 0 (R350). -/
def queueWord (q : Queue) (off : Nat) : Nat :=
  match off with
  | 0x00 => q.qbase.toNat
  | 0x08 => q.qlog2 + flagAt q.qhost 5 + flagAt q.devenq 6 + at_ q.pasid 7 + at_ q.owner 27
  | 0x10 => q.dtbase.toNat
  | 0x18 => q.dtsize
  | 0x20 => q.head + at_ q.tail 32
  | 0x28 => qstateCode q.state + at_ q.err 8
  | _ => 0

/-- A word of a function's translation block (R373). -/
def fnWord (f : FnRegs) (off : Nat) : Nat :=
  match off with
  | 0x00 => flagAt f.en 0 + at_ f.root 12
  | 0x08 => f.etbase.toNat
  | 0x10 => f.fvec + at_ f.fring 12
  | _ => f.ftail + at_ f.fhead 8

/-- A word of a mailbox; the command word reads 0 (R349). -/
def mailboxWord (f : FnRegs) (off : Nat) : Nat :=
  match off with
  | 0x08 => f.mbOperand.toNat
  | 0x10 => flagAt f.mbBusy 0 + at_ f.mbStatus 8 + at_ f.mbDetail 32
  | 0x18 => f.mbResult.toNat
  | _ => 0

/-- A word of a tile's telemetry block (R413). -/
def telemetryWord (t : Telemetry) (off : Nat) : Nat :=
  match off with
  | 0x00 => t.resRep.toNat
  | 0x08 => t.droopRep.toNat
  | 0x10 => t.stretch.toNat
  | 0x18 => t.eccCor.toNat
  | 0x20 => t.eccUnc.toNat
  | 0x28 => t.parity.toNat
  | 0x30 => t.energy.toNat
  | _ => t.tdiv

/-- A word of a link's block (R437). -/
def linkWord (x : Link) (off : Nat) : Nat :=
  match off with
  | 0x00 => x.state + at_ x.peer 16 + at_ x.peerLink 28
  | 0x08 => x.replays.toNat
  | 0x10 => x.crcErr.toNat
  | 0x18 => x.downs
  | 0x20 => flagAt x.enable 0
  | _ => 0

/-- The clock block of a compute chiplet (R407). -/
def clockWord (s : State) (c : Nat) : Nat :=
  (clockAt s c).req + at_ ((chipletTiles c).foldl (fun m n => min m (telemetryAt s n).tdiv) 64) 8 +
    flagAt (clockAt s c).forced 16

/-- The block of a region (R410). -/
def regionWord (x : Region) : Nat := x.slotDly + at_ x.dlyMax 8 + at_ x.temp 16

/-- A link. -/
def linkAt (s : State) (l : Nat) : Link := look Link.blank s.dev.links l

/-- Change a link. -/
def onLink (l : Nat) (f : Link → Link) (s : State) : State :=
  onDev (fun d => { d with links := keep d.links l (f (look Link.blank d.links l)) }) s

/-- Words of the PF's BAR0 below the queue blocks, but for the mailbox (R347, R348, R426, R436). -/
def globalWord (s : State) (off : Nat) : Nat :=
  let d := s.dev
  if off = 0 then d.ageInt
  else if off = 0x08 then d.immPool
  else if off = 0x10 then d.immDl
  else if off < 0x220 then (fnRegs s ((off - 0x18) / 8)).tenant + at_ (fnRegs s ((off - 0x18) / 8)).tcshare 16
  else if off = 0x300 then bootStatus d
  else if off = 0x308 then d.pkg
  else if 0x340 ≤ off ∧ off < 0x380 then leNat (bytesAt d.measure (off - 0x340) 8)
  else if off = 0x380 then d.fwVersion.toNat
  else if 0x2000 ≤ off ∧ off < 0x2820 then fnWord (fnRegs s ((off - 0x2000) / 32)) (off % 32)
  else if 0x3000 ≤ off ∧ off < 0x3040 then clockWord s ((off - 0x3000) / 8)
  else if 0x3800 ≤ off ∧ off < 0x4000 then regionWord (regionAt s ((off - 0x3800) / 8))
  else if 0x40000 ≤ off ∧ off < 0x50000 then telemetryWord (telemetryAt s ((off - 0x40000) / 64)) (off % 64)
  else if 0x50000 ≤ off ∧ off < 0x50400 then linkWord (linkAt s ((off - 0x50000) / 64)) (off % 64)
  else 0

/-- The 64-bit word at an aligned offset of a function's BAR0; what no row covers reads as zero (R7, R348). -/
def readRegister (s : State) (fn off : Nat) : Word :=
  word (if 0x1000 ≤ off ∧ off < 0x1020 then mailboxWord (fnRegs s fn) (off - 0x1000)
    else if 0x100000 ≤ off ∧ off < 0x140000 then
      match queueSeen s fn ((off - 0x100000) / 64) with | some q => queueWord (queueAt s q) (off % 64) | none => 0
    else if fn = 0 then globalWord s off else 0)

/-! ### Writing registers -/

/-- Write the word of a function's TENANT and TCSHARE; a tenant number that another function holds is ignored (R347). -/
def writeTenant (fn : Nat) (v : Nat) (s : State) : State :=
  let t := fieldOf v 0 16
  let taken := (List.range 65).any fun f => f != fn && (fnRegs s f).tenant == t
  onFn fn (fun r => { r with tenant := if taken then r.tenant else t, tcshare := fieldOf v 16 16 }) s

/-- TENANT_WRITE. -/
def execTenantWrite (fn : Nat) (v : Word) (s : State) : Host.Outcome State Fault Refusal :=
  .next (if fn ≤ 64 then writeTenant fn v.toNat s else s)

/-- PKG_WRITE: only while every queue is DISABLED (R436). -/
def execPkgWrite (v : Word) (s : State) : Host.Outcome State Fault Refusal :=
  .next (if s.dev.queues.all fun q => q.2.state == .disabled then onDev (fun d => { d with pkg := fieldOf v.toNat 0 12 }) s
    else s)

/-- Write a word of a queue's block, but for CMD: only while the queue is DISABLED; a VF does not write OWNER (R350). -/
def writeQueue (fn q off v : Nat) (s : State) : State :=
  if (queueAt s q).state ≠ .disabled then s
  else
    match off with
    | 0x00 => onQueue q (fun r => { r with qbase := word v }) s
    | 0x08 => onQueue q (fun r => { r with
        qlog2 := fieldOf v 0 5, qhost := v.testBit 5, devenq := v.testBit 6, pasid := fieldOf v 7 20
        owner := if fn = 0 then fieldOf v 27 7 else r.owner }) s
    | 0x10 => onQueue q (fun r => { r with dtbase := word v }) s
    | 0x18 => onQueue q (fun r => { r with dtsize := fieldOf v 0 17 }) s
    | _ => s

/-- Write a word of a function's translation block (R373). -/
def writeFn (f off v : Nat) (s : State) : State :=
  match off with
  | 0x00 => onFn f (fun r => { r with en := v.testBit 0, root := fieldOf v 12 44 }) s
  | 0x08 => onFn f (fun r => { r with etbase := word v }) s
  | 0x10 => onFn f (fun r => { r with fvec := fieldOf v 0 11, fring := fieldOf v 12 44 }) s
  | _ => onFn f (fun r => { r with fhead := fieldOf v 8 6 }) s

/-- Write a word of a mailbox: a command written while BUSY is ignored (R349). -/
def writeMailbox (fn off v : Nat) (s : State) : State :=
  match off with
  | 0x00 => onFn fn (fun r => if r.mbBusy then r else { r with mbCmd := word v, mbBusy := true }) s
  | 0x08 => onFn fn (fun r => { r with mbOperand := word v }) s
  | _ => s

/-- Write a word of the PF's BAR0 below the queue blocks. -/
def writeGlobal (off v : Nat) (s : State) : State :=
  if off = 0 then onDev (fun d => { d with ageInt := fieldOf v 0 32 }) s
  else if off = 0x08 then onDev (fun d => { d with immPool := fieldOf v 0 16 }) s
  else if off = 0x10 then onDev (fun d => { d with immDl := fieldOf v 0 32 }) s
  else if off < 0x220 then writeTenant ((off - 0x18) / 8) v s
  else if s.dev.mode = .minimal then s
  else if 0x2000 ≤ off ∧ off < 0x2820 then writeFn ((off - 0x2000) / 32) (off % 32) v s
  else if 0x3800 ≤ off ∧ off < 0x4000 then onRegion ((off - 0x3800) / 8) (fun x => { x with dlyMax := fieldOf v 8 8 }) s
  else s

/-- REGISTER_WRITE of a whole aligned word: writable fields change, reserved ones and read-only ones do not; TDIVREQ, PKG,
ENABLE of a link and CMD of a queue have rows of their own (R6, R7, R348). In minimal mode only the PF's global registers
and mailbox are there (R425). -/
def execRegisterWrite (fn off : Nat) (v : Word) (s : State) : Host.Outcome State Fault Refusal :=
  .next (if off % 8 ≠ 0 ∨ 64 < fn ∨ (s.dev.mode = .minimal ∧ fn ≠ 0) then s
    else if 0x1000 ≤ off ∧ off < 0x1020 then writeMailbox fn (off - 0x1000) v.toNat s
    else if 0x100000 ≤ off ∧ off < 0x140000 then
      match queueSeen s fn ((off - 0x100000) / 64) with
      | some q => if s.dev.mode = .minimal then s else writeQueue fn q (off % 64) v.toNat s
      | none => s
    else if fn = 0 then writeGlobal off v.toNat s else s)

/-! ### Host accesses to memory (R74, R76, R109, R346) -/

/-- Constant-loaded granules that a host write overlaps keep the old contents beside the new (R76). -/
def keepOld (m : Memory) (p : Place) (addr n : Nat) (c : ConstMark) : ConstMark :=
  if c.gran.place = p ∧ addr < 32 * c.gran.index + 32 ∧ 32 * c.gran.index < addr + n ∧ c.old = none then
    { c with old := some (m.readBytes (32 * c.gran.index) 32) }
  else c

/-- A host write: no party, no conflict check (R109). -/
def hostWrite (p : Place) (addr : Nat) (bytes : List Byte) (s : State) : State :=
  let m := placeMem s p
  let s := onDev (fun d => { d with consts := d.consts.map (keepOld m p addr bytes.length) }) s
  setPlaceMem (plainWrite p addr bytes.length s) p (m.writeBytes addr bytes)

/-- HOST_MEMORY_ACCESS: with bytes, a write, through the PF's device-memory aperture, which starts at device address 0 (R346;
log 61), or to the host's own memory; with none, a read, which changes nothing. -/
def execHostMemoryAccess (aperture : Bool) (addr : Nat) (bytes : List Byte) (s : State) :
    Host.Outcome State Fault Refusal :=
  .next (if bytes.isEmpty then s
    else if aperture then
      (if addr + bytes.length ≤ Config.bar4Bytes ∧ s.dev.mode ≠ .minimal then hostWrite .dev addr bytes s else s)
    else hostWrite .host addr bytes s)

/-! ### Links (R437, R438) -/

/-- LINK_TRAINING_DONE. -/
def execLinkTrainingDone (link peer peerLink : Nat) (s : State) : Host.Outcome State Fault Refusal :=
  .next (if (linkAt s link).state = 1 then
      onLink link (fun x => { x with
        state := 2, peer := peer % 2 ^ 12, peerLink := peerLink % 16, tries := 0, retraining := false }) s
    else s)

/-- FLIT_REPLAY: a flit with a failing CRC is replayed. Whether it is the flit replayed before, or that one got through, is
timing of the link (log 5). -/
def execFlitReplay (link : Nat) (s : State) : Host.Outcome State Fault Refusal :=
  let again := freeAt s (2 ^ 81) % 2 == 1
  .next (if (linkAt s link).state = 2 then
      onLink link (fun x => { x with
        replays := x.replays + 1, crcErr := x.crcErr + 1, tries := if again then x.tries + 1 else 1 }) s
    else s)

/-- LINK_REPLAY_LIMIT: after 16 replays of a flit the link trains once more. -/
def execLinkReplayLimit (link : Nat) (s : State) : Host.Outcome State Fault Refusal :=
  .next (if (linkAt s link).state = 2 ∧ 16 ≤ (linkAt s link).tries then
      onLink link (fun x => { x with state := 1, tries := 0, retraining := true }) s
    else s)

/-- LINK_ENABLE_WRITE: 0 takes the link out of service; 1 lets a link that is down train. -/
def execLinkEnableWrite (link : Nat) (v : Word) (s : State) : Host.Outcome State Fault Refusal :=
  let on := v.toNat.testBit 0
  .next (if 16 ≤ link ∨ s.dev.mode = .minimal then s
    else onLink link (fun x => { x with
      enable := on
      state := if !on then 0 else if x.state = 0 ∧ s.dev.mode = .normal then 1 else x.state
      retraining := on && x.retraining }) s)

/-- Whether a link that is up leads to a package. -/
def routeTo (s : State) (pkg : Nat) : Bool := s.dev.links.any fun x => x.2.state == 2 && x.2.peer == pkg

/-- Whether a COLL in flight needs the way to a package: it has a member there, or one in a package that no link reaches
directly, for which the route is not described (log 5). -/
def needsPackage (s : State) (pkg : Nat) (k : StrandKey) (x : CollCmd) : Bool :=
  match x.scope with
  | .gang | .tile => false
  | .dev | .sys =>
    match s.dev.groups.find? fun g => g.handle == x.group.toNat && g.fn == (taskOf s k).fn with
    | some g => g.members.any fun m =>
        m.1 == pkg || (m.1 != s.dev.pkg && !routeTo s m.1 && freeAt s (2 ^ 82 + m.1) % 2 == 1)
    | none => false

/-- The COLLs in flight of a tile that need the way to a package. -/
def cutColls (s : State) (pkg : Nat) (t : Tile) : List (StrandKey × CollCmd) :=
  t.qStore.filterMap fun c =>
    match c.body with
    | .coll x => if c.started && needsPackage s pkg c.owner x then some (c.owner, x) else none
    | _ => none

/-- The last route to a package is lost: COLLs in flight that need it lose a participant, and every strand of their tasks
takes LINK_DOWN (R438). -/
def cutOff (pkg : Nat) (s : State) : State :=
  let cut := (allTiles s).flatMap fun t => cutColls s pkg t.2
  let s := onDev (fun d => { d with lost := d.lost ++ (cut.map fun c => lostKey c.1 c.2).filter fun x => !d.lost.contains x }) s
  raiseAll (fun k => cut.any fun c => c.1.queue == k.queue && c.1.record == k.record) ⟨0x1C4, 0, 0, []⟩ s

/-- LINK_RETRAIN_FAIL: the link fails, the PF is signalled, and traffic takes another link to the same package where there
is one (R437, R438). -/
def execLinkRetrainFail (link : Nat) (s : State) : Host.Outcome State Fault Refusal :=
  let x := linkAt s link
  .next (if x.state = 1 ∧ x.retraining = true then
      let s := signal 0 0 (onLink link (fun y => { y with
        state := 3, downs := (y.downs + 1) % 2 ^ 32, retraining := false, tries := 0 }) s)
      if routeTo s x.peer then s else cutOff x.peer s
    else s)

/-! ### The rubric (R431, R432) -/

/-- Identifiers with an entry in normal mode, ascending. -/
def rubricIds : List Nat :=
  [0x1, 0x2, 0x4, 0x6, 0x7, 0x8, 0x9, 0xA, 0xB, 0xC, 0xD, 0xE, 0xF] ++ (List.range 19).map (0x100 + ·)

/-- The rubric as the DVSEC shows it: identifier and value, none before stage 3. -/
def rubricEntries (d : Dev) : List (Nat × Nat) :=
  match d.mode with
  | .booting => []
  | .normal => rubricIds.map fun i => (i, Config.rubric d.fwGen i)
  | .minimal => [(0x0001, Config.sviVersion), (0x00FF, 0x100 + d.reason)]

/-! ### Starting the device (R423 to R428) -/

/-- The firmware image that boots. -/
def bootImage (d : Dev) : List Byte := d.store.getD Config.factoryImage

/-- The 64-byte digest of stage `k`'s image in a firmware image. -/
def stageDigest (image : List Byte) (k : Nat) : List Byte := shake256 (Config.stagePart image k).1 64

/-- Why stage `k` of a firmware image may not run, as reason and detail: its signature does not verify over its digest, or the
version lies below the rollback floor (R423, R427). -/
def stageFault (image : List Byte) (k : Nat) : Option (Nat × Nat) :=
  let version := (Config.firmwareVersion image).toNat
  if !Config.firmwareVerify (stageDigest image k) (Config.stagePart image k).2 then some (1, k)
  else if version < Config.rollbackFloor then some (2, version % 2 ^ 32)
  else none

/-- The measurement chain over the digests of stages 1 and 2, from 64 zero bytes on (R423). -/
def bootMeasure (image : List Byte) : List Byte :=
  [1, 2].foldl (fun m k => shake256 (m ++ stageDigest image k) 64) (List.replicate 64 0)

/-- A start fails: its reason goes to the persistent store (R424, R427). -/
def failBoot (reason detail : Nat) (d : Dev) : Dev := { d with reason := reason, detail := detail % 2 ^ 32, startFailed := true }

/-- Stage `k` runs once the stage before it has verified its image, or the start fails (R423, R424). -/
def enterStage (k : Nat) (d : Dev) : Dev :=
  match stageFault (bootImage d) k with
  | none => { d with stage := k }
  | some (reason, detail) => failBoot reason detail d

/-- ROM entry: minimal mode after three failed starts, else the start is counted and stage 1 begins (R424). -/
def enterRom (d : Dev) : Dev :=
  if d.fails = 3 then { d with mode := .minimal, stage := 0, failsAtEntry := 3 }
  else enterStage 1 { d with mode := .booting, failsAtEntry := d.fails, fails := d.fails + 1 }

/-- The firmware loader enters stage 2, if it has not done so. -/
def enterSupervisor (d : Dev) : Dev :=
  if d.mode = .booting ∧ d.startFailed = false ∧ d.stage = 1 then enterStage 2 d else d

/-- The loader may have entered stage 2 by now: when it does is timing (log 5). -/
def maybeSupervisor (s : State) : State := if freeAt s (2 ^ 83) % 2 = 1 then onDev enterSupervisor s else s

/-- A reset of the device: what lies in the persistent store and the firmware store stays, with the host's own memory and
its translation agent; all else is as State.reset has it (R424, R428, R433). -/
def resetDevice (s : State) : State :=
  let d := s.dev
  maybeSupervisor { State.reset with
    draws := s.draws
    agenda := s.agenda
    dev := enterRom { Dev.blank with
      host := d.host, ats := d.ats, fails := d.fails, reason := d.reason, detail := d.detail, attests := d.attests
      store := d.staged.orElse fun _ => d.store, fwGen := if d.staged.isSome then d.fwGen + 1 else d.fwGen } }

/-- DEVICE_RESET. -/
def execDeviceReset (s : State) : Host.Outcome State Fault Refusal := .next (resetDevice s)

/-- Stage 3: the measurement is frozen, the rubric published, FAILS cleared (R423, R424). Links in service begin to train. -/
def reachReady (s : State) : State :=
  let s := onDev (fun d => { d with
    stage := 3, mode := .normal, fails := 0, measure := bootMeasure (bootImage d)
    fwVersion := Config.firmwareVersion (bootImage d) }) s
  (List.range 16).foldl (fun s l => onLink l (fun x => if x.enable then { x with state := 1 } else x) s) s

/-- BOOT_READY: stage 2, entered by now unless its image does not verify, has started the device (R423). -/
def execBootReady (s : State) : Host.Outcome State Fault Refusal :=
  let s := onDev enterSupervisor s
  .next (if s.dev.mode = .booting ∧ s.dev.startFailed = false ∧ s.dev.stage = 2 then reachReady s else s)

/-- A start under way fails for a reason that is not its images' (R424, R427). -/
def failStart (reason : Nat) (detail : Dev → Nat) (s : State) : State :=
  if s.dev.mode = .booting ∧ s.dev.startFailed = false then onDev (fun d => failBoot reason (detail d) d) s else s

/-- FAILED_START, with a reason of R427. -/
def execFailedStart (reason detail : Nat) (s : State) : Host.Outcome State Fault Refusal :=
  .next (if reason = 0 ∨ reason = 5 ∨ 6 < reason then s else failStart reason (fun _ => detail) (maybeSupervisor s))

/-- BOOT_WATCHDOG_EXPIRY: stage 3 is not reached within 30 s; the detail is the stage reached. -/
def execBootWatchdogExpiry (s : State) : Host.Outcome State Fault Refusal :=
  .next (failStart 5 (·.stage) (maybeSupervisor s))

/-- Whether a firmware image passes R423. -/
def firmwareOk (image : List Byte) : Bool := [1, 2].all fun k => (stageFault image k).isNone

/-- FWSTAGE: a checked image goes to the firmware store. -/
def execFwstage (fn : Nat) (s : State) : Host.Outcome State Fault Refusal :=
  let b := dmaRead s fn (mbAddr s fn) (mbArg s fn 8 32)
  let refused := match b with | some x => !firmwareOk x | none => false
  .next (mailbox fn 0x15 (failIf refused 0x14 ++ argReserved s fn (argBits 8 32) ++ unread b) (fun s =>
    (onDev (fun d => { d with staged := b }) s, none)) s)

/-- RESTART: accepted while every queue is DISABLED, or in minimal mode (R428). -/
def execRestart (fn : Nat) (s : State) : Host.Outcome State Fault Refusal :=
  let idle := s.dev.queues.all fun q => q.2.state == .disabled
  .next (mailboxLong fn 0x16 (failIf (!idle && s.dev.mode != .minimal) 0x13 ++ argReserved s fn (argBits 8 1)) (fun s =>
    resetDevice (if (mbWord s fn).testBit 8 then onDev (fun d => { d with fails := 0 }) s else s)) s)

/-! ### Attestation (R429, R430) -/

/-- The report up to its signature: 256 bytes. -/
def reportHead (s : State) (fn : Nat) (nonce : List Byte) : List Byte :=
  let d := s.dev
  padTo 0x100 (leBytes 4 0x54525441 ++ leBytes 2 1 ++ leBytes 2 fn ++ leBytes 4 Config.rev ++ leBytes 4 (Config.tver d.fwGen) ++
    leBytes 8 d.fwVersion.toNat ++ leBytes 8 (bootStatus d) ++ padTo 64 nonce ++ padTo 64 d.measure ++
    padTo 56 (Config.x448Public d.attests))

/-- The 384-byte report. -/
def reportBytes (s : State) (fn : Nat) (nonce : List Byte) : List Byte :=
  let h := reportHead s fn nonce
  padTo 384 (h ++ padTo 114 (Config.ed448Sign h))

/-- ATTEST: the report takes the place of the request (log 24), and the function's transport key is replaced. -/
def execAttest (fn : Nat) (s : State) : Host.Outcome State Fault Refusal :=
  let b := dmaRead s fn (mbAddr s fn) 120
  let nonce := bytesAt (b.getD []) 0 64
  let w := dmaWrite fn (mbAddr s fn) (reportBytes s fn nonce) s
  .next (mailbox fn 0x17 (argReserved s fn 255 ++ unread b ++ failIf w.isNone 0x19) (fun s =>
    let key := shake256 (Config.x448Shared s.dev.attests (bytesAt (b.getD []) 64 56) ++ nonce) 32
    let s := (dmaWrite fn (mbAddr s fn) (reportBytes s fn nonce) s).getD s
    let s := onFn fn (fun r => { r with transport := some key }) s
    (onDev (fun d => { d with attests := d.attests + 1 }) s, some 384)) s)

end Sys2Proof.Machine
end

