-- ==== Sys2Proof/Machine/Scalar.lean ====
section
/-!
DEFINITION. Scalar arithmetic, bit fields, immediates and factors (spec chapter 07, R152 to R160).
-/

namespace Sys2Proof.Machine

open Sys2Proof

/-! ### The functions of R154 and R155 on 64-bit values -/

/-- 1 or 0. -/
def flag (b : Bool) : Word := if b then 1 else 0

/-- The register shift amount: the operand modulo 64 (R154). -/
def shiftAmount (y : Word) : Nat := y.toNat % 64

/-- SHL, and its immediate form. -/
def shlFn (x : Word) (n : Nat) : Word := x <<< n
/-- SHR, and its immediate form. -/
def shrFn (x : Word) (n : Nat) : Word := x >>> n
/-- SRA, and its immediate form. -/
def sraFn (x : Word) (n : Nat) : Word := x.sshiftRight n

/-- MIN and MAX by the signed order. -/
def minFn (x y : Word) : Word := if y.slt x then y else x
/-- The larger, signed. -/
def maxFn (x y : Word) : Word := if x.slt y then y else x
/-- The smaller, unsigned. -/
def minzFn (x y : Word) : Word := if y.ult x then y else x
/-- The larger, unsigned. -/
def maxzFn (x y : Word) : Word := if x.ult y then y else x

/-- Number of one bits (R154). -/
def popcFn (x : Word) : Word := word (popBits 64 x.toNat)
/-- Leading zero bits; 64 for zero (R154). -/
def clzFn (x : Word) : Word := word (if x = 0 then 64 else 63 - Nat.log2 x.toNat)
/-- The lowest one bit at or above bit `k`, of `n` bits left. -/
def lowestBit (x : Nat) : Nat → Nat → Nat
  | k, 0 => k
  | k, n + 1 => if x.testBit k then k else lowestBit x (k + 1) n
/-- Trailing zero bits; 64 for zero (R154). -/
def ctzFn (x : Word) : Word := word (lowestBit x.toNat 0 64)

/-- Bits [127:64] of the signed product (R155). -/
def mulhFn (x y : Word) : Word := wordOfInt (x.toInt * y.toInt / 2 ^ 64)
/-- Bits [127:64] of the unsigned product (R155). -/
def mulhzFn (x y : Word) : Word := word (x.toNat * y.toNat / 2 ^ 64)
/-- Signed quotient truncated toward zero, with the corners of R155. -/
def divFn (x y : Word) : Word := if y = 0 then BitVec.allOnes 64 else wordOfInt (x.toInt.tdiv y.toInt)
/-- Unsigned quotient (R155). -/
def divzFn (x y : Word) : Word := if y = 0 then BitVec.allOnes 64 else word (x.toNat / y.toNat)
/-- Signed remainder with the sign of the dividend (R155). -/
def remFn (x y : Word) : Word := if y = 0 then x else wordOfInt (x.toInt.tmod y.toInt)
/-- Unsigned remainder (R155). -/
def remzFn (x y : Word) : Word := if y = 0 then x else word (x.toNat % y.toNat)

/-- BFX: the field of `w` bits at `pos`, zero- or sign-extended (R157). -/
def bfxFn (x : Word) (pos w : Nat) (sx : Bool) : Word :=
  if sx then wordOfInt (signedOf w (x.toNat / 2 ^ pos)) else word (fieldOf x.toNat pos w)
/-- Replace the field of `w` bits at `pos` by the low bits of `y` (R157, R159). -/
def insertFn (x y : Word) (pos w : Nat) : Word :=
  let m : Word := word ((2 ^ w - 1) * 2 ^ pos)
  (x &&& ~~~m) ||| ((y <<< pos) &&& m)

/-! ### Operand forms -/

/-- An instruction of two source registers. -/
def scalar2 (f : Word → Word → Word) (d a b : SReg) (s : State) : Host.Outcome State Fault Refusal :=
  finish s (.ok (setS d (f (getS s a) (getS s b)) s))

/-- An instruction of one source register. -/
def scalar1 (f : Word → Word) (d a : SReg) (s : State) : Host.Outcome State Fault Refusal :=
  finish s (.ok (setS d (f (getS s a)) s))

/-- An instruction of one source register and a sign-extended IMM28 (R158). -/
def scalarImm (f : Word → Word → Word) (d a : SReg) (imm : BitVec 28) (s : State) :
    Host.Outcome State Fault Refusal :=
  finish s (.ok (setS d (f (getS s a) (imm.signExtend 64)) s))

/-- The value of a factor operand: SCALE times the factor, or FACTOR_UNBOUND with the slot (R134, R160). -/
def factorValue (s : State) (slot : Fin 64) (scale : BitVec 22) : Except Stop Word :=
  match ((taskOf s (me s)).factors.getD slot.val none) with
  | some f => .ok (scale.signExtend 64 * f)
  | none => .error (.cause 0x143 slot.val)

/-! ### The instructions -/

/-- ADD (R154). -/
def execAdd (d a b : SReg) (s : State) := scalar2 (· + ·) d a b s
/-- SUB (R154). -/
def execSub (d a b : SReg) (s : State) := scalar2 (· - ·) d a b s
/-- AND (R154). -/
def execAnd (d a b : SReg) (s : State) := scalar2 (· &&& ·) d a b s
/-- OR (R154). -/
def execOr (d a b : SReg) (s : State) := scalar2 (· ||| ·) d a b s
/-- XOR (R154). -/
def execXor (d a b : SReg) (s : State) := scalar2 (· ^^^ ·) d a b s
/-- SHL by a register (R154). -/
def execShl (d a b : SReg) (s : State) := scalar2 (fun x y => shlFn x (shiftAmount y)) d a b s
/-- SHR by a register (R154). -/
def execShr (d a b : SReg) (s : State) := scalar2 (fun x y => shrFn x (shiftAmount y)) d a b s
/-- SRA by a register (R154). -/
def execSra (d a b : SReg) (s : State) := scalar2 (fun x y => sraFn x (shiftAmount y)) d a b s
/-- MIN (R154). -/
def execMin (d a b : SReg) (s : State) := scalar2 minFn d a b s
/-- MAX (R154). -/
def execMax (d a b : SReg) (s : State) := scalar2 maxFn d a b s
/-- MINZ (R154). -/
def execMinz (d a b : SReg) (s : State) := scalar2 minzFn d a b s
/-- MAXZ (R154). -/
def execMaxz (d a b : SReg) (s : State) := scalar2 maxzFn d a b s
/-- SETLT (R154). -/
def execSetlt (d a b : SReg) (s : State) := scalar2 (fun x y => flag (x.slt y)) d a b s
/-- SETLTZ (R154). -/
def execSetltz (d a b : SReg) (s : State) := scalar2 (fun x y => flag (x.ult y)) d a b s
/-- SETEQ (R154). -/
def execSeteq (d a b : SReg) (s : State) := scalar2 (fun x y => flag (x == y)) d a b s
/-- POPC (R154). -/
def execPopc (d a : SReg) (s : State) := scalar1 popcFn d a s
/-- CLZ (R154). -/
def execClz (d a : SReg) (s : State) := scalar1 clzFn d a s
/-- CTZ (R154). -/
def execCtz (d a : SReg) (s : State) := scalar1 ctzFn d a s
/-- MUL (R155). -/
def execMul (d a b : SReg) (s : State) := scalar2 (· * ·) d a b s
/-- MULH (R155). -/
def execMulh (d a b : SReg) (s : State) := scalar2 mulhFn d a b s
/-- MULHZ (R155). -/
def execMulhz (d a b : SReg) (s : State) := scalar2 mulhzFn d a b s
/-- MADD (R155). -/
def execMadd (d a b c : SReg) (s : State) := scalar2 (fun x y => x * y + getS s c) d a b s
/-- DIV (R155). -/
def execDiv (d a b : SReg) (s : State) := scalar2 divFn d a b s
/-- DIVZ (R155). -/
def execDivz (d a b : SReg) (s : State) := scalar2 divzFn d a b s
/-- REM (R155). -/
def execRem (d a b : SReg) (s : State) := scalar2 remFn d a b s
/-- REMZ (R155). -/
def execRemz (d a b : SReg) (s : State) := scalar2 remzFn d a b s
/-- SEL (R156). -/
def execSel (d a b c : SReg) (s : State) := scalar2 (fun x y => if getS s c = 0 then y else x) d a b s
/-- BFX (R157). -/
def execBfx (d a : SReg) (pos wm1 : Fin 64) (sx : Bool) (s : State) :=
  scalar1 (fun x => bfxFn x pos.val (wm1.val + 1) sx) d a s
/-- BFI (R157). -/
def execBfi (d a : SReg) (pos wm1 : Fin 64) (s : State) :=
  scalar1 (fun x => insertFn (getS s d) x pos.val (wm1.val + 1)) d a s
/-- ADDI (R158). -/
def execAddi (d a : SReg) (imm : BitVec 28) (s : State) := scalarImm (· + ·) d a imm s
/-- ANDI (R158). -/
def execAndi (d a : SReg) (imm : BitVec 28) (s : State) := scalarImm (· &&& ·) d a imm s
/-- ORI (R158). -/
def execOri (d a : SReg) (imm : BitVec 28) (s : State) := scalarImm (· ||| ·) d a imm s
/-- XORI (R158). -/
def execXori (d a : SReg) (imm : BitVec 28) (s : State) := scalarImm (· ^^^ ·) d a imm s
/-- SHL with an immediate amount (R158). -/
def execShlImm (d a : SReg) (n : Fin 64) (s : State) := scalar1 (fun x => shlFn x n.val) d a s
/-- SHR with an immediate amount (R158). -/
def execShrImm (d a : SReg) (n : Fin 64) (s : State) := scalar1 (fun x => shrFn x n.val) d a s
/-- SRA with an immediate amount (R158). -/
def execSraImm (d a : SReg) (n : Fin 64) (s : State) := scalar1 (fun x => sraFn x n.val) d a s
/-- LI (R158). -/
def execLi (d : SReg) (imm : BitVec 28) (s : State) := scalarImm (fun _ i => i) d 0 imm s
/-- ADDPC (R158). -/
def execAddpc (d : SReg) (imm : BitVec 28) (s : State) := scalarImm (fun _ i => getPc s + i) d 0 imm s
/-- LUI: bits of IMM20 above bit 63 are dropped (R159). -/
def execLui (d a : SReg) (imm : BitVec 20) (pos : Fin 64) (s : State) :=
  scalar1 (fun x => insertFn x (imm.setWidth 64) pos.val (min 20 (64 - pos.val))) d a s
/-- LI with a factor operand (R160). -/
def execLiFactor (d : SReg) (slot : Fin 64) (scale : BitVec 22) (s : State) : Host.Outcome State Fault Refusal :=
  finish s ((factorValue s slot scale).map fun v => setS d v s)
/-- ADDI with a factor operand (R160). -/
def execAddiFactor (d a : SReg) (slot : Fin 64) (scale : BitVec 22) (s : State) :
    Host.Outcome State Fault Refusal :=
  finish s ((factorValue s slot scale).map fun v => setS d (getS s a + v) s)

end Sys2Proof.Machine
end

