-- ==== Sys2Proof/Machine/Vector.lean ====
section
/-!
DEFINITION. Vector and predicate instructions (spec chapter 08, R186 to R213).
-/

namespace Sys2Proof.Machine

open Sys2Proof

/-! ### Shared forms -/

/-- VSETVL (R190). -/
def execVsetvl (d a : SReg) (t : Fmt) (max : Bool) (s : State) : Host.Outcome State Fault Refusal :=
  let n := if max then vlmax t else min (getS s a).toNat (vlmax t)
  finish s (.ok (setS d (word n) (onFocus (Tile.onSeq fun q => { q with vl := n }) s)))

/-- Give each lane of the list its result: the destination's other lanes keep, and the active lanes set SUBST bits
(R55, R140). -/
def writeLanes (d : VReg) (t : Fmt) (rs : List (Nat × Rep)) (s : State) : State :=
  setV d (setElems (getV s d) t (rs.map fun r => (r.1, r.2.1))) (setSubst (substOf (rs.map (·.2))) s)

/-- A lane-wise instruction: bank checks on the named registers, then `f` on every active lane (R187, R191). -/
def laneWise (d : VReg) (named : List VReg) (m : VMod) (g : Guard) (f : Nat → Rep) (s : State) :
    Host.Outcome State Fault Refusal :=
  finish s do
    useBanks s named
    .ok (writeLanes d m.ty ((activeLanes s m.ty g).map fun i => (i, f i)) s)

/-- The saturation choice of a vector instruction (R54). -/
def satSel (m : VMod) : SatSel := SatSel.of m.sat m.nsat

/-- The exact value of lane `i` at type `t` (no DS8 block). -/
def laneNum (v : VecWord) (i : Nat) (t : Fmt) : Num := decodeNum t 127 (elem v i t)

/-- Round an exact result of lane arithmetic (R53, R54). -/
def laneRound (s : State) (m : VMod) (x : Num) : Rep := roundTo m.ty (roundMode s m.rnd) (satSel m) 127 true x

/-! ### Lane-wise arithmetic (R191-R193) -/

/-- VADD (R191). -/
def execVadd (d a b : VReg) (m : VMod) (g : Guard) (s : State) :=
  laneWise d [d, a, b] m g (fun i => addElems m.ty (roundMode s m.rnd) (satSel m)
    [laneNum (getV s a) i m.ty, laneNum (getV s b) i m.ty]) s

/-- VSUB: a + (-b) (R191). -/
def execVsub (d a b : VReg) (m : VMod) (g : Guard) (s : State) :=
  laneWise d [d, a, b] m g (fun i => addElems m.ty (roundMode s m.rnd) (satSel m)
    [laneNum (getV s a) i m.ty, (laneNum (getV s b) i m.ty).neg]) s

/-- VMUL (R191, R192). -/
def execVmul (d a b : VReg) (m : VMod) (g : Guard) (s : State) :=
  laneWise d [d, a, b] m g (fun i =>
    if m.ty = .l16 then mulL16 (roundMode s m.rnd) (elem (getV s a) i .l16) (elem (getV s b) i .l16)
    else laneRound s m ((laneNum (getV s a) i m.ty).mul (laneNum (getV s b) i m.ty))) s

/-- VFMA: the exact product is one term (R191). -/
def execVfma (d a b c : VReg) (m : VMod) (g : Guard) (s : State) :=
  laneWise d [d, a, b, c] m g (fun i => addElems m.ty (roundMode s m.rnd) (satSel m)
    [(laneNum (getV s a) i m.ty).mul (laneNum (getV s b) i m.ty), laneNum (getV s c) i m.ty]) s

/-- VMIN (R193). -/
def execVmin (d a b : VReg) (m : VMod) (g : Guard) (s : State) :=
  laneWise d [d, a, b] m g (fun i => (pickMin m.ty false (elem (getV s a) i m.ty) (elem (getV s b) i m.ty), 0)) s

/-- VMAX (R193). -/
def execVmax (d a b : VReg) (m : VMod) (g : Guard) (s : State) :=
  laneWise d [d, a, b] m g (fun i => (pickMin m.ty true (elem (getV s a) i m.ty) (elem (getV s b) i m.ty), 0)) s

/-- The top bit of a lane. -/
def topBit (t : Fmt) : Nat := 2 ^ (t.bits - 1)

/-- |x| and -x of a lane (R191): integers by R54, floats and L16 by their sign bit with canonical NaN. -/
def absNeg (negate : Bool) (m : VMod) (x : Nat) : Rep :=
  let t := m.ty
  if t.isInt then
    let v := signedOf t.bits x
    fitInt t m.sat (if negate then -v else v.natAbs)
  else if t = .l16 ∧ l16Field x = -16384 then (x, 0)
  else if orderKey t true x = none then (nanBits t, 0)
  else if negate then (if x.testBit (t.bits - 1) then x - topBit t else x + topBit t, 0)
  else (x % topBit t, 0)

/-- VABS (R191). -/
def execVabs (d a : VReg) (m : VMod) (g : Guard) (s : State) :=
  laneWise d [d, a] m g (fun i => absNeg false m (elem (getV s a) i m.ty)) s

/-- VNEG (R191). -/
def execVneg (d a : VReg) (m : VMod) (g : Guard) (s : State) :=
  laneWise d [d, a] m g (fun i => absNeg true m (elem (getV s a) i m.ty)) s

/-! ### Logic and shifts (R194, R195, R203) -/

/-- VAND (R194). -/
def execVand (d a b : VReg) (m : VMod) (g : Guard) (s : State) :=
  laneWise d [d, a, b] m g (fun i => (Nat.land (elem (getV s a) i m.ty) (elem (getV s b) i m.ty), 0)) s
/-- VOR (R194). -/
def execVor (d a b : VReg) (m : VMod) (g : Guard) (s : State) :=
  laneWise d [d, a, b] m g (fun i => (Nat.lor (elem (getV s a) i m.ty) (elem (getV s b) i m.ty), 0)) s
/-- VXOR (R194). -/
def execVxor (d a b : VReg) (m : VMod) (g : Guard) (s : State) :=
  laneWise d [d, a, b] m g (fun i => (Nat.xor (elem (getV s a) i m.ty) (elem (getV s b) i m.ty), 0)) s

/-- The shift amount of a lane: its own, or, under .s, the scalar register of that number, modulo the width (R195). -/
def laneShift (s : State) (b : VReg) (scalar : Bool) (t : Fmt) (i : Nat) : Nat :=
  (if scalar then (getS s b).toNat else elem (getV s b) i t) % t.bits

/-- A shift of every active lane; under .s the b field names no vector register (R195). -/
def vecShift (f : Nat → Nat → Nat → Nat) (d a b : VReg) (scalar : Bool) (m : VMod) (g : Guard) (s : State) :=
  laneWise d (if scalar then [d, a] else [d, a, b]) m g
    (fun i => (f m.ty.bits (elem (getV s a) i m.ty) (laneShift s b scalar m.ty i), 0)) s

/-- VSHL (R195). -/
def execVshl (d a b : VReg) (scalar : Bool) (m : VMod) (g : Guard) (s : State) :=
  vecShift (fun n x k => x * 2 ^ k % 2 ^ n) d a b scalar m g s
/-- VSHR (R195). -/
def execVshr (d a b : VReg) (scalar : Bool) (m : VMod) (g : Guard) (s : State) :=
  vecShift (fun _ x k => x / 2 ^ k) d a b scalar m g s
/-- VSRA: copies of the top bit, for Z types too (R195). -/
def execVsra (d a b : VReg) (scalar : Bool) (m : VMod) (g : Guard) (s : State) :=
  vecShift (fun n x k => wrapTo n (signedOf n x / 2 ^ k)) d a b scalar m g s

/-- VPOPC (R203). -/
def execVpopc (d a : VReg) (m : VMod) (g : Guard) (s : State) :=
  laneWise d [d, a] m g (fun i => (popBits m.ty.bits (elem (getV s a) i m.ty), 0)) s

/-! ### Compare and select (R196, R197) -/

/-- Predicate bits of a lane: one per byte of it. -/
def laneBits (t : Fmt) (i : Nat) : Nat := (2 ^ (t.bits / 8) - 1) * 2 ^ laneByte t i

/-- Write the truth of each listed lane into its predicate bits; the others keep (R196). -/
def setPredLanes (t : Fmt) (p : PredWord) (xs : List (Nat × Bool)) : PredWord :=
  xs.foldl (fun p x =>
    let b : PredWord := BitVec.ofNat 256 (laneBits t x.1)
    if x.2 then p ||| b else p &&& ~~~b) p

/-- VCMP (R196). -/
def execVcmp (cond : VCond) (d : PReg) (a b : VReg) (m : VMod) (g : Guard) (s : State) :
    Host.Outcome State Fault Refusal :=
  finish s do
    useBanks s [a, b]
    .ok (setP d (setPredLanes m.ty (getP s d) ((activeLanes s m.ty g).map fun i =>
      (i, compareElems m.ty cond (elem (getV s a) i m.ty) (elem (getV s b) i m.ty)))) s)

/-- VSEL (R197). -/
def execVsel (d a b : VReg) (c : PReg) (m : VMod) (g : Guard) (s : State) :=
  laneWise d [d, a, b] m g (fun i =>
    (elem (getV s (if (getP s c).getLsbD (laneByte m.ty i) then a else b)) i m.ty, 0)) s

/-! ### Moving lanes (R198-R202) -/

/-- VBCAST: the low bits of the scalar register of number a, or, under .lane, lane S[b] of V[a] (R198). -/
def execVbcast (d a b : VReg) (lane : Bool) (m : VMod) (g : Guard) (s : State) :=
  let x :=
    if lane then (if (getS s b).toNat < vlmax m.ty then elem (getV s a) (getS s b).toNat m.ty else 0)
    else (getS s a).toNat % 2 ^ m.ty.bits
  laneWise d (if lane then [d, a] else [d]) m g (fun _ => (x, 0)) s

/-- VEXT (R199). -/
def execVext (d : SReg) (a : VReg) (b : SReg) (m : VMod) (g : Guard) (s : State) :
    Host.Outcome State Fault Refusal :=
  let j := (getS s b).toNat
  finish s do
    useBanks s [a]
    .ok (setS d (if decide (j < vlmax m.ty) && activeLane s m.ty g j then extendElem m.ty (elem (getV s a) j m.ty) else 0) s)

/-- VIOTA (R200). -/
def execViota (d : VReg) (pre : Bool) (m : VMod) (g : Guard) (s : State) :=
  let act := activeLanes s m.ty g
  laneWise d [d] m g (fun i => ((if pre then (act.filter (· < i)).length else i) % 2 ^ m.ty.bits, 0)) s

/-- VPERM (R201). -/
def execVperm (d a b : VReg) (m : VMod) (g : Guard) (s : State) :=
  laneWise d [d, a, b] m g (fun i =>
    let k := elem (getV s b) i m.ty
    (if k < vlmax m.ty then elem (getV s a) k m.ty else 0, 0)) s

/-- VCOMPRESS (R202). -/
def execVcompress (d a : VReg) (m : VMod) (g : Guard) (s : State) : Host.Outcome State Fault Refusal :=
  finish s do
    useBanks s [d, a]
    let act := activeLanes s m.ty g
    .ok (setV d (setElems (getV s d) m.ty ((List.range act.length).zip (act.map fun i => elem (getV s a) i m.ty))) s)

/-- VEXPAND (R202). -/
def execVexpand (d a : VReg) (m : VMod) (g : Guard) (s : State) : Host.Outcome State Fault Refusal :=
  finish s do
    useBanks s [d, a]
    let act := activeLanes s m.ty g
    .ok (setV d (setElems (getV s d) m.ty (act.zip ((List.range act.length).map fun k => elem (getV s a) k m.ty))) s)

/-! ### Reductions and scans (R204, R205) -/

/-- The result type of VREDSUM (R204). -/
def wideType (wide : Bool) (t : Fmt) : Fmt := if !wide then t else if t.isS then .s64 else if t.isZ then .z64 else .f32

/-- The sum of R204 over exact values, at the result type. -/
def sumRep (s : State) (m : VMod) (r : Fmt) (xs : List Num) : Rep := sumReduce r (roundMode s m.rnd) (satSel m) xs

/-- The greatest or least of R204 over elements. -/
def pickAll (t : Fmt) (greater : Bool) (x : Nat) (xs : List Nat) : Nat := xs.foldl (pickMin t greater) (pickMin t greater x x)

/-- VREDSUM: lane 0 at the result type is written even when no lane is active (R204). -/
def execVredsum (d a b : VReg) (wide : Bool) (m : VMod) (g : Guard) (s : State) : Host.Outcome State Fault Refusal :=
  let r := wideType wide m.ty
  finish s do
    useBanks s [d, a, b]
    .ok (writeLanes d r [(0, sumRep s m r (decodeNum r 127 (elem (getV s b) 0 r) ::
      (activeLanes s m.ty g).map fun i => laneNum (getV s a) i m.ty))] s)

/-- VREDMAX and VREDMIN (R204). -/
def reducePick (greater : Bool) (d a b : VReg) (m : VMod) (g : Guard) (s : State) : Host.Outcome State Fault Refusal :=
  finish s do
    useBanks s [d, a, b]
    .ok (writeLanes d m.ty [(0, (pickAll m.ty greater (elem (getV s b) 0 m.ty)
      ((activeLanes s m.ty g).map fun i => elem (getV s a) i m.ty), 0))] s)

/-- VREDMAX (R204). -/
def execVredmax (d a b : VReg) (m : VMod) (g : Guard) (s : State) := reducePick true d a b m g s
/-- VREDMIN (R204). -/
def execVredmin (d a b : VReg) (m : VMod) (g : Guard) (s : State) := reducePick false d a b m g s

/-- VSCAN: each lane from its own exact prefix (R205). -/
def execVscan (op : ScanOp) (d a b : VReg) (excl : Bool) (m : VMod) (g : Guard) (s : State) :=
  let act := activeLanes s m.ty g
  let b0 := elem (getV s b) 0 m.ty
  laneWise d [d, a, b] m g (fun i =>
    let xs := (act.filter fun j => if excl then decide (j < i) else decide (j ≤ i)).map fun j => elem (getV s a) j m.ty
    match op with
    | .sum => sumRep s m m.ty (decodeNum m.ty 127 b0 :: xs.map (decodeNum m.ty 127))
    | .max => (pickAll m.ty true b0 xs, 0)
    | .min => (pickAll m.ty false b0 xs, 0)) s

/-! ### Approximations and conversions (R206-R209) -/

/-- A defined approximation of every active lane (R206). -/
def approxLanes (f : Approx) (d a : VReg) (m : VMod) (g : Guard) (s : State) :=
  laneWise d [d, a] m g (fun i => laneRound s m (approxNum f (laneNum (getV s a) i m.ty))) s

/-- VRECIP (R206). -/
def execVrecip (d a : VReg) (m : VMod) (g : Guard) (s : State) := approxLanes .recip d a m g s
/-- VRSQRT (R206). -/
def execVrsqrt (d a : VReg) (m : VMod) (g : Guard) (s : State) := approxLanes .rsqrt d a m g s
/-- VEXP2 (R206). -/
def execVexp2 (d a : VReg) (m : VMod) (g : Guard) (s : State) := approxLanes .exp2 d a m g s
/-- VLOG2 (R206). -/
def execVlog2 (d a : VReg) (m : VMod) (g : Guard) (s : State) := approxLanes .log2 d a m g s

/-- The exponent of block `k` in a scale vector (R208). -/
def scaleExp (v : VecWord) (k : Nat) : Nat := elem v (vlb / 2 + k) .z8

/-- The underflow count of block `k` in a scale vector (R208). -/
def scaleCount (v : VecWord) (k : Nat) : Nat := elem v k .z16

/-- The block size of a block code (R207). -/
def blockSize (blk : Fin 4) : Nat := 16 * 2 ^ blk.val

/-- The wider of two types (R207). -/
def widerOf (td ts : Fmt) : Fmt := if ts.bits ≤ td.bits then td else ts

/-- The source and destination lanes of active lane `i` (R207). -/
def convLanes (td ts : Fmt) (part i : Nat) : Nat × Nat :=
  (if ts.bits < td.bits then i + part * vlmax td else i, if td.bits < ts.bits then i + part * vlmax ts else i)

/-- VCVT: between equal L16 types the bits are the value, so they are copied (R207). -/
def execVcvt (d a c : VReg) (ts : Fmt) (part : Fin 16) (blk : Fin 4) (m : VMod) (g : Guard) (s : State) :
    Host.Outcome State Fault Refusal :=
  let td := m.ty
  let ds := td == .ds8 || ts == .ds8
  let size := blockSize blk
  finish s do
    useBanks s (if ds then [d, a, c] else [d, a])
    let rs := (activeLanes s (widerOf td ts) g).map fun i =>
      let j := convLanes td ts part.val i
      let raw := elem (getV s a) j.1 ts
      let x := decodeNum ts (if ts = .ds8 then scaleExp (getV s c) (j.1 / size) else 127) raw
      let e := if td = .ds8 then scaleExp (getV s c) (j.2 / size) else 127
      (j.2, if td = .l16 ∧ ts = .l16 then (raw, 0) else roundTo td (roundMode s m.rnd) (satSel m) e ts.isInt x)
    .ok (writeLanes d td rs s)

/-- One block of VCVTDS: its exponent, its lanes' encodings, and its new count (R66, R67, R209). -/
def scaleBlock (mode : RMode) (thr prev : Nat) (xs : List (Nat × Num)) : Nat × List (Nat × Rep) × Nat :=
  let e := chooseExp (largest (xs.map (·.2)) (.fin false 0 0 false)) prev thr
  let rs := xs.map fun x => (x.1, roundTo .ds8 mode .none e false x.2)
  let lost := (xs.zip rs).filter fun p =>
    match p.1.2 with
    | .fin _ n _ _ => n != 0 && p.2.2.1 == 0x77
    | _ => false
  (e, rs, min lost.length 65535)

/-- VCVTDS (R209). -/
def execVcvtds (d a c : VReg) (ts : Fmt) (part : Fin 16) (blk : Fin 4) (m : VMod) (g : Guard) (s : State) :
    Host.Outcome State Fault Refusal :=
  let size := blockSize blk
  finish s do
    useBanks s [d, a, c]
    let lanes := (activeLanes s (widerOf .ds8 ts) g).map fun i => convLanes .ds8 ts part.val i
    let blocks := (List.range (vlb / 16)).filterMap fun k =>
      let xs := (lanes.filter fun j => j.2 / size == k).map fun j => (j.2, laneNum (getV s a) j.1 ts)
      if xs.isEmpty then none
      else some (k, scaleBlock (roundMode s m.rnd) s.tile.seq.ufthr.toNat (scaleCount (getV s c) k) xs)
    let counts := blocks.map fun b => (b.1, b.2.2.2)
    let exps := blocks.map fun b => (vlb / 2 + b.1, b.2.1)
    let scale := setElems (setElems (getV s c) .z16 counts) .z8 exps
    .ok (addUf (counts.foldl (fun n x => n + x.2) 0) (setV c scale (writeLanes d .ds8 (blocks.flatMap fun b => b.2.2.1) s)))

/-! ### Log-domain addition and the correction tables (R210, R211) -/

/-- VLADD (R63, R210). -/
def execVladd (d a b : VReg) (m : VMod) (g : Guard) (s : State) :=
  laneWise d [d, a, b] m g (fun i => logAddSub false s.tile.seq.tables (elem (getV s a) i .l16) (elem (getV s b) i .l16)) s
/-- VLSUB (R63, R210). -/
def execVlsub (d a b : VReg) (m : VMod) (g : Guard) (s : State) :=
  laneWise d [d, a, b] m g (fun i => logAddSub true s.tile.seq.tables (elem (getV s a) i .l16) (elem (getV s b) i .l16)) s

/-- LDCT: coherent plain loads of 512 S16 elements (R211). -/
def execLdct (tdi : BitVec 16) (s : State) : Host.Outcome State Fault Refusal :=
  finish s do
    let d ← getDesc s tdi.toNat
    needRights d tdi.toNat rightRead
    checkRegion s d
    need (d.ndim == 1 && d.fmt == Fmt.s16.code && d.stride.getD 0 0 == 1 && decide (512 ≤ d.ext.getD 0 0)) (.cause 0x053 tdi.toNat)
    let x := (elemByte d 16 (elemOffset d [0, 0, 0, 0, 0])).1
    need (x % 2 == 0) (.cause 0x04A x)
    let m : MemOp := ⟨.s16, d.space, .plain, .tile, true, 0⟩
    let es := runElems (fmtAt s d.space .read x) .s16 x (List.range 512)
    let xs ← checkAccess s d.space .read .s16 (some x) es (fun p => loadFormatOk p .s16 false)
    let (t, vals) ← performLoad s m xs
    .ok (setSubst (substOf (vals.map (·.2)))
      (onFocus (Tile.onSeq fun q => { q with tables := vals.map fun v => BitVec.ofNat 16 v.2.1 }) t))

/-- LDCT.reset (R211). -/
def execLdctReset (s : State) : Host.Outcome State Fault Refusal :=
  finish s (.ok (onFocus (Tile.onSeq fun q => { q with tables := tablesPowerOn }) s))

/-! ### Predicates (R212, R213) -/

/-- PAND (R212). -/
def execPand (d a b : PReg) (s : State) : Host.Outcome State Fault Refusal :=
  finish s (.ok (setP d (getP s a &&& getP s b) s))
/-- POR (R212). -/
def execPor (d a b : PReg) (s : State) : Host.Outcome State Fault Refusal :=
  finish s (.ok (setP d (getP s a ||| getP s b) s))
/-- PXOR (R212). -/
def execPxor (d a b : PReg) (s : State) : Host.Outcome State Fault Refusal :=
  finish s (.ok (setP d (getP s a ^^^ getP s b) s))
/-- PNOT (R212). -/
def execPnot (d a : PReg) (s : State) : Host.Outcome State Fault Refusal := finish s (.ok (setP d (~~~getP s a) s))

/-- The set lanes of a predicate below VL (R213). -/
def setLanes (s : State) (a : PReg) (t : Fmt) : List Nat :=
  (List.range (min s.tile.seq.vl (vlmax t))).filter fun i => (getP s a).getLsbD (laneByte t i)

/-- PCNT (R213). -/
def execPcnt (d : SReg) (a : PReg) (t : Fmt) (s : State) : Host.Outcome State Fault Refusal :=
  finish s (.ok (setS d (word (setLanes s a t).length) s))
/-- PFIRST (R213). -/
def execPfirst (d : SReg) (a : PReg) (t : Fmt) (s : State) : Host.Outcome State Fault Refusal :=
  finish s (.ok (setS d (match setLanes s a t with | i :: _ => word i | [] => BitVec.allOnes 64) s))

end Sys2Proof.Machine
end

