-- ==== Sys2Proof/Machine/Dispatch.lean ====
section
/-!
DEFINITION. One arm per constructor of `Instr`: the meaning it calls.
-/

namespace Sys2Proof.Machine

open Sys2Proof

/-- What one instruction, device step or event does. -/
def exec (i : Instr) (s : State) : Host.Outcome State Fault Refusal :=
  match i with
  | .add d a b => Sys2Proof.Machine.execAdd d a b s
  | .sub d a b => Sys2Proof.Machine.execSub d a b s
  | .and d a b => Sys2Proof.Machine.execAnd d a b s
  | .or d a b => Sys2Proof.Machine.execOr d a b s
  | .xor d a b => Sys2Proof.Machine.execXor d a b s
  | .shl d a b => Sys2Proof.Machine.execShl d a b s
  | .shr d a b => Sys2Proof.Machine.execShr d a b s
  | .sra d a b => Sys2Proof.Machine.execSra d a b s
  | .min d a b => Sys2Proof.Machine.execMin d a b s
  | .max d a b => Sys2Proof.Machine.execMax d a b s
  | .minz d a b => Sys2Proof.Machine.execMinz d a b s
  | .maxz d a b => Sys2Proof.Machine.execMaxz d a b s
  | .setlt d a b => Sys2Proof.Machine.execSetlt d a b s
  | .setltz d a b => Sys2Proof.Machine.execSetltz d a b s
  | .seteq d a b => Sys2Proof.Machine.execSeteq d a b s
  | .popc d a => Sys2Proof.Machine.execPopc d a s
  | .clz d a => Sys2Proof.Machine.execClz d a s
  | .ctz d a => Sys2Proof.Machine.execCtz d a s
  | .mul d a b => Sys2Proof.Machine.execMul d a b s
  | .mulh d a b => Sys2Proof.Machine.execMulh d a b s
  | .mulhz d a b => Sys2Proof.Machine.execMulhz d a b s
  | .madd d a b c => Sys2Proof.Machine.execMadd d a b c s
  | .div d a b => Sys2Proof.Machine.execDiv d a b s
  | .divz d a b => Sys2Proof.Machine.execDivz d a b s
  | .rem d a b => Sys2Proof.Machine.execRem d a b s
  | .remz d a b => Sys2Proof.Machine.execRemz d a b s
  | .sel d a b c => Sys2Proof.Machine.execSel d a b c s
  | .bfx d a pos wm1 sx => Sys2Proof.Machine.execBfx d a pos wm1 sx s
  | .bfi d a pos wm1 => Sys2Proof.Machine.execBfi d a pos wm1 s
  | .addi d a imm => Sys2Proof.Machine.execAddi d a imm s
  | .andi d a imm => Sys2Proof.Machine.execAndi d a imm s
  | .ori d a imm => Sys2Proof.Machine.execOri d a imm s
  | .xori d a imm => Sys2Proof.Machine.execXori d a imm s
  | .shlImm d a n => Sys2Proof.Machine.execShlImm d a n s
  | .shrImm d a n => Sys2Proof.Machine.execShrImm d a n s
  | .sraImm d a n => Sys2Proof.Machine.execSraImm d a n s
  | .li d imm => Sys2Proof.Machine.execLi d imm s
  | .addpc d imm => Sys2Proof.Machine.execAddpc d imm s
  | .lui d a imm pos => Sys2Proof.Machine.execLui d a imm pos s
  | .liFactor d slot scale => Sys2Proof.Machine.execLiFactor d slot scale s
  | .addiFactor d a slot scale => Sys2Proof.Machine.execAddiFactor d a slot scale s
  | .bCond c a b off => Sys2Proof.Machine.execBCond c a b off s
  | .j imm => Sys2Proof.Machine.execJ imm s
  | .jl imm => Sys2Proof.Machine.execJl imm s
  | .jr d a => Sys2Proof.Machine.execJr d a s
  | .nop => Sys2Proof.Machine.execNop s
  | .brk tag => Sys2Proof.Machine.execBrk tag s
  | .trap n a b => Sys2Proof.Machine.execTrap n a b s
  | .yieldTo d => Sys2Proof.Machine.execYieldTo d s
  | .endStrand mask => Sys2Proof.Machine.execEndStrand mask s
  | .feat d id => Sys2Proof.Machine.execFeat d id s
  | .fence order scope => Sys2Proof.Machine.execFence order scope s
  | .bar k => Sys2Proof.Machine.execBar k s
  | .bara k => Sys2Proof.Machine.execBara k s
  | .barw k => Sys2Proof.Machine.execBarw k s
  | .waitcR ch a => Sys2Proof.Machine.execWaitcR ch a s
  | .waitcV ch a => Sys2Proof.Machine.execWaitcV ch a s
  | .waitr d q b => Sys2Proof.Machine.execWaitr d q b s
  | .waite mask => Sys2Proof.Machine.execWaite mask s
  | .popq d q => Sys2Proof.Machine.execPopq d q s
  | .peekq d q => Sys2Proof.Machine.execPeekq d q s
  | .launch d a b => Sys2Proof.Machine.execLaunch d a b s
  | .siginc d a b => Sys2Proof.Machine.execSiginc d a b s
  | .rdid d sel => Sys2Proof.Machine.execRdid d sel s
  | .rdctl d r => Sys2Proof.Machine.execRdctl d r s
  | .wrctl r a => Sys2Proof.Machine.execWrctl r a s
  | .tdnarrow slot a tdi => Sys2Proof.Machine.execTdnarrow slot a tdi s
  | .ctxsave d a b c tdi sealed slot => Sys2Proof.Machine.execCtxsave d a b c tdi sealed slot s
  | .ctxload tdi sealed slot => Sys2Proof.Machine.execCtxload tdi sealed slot s
  | .reservedEncoding w => Sys2Proof.Machine.execReservedEncoding w s
  | .vsetvl d a t max => Sys2Proof.Machine.execVsetvl d a t max s
  | .vadd d a b m g => Sys2Proof.Machine.execVadd d a b m g s
  | .vsub d a b m g => Sys2Proof.Machine.execVsub d a b m g s
  | .vmul d a b m g => Sys2Proof.Machine.execVmul d a b m g s
  | .vfma d a b c m g => Sys2Proof.Machine.execVfma d a b c m g s
  | .vmin d a b m g => Sys2Proof.Machine.execVmin d a b m g s
  | .vmax d a b m g => Sys2Proof.Machine.execVmax d a b m g s
  | .vabs d a m g => Sys2Proof.Machine.execVabs d a m g s
  | .vneg d a m g => Sys2Proof.Machine.execVneg d a m g s
  | .vand d a b m g => Sys2Proof.Machine.execVand d a b m g s
  | .vor d a b m g => Sys2Proof.Machine.execVor d a b m g s
  | .vxor d a b m g => Sys2Proof.Machine.execVxor d a b m g s
  | .vshl d a b sc m g => Sys2Proof.Machine.execVshl d a b sc m g s
  | .vshr d a b sc m g => Sys2Proof.Machine.execVshr d a b sc m g s
  | .vsra d a b sc m g => Sys2Proof.Machine.execVsra d a b sc m g s
  | .vcmp cond d a b m g => Sys2Proof.Machine.execVcmp cond d a b m g s
  | .vsel d a b c m g => Sys2Proof.Machine.execVsel d a b c m g s
  | .vbcast d a b lane m g => Sys2Proof.Machine.execVbcast d a b lane m g s
  | .vext d a b m g => Sys2Proof.Machine.execVext d a b m g s
  | .viota d pre m g => Sys2Proof.Machine.execViota d pre m g s
  | .vperm d a b m g => Sys2Proof.Machine.execVperm d a b m g s
  | .vcompress d a m g => Sys2Proof.Machine.execVcompress d a m g s
  | .vexpand d a m g => Sys2Proof.Machine.execVexpand d a m g s
  | .vpopc d a m g => Sys2Proof.Machine.execVpopc d a m g s
  | .vredsum d a b wide m g => Sys2Proof.Machine.execVredsum d a b wide m g s
  | .vredmax d a b m g => Sys2Proof.Machine.execVredmax d a b m g s
  | .vredmin d a b m g => Sys2Proof.Machine.execVredmin d a b m g s
  | .vscan op d a b excl m g => Sys2Proof.Machine.execVscan op d a b excl m g s
  | .vcvt d a c ts part blk m g => Sys2Proof.Machine.execVcvt d a c ts part blk m g s
  | .vcvtds d a c ts part blk m g => Sys2Proof.Machine.execVcvtds d a c ts part blk m g s
  | .vrecip d a m g => Sys2Proof.Machine.execVrecip d a m g s
  | .vrsqrt d a m g => Sys2Proof.Machine.execVrsqrt d a m g s
  | .vexp2 d a m g => Sys2Proof.Machine.execVexp2 d a m g s
  | .vlog2 d a m g => Sys2Proof.Machine.execVlog2 d a m g s
  | .vladd d a b m g => Sys2Proof.Machine.execVladd d a b m g s
  | .vlsub d a b m g => Sys2Proof.Machine.execVlsub d a b m g s
  | .ldct tdi => Sys2Proof.Machine.execLdct tdi s
  | .ldctReset => Sys2Proof.Machine.execLdctReset s
  | .pand d a b => Sys2Proof.Machine.execPand d a b s
  | .por d a b => Sys2Proof.Machine.execPor d a b s
  | .pxor d a b => Sys2Proof.Machine.execPxor d a b s
  | .pnot d a => Sys2Proof.Machine.execPnot d a s
  | .pcnt d a t => Sys2Proof.Machine.execPcnt d a t s
  | .pfirst d a t => Sys2Proof.Machine.execPfirst d a t s
  | .ld d a m => Sys2Proof.Machine.execLd d a m s
  | .st d a m => Sys2Proof.Machine.execSt d a m s
  | .ldv d a m g => Sys2Proof.Machine.execLdv d a m g s
  | .stv d a m g => Sys2Proof.Machine.execStv d a m g s
  | .ldvs d a b m g => Sys2Proof.Machine.execLdvs d a b m g s
  | .stvs d a b m g => Sys2Proof.Machine.execStvs d a b m g s
  | .ldvx d a b m g => Sys2Proof.Machine.execLdvx d a b m g s
  | .stvx d a b m g => Sys2Proof.Machine.execStvx d a b m g s
  | .cas d a b m => Sys2Proof.Machine.execCas d a b m s
  | .amoAdd d a b det m => Sys2Proof.Machine.execAmoAdd d a b det m s
  | .amoAnd d a b det m => Sys2Proof.Machine.execAmoAnd d a b det m s
  | .amoOr d a b det m => Sys2Proof.Machine.execAmoOr d a b det m s
  | .amoXor d a b det m => Sys2Proof.Machine.execAmoXor d a b det m s
  | .amoMin d a b det m => Sys2Proof.Machine.execAmoMin d a b det m s
  | .amoMax d a b det m => Sys2Proof.Machine.execAmoMax d a b det m s
  | .amoMinz d a b det m => Sys2Proof.Machine.execAmoMinz d a b det m s
  | .amoMaxz d a b det m => Sys2Proof.Machine.execAmoMaxz d a b det m s
  | .amoSwap d a b det m => Sys2Proof.Machine.execAmoSwap d a b det m s
  | .amoFaddF32 d a b det m => Sys2Proof.Machine.execAmoFaddF32 d a b det m s
  | .amoFaddBf16 d a b det m => Sys2Proof.Machine.execAmoFaddBf16 d a b det m s
  | .cpyl d a b x => Sys2Proof.Machine.execCpyl d a b x s
  | .cpylRing d ring b x => Sys2Proof.Machine.execCpylRing d ring b x s
  | .cpys d a b x => Sys2Proof.Machine.execCpys d a b x s
  | .cpyf d a b c nd x => Sys2Proof.Machine.execCpyf d a b c nd x s
  | .cpya d a b c inDir t sat reply scope => Sys2Proof.Machine.execCpya d a b c inDir t sat reply scope s
  | .rsetup ring a b c => Sys2Proof.Machine.execRsetup ring a b c s
  | .rpub d ring => Sys2Proof.Machine.execRpub d ring s
  | .rtake d ring => Sys2Proof.Machine.execRtake d ring s
  | .rfree ring => Sys2Proof.Machine.execRfree ring s
  | .coll d a b kind op det tdi q scope => Sys2Proof.Machine.execColl d a b kind op det tdi q scope s
  | .mma d a b c o tdi reply => Sys2Proof.Machine.execMma d a b c o tdi reply s
  | .mmag d a b c o tdi reply => Sys2Proof.Machine.execMmag d a b c o tdi reply s
  | .mzero a => Sys2Proof.Machine.execMzero a s
  | .mscale a b int sat sh => Sys2Proof.Machine.execMscale a b int sat sh s
  | .fscan u d a fmt root uniq tdi => Sys2Proof.Machine.execFscan u d a fmt root uniq tdi s
  | .fisect u d c a b => Sys2Proof.Machine.execFisect u d c a b s
  | .funion u d c a b => Sys2Proof.Machine.execFunion u d c a b s
  | .frepeat u d a b => Sys2Proof.Machine.execFrepeat u d a b s
  | .freduce u d a op t sat rnd => Sys2Proof.Machine.execFreduce u d a op t sat rnd s
  | .fval u d a tdi => Sys2Proof.Machine.execFval u d a tdi s
  | .falu u d a b op t two sat rnd imm => Sys2Proof.Machine.execFalu u d a b op t two sat rnd imm s
  | .fwrite u a mode t tdi => Sys2Proof.Machine.execFwrite u a mode t tdi s
  | .fgen u d a => Sys2Proof.Machine.execFgen u d a s
  | .fsteer u d c a b => Sys2Proof.Machine.execFsteer u d c a b s
  | .fmerge u d c a b => Sys2Proof.Machine.execFmerge u d c a b s
  | .fcarry u d a b => Sys2Proof.Machine.execFcarry u d a b s
  | .fsrc p d level => Sys2Proof.Machine.execFsrc p d level s
  | .fsinkPort p a => Sys2Proof.Machine.execFsinkPort p a s
  | .fsinkQ p a q count => Sys2Proof.Machine.execFsinkQ p a q count s
  | .fsinkL p a mode addr => Sys2Proof.Machine.execFsinkL p a mode addr s
  | .fgo d q => Sys2Proof.Machine.execFgo d q s
  | .fkill => Sys2Proof.Machine.execFkill s
  | .fkillClear => Sys2Proof.Machine.execFkillClear s
  | .portb p region rport => Sys2Proof.Machine.execPortb p region rport s
  | .portbU p => Sys2Proof.Machine.execPortbU p s
  | .portw p a tok fin => Sys2Proof.Machine.execPortw p a tok fin s
  | .portr p d c => Sys2Proof.Machine.execPortr p d c s
  | .portq p d => Sys2Proof.Machine.execPortq p d s
  | .blockedStrandWake tile => Sys2Proof.Machine.execBlockedStrandWake tile s
  | .retentionWake tile => Sys2Proof.Machine.execRetentionWake tile s
  | .copyStart tile store => Sys2Proof.Machine.execCopyStart tile store s
  | .copyIssueFinish tile store => Sys2Proof.Machine.execCopyIssueFinish tile store s
  | .copySourceReadDone tile ch id => Sys2Proof.Machine.execCopySourceReadDone tile ch id s
  | .copyVisible tile ch id => Sys2Proof.Machine.execCopyVisible tile ch id s
  | .memoryAccessPerform sel => Sys2Proof.Machine.execMemoryAccessPerform sel s
  | .routerAmoMerge ix j => Sys2Proof.Machine.execRouterAmoMerge ix j s
  | .matrixPass tile check => Sys2Proof.Machine.execMatrixPass tile check s
  | .fibreConfigApply tile => Sys2Proof.Machine.execFibreConfigApply tile s
  | .graphRunStart tile => Sys2Proof.Machine.execGraphRunStart tile s
  | .fibreUnitStep tile unit => Sys2Proof.Machine.execFibreUnitStep tile unit s
  | .fibreScanReadReturn tile unit => Sys2Proof.Machine.execFibreScanReadReturn tile unit s
  | .fibreStallExpiry tile => Sys2Proof.Machine.execFibreStallExpiry tile s
  | .graphRunFinish tile => Sys2Proof.Machine.execGraphRunFinish tile s
  | .collComplete tile => Sys2Proof.Machine.execCollComplete tile s
  | .collParticipantLost tile => Sys2Proof.Machine.execCollParticipantLost tile s
  | .barrierInstanceComplete queue record gang k => Sys2Proof.Machine.execBarrierInstanceComplete queue record gang k s
  | .beatTransfer sel => Sys2Proof.Machine.execBeatTransfer sel s
  | .flitDelivery tile => Sys2Proof.Machine.execFlitDelivery tile s
  | .niFreeze tile => Sys2Proof.Machine.execNiFreeze tile s
  | .freezeAck tile peer => Sys2Proof.Machine.execFreezeAck tile peer s
  | .recon tile => Sys2Proof.Machine.execRecon tile s
  | .deadlineExpiry tile => Sys2Proof.Machine.execDeadlineExpiry tile s
  | .stopForCause tile => Sys2Proof.Machine.execStopForCause tile s
  | .deferredFaultDelivery tile => Sys2Proof.Machine.execDeferredFaultDelivery tile s
  | .asyncTrapDelivery tile => Sys2Proof.Machine.execAsyncTrapDelivery tile s
  | .quotaChargeReport tile => Sys2Proof.Machine.execQuotaChargeReport tile s
  | .quotaExhaustionNotice tile => Sys2Proof.Machine.execQuotaExhaustionNotice tile s
  | .serviceRequestRecord ix => Sys2Proof.Machine.execServiceRequestRecord ix s
  | .cowService ix => Sys2Proof.Machine.execCowService ix s
  | .folioFormation tile => Sys2Proof.Machine.execFolioFormation tile s
  | .doorbell at_ v => Sys2Proof.Machine.execDoorbell at_ v s
  | .recordHead queue => Sys2Proof.Machine.execRecordHead queue s
  | .waitEvaluation queue => Sys2Proof.Machine.execWaitEvaluation queue s
  | .waitPollTimer => Sys2Proof.Machine.execWaitPollTimer s
  | .agingInterval => Sys2Proof.Machine.execAgingInterval s
  | .gangDispatch => Sys2Proof.Machine.execGangDispatch s
  | .taskCompletionPublish queue record => Sys2Proof.Machine.execTaskCompletionPublish queue record s
  | .queueEnable fn queue => Sys2Proof.Machine.execQueueEnable fn queue s
  | .queueDrain fn queue => Sys2Proof.Machine.execQueueDrain fn queue s
  | .queueAbort fn queue => Sys2Proof.Machine.execQueueAbort fn queue s
  | .queueReset fn queue => Sys2Proof.Machine.execQueueReset fn queue s
  | .abortComplete queue => Sys2Proof.Machine.execAbortComplete queue s
  | .load fn => Sys2Proof.Machine.execLoad fn s
  | .unload fn => Sys2Proof.Machine.execUnload fn s
  | .tcinv fn => Sys2Proof.Machine.execTcinv fn s
  | .tcinvComplete fn => Sys2Proof.Machine.execTcinvComplete fn s
  | .group fn => Sys2Proof.Machine.execGroup fn s
  | .ungroup fn => Sys2Proof.Machine.execUngroup fn s
  | .tlbinv fn => Sys2Proof.Machine.execTlbinv fn s
  | .tlbinvComplete fn => Sys2Proof.Machine.execTlbinvComplete fn s
  | .frames fn => Sys2Proof.Machine.execFrames fn s
  | .resolve fn => Sys2Proof.Machine.execResolve fn s
  | .keyset fn => Sys2Proof.Machine.execKeyset fn s
  | .keyclr fn => Sys2Proof.Machine.execKeyclr fn s
  | .ctrget fn => Sys2Proof.Machine.execCtrget fn s
  | .dbghalt fn => Sys2Proof.Machine.execDbghalt fn s
  | .dbgresume fn => Sys2Proof.Machine.execDbgresume fn s
  | .dbgpend fn => Sys2Proof.Machine.execDbgpend fn s
  | .dbgview fn => Sys2Proof.Machine.execDbgview fn s
  | .imghold fn => Sys2Proof.Machine.execImghold fn s
  | .imgfree fn => Sys2Proof.Machine.execImgfree fn s
  | .swap fn => Sys2Proof.Machine.execSwap fn s
  | .swapQuiesce region => Sys2Proof.Machine.execSwapQuiesce region s
  | .rclock fn => Sys2Proof.Machine.execRclock fn s
  | .quotaadd fn => Sys2Proof.Machine.execQuotaadd fn s
  | .fwstage fn => Sys2Proof.Machine.execFwstage fn s
  | .restart fn => Sys2Proof.Machine.execRestart fn s
  | .attest fn => Sys2Proof.Machine.execAttest fn s
  | .regroup fn => Sys2Proof.Machine.execRegroup fn s
  | .heldresume fn => Sys2Proof.Machine.execHeldresume fn s
  | .heldabort fn => Sys2Proof.Machine.execHeldabort fn s
  | .mailboxUndefinedCommand fn => Sys2Proof.Machine.execMailboxUndefinedCommand fn s
  | .regionLoadComplete region => Sys2Proof.Machine.execRegionLoadComplete region s
  | .regionStop region => Sys2Proof.Machine.execRegionStop region s
  | .regionRelink region => Sys2Proof.Machine.execRegionRelink region s
  | .reconfigTokenApply region port depth => Sys2Proof.Machine.execReconfigTokenApply region port depth s
  | .thermalTick region temp => Sys2Proof.Machine.execThermalTick region temp s
  | .regionMachineCheck region => Sys2Proof.Machine.execRegionMachineCheck region s
  | .tdivreqWrite chiplet v => Sys2Proof.Machine.execTdivreqWrite chiplet v s
  | .clockDividerChange dom => Sys2Proof.Machine.execClockDividerChange dom s
  | .droopDetected tile => Sys2Proof.Machine.execDroopDetected tile s
  | .eccError place double => Sys2Proof.Machine.execEccError place double s
  | .memoryScrub line double => Sys2Proof.Machine.execMemoryScrub line double s
  | .linkReplayLimit link => Sys2Proof.Machine.execLinkReplayLimit link s
  | .linkRetrainFail link => Sys2Proof.Machine.execLinkRetrainFail link s
  | .linkEnableWrite link v => Sys2Proof.Machine.execLinkEnableWrite link v s
  | .pkgWrite v => Sys2Proof.Machine.execPkgWrite v s
  | .tenantWrite fn v => Sys2Proof.Machine.execTenantWrite fn v s
  | .registerWrite fn off v => Sys2Proof.Machine.execRegisterWrite fn off v s
  | .hostMemoryAccess aperture addr bytes => Sys2Proof.Machine.execHostMemoryAccess aperture addr bytes s
  | .vellumRestore sel => Sys2Proof.Machine.execVellumRestore sel s
  | .deviceReset => Sys2Proof.Machine.execDeviceReset s
  | .bootReady => Sys2Proof.Machine.execBootReady s
  | .bootWatchdogExpiry => Sys2Proof.Machine.execBootWatchdogExpiry s
  | .linkTrainingDone link peer peerLink => Sys2Proof.Machine.execLinkTrainingDone link peer peerLink s
  | .flitReplay link => Sys2Proof.Machine.execFlitReplay link s
  | .tileThrottle tile divider => Sys2Proof.Machine.execTileThrottle tile divider s
  | .failedStart reason detail => Sys2Proof.Machine.execFailedStart reason detail s
  | .scanOutComplete tile parityError => Sys2Proof.Machine.execScanOutComplete tile parityError s

end Sys2Proof.Machine
end

