-- ==== Sys2Proof/Machine/Turns.lean ====
section
/-!
DEFINITION. Which constructors of `Instr` are device steps and events, and which an SVI strand executes.
-/

namespace Sys2Proof.Machine

open Sys2Proof

/-- Whether a constructor is a device step or event, rather than an SVI instruction. -/
def isEvent (i : Instr) : Bool :=
  match i with
  | .add _ _ _ | .sub _ _ _ | .and _ _ _ | .or _ _ _ | .xor _ _ _ | .shl _ _ _ | .shr _ _ _ | .sra _ _ _
  | .min _ _ _ | .max _ _ _ | .minz _ _ _ | .maxz _ _ _ | .setlt _ _ _ | .setltz _ _ _ | .seteq _ _ _ | .popc _ _
  | .clz _ _ | .ctz _ _ | .mul _ _ _ | .mulh _ _ _ | .mulhz _ _ _ | .madd _ _ _ _ | .div _ _ _ | .divz _ _ _
  | .rem _ _ _ | .remz _ _ _ | .sel _ _ _ _ | .bfx _ _ _ _ _ | .bfi _ _ _ _ | .addi _ _ _ | .andi _ _ _
  | .ori _ _ _ | .xori _ _ _ | .shlImm _ _ _ | .shrImm _ _ _ | .sraImm _ _ _ | .li _ _ | .addpc _ _ | .lui _ _ _ _
  | .liFactor _ _ _ | .addiFactor _ _ _ _ | .bCond _ _ _ _ | .j _ | .jl _ | .jr _ _ | .nop | .brk _ | .trap _ _ _
  | .yieldTo _ | .endStrand _ | .feat _ _ | .fence _ _ | .bar _ | .bara _ | .barw _ | .waitcR _ _ | .waitcV _ _
  | .waitr _ _ _ | .waite _ | .popq _ _ | .peekq _ _ | .launch _ _ _ | .siginc _ _ _ | .rdid _ _ | .rdctl _ _
  | .wrctl _ _ | .tdnarrow _ _ _ | .ctxsave _ _ _ _ _ _ _ | .ctxload _ _ _ | .reservedEncoding _ | .vsetvl _ _ _ _
  | .vadd _ _ _ _ _ | .vsub _ _ _ _ _ | .vmul _ _ _ _ _ | .vfma _ _ _ _ _ _ | .vmin _ _ _ _ _ | .vmax _ _ _ _ _
  | .vabs _ _ _ _ | .vneg _ _ _ _ | .vand _ _ _ _ _ | .vor _ _ _ _ _ | .vxor _ _ _ _ _ | .vshl _ _ _ _ _ _
  | .vshr _ _ _ _ _ _ | .vsra _ _ _ _ _ _ | .vcmp _ _ _ _ _ _ | .vsel _ _ _ _ _ _ | .vbcast _ _ _ _ _ _
  | .vext _ _ _ _ _ | .viota _ _ _ _ | .vperm _ _ _ _ _ | .vcompress _ _ _ _ | .vexpand _ _ _ _ | .vpopc _ _ _ _
  | .vredsum _ _ _ _ _ _ | .vredmax _ _ _ _ _ | .vredmin _ _ _ _ _ | .vscan _ _ _ _ _ _ _ | .vcvt _ _ _ _ _ _ _ _
  | .vcvtds _ _ _ _ _ _ _ _ | .vrecip _ _ _ _ | .vrsqrt _ _ _ _ | .vexp2 _ _ _ _ | .vlog2 _ _ _ _
  | .vladd _ _ _ _ _ | .vlsub _ _ _ _ _ | .ldct _ | .ldctReset | .pand _ _ _ | .por _ _ _ | .pxor _ _ _ | .pnot _ _
  | .pcnt _ _ _ | .pfirst _ _ _ | .ld _ _ _ | .st _ _ _ | .ldv _ _ _ _ | .stv _ _ _ _ | .ldvs _ _ _ _ _
  | .stvs _ _ _ _ _ | .ldvx _ _ _ _ _ | .stvx _ _ _ _ _ | .cas _ _ _ _ | .amoAdd _ _ _ _ _ | .amoAnd _ _ _ _ _
  | .amoOr _ _ _ _ _ | .amoXor _ _ _ _ _ | .amoMin _ _ _ _ _ | .amoMax _ _ _ _ _ | .amoMinz _ _ _ _ _
  | .amoMaxz _ _ _ _ _ | .amoSwap _ _ _ _ _ | .amoFaddF32 _ _ _ _ _ | .amoFaddBf16 _ _ _ _ _ | .cpyl _ _ _ _
  | .cpylRing _ _ _ _ | .cpys _ _ _ _ | .cpyf _ _ _ _ _ _ | .cpya _ _ _ _ _ _ _ _ _ | .rsetup _ _ _ _ | .rpub _ _
  | .rtake _ _ | .rfree _ | .coll _ _ _ _ _ _ _ _ _ | .mma _ _ _ _ _ _ _ | .mmag _ _ _ _ _ _ _ | .mzero _
  | .mscale _ _ _ _ _ | .fscan _ _ _ _ _ _ _ | .fisect _ _ _ _ _ | .funion _ _ _ _ _ | .frepeat _ _ _ _
  | .freduce _ _ _ _ _ _ _ | .fval _ _ _ _ | .falu _ _ _ _ _ _ _ _ _ _ | .fwrite _ _ _ _ _ | .fgen _ _ _
  | .fsteer _ _ _ _ _ | .fmerge _ _ _ _ _ | .fcarry _ _ _ _ | .fsrc _ _ _ | .fsinkPort _ _ | .fsinkQ _ _ _ _
  | .fsinkL _ _ _ _ | .fgo _ _ | .fkill | .fkillClear | .portb _ _ _ | .portbU _ | .portw _ _ _ _ | .portr _ _ _
  | .portq _ _ => false
  | .blockedStrandWake _ | .retentionWake _ | .copyStart _ _ | .copyIssueFinish _ _ | .copySourceReadDone _ _ _
  | .copyVisible _ _ _ | .memoryAccessPerform _ | .routerAmoMerge _ _ | .matrixPass _ _ | .fibreConfigApply _
  | .graphRunStart _ | .fibreUnitStep _ _ | .fibreScanReadReturn _ _ | .fibreStallExpiry _ | .graphRunFinish _
  | .collComplete _ | .collParticipantLost _ | .barrierInstanceComplete _ _ _ _ | .beatTransfer _ | .flitDelivery _
  | .niFreeze _ | .freezeAck _ _ | .recon _ | .deadlineExpiry _ | .stopForCause _ | .deferredFaultDelivery _
  | .asyncTrapDelivery _ | .quotaChargeReport _ | .quotaExhaustionNotice _ | .serviceRequestRecord _
  | .cowService _ | .folioFormation _ | .doorbell _ _ | .recordHead _ | .waitEvaluation _ | .waitPollTimer
  | .agingInterval | .gangDispatch | .taskCompletionPublish _ _ | .queueEnable _ _ | .queueDrain _ _
  | .queueAbort _ _ | .queueReset _ _ | .abortComplete _ | .load _ | .unload _ | .tcinv _ | .tcinvComplete _
  | .group _ | .ungroup _ | .tlbinv _ | .tlbinvComplete _ | .frames _ | .resolve _ | .keyset _ | .keyclr _
  | .ctrget _ | .dbghalt _ | .dbgresume _ | .dbgpend _ | .dbgview _ | .imghold _ | .imgfree _ | .swap _
  | .swapQuiesce _ | .rclock _ | .quotaadd _ | .fwstage _ | .restart _ | .attest _ | .regroup _ | .heldresume _
  | .heldabort _ | .mailboxUndefinedCommand _ | .regionLoadComplete _ | .regionStop _ | .regionRelink _
  | .reconfigTokenApply _ _ _ | .thermalTick _ _ | .regionMachineCheck _ | .tdivreqWrite _ _
  | .clockDividerChange _ | .droopDetected _ | .eccError _ _ | .memoryScrub _ _ | .linkReplayLimit _
  | .linkRetrainFail _ | .linkEnableWrite _ _ | .pkgWrite _ | .tenantWrite _ _ | .registerWrite _ _ _
  | .hostMemoryAccess _ _ _ | .vellumRestore _ | .deviceReset | .bootReady | .bootWatchdogExpiry
  | .linkTrainingDone _ _ _ | .flitReplay _ | .tileThrottle _ _ | .failedStart _ _ | .scanOutComplete _ _ => true

end Sys2Proof.Machine
end

