-- ==== Sys2Proof/Machine/Step.lean ====
section
/-!
DEFINITION. One step of the machine: the next agent of the agenda acts, or else the strand in focus.
-/

namespace Sys2Proof.Machine

open Sys2Proof

/-- The strand in focus meets what waits at its boundary (R116, R117, R120), or fetches and executes one instruction; a
strand that does not run, whose interface has not yet sent RECON after a restore (R392; log 56), or whose pending list still
lands after a debug halt (R33), lets the step pass. -/
def runFocus (s : State) : Host.Outcome State Fault Refusal :=
  match s.tile.run, s.tile.net.frozen || s.tile.net.landing with
  | .running, false =>
    match boundaryStop s with
    | some t => .next t
    | none =>
      match fetch s with
      | .ok (t, w) => exec (decodeWord w) t
      | .error e => .next (fetchStop e s)
  | _, _ => .next s

/-- One step: time passes, then the head of the agenda acts, or, on an empty agenda, the strand in focus. -/
def step (s : State) : Host.Outcome State Fault Refusal :=
  let t := tick s
  match t.agenda with
  | [] => runFocus t
  | .strand n :: rest => runFocus (focusOn n { t with agenda := rest })
  | .event i :: rest => if isEvent i then exec i { t with agenda := rest } else .refused .notAnEvent

/-- `s` with the instruction whose bits are `w` where the next step fetches it (R125, R337; log 4). -/
def State.withFetchWord (s : State) (nbits w : Nat) : State := withFetch (word (w % 2 ^ nbits)) s

end Sys2Proof.Machine
end

