-- ==== Sys2Proof/Laws/Encoding.lean ====
section
/-!
SUPPORT. Fields and words: cutting a word apart undoes putting it together, for the whole word and for the low 28 bits of
every form, and reading a code undoes writing it.
-/

namespace Sys2Proof

/-- Fields that fit their places in a word (R125). -/
def Fields.Fit (f : Fields) : Prop :=
  f.op < 256 ∧ f.d < 64 ∧ f.a < 64 ∧ f.b < 64 ∧ f.c < 64 ∧ f.g < 16 ∧ f.lo < 2 ^ 28

theorem joinWord_lt {f : Fields} (h : f.Fit) : joinWord f < 2 ^ 64 := by
  obtain ⟨h1, h2, h3, h4, h5, h6, h7⟩ := h
  simp only [joinWord]
  omega

theorem splitWord_joinWord {f : Fields} (h : f.Fit) : splitWord (joinWord f) = f := by
  obtain ⟨h1, h2, h3, h4, h5, h6, h7⟩ := h
  cases f
  simp only [splitWord, joinWord, fieldOf, Fields.mk.injEq] at *
  omega

/-- A low part of Form R that fits. -/
def RLow.Fit (r : RLow) : Prop :=
  r.func < 256 ∧ r.ty < 32 ∧ r.rnd < 8 ∧ r.sat < 2 ∧ r.nsat < 2 ∧ r.ginv < 2 ∧ r.xmod < 512

theorem joinR_lt {r : RLow} (h : r.Fit) : joinR r < 2 ^ 28 := by
  obtain ⟨h1, h2, h3, h4, h5, h6, h7⟩ := h
  simp only [joinR]
  omega

theorem splitR_joinR {r : RLow} (h : r.Fit) : splitR (joinR r) = r := by
  obtain ⟨h1, h2, h3, h4, h5, h6, h7⟩ := h
  cases r
  simp only [splitR, joinR, fieldOf, RLow.mk.injEq] at *
  omega

/-- A low part of Form M that fits. -/
def MLow.Fit (m : MLow) : Prop :=
  m.space < 4 ∧ m.order < 4 ∧ m.scope < 4 ∧ m.bp < 2 ∧ m.det < 2 ∧ m.off < 2 ^ 20

theorem joinM_lt {m : MLow} (h : m.Fit) : joinM m < 2 ^ 28 := by
  obtain ⟨h1, h2, h3, h4, h5, h6⟩ := h
  simp only [joinM]
  omega

theorem splitM_joinM {m : MLow} (h : m.Fit) : splitM (joinM m) = m := by
  obtain ⟨h1, h2, h3, h4, h5, h6⟩ := h
  cases m
  simp only [splitM, joinM, fieldOf, MLow.mk.injEq] at *
  omega

/-- A low part of Form X that fits. -/
def XLow.Fit (x : XLow) : Prop := x.tdi < 2 ^ 16 ∧ x.rpy < 2 ∧ x.rq < 4 ∧ x.scope < 4 ∧ x.flag < 128

theorem joinX_lt {x : XLow} (h : x.Fit) : joinX x < 2 ^ 28 := by
  obtain ⟨h1, h2, h3, h4, h5⟩ := h
  simp only [joinX]
  omega

theorem splitX_joinX {x : XLow} (h : x.Fit) : splitX (joinX x) = x := by
  obtain ⟨h1, h2, h3, h4, h5⟩ := h
  cases x
  simp only [splitX, joinX, fieldOf, XLow.mk.injEq] at *
  omega

/-- A number below 2^64 as a word. -/
theorem word_toNat {n : Nat} (h : n < 2 ^ 64) : (word n).toNat = n := by
  rw [word, BitVec.toNat_ofNat]
  exact Nat.mod_eq_of_lt h

/-- The word of fields that decode to an instruction decodes to it. -/
theorem decodeWord_fields {i j : Instr} (h : i.fields.Fit) (hd : decodeFields i.fields = some j) :
    decodeWord i.encode = j := by
  have hs : splitWord i.encode.toNat = i.fields := by
    rw [Instr.encode, word_toNat (joinWord_lt h), splitWord_joinWord h]
  generalize i.encode = w at hs
  rw [decodeWord, hs, hd]

/-! ### Codes -/

@[simp] theorem Fmt.ofCode_code (t : Fmt) : Fmt.ofCode t.code = some t := by cases t <;> rfl
@[simp] theorem Rnd.ofCode_code (t : Rnd) : Rnd.ofCode t.code = some t := by cases t <;> rfl
@[simp] theorem Space.ofCode_code (t : Space) : Space.ofCode t.code = some t := by cases t <;> rfl
@[simp] theorem Order.ofCode_code (t : Order) : Order.ofCode t.code = some t := by cases t <;> rfl
@[simp] theorem Scope.ofCode_code (t : Scope) : Scope.ofCode t.code = some t := by cases t <;> rfl
@[simp] theorem Cond.ofCode_code (t : Cond) : Cond.ofCode t.code = some t := by cases t <;> rfl
@[simp] theorem VCond.ofCode_code (t : VCond) : VCond.ofCode t.code = some t := by cases t <;> rfl
@[simp] theorem ScanOp.ofCode_code (t : ScanOp) : ScanOp.ofCode t.code = some t := by cases t <;> rfl
@[simp] theorem Chan.ofCode_code (t : Chan) : Chan.ofCode t.code = some t := by cases t <;> rfl
@[simp] theorem CtlReg.ofCode_code (t : CtlReg) : CtlReg.ofCode t.code = some t := by cases t <;> rfl
@[simp] theorem ScanFmt.ofCode_code (t : ScanFmt) : ScanFmt.ofCode t.code = some t := by cases t <;> rfl
@[simp] theorem FTy.ofCode_code (t : FTy) : FTy.ofCode t.code = some t := by cases t <;> rfl
@[simp] theorem RedOp.ofCode_code (t : RedOp) : RedOp.ofCode t.code = some t := by cases t <;> rfl
@[simp] theorem AluOp.ofCode_code (t : AluOp) : AluOp.ofCode t.code = some t := by cases t <;> rfl
@[simp] theorem WrMode.ofCode_code (t : WrMode) : WrMode.ofCode t.code = some t := by cases t <;> rfl
@[simp] theorem SinkMode.ofCode_code (t : SinkMode) : SinkMode.ofCode t.code = some t := by cases t <;> rfl
@[simp] theorem CollKind.ofCode_code (t : CollKind) : CollKind.ofCode t.code = some t := by cases t <;> rfl
@[simp] theorem CollOp.ofCode_code (t : CollOp) : CollOp.ofCode t.code = some t := by cases t <;> rfl

theorem Fmt.code_lt (t : Fmt) : t.code < 16 := by cases t <;> decide
theorem Rnd.code_lt (t : Rnd) : t.code < 5 := by cases t <;> decide
theorem Space.code_lt (t : Space) : t.code < 3 := by cases t <;> decide
theorem Order.code_lt (t : Order) : t.code < 4 := by cases t <;> decide
theorem Scope.code_lt (t : Scope) : t.code < 4 := by cases t <;> decide
theorem VCond.code_lt (t : VCond) : t.code < 7 := by cases t <;> decide
theorem Cond.code_lt (t : Cond) : t.code < 6 := by cases t <;> decide
theorem ScanOp.code_lt (t : ScanOp) : t.code < 3 := by cases t <;> decide
theorem Chan.code_lt (t : Chan) : t.code < 3 := by cases t <;> decide
theorem CtlReg.code_lt (t : CtlReg) : t.code < 32 := by cases t <;> decide
theorem ScanFmt.code_lt (t : ScanFmt) : t.code < 4 := by cases t <;> decide
theorem FTy.code_lt (t : FTy) : t.code < 3 := by cases t <;> decide
theorem RedOp.code_lt (t : RedOp) : t.code < 3 := by cases t <;> decide
theorem AluOp.code_lt (t : AluOp) : t.code < 10 := by cases t <;> decide
theorem WrMode.code_lt (t : WrMode) : t.code < 4 := by cases t <;> decide
theorem SinkMode.code_lt (t : SinkMode) : t.code < 3 := by cases t <;> decide
theorem CollKind.code_lt (t : CollKind) : t.code < 5 := by cases t <;> decide
theorem CollOp.code_lt (t : CollOp) : t.code < 6 := by cases t <;> decide
theorem bit_lt (b : Bool) : bit b < 2 := by cases b <;> decide
@[simp] theorem bit_beq_one (b : Bool) : (bit b == 1) = b := by cases b <;> rfl

end Sys2Proof
end

