-- ==== Sys2Proof/Laws/Forms.lean ====
section
/-!
SUPPORT. The words of each form (R128 to R133): its fields fit, and its word reaches the form's own decoding table with the
fields that the encoder put into it.
-/

namespace Sys2Proof.Laws.RoundTrip

open Sys2Proof

@[simp] theorem reg_val (r : Fin 64) : reg r.val = r := by simp [reg]
@[simp] theorem preg_val (r : Fin 16) : preg r.val = some r := by simp [preg]
@[simp] theorem qreg_val (r : Fin 4) : qreg r.val = some r := by simp [qreg]
@[simp] theorem freg_val (r : Fin 32) : freg r.val = some r := by simp [freg]
@[simp] theorem bit_lt_two (b : Bool) : bit b < 2 := bit_lt b
@[simp] theorem bit_le_one (b : Bool) : bit b ≤ 1 := by cases b <;> decide
@[simp] theorem bit_eq_one (b : Bool) : bit b = 1 ↔ b = true := by cases b <;> decide

/-! ### Field ranges by form -/

theorem fit_R {op func d a b c xmod : Nat} (h1 : op < 256) (h2 : d < 64) (h3 : a < 64) (h4 : b < 64) (h5 : c < 64)
    (h6 : func < 256) (h7 : xmod < 512) : (encR op func d a b c xmod).Fit :=
  ⟨h1, h2, h3, h4, h5, by simp [encR], joinR_lt ⟨h6, by simp, by simp, by simp, by simp, by simp, h7⟩⟩

theorem split_R {func xmod : Nat} (h6 : func < 256) (h7 : xmod < 512) :
    splitR (joinR ⟨func, 0, 0, 0, 0, 0, xmod⟩) = ⟨func, 0, 0, 0, 0, 0, xmod⟩ :=
  splitR_joinR ⟨h6, by simp, by simp, by simp, by simp, by simp, h7⟩

theorem fit_I {op d a imm : Nat} (h1 : op < 256) (h2 : d < 64) (h3 : a < 64) (h4 : imm < 2 ^ 28) : (encI op d a imm).Fit :=
  ⟨h1, h2, h3, by simp [encI], by simp [encI], by simp [encI], h4⟩

theorem fit_I20 {op d a func imm : Nat} (h1 : op < 256) (h2 : d < 64) (h3 : a < 64) (h4 : func < 256)
    (h5 : imm < 2 ^ 20) : (encI20 op d a func imm).Fit :=
  ⟨h1, h2, h3, by simp [encI20], by simp [encI20], by simp [encI20], by simp only [encI20]; omega⟩

theorem rlow_V (func xmod : Nat) (m : VMod) (g : Guard) (h6 : func < 256) (h7 : xmod < 512) :
    RLow.Fit ⟨func, m.ty.code, m.rnd.code, bit m.sat, bit m.nsat, bit g.inv, xmod⟩ :=
  ⟨h6, Nat.lt_trans m.ty.code_lt (by decide), Nat.lt_trans m.rnd.code_lt (by decide), bit_lt _, bit_lt _, bit_lt _, h7⟩

theorem fit_V {op func d a b c xmod : Nat} {m : VMod} {g : Guard} (h1 : op < 256) (h2 : d < 64) (h3 : a < 64)
    (h4 : b < 64) (h5 : c < 64) (h6 : func < 256) (h7 : xmod < 512) : (encV op func d a b c xmod m g).Fit :=
  ⟨h1, h2, h3, h4, h5, g.p.isLt, joinR_lt (rlow_V func xmod m g h6 h7)⟩

theorem vmod_V (func xmod : Nat) (m : VMod) (inv : Nat) :
    RLow.vmod ⟨func, m.ty.code, m.rnd.code, bit m.sat, bit m.nsat, inv, xmod⟩ = some m := by
  simp [RLow.vmod]

/-- A guarded vector word reaches its own table with its fields and modifiers. -/
theorem raw_V {op func d a b c xmod : Nat} {m : VMod} {g : Guard} {x : Option Instr} (h6 : func < 256) (h7 : xmod < 512)
    (hk : ∀ lo, decodeRaw ⟨op, d, a, b, c, g.p.val, lo⟩ =
      (splitR lo).vmod.bind (decodeVector ⟨op, d, a, b, c, g.p.val, lo⟩ (splitR lo)))
    (hv : ∀ lo, decodeVector ⟨op, d, a, b, c, g.p.val, lo⟩
      ⟨func, m.ty.code, m.rnd.code, bit m.sat, bit m.nsat, bit g.inv, xmod⟩ m = x) :
    decodeRaw (encV op func d a b c xmod m g) = x := by
  rw [encV, hk, splitR_joinR (rlow_V func xmod m g h6 h7), vmod_V, Option.bind_some, hv]

@[simp] theorem guard_eta (g : Guard) : (⟨Fin.ofNat 16 g.p.val, bit g.inv == 1⟩ : Guard) = g := by
  cases g
  simp

theorem mlow_M (det : Nat) (m : MemOp) (h : det < 2) :
    MLow.Fit ⟨m.space.code, m.order.code, m.scope.code, bit m.bp, det, m.off.toNat⟩ :=
  ⟨Nat.lt_trans m.space.code_lt (by decide), m.order.code_lt, m.scope.code_lt, bit_lt _, h, m.off.isLt⟩

theorem fit_M {op d a b g ginv det : Nat} {m : MemOp} (h1 : op < 256) (h2 : d < 64) (h3 : a < 64) (h4 : b < 64)
    (h5 : g < 16) (h6 : ginv < 2) (h7 : det < 2) : (encM op d a b g ginv det m).Fit := by
  refine ⟨h1, h2, h3, h4, ?_, h5, joinM_lt (mlow_M det m h7)⟩
  have := m.ty.code_lt
  simp only [encM]
  omega

theorem memOp_M (ginv det : Nat) (m : MemOp) :
    memOpOf (ginv * 32 + m.ty.code) ⟨m.space.code, m.order.code, m.scope.code, bit m.bp, det, m.off.toNat⟩ = some m := by
  have h : (ginv * 32 + m.ty.code) % 32 = m.ty.code := by have := m.ty.code_lt; omega
  simp [memOpOf, h]

theorem ginv_M (ginv : Nat) (m : MemOp) : (ginv * 32 + m.ty.code) / 32 = ginv := by have := m.ty.code_lt; omega

/-- A Form M word reaches its table with its access fields. -/
theorem raw_M {op d a b g ginv det : Nat} {m : MemOp} {k : MemOp → Nat → Nat → Option Instr} (h : det < 2)
    (hk : ∀ c lo, decodeRaw ⟨op, d, a, b, c, g, lo⟩ =
      (memOpOf c (splitM lo)).bind fun m => k m (c / 32) (splitM lo).det) :
    decodeRaw (encM op d a b g ginv det m) = k m ginv det := by
  rw [encM, hk, splitM_joinM (mlow_M det m h), memOp_M, ginv_M, Option.bind_some]

theorem xlow_X {tdi : Nat} {reply : Option QReg} {scope flag : Nat} (h1 : tdi < 2 ^ 16) (h2 : scope < 4)
    (h3 : flag < 128) : XLow.Fit ⟨tdi, (replyBits reply).1, (replyBits reply).2, scope, flag⟩ := by
  refine ⟨h1, ?_, ?_, h2, h3⟩ <;> cases reply <;> simp [replyBits]

theorem fit_X {op d a b c tdi : Nat} {reply : Option QReg} {scope flag : Nat} (h1 : op < 256) (h2 : d < 64)
    (h3 : a < 64) (h4 : b < 64) (h5 : c < 64) (h6 : tdi < 2 ^ 16) (h7 : scope < 4) (h8 : flag < 128) :
    (encX op d a b c tdi reply scope flag).Fit :=
  ⟨h1, h2, h3, h4, h5, by simp [encX], joinX_lt (xlow_X h6 h7 h8)⟩

@[simp] theorem replyOf_bits (q : Option QReg) : replyOf (replyBits q).1 (replyBits q).2 = some q := by
  cases q <;> simp [replyOf, replyBits]

/-- A Form X word reaches its table with its low fields. -/
theorem raw_X {op d a b c tdi : Nat} {reply : Option QReg} {scope flag : Nat} {k : XLow → Option Instr}
    (h1 : tdi < 2 ^ 16) (h2 : scope < 4) (h3 : flag < 128)
    (hk : ∀ lo, decodeRaw ⟨op, d, a, b, c, 0, lo⟩ = k (splitX lo)) :
    decodeRaw (encX op d a b c tdi reply scope flag) = k ⟨tdi, (replyBits reply).1, (replyBits reply).2, scope, flag⟩ := by
  rw [encX, hk, splitX_joinX (xlow_X h1 h2 h3)]

/-- A Form R word without type reaches its table with its low fields. -/
theorem raw_R {op func d a b c xmod : Nat} {k : RLow → Option Instr} (h1 : func < 256) (h2 : xmod < 512)
    (hk : ∀ lo, decodeRaw ⟨op, d, a, b, c, 0, lo⟩ = k (splitR lo)) :
    decodeRaw (encR op func d a b c xmod) = k ⟨func, 0, 0, 0, 0, 0, xmod⟩ := by
  rw [encR, hk, split_R h1 h2]

theorem fit_F {op d a b c cfg : Nat} {u : UnitRef} (h1 : op < 256) (h2 : d < 32) (h3 : a < 32) (h4 : b < 32)
    (h5 : c < 32) (h6 : cfg < 2 ^ 20) : (encF op d a b c u cfg).Fit := by
  have := u.cls.isLt
  have := u.unit.isLt
  refine ⟨h1, by simp only [encF]; omega, by simp only [encF]; omega, by simp only [encF]; omega,
    by simp only [encF]; omega, by simp [encF], by simp only [encF]; omega⟩

/-- A Form F word reaches its table with its endpoints, its unit and its configuration. -/
theorem raw_F {op cfg d a b c : Nat} {fd fa fb fc : FReg} {u : UnitRef}
    {k : FReg → FReg → FReg → FReg → Bool → UnitRef → Nat → Option Instr} (hd : freg d = some fd) (ha : freg a = some fa)
    (hb : freg b = some fb) (hc : freg c = some fc) (h : cfg < 2 ^ 20)
    (hk : ∀ lo, decodeRaw ⟨op, d, a, b, c, 0, lo⟩ =
      (freg d).bind fun d => (freg a).bind fun a => (freg b).bind fun b => (freg c).bind fun c =>
        k d a b c (lo / 2 ^ 24 < 9) ⟨Fin.ofNat 9 (lo / 2 ^ 24), Fin.ofNat 16 (lo / 2 ^ 20 % 16)⟩ (lo % 2 ^ 20)) :
    decodeRaw (encF op d a b c u cfg) = k fd fa fb fc true u cfg := by
  have h1 := u.cls.isLt
  have h2 := u.unit.isLt
  have e1 : (u.cls.val * 2 ^ 24 + u.unit.val * 2 ^ 20 + cfg) / 2 ^ 24 = u.cls.val := by omega
  have e2 : (u.cls.val * 2 ^ 24 + u.unit.val * 2 ^ 20 + cfg) / 2 ^ 20 % 16 = u.unit.val := by omega
  have e3 : (u.cls.val * 2 ^ 24 + u.unit.val * 2 ^ 20 + cfg) % 2 ^ 20 = cfg := by omega
  rw [encF, hk, e1, e2, e3, hd, ha, hb, hc]
  simp [h1]

theorem fit_mk {op d a b c g lo : Nat} (h1 : op < 256) (h2 : d < 64) (h3 : a < 64) (h4 : b < 64) (h5 : c < 64)
    (h6 : g < 16) (h7 : lo < 2 ^ 28) : Fields.Fit ⟨op, d, a, b, c, g, lo⟩ := ⟨h1, h2, h3, h4, h5, h6, h7⟩

theorem mmaFlag_lt (o : MmaOp) : mmaFlag o < 128 := by
  have := o.pair.isLt
  have := bit_lt o.sat
  have := bit_lt o.bv
  have := bit_lt o.av
  simp only [mmaFlag]
  omega

@[simp] theorem mmaOpOf_flag (o : MmaOp) : mmaOpOf (mmaFlag o) = o := by
  have := o.pair.isLt
  have h1 := bit_lt o.sat
  have h2 := bit_lt o.bv
  have h3 := bit_lt o.av
  have e1 : mmaFlag o / 8 = o.pair.val := by simp only [mmaFlag]; omega
  have e2 : mmaFlag o / 2 ^ 2 % 2 ^ 1 = bit o.sat := by simp only [mmaFlag]; omega
  have e3 : mmaFlag o / 2 ^ 1 % 2 ^ 1 = bit o.bv := by simp only [mmaFlag]; omega
  have e4 : mmaFlag o % 2 = bit o.av := by simp only [mmaFlag]; omega
  simp only [mmaOpOf, fieldOf, e1, e2, e3, e4]
  cases o
  simp

/-- What the FSINK table reads of FUNC, the port and the low bits (R286). -/
def sinkArm (fa : FReg) (func port low : Nat) : Option Instr :=
  match func with
  | 0 => req (low == 0) (some (.fsinkPort (Fin.ofNat 8 port) fa))
  | 1 => req (low < 8) (some (.fsinkQ (Fin.ofNat 8 port) fa (Fin.ofNat 4 low) (low / 4 == 1)))
  | 2 => (SinkMode.ofCode (low / 2 ^ 15)).bind fun mode => some (.fsinkL (Fin.ofNat 8 port) fa mode (Fin.ofNat 32768 low))
  | _ => none

theorem sink_raw (a : FReg) (lo : Nat) : decodeRaw ⟨0xCD, 0, a, 0, 0, 0, lo⟩ =
    sinkArm a (lo / 2 ^ 20) (lo % 2 ^ 20 / 2 ^ 17) (lo % 2 ^ 20 % 2 ^ 17) := by
  have hk : decodeRaw ⟨0xCD, 0, a, 0, 0, 0, lo⟩ =
    (freg a).bind fun fa => req true (sinkArm fa (lo / 2 ^ 20) (lo % 2 ^ 20 / 2 ^ 17) (lo % 2 ^ 20 % 2 ^ 17)) := rfl
  rw [hk, freg_val]
  rfl

end Sys2Proof.Laws.RoundTrip
end

