-- ==== Sys2Proof/Laws/PerInstr.lean ====
section
/-!
SUPPORT. DECODE UNDOES ENCODE, instruction by instruction: for every constructor, the word that the encoder gives for a
well-formed SVI instruction decodes to it, with every operand at every value.
-/

namespace Sys2Proof.Laws.RoundTrip

open Sys2Proof

/-- The encoder's word of a well-formed SVI instruction decodes to that instruction. A reserved encoding is no
instruction of the encoder's table, and events have no encoding. -/
def Statement (i : Instr) : Prop :=
  i.isSvi = true → i.wf = true → (∀ w, i ≠ .reservedEncoding w) → decodeWord i.encode = i

/-- It is enough that the fields fit and that they decode before the operand rules. -/
theorem of_fields {i : Instr} (hf : i.fields.Fit) (hd : decodeRaw i.fields = some i) : Statement i := by
  intro _ hw _
  refine decodeWord_fields hf ?_
  rw [decodeFields, hd]
  simp [hw]

/-- An event is not encoded. -/
theorem of_event {i : Instr} (h : i.isSvi = false) : Statement i := by
  intro h'
  rw [h] at h'
  cases h'

/-! ### The instructions -/

theorem add (d a b : SReg) : Statement (.add d a b) :=
  of_fields (fit_R (by decide) d.isLt a.isLt b.isLt (by decide) (by decide) (by decide)) <|
    Eq.trans (raw_R (by decide) (by decide) (k := decodeArith ⟨0, d, a, b, 0, 0, 0⟩) fun _ => rfl)
      (Eq.trans (b := some (.add (reg d) (reg a) (reg b))) rfl (by simp))

theorem sub (d a b : SReg) : Statement (.sub d a b) :=
  of_fields (fit_R (by decide) d.isLt a.isLt b.isLt (by decide) (by decide) (by decide)) <|
    Eq.trans (raw_R (by decide) (by decide) (k := decodeArith ⟨0, d, a, b, 0, 0, 0⟩) fun _ => rfl)
      (Eq.trans (b := some (.sub (reg d) (reg a) (reg b))) rfl (by simp))

theorem and (d a b : SReg) : Statement (.and d a b) :=
  of_fields (fit_R (by decide) d.isLt a.isLt b.isLt (by decide) (by decide) (by decide)) <|
    Eq.trans (raw_R (by decide) (by decide) (k := decodeArith ⟨0, d, a, b, 0, 0, 0⟩) fun _ => rfl)
      (Eq.trans (b := some (.and (reg d) (reg a) (reg b))) rfl (by simp))

theorem or (d a b : SReg) : Statement (.or d a b) :=
  of_fields (fit_R (by decide) d.isLt a.isLt b.isLt (by decide) (by decide) (by decide)) <|
    Eq.trans (raw_R (by decide) (by decide) (k := decodeArith ⟨0, d, a, b, 0, 0, 0⟩) fun _ => rfl)
      (Eq.trans (b := some (.or (reg d) (reg a) (reg b))) rfl (by simp))

theorem xor (d a b : SReg) : Statement (.xor d a b) :=
  of_fields (fit_R (by decide) d.isLt a.isLt b.isLt (by decide) (by decide) (by decide)) <|
    Eq.trans (raw_R (by decide) (by decide) (k := decodeArith ⟨0, d, a, b, 0, 0, 0⟩) fun _ => rfl)
      (Eq.trans (b := some (.xor (reg d) (reg a) (reg b))) rfl (by simp))

theorem shl (d a b : SReg) : Statement (.shl d a b) :=
  of_fields (fit_R (by decide) d.isLt a.isLt b.isLt (by decide) (by decide) (by decide)) <|
    Eq.trans (raw_R (by decide) (by decide) (k := decodeArith ⟨0, d, a, b, 0, 0, 0⟩) fun _ => rfl)
      (Eq.trans (b := some (.shl (reg d) (reg a) (reg b))) rfl (by simp))

theorem shr (d a b : SReg) : Statement (.shr d a b) :=
  of_fields (fit_R (by decide) d.isLt a.isLt b.isLt (by decide) (by decide) (by decide)) <|
    Eq.trans (raw_R (by decide) (by decide) (k := decodeArith ⟨0, d, a, b, 0, 0, 0⟩) fun _ => rfl)
      (Eq.trans (b := some (.shr (reg d) (reg a) (reg b))) rfl (by simp))

theorem sra (d a b : SReg) : Statement (.sra d a b) :=
  of_fields (fit_R (by decide) d.isLt a.isLt b.isLt (by decide) (by decide) (by decide)) <|
    Eq.trans (raw_R (by decide) (by decide) (k := decodeArith ⟨0, d, a, b, 0, 0, 0⟩) fun _ => rfl)
      (Eq.trans (b := some (.sra (reg d) (reg a) (reg b))) rfl (by simp))

theorem min (d a b : SReg) : Statement (.min d a b) :=
  of_fields (fit_R (by decide) d.isLt a.isLt b.isLt (by decide) (by decide) (by decide)) <|
    Eq.trans (raw_R (by decide) (by decide) (k := decodeArith ⟨0, d, a, b, 0, 0, 0⟩) fun _ => rfl)
      (Eq.trans (b := some (.min (reg d) (reg a) (reg b))) rfl (by simp))

theorem max (d a b : SReg) : Statement (.max d a b) :=
  of_fields (fit_R (by decide) d.isLt a.isLt b.isLt (by decide) (by decide) (by decide)) <|
    Eq.trans (raw_R (by decide) (by decide) (k := decodeArith ⟨0, d, a, b, 0, 0, 0⟩) fun _ => rfl)
      (Eq.trans (b := some (.max (reg d) (reg a) (reg b))) rfl (by simp))

theorem minz (d a b : SReg) : Statement (.minz d a b) :=
  of_fields (fit_R (by decide) d.isLt a.isLt b.isLt (by decide) (by decide) (by decide)) <|
    Eq.trans (raw_R (by decide) (by decide) (k := decodeArith ⟨0, d, a, b, 0, 0, 0⟩) fun _ => rfl)
      (Eq.trans (b := some (.minz (reg d) (reg a) (reg b))) rfl (by simp))

theorem maxz (d a b : SReg) : Statement (.maxz d a b) :=
  of_fields (fit_R (by decide) d.isLt a.isLt b.isLt (by decide) (by decide) (by decide)) <|
    Eq.trans (raw_R (by decide) (by decide) (k := decodeArith ⟨0, d, a, b, 0, 0, 0⟩) fun _ => rfl)
      (Eq.trans (b := some (.maxz (reg d) (reg a) (reg b))) rfl (by simp))

theorem setlt (d a b : SReg) : Statement (.setlt d a b) :=
  of_fields (fit_R (by decide) d.isLt a.isLt b.isLt (by decide) (by decide) (by decide)) <|
    Eq.trans (raw_R (by decide) (by decide) (k := decodeArith ⟨0, d, a, b, 0, 0, 0⟩) fun _ => rfl)
      (Eq.trans (b := some (.setlt (reg d) (reg a) (reg b))) rfl (by simp))

theorem setltz (d a b : SReg) : Statement (.setltz d a b) :=
  of_fields (fit_R (by decide) d.isLt a.isLt b.isLt (by decide) (by decide) (by decide)) <|
    Eq.trans (raw_R (by decide) (by decide) (k := decodeArith ⟨0, d, a, b, 0, 0, 0⟩) fun _ => rfl)
      (Eq.trans (b := some (.setltz (reg d) (reg a) (reg b))) rfl (by simp))

theorem seteq (d a b : SReg) : Statement (.seteq d a b) :=
  of_fields (fit_R (by decide) d.isLt a.isLt b.isLt (by decide) (by decide) (by decide)) <|
    Eq.trans (raw_R (by decide) (by decide) (k := decodeArith ⟨0, d, a, b, 0, 0, 0⟩) fun _ => rfl)
      (Eq.trans (b := some (.seteq (reg d) (reg a) (reg b))) rfl (by simp))

theorem popc (d a : SReg) : Statement (.popc d a) :=
  of_fields (fit_R (by decide) d.isLt a.isLt (by decide) (by decide) (by decide) (by decide)) <|
    Eq.trans (raw_R (by decide) (by decide) (k := decodeArith ⟨0, d, a, 0, 0, 0, 0⟩) fun _ => rfl)
      (Eq.trans (b := some (.popc (reg d) (reg a))) rfl (by simp))

theorem clz (d a : SReg) : Statement (.clz d a) :=
  of_fields (fit_R (by decide) d.isLt a.isLt (by decide) (by decide) (by decide) (by decide)) <|
    Eq.trans (raw_R (by decide) (by decide) (k := decodeArith ⟨0, d, a, 0, 0, 0, 0⟩) fun _ => rfl)
      (Eq.trans (b := some (.clz (reg d) (reg a))) rfl (by simp))

theorem ctz (d a : SReg) : Statement (.ctz d a) :=
  of_fields (fit_R (by decide) d.isLt a.isLt (by decide) (by decide) (by decide) (by decide)) <|
    Eq.trans (raw_R (by decide) (by decide) (k := decodeArith ⟨0, d, a, 0, 0, 0, 0⟩) fun _ => rfl)
      (Eq.trans (b := some (.ctz (reg d) (reg a))) rfl (by simp))

theorem mul (d a b : SReg) : Statement (.mul d a b) :=
  of_fields (fit_R (by decide) d.isLt a.isLt b.isLt (by decide) (by decide) (by decide)) <|
    Eq.trans (raw_R (by decide) (by decide) (k := decodeMulDiv ⟨1, d, a, b, 0, 0, 0⟩) fun _ => rfl)
      (Eq.trans (b := some (.mul (reg d) (reg a) (reg b))) rfl (by simp))

theorem mulh (d a b : SReg) : Statement (.mulh d a b) :=
  of_fields (fit_R (by decide) d.isLt a.isLt b.isLt (by decide) (by decide) (by decide)) <|
    Eq.trans (raw_R (by decide) (by decide) (k := decodeMulDiv ⟨1, d, a, b, 0, 0, 0⟩) fun _ => rfl)
      (Eq.trans (b := some (.mulh (reg d) (reg a) (reg b))) rfl (by simp))

theorem mulhz (d a b : SReg) : Statement (.mulhz d a b) :=
  of_fields (fit_R (by decide) d.isLt a.isLt b.isLt (by decide) (by decide) (by decide)) <|
    Eq.trans (raw_R (by decide) (by decide) (k := decodeMulDiv ⟨1, d, a, b, 0, 0, 0⟩) fun _ => rfl)
      (Eq.trans (b := some (.mulhz (reg d) (reg a) (reg b))) rfl (by simp))

theorem madd (d a b c : SReg) : Statement (.madd d a b c) :=
  of_fields (fit_R (by decide) d.isLt a.isLt b.isLt c.isLt (by decide) (by decide)) <|
    Eq.trans (raw_R (by decide) (by decide) (k := decodeMulDiv ⟨1, d, a, b, c, 0, 0⟩) fun _ => rfl)
      (Eq.trans (b := some (.madd (reg d) (reg a) (reg b) (reg c))) (by simp [decodeMulDiv, req, RLow.untyped]) (by simp))

theorem div (d a b : SReg) : Statement (.div d a b) :=
  of_fields (fit_R (by decide) d.isLt a.isLt b.isLt (by decide) (by decide) (by decide)) <|
    Eq.trans (raw_R (by decide) (by decide) (k := decodeMulDiv ⟨1, d, a, b, 0, 0, 0⟩) fun _ => rfl)
      (Eq.trans (b := some (.div (reg d) (reg a) (reg b))) rfl (by simp))

theorem divz (d a b : SReg) : Statement (.divz d a b) :=
  of_fields (fit_R (by decide) d.isLt a.isLt b.isLt (by decide) (by decide) (by decide)) <|
    Eq.trans (raw_R (by decide) (by decide) (k := decodeMulDiv ⟨1, d, a, b, 0, 0, 0⟩) fun _ => rfl)
      (Eq.trans (b := some (.divz (reg d) (reg a) (reg b))) rfl (by simp))

theorem rem (d a b : SReg) : Statement (.rem d a b) :=
  of_fields (fit_R (by decide) d.isLt a.isLt b.isLt (by decide) (by decide) (by decide)) <|
    Eq.trans (raw_R (by decide) (by decide) (k := decodeMulDiv ⟨1, d, a, b, 0, 0, 0⟩) fun _ => rfl)
      (Eq.trans (b := some (.rem (reg d) (reg a) (reg b))) rfl (by simp))

theorem remz (d a b : SReg) : Statement (.remz d a b) :=
  of_fields (fit_R (by decide) d.isLt a.isLt b.isLt (by decide) (by decide) (by decide)) <|
    Eq.trans (raw_R (by decide) (by decide) (k := decodeMulDiv ⟨1, d, a, b, 0, 0, 0⟩) fun _ => rfl)
      (Eq.trans (b := some (.remz (reg d) (reg a) (reg b))) rfl (by simp))

theorem sel (d a b c : SReg) : Statement (.sel d a b c) :=
  of_fields (fit_R (by decide) d.isLt a.isLt b.isLt c.isLt (by decide) (by decide)) <|
    Eq.trans (raw_R (by decide) (by decide) (k := fun r =>
      req ((0 == 0 && r.untyped && r.func == 0) && r.xmod == 0) (some (.sel (reg d) (reg a) (reg b) (reg c)))) fun _ => rfl)
      (by simp [req, RLow.untyped])

theorem bfx (d a : SReg) (pos wm1 : Fin 64) (sx : Bool) : Statement (.bfx d a pos wm1 sx) :=
  of_fields (fit_R (by decide) d.isLt a.isLt pos.isLt wm1.isLt (by decide) (by have := bit_lt sx; omega)) <|
    Eq.trans (raw_R (by decide) (by have := bit_lt sx; omega) (k := fun r =>
      req ((0 == 0 && r.untyped && r.func == 0) && r.xmod < 2) (some (.bfx (reg d) (reg a) (reg pos) (reg wm1) (r.xmod == 1)))) fun _ => rfl)
      (by simp [req, RLow.untyped])

theorem bfi (d a : SReg) (pos wm1 : Fin 64) : Statement (.bfi d a pos wm1) :=
  of_fields (fit_R (by decide) d.isLt a.isLt pos.isLt wm1.isLt (by decide) (by decide)) <|
    Eq.trans (raw_R (by decide) (by decide) (k := fun r =>
      req ((0 == 0 && r.untyped && r.func == 0) && r.xmod == 0) (some (.bfi (reg d) (reg a) (reg pos) (reg wm1)))) fun _ => rfl)
      (by simp [req, RLow.untyped])

theorem addi (d a : SReg) (imm : BitVec 28) : Statement (.addi d a imm) :=
  of_fields (fit_I (by decide) d.isLt a.isLt imm.isLt) <|
    Eq.trans (b := some (.addi (reg d) (reg a) (BitVec.ofNat 28 imm.toNat))) rfl (by simp [reg_val])

theorem andi (d a : SReg) (imm : BitVec 28) : Statement (.andi d a imm) :=
  of_fields (fit_I (by decide) d.isLt a.isLt imm.isLt) <|
    Eq.trans (b := some (.andi (reg d) (reg a) (BitVec.ofNat 28 imm.toNat))) rfl (by simp [reg_val])

theorem ori (d a : SReg) (imm : BitVec 28) : Statement (.ori d a imm) :=
  of_fields (fit_I (by decide) d.isLt a.isLt imm.isLt) <|
    Eq.trans (b := some (.ori (reg d) (reg a) (BitVec.ofNat 28 imm.toNat))) rfl (by simp [reg_val])

theorem xori (d a : SReg) (imm : BitVec 28) : Statement (.xori d a imm) :=
  of_fields (fit_I (by decide) d.isLt a.isLt imm.isLt) <|
    Eq.trans (b := some (.xori (reg d) (reg a) (BitVec.ofNat 28 imm.toNat))) rfl (by simp [reg_val])

theorem shlImm (d a : SReg) (n : Fin 64) : Statement (.shlImm d a n) :=
  of_fields (fit_I (by decide) d.isLt a.isLt (by have := n.isLt; omega)) <|
    Eq.trans (b := req (n.val < 64) (some (.shlImm (reg d) (reg a) (reg n)))) rfl (by simp [req])

theorem shrImm (d a : SReg) (n : Fin 64) : Statement (.shrImm d a n) :=
  of_fields (fit_I (by decide) d.isLt a.isLt (by have := n.isLt; omega)) <|
    Eq.trans (b := req (n.val < 64) (some (.shrImm (reg d) (reg a) (reg n)))) rfl (by simp [req])

theorem sraImm (d a : SReg) (n : Fin 64) : Statement (.sraImm d a n) :=
  of_fields (fit_I (by decide) d.isLt a.isLt (by have := n.isLt; omega)) <|
    Eq.trans (b := req (n.val < 64) (some (.sraImm (reg d) (reg a) (reg n)))) rfl (by simp [req])

theorem li (d : SReg) (imm : BitVec 28) : Statement (.li d imm) :=
  of_fields (fit_I (by decide) d.isLt (by decide) imm.isLt) <|
    Eq.trans (b := some (.li (reg d) (BitVec.ofNat 28 imm.toNat))) rfl (by simp [reg_val])

theorem addpc (d : SReg) (imm : BitVec 28) : Statement (.addpc d imm) :=
  of_fields (fit_I (by decide) d.isLt (by decide) imm.isLt) <|
    Eq.trans (b := some (.addpc (reg d) (BitVec.ofNat 28 imm.toNat))) rfl (by simp [reg_val])

theorem lui (d a : SReg) (imm : BitVec 20) (pos : Fin 64) : Statement (.lui d a imm pos) := by
  refine of_fields (fit_I20 (by decide) d.isLt a.isLt (by have := pos.isLt; omega) imm.isLt) ?_
  have hk : ∀ lo, decodeRaw ⟨0x11, d, a, 0, 0, 0, lo⟩ =
    req (lo / 2 ^ 20 < 64) (some (.lui (reg d) (reg a) (BitVec.ofNat 20 lo) (reg (lo / 2 ^ 20)))) := fun _ => rfl
  have h1 : (pos.val * 2 ^ 20 + imm.toNat) / 2 ^ 20 = pos.val := by have := imm.isLt; omega
  have h2 : BitVec.ofNat 20 (pos.val * 2 ^ 20 + imm.toNat) = imm := by
    apply BitVec.eq_of_toNat_eq
    have := imm.isLt
    rw [BitVec.toNat_ofNat]
    omega
  refine (hk _).trans ?_
  rw [h1, h2]
  simp [req]

theorem liFactor (d : SReg) (slot : Fin 64) (scale : BitVec 22) : Statement (.liFactor d slot scale) :=
  of_fields (fit_I (by decide) d.isLt (by decide) (by have := slot.isLt; have := scale.isLt; omega)) <|
    Eq.trans (b := some (.liFactor (reg d) (reg ((slot.val * 2 ^ 22 + scale.toNat) / 2 ^ 22))
      (BitVec.ofNat 22 (slot.val * 2 ^ 22 + scale.toNat)))) rfl (by
      have h1 : (slot.val * 2 ^ 22 + scale.toNat) / 2 ^ 22 = slot.val := by have := scale.isLt; omega
      have h2 : BitVec.ofNat 22 (slot.val * 2 ^ 22 + scale.toNat) = scale := by
        apply BitVec.eq_of_toNat_eq
        have := scale.isLt
        rw [BitVec.toNat_ofNat]
        omega
      rw [h1, h2]
      simp)

theorem addiFactor (d a : SReg) (slot : Fin 64) (scale : BitVec 22) : Statement (.addiFactor d a slot scale) :=
  of_fields (fit_I (by decide) d.isLt a.isLt (by have := slot.isLt; have := scale.isLt; omega)) <|
    Eq.trans (b := some (.addiFactor (reg d) (reg a) (reg ((slot.val * 2 ^ 22 + scale.toNat) / 2 ^ 22))
      (BitVec.ofNat 22 (slot.val * 2 ^ 22 + scale.toNat)))) rfl (by
      have h1 : (slot.val * 2 ^ 22 + scale.toNat) / 2 ^ 22 = slot.val := by have := scale.isLt; omega
      have h2 : BitVec.ofNat 22 (slot.val * 2 ^ 22 + scale.toNat) = scale := by
        apply BitVec.eq_of_toNat_eq
        have := scale.isLt
        rw [BitVec.toNat_ofNat]
        omega
      rw [h1, h2]
      simp)

theorem bCond (c : Cond) (a b : SReg) (off : BitVec 24) : Statement (.bCond c a b off) := by
  refine of_fields (i := .bCond c a b off) (fit_mk (by decide) (by decide) a.isLt b.isLt (by decide) (by decide) ?_) ?_
  · have := c.code_lt
    have := off.isLt
    omega
  have hk : ∀ lo, decodeRaw ⟨0x20, 0, a, b, 0, 0, lo⟩ =
    (Cond.ofCode (lo / 2 ^ 24)).bind fun c => some (.bCond c (reg a) (reg b) (BitVec.ofNat 24 lo)) := fun _ => rfl
  have h1 : (c.code * 2 ^ 24 + off.toNat) / 2 ^ 24 = c.code := by have := off.isLt; omega
  have h2 : BitVec.ofNat 24 (c.code * 2 ^ 24 + off.toNat) = off := by
    apply BitVec.eq_of_toNat_eq
    have := off.isLt
    rw [BitVec.toNat_ofNat]
    omega
  refine (hk _).trans ?_
  rw [h1, Cond.ofCode_code, Option.bind_some, h2]
  simp

theorem j (imm : BitVec 28) : Statement (.j imm) :=
  of_fields (fit_I (by decide) (by decide) (by decide) imm.isLt) <|
    Eq.trans (b := some (.j (BitVec.ofNat 28 imm.toNat))) rfl (by simp [BitVec.ofNat_toNat])

theorem jl (imm : BitVec 28) : Statement (.jl imm) :=
  of_fields (fit_I (by decide) (by decide) (by decide) imm.isLt) <|
    Eq.trans (b := some (.jl (BitVec.ofNat 28 imm.toNat))) rfl (by simp [BitVec.ofNat_toNat])

theorem jr (d a : SReg) : Statement (.jr d a) :=
  of_fields (fit_R (by decide) d.isLt a.isLt (by decide) (by decide) (by decide) (by decide)) <|
    Eq.trans (raw_R (by decide) (by decide) (k := fun r =>
      req ((0 == 0 && r.untyped && r.func == 0) && r.xmod == 0 && 0 == 0 && 0 == 0) (some (.jr (reg d) (reg a)))) fun _ => rfl)
      (by simp [req, RLow.untyped])

theorem nop : Statement (.nop) :=
  of_fields (fit_R (by decide) (by decide) (by decide) (by decide) (by decide) (by decide) (by decide)) <|
    Eq.trans (raw_R (by decide) (by decide) (k := fun r =>
      req ((0 == 0 && r.untyped && r.func == 0) && r.xmod == 0 && 0 == 0 && 0 == 0 && 0 == 0 && 0 == 0) (some .nop)) fun _ => rfl)
      (by simp [req, RLow.untyped])

theorem brk (tag : Fin 512) : Statement (.brk tag) :=
  of_fields (fit_R (by decide) (by decide) (by decide) (by decide) (by decide) (by decide) tag.isLt) <|
    Eq.trans (raw_R (by decide) tag.isLt (k := fun r =>
      req ((0 == 0 && r.untyped && r.func == 0) && 0 == 0 && 0 == 0 && 0 == 0 && 0 == 0) (some (.brk (Fin.ofNat 512 r.xmod)))) fun _ => rfl)
      (by simp [req, RLow.untyped])

theorem trap (n : Fin 32) (a b : SReg) : Statement (.trap n a b) := by
  refine of_fields (i := .trap n a b) (fit_mk (by decide) (by decide) a.isLt b.isLt (by decide) (by decide) ?_) ?_
  · have := n.isLt
    omega
  have hk : ∀ lo, decodeRaw ⟨0x26, 0, a, b, 0, 0, lo⟩ = req (lo < 32) (some (.trap (Fin.ofNat 32 lo) (reg a) (reg b))) :=
    fun _ => rfl
  exact (hk _).trans (by simp [req])

theorem yieldTo (d : SReg) : Statement (.yieldTo d) :=
  of_fields (fit_R (by decide) d.isLt (by decide) (by decide) (by decide) (by decide) (by decide)) <|
    Eq.trans (raw_R (by decide) (by decide) (k := fun r =>
      req ((0 == 0 && r.untyped && r.func == 0) && r.xmod == 0 && 0 == 0 && 0 == 0 && 0 == 0) (some (.yieldTo (reg d)))) fun _ => rfl)
      (by simp [req, RLow.untyped])

theorem endStrand (mask : BitVec 4) : Statement (.endStrand mask) :=
  of_fields (fit_I (by decide) (by decide) (by decide) (by have := mask.isLt; omega)) <|
    Eq.trans (b := req (mask.toNat < 16) (some (.endStrand (BitVec.ofNat 4 mask.toNat)))) rfl (by simp [req, mask.isLt])

theorem feat (d : SReg) (id : BitVec 16) : Statement (.feat d id) :=
  of_fields (fit_I (by decide) d.isLt (by decide) (by have := id.isLt; omega)) <|
    Eq.trans (b := req (id.toNat < 2 ^ 16) (some (.feat (reg d) (BitVec.ofNat 16 id.toNat)))) rfl (by simp [req, id.isLt])

theorem fence (order : Order) (scope : Scope) : Statement (.fence order scope) := by
  have hf : MLow.Fit ⟨0, order.code, scope.code, 0, 0, 0⟩ :=
    ⟨by simp, order.code_lt, scope.code_lt, by simp, by simp, by simp⟩
  refine of_fields (i := .fence order scope)
    (fit_mk (by decide) (by decide) (by decide) (by decide) (by decide) (by decide) (joinM_lt hf)) ?_
  have hk : ∀ lo, decodeRaw ⟨0x30, 0, 0, 0, 0, 0, lo⟩ =
    (Order.ofCode (splitM lo).order).bind fun o => (Scope.ofCode (splitM lo).scope).bind fun s =>
      req ((0 == 0 && (0 == 0 && 0 == 0 && 0 == 0 && 0 == 0)) && (splitM lo).space == 0 && (splitM lo).bp == 0 &&
        (splitM lo).det == 0 && (splitM lo).off == 0) (some (.fence o s)) := fun _ => rfl
  refine (hk _).trans ?_
  rw [splitM_joinM hf]
  simp [req]

theorem bar (k : Fin 16) : Statement (.bar k) :=
  of_fields (fit_I (by decide) (by decide) (by decide) (by have := k.isLt; omega)) <|
    Eq.trans (b := req (k.val < 16) (some (.bar (Fin.ofNat 16 k.val)))) rfl (by simp [req])

theorem bara (k : Fin 16) : Statement (.bara k) :=
  of_fields (fit_I (by decide) (by decide) (by decide) (by have := k.isLt; omega)) <|
    Eq.trans (b := req (k.val < 16) (some (.bara (Fin.ofNat 16 k.val)))) rfl (by simp [req])

theorem barw (k : Fin 16) : Statement (.barw k) :=
  of_fields (fit_I (by decide) (by decide) (by decide) (by have := k.isLt; omega)) <|
    Eq.trans (b := req (k.val < 16) (some (.barw (Fin.ofNat 16 k.val)))) rfl (by simp [req])

theorem waitcR (ch : Chan) (a : SReg) : Statement (.waitcR ch a) := by
  refine of_fields (fit_R (by decide) (by decide) a.isLt (by decide) (by decide) (by decide) ?_) ?_
  · have := ch.code_lt
    omega
  have h1 : (ch.code * 2) / 2 = ch.code := by omega
  have h2 : (ch.code * 2) % 2 = 0 := by omega
  refine (raw_R (by decide) (by have := ch.code_lt; omega) (k := fun r => (Chan.ofCode (r.xmod / 2)).bind fun ch =>
    req ((0 == 0 && r.untyped) && r.func == 0 && 0 == 0 && 0 == 0 && 0 == 0)
      (some (if r.xmod % 2 == 0 then .waitcR ch (reg a) else .waitcV ch (reg a)))) fun _ => rfl).trans ?_
  simp [req, RLow.untyped, h1, h2]

theorem waitcV (ch : Chan) (a : SReg) : Statement (.waitcV ch a) := by
  refine of_fields (fit_R (by decide) (by decide) a.isLt (by decide) (by decide) (by decide) ?_) ?_
  · have := ch.code_lt
    omega
  have h1 : (ch.code * 2 + 1) / 2 = ch.code := by omega
  have h2 : (ch.code * 2 + 1) % 2 = 1 := by omega
  refine (raw_R (by decide) (by have := ch.code_lt; omega) (k := fun r => (Chan.ofCode (r.xmod / 2)).bind fun ch =>
    req ((0 == 0 && r.untyped) && r.func == 0 && 0 == 0 && 0 == 0 && 0 == 0)
      (some (if r.xmod % 2 == 0 then .waitcR ch (reg a) else .waitcV ch (reg a)))) fun _ => rfl).trans ?_
  simp [req, RLow.untyped, h1, h2]

theorem waitr (d : SReg) (q : QReg) (b : SReg) : Statement (.waitr d q b) :=
  of_fields (fit_R (by decide) d.isLt (by have := q.isLt; omega) b.isLt (by decide) (by decide) (by decide)) <|
    Eq.trans (raw_R (by decide) (by decide) (k := fun r =>
      (qreg q).bind fun q => req ((0 == 0 && r.untyped && r.func == 0 && r.xmod == 0) && 0 == 0) (some (.waitr (reg d) q (reg b)))) fun _ => rfl)
      (by simp [req, RLow.untyped])

theorem waite (mask : BitVec 4) : Statement (.waite mask) :=
  of_fields (fit_R (by decide) (by decide) (by decide) (by decide) (by decide) (by decide) (by have := mask.isLt; omega)) <|
    Eq.trans (raw_R (by decide) (by have := mask.isLt; omega) (k := fun r =>
      req ((0 == 0 && r.untyped) && r.func == 0 && r.xmod < 16 && (0 == 0 && 0 == 0 && 0 == 0 && 0 == 0)) (some (.waite (BitVec.ofNat 4 r.xmod)))) fun _ => rfl)
      (by simp [req, RLow.untyped, mask.isLt])

theorem popq (d : SReg) (q : QReg) : Statement (.popq d q) :=
  of_fields (fit_R (by decide) d.isLt (by have := q.isLt; omega) (by decide) (by decide) (by decide) (by decide)) <|
    Eq.trans (raw_R (by decide) (by decide) (k := fun r =>
      (qreg q).bind fun q => req ((0 == 0 && r.untyped) && r.xmod == 0 && r.func < 2 && 0 == 0 && 0 == 0) (some (if r.func == 0 then .popq (reg d) q else .peekq (reg d) q))) fun _ => rfl)
      (by simp [req, RLow.untyped])

theorem peekq (d : SReg) (q : QReg) : Statement (.peekq d q) :=
  of_fields (fit_R (by decide) d.isLt (by have := q.isLt; omega) (by decide) (by decide) (by decide) (by decide)) <|
    Eq.trans (raw_R (by decide) (by decide) (k := fun r =>
      (qreg q).bind fun q => req ((0 == 0 && r.untyped) && r.xmod == 0 && r.func < 2 && 0 == 0 && 0 == 0) (some (if r.func == 0 then .popq (reg d) q else .peekq (reg d) q))) fun _ => rfl)
      (by simp [req, RLow.untyped])

theorem launch (d a b : SReg) : Statement (.launch d a b) :=
  of_fields (fit_R (by decide) d.isLt a.isLt b.isLt (by decide) (by decide) (by decide)) <|
    Eq.trans (raw_R (by decide) (by decide) (k := fun r =>
      req ((0 == 0 && r.untyped && r.func == 0 && r.xmod == 0) && 0 == 0) (some (.launch (reg d) (reg a) (reg b)))) fun _ => rfl)
      (by simp [req, RLow.untyped])

theorem siginc (d a b : SReg) : Statement (.siginc d a b) :=
  of_fields (fit_R (by decide) d.isLt a.isLt b.isLt (by decide) (by decide) (by decide)) <|
    Eq.trans (raw_R (by decide) (by decide) (k := fun r =>
      req ((0 == 0 && r.untyped && r.func == 0 && r.xmod == 0) && 0 == 0) (some (.siginc (reg d) (reg a) (reg b)))) fun _ => rfl)
      (by simp [req, RLow.untyped])

theorem rdid (d : SReg) (sel : BitVec 8) : Statement (.rdid d sel) := by
  have h := sel.isLt
  have e : (0 * 2 ^ 20 + sel.toNat) = sel.toNat := by omega
  refine of_fields (fit_I20 (by decide) d.isLt (by decide) (by decide) (by omega)) ?_
  refine Eq.trans (b := req (decide (0 * 2 ^ 20 + sel.toNat < 2 ^ 20) && 0 * 2 ^ 20 + sel.toNat < 256)
    (some (.rdid (reg d) (BitVec.ofNat 8 (0 * 2 ^ 20 + sel.toNat))))) ?_ ?_
  · simp only [e]
    refine Eq.trans (b := req ((decide (0 * 2 ^ 20 + sel.toNat < 2 ^ 20)) && 0 == 0 && 0 * 2 ^ 20 + sel.toNat < 256)
      (some (.rdid (reg d) (BitVec.ofNat 8 (0 * 2 ^ 20 + sel.toNat))))) rfl ?_
    simp
  · rw [e]
    simp [req, h]
    omega

theorem rdctl (d : SReg) (r : CtlReg) : Statement (.rdctl d r) := by
  refine of_fields (fit_I20 (by decide) d.isLt (by decide) (by decide) ?_) ?_
  · cases r <;> decide
  · cases r <;> exact Eq.trans (b := some (.rdctl (reg d) _)) rfl (by simp)

theorem wrctl (r : CtlReg) (a : SReg) : Statement (.wrctl r a) := by
  refine of_fields (fit_I20 (by decide) (by decide) a.isLt (by decide) ?_) ?_
  · cases r <;> decide
  · cases r <;> exact Eq.trans (b := some (.wrctl _ (reg a))) rfl (by simp)

theorem tdnarrow (slot : Fin 64) (a : SReg) (tdi : BitVec 16) : Statement (.tdnarrow slot a tdi) :=
  of_fields (fit_X (by decide) slot.isLt a.isLt (by decide) (by decide) tdi.isLt (by decide) (by decide)) <|
    Eq.trans (raw_X tdi.isLt (by decide) (by decide) (k := fun x =>
      req ((0 == 0 && x.rpy == 0 && x.rq == 0 && x.scope == 0) && x.flag == 0 && 0 == 0 && 0 == 0) (some (.tdnarrow (reg slot) (reg a) (BitVec.ofNat 16 x.tdi)))) fun _ => rfl)
      (by simp [req, replyBits])

theorem ctxsave (d a b c : SReg) (tdi : BitVec 16) (sealed : Bool) (slot : Fin 64) : Statement (.ctxsave d a b c tdi sealed slot) :=
  of_fields (fit_X (by decide) d.isLt a.isLt b.isLt c.isLt tdi.isLt (by decide) (by have := bit_lt sealed; have := slot.isLt; omega)) <|
    Eq.trans (raw_X tdi.isLt (by decide) (by have := bit_lt sealed; have := slot.isLt; omega) (k := fun x =>
      req (0 == 0 && x.rpy == 0 && x.rq == 0 && x.scope == 0) (some (.ctxsave (reg d) (reg a) (reg b) (reg c) (BitVec.ofNat 16 x.tdi) (x.flag % 2 == 1) (reg (x.flag / 2))))) fun _ => rfl)
      (by 
        have h1 : (slot.val * 2 + bit sealed) % 2 = bit sealed := by have := bit_lt sealed; omega
        have h2 : (slot.val * 2 + bit sealed) / 2 = slot.val := by have := bit_lt sealed; omega
        simp [req, replyBits, h1, h2])

theorem ctxload (tdi : BitVec 16) (sealed : Bool) (slot : Fin 64) : Statement (.ctxload tdi sealed slot) :=
  of_fields (fit_X (by decide) (by decide) (by decide) (by decide) (by decide) tdi.isLt (by decide) (by have := bit_lt sealed; have := slot.isLt; omega)) <|
    Eq.trans (raw_X tdi.isLt (by decide) (by have := bit_lt sealed; have := slot.isLt; omega) (k := fun x =>
      req ((0 == 0 && x.rpy == 0 && x.rq == 0 && x.scope == 0) && (0 == 0 && 0 == 0 && 0 == 0 && 0 == 0)) (some (.ctxload (BitVec.ofNat 16 x.tdi) (x.flag % 2 == 1) (reg (x.flag / 2))))) fun _ => rfl)
      (by 
        have h1 : (slot.val * 2 + bit sealed) % 2 = bit sealed := by have := bit_lt sealed; omega
        have h2 : (slot.val * 2 + bit sealed) / 2 = slot.val := by have := bit_lt sealed; omega
        simp [req, replyBits, h1, h2])

theorem reservedEncoding (w : Word) : Statement (.reservedEncoding w) :=
  fun _ _ h => absurd rfl (h w)

theorem vsetvl (d a : SReg) (t : Fmt) (max : Bool) : Statement (.vsetvl d a t max) := by
  have hf : RLow.Fit ⟨0, t.code, 0, 0, 0, 0, bit max⟩ :=
    ⟨by simp, Nat.lt_trans t.code_lt (by decide), by simp, by simp, by simp, by simp, Nat.lt_trans (bit_lt max) (by decide)⟩
  refine of_fields (i := .vsetvl d a t max) (fit_mk (by decide) d.isLt (a.isLt) (by decide) (by decide) (by decide) (joinR_lt hf)) ?_
  have hk : ∀ lo, decodeRaw ⟨64, d, a, 0, 0, 0, lo⟩ = (Fmt.ofCode (splitR lo).ty).bind fun t =>
      req ((0 == 0 && (splitR lo).rnd == 0 && (splitR lo).sat == 0 && (splitR lo).nsat == 0 && (splitR lo).ginv == 0 && (splitR lo).func == 0 && 0 == 0 && 0 == 0) && (splitR lo).xmod < 2) (some (.vsetvl (reg d) (reg a) t ((splitR lo).xmod == 1))) := fun _ => rfl
  exact (hk _).trans (by rw [splitR_joinR hf]; simp [req])

theorem vadd (d a b : VReg) (m : VMod) (g : Guard) : Statement (.vadd d a b m g) :=
  of_fields (fit_V (by decide) d.isLt a.isLt b.isLt (by decide) (by decide) (by decide)) <|
    Eq.trans (raw_V (x := some (.vadd (reg d) (reg a) (reg b) m ⟨Fin.ofNat 16 g.p, bit g.inv == 1⟩))
      (by decide) (by decide) (fun _ => rfl) (fun _ => rfl)) (by simp)

theorem vsub (d a b : VReg) (m : VMod) (g : Guard) : Statement (.vsub d a b m g) :=
  of_fields (fit_V (by decide) d.isLt a.isLt b.isLt (by decide) (by decide) (by decide)) <|
    Eq.trans (raw_V (x := some (.vsub (reg d) (reg a) (reg b) m ⟨Fin.ofNat 16 g.p, bit g.inv == 1⟩))
      (by decide) (by decide) (fun _ => rfl) (fun _ => rfl)) (by simp)

theorem vmul (d a b : VReg) (m : VMod) (g : Guard) : Statement (.vmul d a b m g) :=
  of_fields (fit_V (by decide) d.isLt a.isLt b.isLt (by decide) (by decide) (by decide)) <|
    Eq.trans (raw_V (x := some (.vmul (reg d) (reg a) (reg b) m ⟨Fin.ofNat 16 g.p, bit g.inv == 1⟩))
      (by decide) (by decide) (fun _ => rfl) (fun _ => rfl)) (by simp)

theorem vfma (d a b c : VReg) (m : VMod) (g : Guard) : Statement (.vfma d a b c m g) :=
  of_fields (fit_V (by decide) d.isLt a.isLt b.isLt c.isLt (by decide) (by decide)) <|
    Eq.trans (raw_V (x := some (.vfma (reg d) (reg a) (reg b) (reg c) m ⟨Fin.ofNat 16 g.p, bit g.inv == 1⟩))
      (by decide) (by decide) (fun _ => rfl) (fun _ => rfl)) (by simp)

theorem vmin (d a b : VReg) (m : VMod) (g : Guard) : Statement (.vmin d a b m g) :=
  of_fields (fit_V (by decide) d.isLt a.isLt b.isLt (by decide) (by decide) (by decide)) <|
    Eq.trans (raw_V (x := some (.vmin (reg d) (reg a) (reg b) m ⟨Fin.ofNat 16 g.p, bit g.inv == 1⟩))
      (by decide) (by decide) (fun _ => rfl) (fun _ => rfl)) (by simp)

theorem vmax (d a b : VReg) (m : VMod) (g : Guard) : Statement (.vmax d a b m g) :=
  of_fields (fit_V (by decide) d.isLt a.isLt b.isLt (by decide) (by decide) (by decide)) <|
    Eq.trans (raw_V (x := some (.vmax (reg d) (reg a) (reg b) m ⟨Fin.ofNat 16 g.p, bit g.inv == 1⟩))
      (by decide) (by decide) (fun _ => rfl) (fun _ => rfl)) (by simp)

theorem vabs (d a : VReg) (m : VMod) (g : Guard) : Statement (.vabs d a m g) :=
  of_fields (fit_V (by decide) d.isLt a.isLt (by decide) (by decide) (by decide) (by decide)) <|
    Eq.trans (raw_V (x := some (.vabs (reg d) (reg a) m ⟨Fin.ofNat 16 g.p, bit g.inv == 1⟩))
      (by decide) (by decide) (fun _ => rfl) (fun _ => rfl)) (by simp)

theorem vneg (d a : VReg) (m : VMod) (g : Guard) : Statement (.vneg d a m g) :=
  of_fields (fit_V (by decide) d.isLt a.isLt (by decide) (by decide) (by decide) (by decide)) <|
    Eq.trans (raw_V (x := some (.vneg (reg d) (reg a) m ⟨Fin.ofNat 16 g.p, bit g.inv == 1⟩))
      (by decide) (by decide) (fun _ => rfl) (fun _ => rfl)) (by simp)

theorem vand (d a b : VReg) (m : VMod) (g : Guard) : Statement (.vand d a b m g) :=
  of_fields (fit_V (by decide) d.isLt a.isLt b.isLt (by decide) (by decide) (by decide)) <|
    Eq.trans (raw_V (x := some (.vand (reg d) (reg a) (reg b) m ⟨Fin.ofNat 16 g.p, bit g.inv == 1⟩))
      (by decide) (by decide) (fun _ => rfl) (fun _ => rfl)) (by simp)

theorem vor (d a b : VReg) (m : VMod) (g : Guard) : Statement (.vor d a b m g) :=
  of_fields (fit_V (by decide) d.isLt a.isLt b.isLt (by decide) (by decide) (by decide)) <|
    Eq.trans (raw_V (x := some (.vor (reg d) (reg a) (reg b) m ⟨Fin.ofNat 16 g.p, bit g.inv == 1⟩))
      (by decide) (by decide) (fun _ => rfl) (fun _ => rfl)) (by simp)

theorem vxor (d a b : VReg) (m : VMod) (g : Guard) : Statement (.vxor d a b m g) :=
  of_fields (fit_V (by decide) d.isLt a.isLt b.isLt (by decide) (by decide) (by decide)) <|
    Eq.trans (raw_V (x := some (.vxor (reg d) (reg a) (reg b) m ⟨Fin.ofNat 16 g.p, bit g.inv == 1⟩))
      (by decide) (by decide) (fun _ => rfl) (fun _ => rfl)) (by simp)

theorem vshl (d a b : VReg) (s : Bool) (m : VMod) (g : Guard) : Statement (.vshl d a b s m g) :=
  of_fields (fit_V (by decide) d.isLt a.isLt b.isLt (by decide) (by decide) (by have := bit_lt s; omega)) <|
    Eq.trans (raw_V (x := req (bit s < 2 && 0 == 0) (some (.vshl (reg d) (reg a) (reg b) (bit s % 2 == 1) m ⟨Fin.ofNat 16 g.p, bit g.inv == 1⟩)))
      (by decide) (by have := bit_lt s; omega) (fun _ => rfl) (fun _ => rfl)) (by simp [req, Nat.mod_eq_of_lt (bit_lt s)])

theorem vshr (d a b : VReg) (s : Bool) (m : VMod) (g : Guard) : Statement (.vshr d a b s m g) :=
  of_fields (fit_V (by decide) d.isLt a.isLt b.isLt (by decide) (by decide) (by have := bit_lt s; omega)) <|
    Eq.trans (raw_V (x := req (bit s < 2 && 0 == 0) (some (.vshr (reg d) (reg a) (reg b) (bit s % 2 == 1) m ⟨Fin.ofNat 16 g.p, bit g.inv == 1⟩)))
      (by decide) (by have := bit_lt s; omega) (fun _ => rfl) (fun _ => rfl)) (by simp [req, Nat.mod_eq_of_lt (bit_lt s)])

theorem vsra (d a b : VReg) (s : Bool) (m : VMod) (g : Guard) : Statement (.vsra d a b s m g) :=
  of_fields (fit_V (by decide) d.isLt a.isLt b.isLt (by decide) (by decide) (by have := bit_lt s; omega)) <|
    Eq.trans (raw_V (x := req (bit s < 2 && 0 == 0) (some (.vsra (reg d) (reg a) (reg b) (bit s % 2 == 1) m ⟨Fin.ofNat 16 g.p, bit g.inv == 1⟩)))
      (by decide) (by have := bit_lt s; omega) (fun _ => rfl) (fun _ => rfl)) (by simp [req, Nat.mod_eq_of_lt (bit_lt s)])

theorem vcmp (cond : VCond) (d : PReg) (a b : VReg) (m : VMod) (g : Guard) : Statement (.vcmp cond d a b m g) :=
  of_fields (fit_V (by decide) (by have := d.isLt; omega) a.isLt b.isLt (by decide) (by have := cond.code_lt; omega) (by decide)) <|
    Eq.trans (raw_V (x := (VCond.ofCode cond.code).bind fun e => (preg d).bind fun p => some (.vcmp e p (reg a) (reg b) m ⟨Fin.ofNat 16 g.p, bit g.inv == 1⟩))
      (by have := cond.code_lt; omega) (by decide) (fun _ => rfl) (fun _ => rfl)) (by simp)

theorem vsel (d a b : VReg) (c : PReg) (m : VMod) (g : Guard) : Statement (.vsel d a b c m g) :=
  of_fields (fit_V (by decide) d.isLt a.isLt b.isLt (by have := c.isLt; omega) (by decide) (by decide)) <|
    Eq.trans (raw_V (x := (preg c).bind fun p => some (.vsel (reg d) (reg a) (reg b) p m ⟨Fin.ofNat 16 g.p, bit g.inv == 1⟩))
      (by decide) (by decide) (fun _ => rfl) (fun _ => rfl)) (by simp)

theorem vbcast (d a b : VReg) (lane : Bool) (m : VMod) (g : Guard) : Statement (.vbcast d a b lane m g) :=
  of_fields (fit_V (by decide) d.isLt a.isLt b.isLt (by decide) (by decide) (by have := bit_lt lane; omega)) <|
    Eq.trans (raw_V (x := req (bit lane < 2 && 0 == 0) (some (.vbcast (reg d) (reg a) (reg b) (bit lane % 2 == 1) m ⟨Fin.ofNat 16 g.p, bit g.inv == 1⟩)))
      (by decide) (by have := bit_lt lane; omega) (fun _ => rfl) (fun _ => rfl)) (by simp [req, Nat.mod_eq_of_lt (bit_lt lane)])

theorem vext (d : SReg) (a : VReg) (b : SReg) (m : VMod) (g : Guard) : Statement (.vext d a b m g) :=
  of_fields (fit_V (by decide) d.isLt a.isLt b.isLt (by decide) (by decide) (by decide)) <|
    Eq.trans (raw_V (x := some (.vext (reg d) (reg a) (reg b) m ⟨Fin.ofNat 16 g.p, bit g.inv == 1⟩))
      (by decide) (by decide) (fun _ => rfl) (fun _ => rfl)) (by simp)

theorem viota (d : VReg) (pre : Bool) (m : VMod) (g : Guard) : Statement (.viota d pre m g) :=
  of_fields (fit_V (by decide) d.isLt (by decide) (by decide) (by decide) (by decide) (by have := bit_lt pre; omega)) <|
    Eq.trans (raw_V (x := req ((bit pre < 2 && 0 == 0) && 0 == 0 && 0 == 0) (some (.viota (reg d) (bit pre % 2 == 1) m ⟨Fin.ofNat 16 g.p, bit g.inv == 1⟩)))
      (by decide) (by have := bit_lt pre; omega) (fun _ => rfl) (fun _ => rfl)) (by simp [req, Nat.mod_eq_of_lt (bit_lt pre)])

theorem vperm (d a b : VReg) (m : VMod) (g : Guard) : Statement (.vperm d a b m g) :=
  of_fields (fit_V (by decide) d.isLt a.isLt b.isLt (by decide) (by decide) (by decide)) <|
    Eq.trans (raw_V (x := some (.vperm (reg d) (reg a) (reg b) m ⟨Fin.ofNat 16 g.p, bit g.inv == 1⟩))
      (by decide) (by decide) (fun _ => rfl) (fun _ => rfl)) (by simp)

theorem vcompress (d a : VReg) (m : VMod) (g : Guard) : Statement (.vcompress d a m g) :=
  of_fields (fit_V (by decide) d.isLt a.isLt (by decide) (by decide) (by decide) (by decide)) <|
    Eq.trans (raw_V (x := some (.vcompress (reg d) (reg a) m ⟨Fin.ofNat 16 g.p, bit g.inv == 1⟩))
      (by decide) (by decide) (fun _ => rfl) (fun _ => rfl)) (by simp)

theorem vexpand (d a : VReg) (m : VMod) (g : Guard) : Statement (.vexpand d a m g) :=
  of_fields (fit_V (by decide) d.isLt a.isLt (by decide) (by decide) (by decide) (by decide)) <|
    Eq.trans (raw_V (x := some (.vexpand (reg d) (reg a) m ⟨Fin.ofNat 16 g.p, bit g.inv == 1⟩))
      (by decide) (by decide) (fun _ => rfl) (fun _ => rfl)) (by simp)

theorem vpopc (d a : VReg) (m : VMod) (g : Guard) : Statement (.vpopc d a m g) :=
  of_fields (fit_V (by decide) d.isLt a.isLt (by decide) (by decide) (by decide) (by decide)) <|
    Eq.trans (raw_V (x := some (.vpopc (reg d) (reg a) m ⟨Fin.ofNat 16 g.p, bit g.inv == 1⟩))
      (by decide) (by decide) (fun _ => rfl) (fun _ => rfl)) (by simp)

theorem vredsum (d a b : VReg) (wide : Bool) (m : VMod) (g : Guard) : Statement (.vredsum d a b wide m g) :=
  of_fields (fit_V (by decide) d.isLt a.isLt b.isLt (by decide) (by decide) (by have := bit_lt wide; omega)) <|
    Eq.trans (raw_V (x := req (bit wide < 2 && 0 == 0) (some (.vredsum (reg d) (reg a) (reg b) (bit wide % 2 == 1) m ⟨Fin.ofNat 16 g.p, bit g.inv == 1⟩)))
      (by decide) (by have := bit_lt wide; omega) (fun _ => rfl) (fun _ => rfl)) (by simp [req, Nat.mod_eq_of_lt (bit_lt wide)])

theorem vredmax (d a b : VReg) (m : VMod) (g : Guard) : Statement (.vredmax d a b m g) :=
  of_fields (fit_V (by decide) d.isLt a.isLt b.isLt (by decide) (by decide) (by decide)) <|
    Eq.trans (raw_V (x := some (.vredmax (reg d) (reg a) (reg b) m ⟨Fin.ofNat 16 g.p, bit g.inv == 1⟩))
      (by decide) (by decide) (fun _ => rfl) (fun _ => rfl)) (by simp)

theorem vredmin (d a b : VReg) (m : VMod) (g : Guard) : Statement (.vredmin d a b m g) :=
  of_fields (fit_V (by decide) d.isLt a.isLt b.isLt (by decide) (by decide) (by decide)) <|
    Eq.trans (raw_V (x := some (.vredmin (reg d) (reg a) (reg b) m ⟨Fin.ofNat 16 g.p, bit g.inv == 1⟩))
      (by decide) (by decide) (fun _ => rfl) (fun _ => rfl)) (by simp)

theorem vscan (op : ScanOp) (d a b : VReg) (excl : Bool) (m : VMod) (g : Guard) : Statement (.vscan op d a b excl m g) :=
  of_fields (fit_V (by decide) d.isLt a.isLt b.isLt (by decide) (by have := op.code_lt; omega) (by have := bit_lt excl; omega)) <|
    Eq.trans (raw_V (x := (ScanOp.ofCode op.code).bind fun e => req (((bit excl * 2 == 0) || (bit excl * 2 == 2)) && 0 == 0) (some (.vscan e (reg d) (reg a) (reg b) (bit excl * 2 == 2) m ⟨Fin.ofNat 16 g.p, bit g.inv == 1⟩)))
      (by have := op.code_lt; omega) (by have := bit_lt excl; omega) (fun _ => rfl) (fun _ => rfl)) (by simp only [guard_eta]; cases excl <;> simp [req, bit])

theorem vcvt (d a c : VReg) (ts : Fmt) (part : Fin 16) (blk : Fin 4) (m : VMod) (g : Guard) : Statement (.vcvt d a c ts part blk m g) :=
  of_fields (fit_V (by decide) d.isLt a.isLt (by have := blk.isLt; omega) c.isLt (by decide) (by have := ts.code_lt; have := part.isLt; omega)) <|
    Eq.trans (raw_V (x := (Fmt.ofCode ((part.val * 32 + ts.code) % 32)).bind fun e => req ((0 == 0) && blk.val < 4) (some (.vcvt (reg d) (reg a) (reg c) e (Fin.ofNat 16 ((part.val * 32 + ts.code) / 32)) (Fin.ofNat 4 blk.val) m ⟨Fin.ofNat 16 g.p, bit g.inv == 1⟩)))
      (by decide) (by have := ts.code_lt; have := part.isLt; omega) (fun _ => rfl) (fun _ => rfl)) (by 
      have h1 : (part.val * 32 + ts.code) % 32 = ts.code := by have := ts.code_lt; omega
      have h2 : (part.val * 32 + ts.code) / 32 = part.val := by have := ts.code_lt; omega
      simp [req, h1, h2])

theorem vcvtds (d a c : VReg) (ts : Fmt) (part : Fin 16) (blk : Fin 4) (m : VMod) (g : Guard) : Statement (.vcvtds d a c ts part blk m g) :=
  of_fields (fit_V (by decide) d.isLt a.isLt (by have := blk.isLt; omega) c.isLt (by decide) (by have := ts.code_lt; have := part.isLt; omega)) <|
    Eq.trans (raw_V (x := (Fmt.ofCode ((part.val * 32 + ts.code) % 32)).bind fun e => req ((0 == 0) && blk.val < 4) (some (.vcvtds (reg d) (reg a) (reg c) e (Fin.ofNat 16 ((part.val * 32 + ts.code) / 32)) (Fin.ofNat 4 blk.val) m ⟨Fin.ofNat 16 g.p, bit g.inv == 1⟩)))
      (by decide) (by have := ts.code_lt; have := part.isLt; omega) (fun _ => rfl) (fun _ => rfl)) (by 
      have h1 : (part.val * 32 + ts.code) % 32 = ts.code := by have := ts.code_lt; omega
      have h2 : (part.val * 32 + ts.code) / 32 = part.val := by have := ts.code_lt; omega
      simp [req, h1, h2])

theorem vrecip (d a : VReg) (m : VMod) (g : Guard) : Statement (.vrecip d a m g) :=
  of_fields (fit_V (by decide) d.isLt a.isLt (by decide) (by decide) (by decide) (by decide)) <|
    Eq.trans (raw_V (x := some (.vrecip (reg d) (reg a) m ⟨Fin.ofNat 16 g.p, bit g.inv == 1⟩))
      (by decide) (by decide) (fun _ => rfl) (fun _ => rfl)) (by simp)

theorem vrsqrt (d a : VReg) (m : VMod) (g : Guard) : Statement (.vrsqrt d a m g) :=
  of_fields (fit_V (by decide) d.isLt a.isLt (by decide) (by decide) (by decide) (by decide)) <|
    Eq.trans (raw_V (x := some (.vrsqrt (reg d) (reg a) m ⟨Fin.ofNat 16 g.p, bit g.inv == 1⟩))
      (by decide) (by decide) (fun _ => rfl) (fun _ => rfl)) (by simp)

theorem vexp2 (d a : VReg) (m : VMod) (g : Guard) : Statement (.vexp2 d a m g) :=
  of_fields (fit_V (by decide) d.isLt a.isLt (by decide) (by decide) (by decide) (by decide)) <|
    Eq.trans (raw_V (x := some (.vexp2 (reg d) (reg a) m ⟨Fin.ofNat 16 g.p, bit g.inv == 1⟩))
      (by decide) (by decide) (fun _ => rfl) (fun _ => rfl)) (by simp)

theorem vlog2 (d a : VReg) (m : VMod) (g : Guard) : Statement (.vlog2 d a m g) :=
  of_fields (fit_V (by decide) d.isLt a.isLt (by decide) (by decide) (by decide) (by decide)) <|
    Eq.trans (raw_V (x := some (.vlog2 (reg d) (reg a) m ⟨Fin.ofNat 16 g.p, bit g.inv == 1⟩))
      (by decide) (by decide) (fun _ => rfl) (fun _ => rfl)) (by simp)

theorem vladd (d a b : VReg) (m : VMod) (g : Guard) : Statement (.vladd d a b m g) :=
  of_fields (fit_V (by decide) d.isLt a.isLt b.isLt (by decide) (by decide) (by decide)) <|
    Eq.trans (raw_V (x := some (.vladd (reg d) (reg a) (reg b) m ⟨Fin.ofNat 16 g.p, bit g.inv == 1⟩))
      (by decide) (by decide) (fun _ => rfl) (fun _ => rfl)) (by simp)

theorem vlsub (d a b : VReg) (m : VMod) (g : Guard) : Statement (.vlsub d a b m g) :=
  of_fields (fit_V (by decide) d.isLt a.isLt b.isLt (by decide) (by decide) (by decide)) <|
    Eq.trans (raw_V (x := some (.vlsub (reg d) (reg a) (reg b) m ⟨Fin.ofNat 16 g.p, bit g.inv == 1⟩))
      (by decide) (by decide) (fun _ => rfl) (fun _ => rfl)) (by simp)

theorem ldct (tdi : BitVec 16) : Statement (.ldct tdi) :=
  of_fields (fit_X (by decide) (by decide) (by decide) (by decide) (by decide) tdi.isLt (by decide) (by decide)) <|
    Eq.trans (raw_X tdi.isLt (by decide) (by decide) (k := fun x =>
      req (0 == 0 && 0 == 0 && 0 == 0 && 0 == 0 && 0 == 0 && x.rpy == 0 && x.rq == 0 && x.scope == 0 && x.flag < 2 && (x.flag == 0 || x.tdi == 0)) (some (if x.flag == 0 then .ldct (BitVec.ofNat 16 x.tdi) else .ldctReset))) fun _ => rfl)
      (by simp [req, replyBits])

theorem ldctReset : Statement (.ldctReset) :=
  of_fields (fit_X (by decide) (by decide) (by decide) (by decide) (by decide) (by decide) (by decide) (by decide)) <|
    Eq.trans (raw_X (by decide) (by decide) (by decide) (k := fun x =>
      req (0 == 0 && 0 == 0 && 0 == 0 && 0 == 0 && 0 == 0 && x.rpy == 0 && x.rq == 0 && x.scope == 0 && x.flag < 2 && (x.flag == 0 || x.tdi == 0)) (some (if x.flag == 0 then .ldct (BitVec.ofNat 16 x.tdi) else .ldctReset))) fun _ => rfl)
      (by simp [req, replyBits])

theorem pand (d a b : PReg) : Statement (.pand d a b) :=
  of_fields (fit_R (by decide) (by have := d.isLt; omega) (by have := a.isLt; omega) (by have := b.isLt; omega) (by decide) (by decide) (by decide)) <|
    Eq.trans (raw_R (by decide) (by decide) (k := fun r =>
      (preg d).bind fun pd => (preg a).bind fun pa => (preg b).bind fun pb => req (0 == 0 && r.untyped && r.func == 0 && r.xmod == 0 && 0 == 0) (some (.pand pd pa pb))) fun _ => rfl)
      (by simp [req, RLow.untyped])

theorem por (d a b : PReg) : Statement (.por d a b) :=
  of_fields (fit_R (by decide) (by have := d.isLt; omega) (by have := a.isLt; omega) (by have := b.isLt; omega) (by decide) (by decide) (by decide)) <|
    Eq.trans (raw_R (by decide) (by decide) (k := fun r =>
      (preg d).bind fun pd => (preg a).bind fun pa => (preg b).bind fun pb => req (0 == 0 && r.untyped && r.func == 0 && r.xmod == 0 && 0 == 0) (some (.por pd pa pb))) fun _ => rfl)
      (by simp [req, RLow.untyped])

theorem pxor (d a b : PReg) : Statement (.pxor d a b) :=
  of_fields (fit_R (by decide) (by have := d.isLt; omega) (by have := a.isLt; omega) (by have := b.isLt; omega) (by decide) (by decide) (by decide)) <|
    Eq.trans (raw_R (by decide) (by decide) (k := fun r =>
      (preg d).bind fun pd => (preg a).bind fun pa => (preg b).bind fun pb => req (0 == 0 && r.untyped && r.func == 0 && r.xmod == 0 && 0 == 0) (some (.pxor pd pa pb))) fun _ => rfl)
      (by simp [req, RLow.untyped])

theorem pnot (d a : PReg) : Statement (.pnot d a) :=
  of_fields (fit_R (by decide) (by have := d.isLt; omega) (by have := a.isLt; omega) (by decide) (by decide) (by decide) (by decide)) <|
    Eq.trans (raw_R (by decide) (by decide) (k := fun r =>
      (preg d).bind fun pd => (preg a).bind fun pa => req ((0 == 0 && r.untyped && r.func == 0 && r.xmod == 0 && 0 == 0) && 0 == 0) (some (.pnot pd pa))) fun _ => rfl)
      (by simp [req, RLow.untyped])

theorem pcnt (d : SReg) (a : PReg) (t : Fmt) : Statement (.pcnt d a t) := by
  have hf : RLow.Fit ⟨0, t.code, 0, 0, 0, 0, 0⟩ :=
    ⟨by simp, Nat.lt_trans t.code_lt (by decide), by simp, by simp, by simp, by simp, by simp⟩
  refine of_fields (i := .pcnt d a t) (fit_mk (by decide) d.isLt (by have := a.isLt; omega) (by decide) (by decide) (by decide) (joinR_lt hf)) ?_
  have hk : ∀ lo, decodeRaw ⟨105, d, a, 0, 0, 0, lo⟩ = (Fmt.ofCode (splitR lo).ty).bind fun t => (preg a).bind fun pa =>
      req ((0 == 0 && (splitR lo).rnd == 0 && (splitR lo).sat == 0 && (splitR lo).nsat == 0 && (splitR lo).ginv == 0 && (splitR lo).func == 0 && 0 == 0 && 0 == 0) && (splitR lo).xmod == 0) (some (.pcnt (reg d) pa t)) := fun _ => rfl
  exact (hk _).trans (by rw [splitR_joinR hf]; simp [req])

theorem pfirst (d : SReg) (a : PReg) (t : Fmt) : Statement (.pfirst d a t) := by
  have hf : RLow.Fit ⟨0, t.code, 0, 0, 0, 0, 0⟩ :=
    ⟨by simp, Nat.lt_trans t.code_lt (by decide), by simp, by simp, by simp, by simp, by simp⟩
  refine of_fields (i := .pfirst d a t) (fit_mk (by decide) d.isLt (by have := a.isLt; omega) (by decide) (by decide) (by decide) (joinR_lt hf)) ?_
  have hk : ∀ lo, decodeRaw ⟨106, d, a, 0, 0, 0, lo⟩ = (Fmt.ofCode (splitR lo).ty).bind fun t => (preg a).bind fun pa =>
      req ((0 == 0 && (splitR lo).rnd == 0 && (splitR lo).sat == 0 && (splitR lo).nsat == 0 && (splitR lo).ginv == 0 && (splitR lo).func == 0 && 0 == 0 && 0 == 0) && (splitR lo).xmod == 0) (some (.pfirst (reg d) pa t)) := fun _ => rfl
  exact (hk _).trans (by rw [splitR_joinR hf]; simp [req])

theorem ld (d a : SReg) (m : MemOp) : Statement (.ld d a m) :=
  of_fields (fit_M (by decide) d.isLt a.isLt (by decide) (by decide) (by decide) (by decide)) <|
    Eq.trans (raw_M (by decide) (k := fun m v det =>
      req ((0 == 0 && v == 0) && 0 == 0 && det == 0) (some (.ld (reg d) (reg a) m))) fun _ _ => rfl) (by simp [req])

theorem st (d a : SReg) (m : MemOp) : Statement (.st d a m) :=
  of_fields (fit_M (by decide) d.isLt a.isLt (by decide) (by decide) (by decide) (by decide)) <|
    Eq.trans (raw_M (by decide) (k := fun m v det =>
      req ((0 == 0 && v == 0) && 0 == 0 && det == 0) (some (.st (reg d) (reg a) m))) fun _ _ => rfl) (by simp [req])

theorem ldv (d : VReg) (a : SReg) (m : MemOp) (g : Guard) : Statement (.ldv d a m g) :=
  of_fields (fit_M (by decide) d.isLt a.isLt (by decide) g.p.isLt (bit_lt _) (by decide)) <|
    Eq.trans (raw_M (by decide) (k := fun m v det =>
      req (0 == 0 && det == 0) (some (.ldv (reg d) (reg a) m ⟨Fin.ofNat 16 g.p, v == 1⟩))) fun _ _ => rfl) (by simp [req])

theorem stv (d : VReg) (a : SReg) (m : MemOp) (g : Guard) : Statement (.stv d a m g) :=
  of_fields (fit_M (by decide) d.isLt a.isLt (by decide) g.p.isLt (bit_lt _) (by decide)) <|
    Eq.trans (raw_M (by decide) (k := fun m v det =>
      req (0 == 0 && det == 0) (some (.stv (reg d) (reg a) m ⟨Fin.ofNat 16 g.p, v == 1⟩))) fun _ _ => rfl) (by simp [req])

theorem ldvs (d : VReg) (a b : SReg) (m : MemOp) (g : Guard) : Statement (.ldvs d a b m g) :=
  of_fields (fit_M (by decide) d.isLt a.isLt b.isLt g.p.isLt (bit_lt _) (by decide)) <|
    Eq.trans (raw_M (by decide) (k := fun m v det =>
      req (det == 0) (some (.ldvs (reg d) (reg a) (reg b) m ⟨Fin.ofNat 16 g.p, v == 1⟩))) fun _ _ => rfl) (by simp [req])

theorem stvs (d : VReg) (a b : SReg) (m : MemOp) (g : Guard) : Statement (.stvs d a b m g) :=
  of_fields (fit_M (by decide) d.isLt a.isLt b.isLt g.p.isLt (bit_lt _) (by decide)) <|
    Eq.trans (raw_M (by decide) (k := fun m v det =>
      req (det == 0) (some (.stvs (reg d) (reg a) (reg b) m ⟨Fin.ofNat 16 g.p, v == 1⟩))) fun _ _ => rfl) (by simp [req])

theorem ldvx (d : VReg) (a : SReg) (b : VReg) (m : MemOp) (g : Guard) : Statement (.ldvx d a b m g) :=
  of_fields (fit_M (by decide) d.isLt a.isLt b.isLt g.p.isLt (bit_lt _) (by decide)) <|
    Eq.trans (raw_M (by decide) (k := fun m v det =>
      req (det == 0) (some (.ldvx (reg d) (reg a) (reg b) m ⟨Fin.ofNat 16 g.p, v == 1⟩))) fun _ _ => rfl) (by simp [req])

theorem stvx (d : VReg) (a : SReg) (b : VReg) (m : MemOp) (g : Guard) : Statement (.stvx d a b m g) :=
  of_fields (fit_M (by decide) d.isLt a.isLt b.isLt g.p.isLt (bit_lt _) (by decide)) <|
    Eq.trans (raw_M (by decide) (k := fun m v det =>
      req (det == 0) (some (.stvx (reg d) (reg a) (reg b) m ⟨Fin.ofNat 16 g.p, v == 1⟩))) fun _ _ => rfl) (by simp [req])

theorem cas (d a b : SReg) (m : MemOp) : Statement (.cas d a b m) :=
  of_fields (fit_M (by decide) d.isLt a.isLt b.isLt (by decide) (by decide) (by decide)) <|
    Eq.trans (raw_M (by decide) (k := fun m v det =>
      req ((0 == 0 && v == 0) && det == 0) (some (.cas (reg d) (reg a) (reg b) m))) fun _ _ => rfl) (by simp [req])

theorem amoAdd (d a b : SReg) (det : Bool) (m : MemOp) : Statement (.amoAdd d a b det m) :=
  of_fields (fit_M (by decide) d.isLt a.isLt b.isLt (by decide) (by decide) (bit_lt _)) <|
    Eq.trans (raw_M (bit_lt _) (k := fun m v det =>
      req (0 == 0 && v == 0) (some (.amoAdd (reg d) (reg a) (reg b) (det == 1) m))) fun _ _ => rfl) (by simp [req])

theorem amoAnd (d a b : SReg) (det : Bool) (m : MemOp) : Statement (.amoAnd d a b det m) :=
  of_fields (fit_M (by decide) d.isLt a.isLt b.isLt (by decide) (by decide) (bit_lt _)) <|
    Eq.trans (raw_M (bit_lt _) (k := fun m v det =>
      req (0 == 0 && v == 0) (some (.amoAnd (reg d) (reg a) (reg b) (det == 1) m))) fun _ _ => rfl) (by simp [req])

theorem amoOr (d a b : SReg) (det : Bool) (m : MemOp) : Statement (.amoOr d a b det m) :=
  of_fields (fit_M (by decide) d.isLt a.isLt b.isLt (by decide) (by decide) (bit_lt _)) <|
    Eq.trans (raw_M (bit_lt _) (k := fun m v det =>
      req (0 == 0 && v == 0) (some (.amoOr (reg d) (reg a) (reg b) (det == 1) m))) fun _ _ => rfl) (by simp [req])

theorem amoXor (d a b : SReg) (det : Bool) (m : MemOp) : Statement (.amoXor d a b det m) :=
  of_fields (fit_M (by decide) d.isLt a.isLt b.isLt (by decide) (by decide) (bit_lt _)) <|
    Eq.trans (raw_M (bit_lt _) (k := fun m v det =>
      req (0 == 0 && v == 0) (some (.amoXor (reg d) (reg a) (reg b) (det == 1) m))) fun _ _ => rfl) (by simp [req])

theorem amoMin (d a b : SReg) (det : Bool) (m : MemOp) : Statement (.amoMin d a b det m) :=
  of_fields (fit_M (by decide) d.isLt a.isLt b.isLt (by decide) (by decide) (bit_lt _)) <|
    Eq.trans (raw_M (bit_lt _) (k := fun m v det =>
      req (0 == 0 && v == 0) (some (.amoMin (reg d) (reg a) (reg b) (det == 1) m))) fun _ _ => rfl) (by simp [req])

theorem amoMax (d a b : SReg) (det : Bool) (m : MemOp) : Statement (.amoMax d a b det m) :=
  of_fields (fit_M (by decide) d.isLt a.isLt b.isLt (by decide) (by decide) (bit_lt _)) <|
    Eq.trans (raw_M (bit_lt _) (k := fun m v det =>
      req (0 == 0 && v == 0) (some (.amoMax (reg d) (reg a) (reg b) (det == 1) m))) fun _ _ => rfl) (by simp [req])

theorem amoMinz (d a b : SReg) (det : Bool) (m : MemOp) : Statement (.amoMinz d a b det m) :=
  of_fields (fit_M (by decide) d.isLt a.isLt b.isLt (by decide) (by decide) (bit_lt _)) <|
    Eq.trans (raw_M (bit_lt _) (k := fun m v det =>
      req (0 == 0 && v == 0) (some (.amoMinz (reg d) (reg a) (reg b) (det == 1) m))) fun _ _ => rfl) (by simp [req])

theorem amoMaxz (d a b : SReg) (det : Bool) (m : MemOp) : Statement (.amoMaxz d a b det m) :=
  of_fields (fit_M (by decide) d.isLt a.isLt b.isLt (by decide) (by decide) (bit_lt _)) <|
    Eq.trans (raw_M (bit_lt _) (k := fun m v det =>
      req (0 == 0 && v == 0) (some (.amoMaxz (reg d) (reg a) (reg b) (det == 1) m))) fun _ _ => rfl) (by simp [req])

theorem amoSwap (d a b : SReg) (det : Bool) (m : MemOp) : Statement (.amoSwap d a b det m) :=
  of_fields (fit_M (by decide) d.isLt a.isLt b.isLt (by decide) (by decide) (bit_lt _)) <|
    Eq.trans (raw_M (bit_lt _) (k := fun m v det =>
      req (0 == 0 && v == 0) (some (.amoSwap (reg d) (reg a) (reg b) (det == 1) m))) fun _ _ => rfl) (by simp [req])

theorem amoFaddF32 (d a b : SReg) (det : Bool) (m : MemOp) : Statement (.amoFaddF32 d a b det m) :=
  of_fields (fit_M (by decide) d.isLt a.isLt b.isLt (by decide) (by decide) (bit_lt _)) <|
    Eq.trans (raw_M (bit_lt _) (k := fun m v det =>
      req (0 == 0 && v == 0) (some (.amoFaddF32 (reg d) (reg a) (reg b) (det == 1) m))) fun _ _ => rfl) (by simp [req])

theorem amoFaddBf16 (d a b : SReg) (det : Bool) (m : MemOp) : Statement (.amoFaddBf16 d a b det m) :=
  of_fields (fit_M (by decide) d.isLt a.isLt b.isLt (by decide) (by decide) (bit_lt _)) <|
    Eq.trans (raw_M (bit_lt _) (k := fun m v det =>
      req (0 == 0 && v == 0) (some (.amoFaddBf16 (reg d) (reg a) (reg b) (det == 1) m))) fun _ _ => rfl) (by simp [req])

theorem cpyl (d a b : SReg) (x : XOp) : Statement (.cpyl d a b x) :=
  of_fields (fit_X (by decide) d.isLt a.isLt b.isLt (by decide) x.tdi.isLt x.scope.code_lt (by decide)) <|
    Eq.trans (raw_X x.tdi.isLt x.scope.code_lt (by decide) (k := fun x =>
      (replyOf x.rpy x.rq).bind fun q => (Scope.ofCode x.scope).bind fun s => 
      if x.flag % 2 == 0 then req (0 == 0 && 0 == 0 && x.flag == 0) (some (.cpyl (reg d) (reg a) (reg b) ⟨BitVec.ofNat 16 x.tdi, q, s⟩))
      else req (0 == 0 && 0 == 0 && a.val == 0 && x.flag < 16) (some (.cpylRing (reg d) (Fin.ofNat 8 (x.flag / 2)) (reg b) ⟨BitVec.ofNat 16 x.tdi, q, s⟩))) fun _ => rfl)
      (by simp [req])

theorem cpylRing (d : SReg) (ring : Fin 8) (b : SReg) (x : XOp) : Statement (.cpylRing d ring b x) :=
  of_fields (fit_X (by decide) d.isLt (by decide) b.isLt (by decide) x.tdi.isLt x.scope.code_lt (by have := ring.isLt; omega)) <|
    Eq.trans (raw_X x.tdi.isLt x.scope.code_lt (by have := ring.isLt; omega) (k := fun x =>
      (replyOf x.rpy x.rq).bind fun q => (Scope.ofCode x.scope).bind fun s => 
      if x.flag % 2 == 0 then req (0 == 0 && 0 == 0 && x.flag == 0) (some (.cpyl (reg d) (reg 0) (reg b) ⟨BitVec.ofNat 16 x.tdi, q, s⟩))
      else req (0 == 0 && 0 == 0 && 0 == 0 && x.flag < 16) (some (.cpylRing (reg d) (Fin.ofNat 8 (x.flag / 2)) (reg b) ⟨BitVec.ofNat 16 x.tdi, q, s⟩))) fun _ => rfl)
      (by 
        have h1 : (ring.val * 2 + 1) % 2 = 1 := by omega
        have h2 : (ring.val * 2 + 1) / 2 = ring.val := by omega
        have h3 : ring.val * 2 + 1 < 16 := by have := ring.isLt; omega
        simp [req, h1, h2, h3])

theorem cpys (d a b : SReg) (x : XOp) : Statement (.cpys d a b x) :=
  of_fields (fit_X (by decide) d.isLt a.isLt b.isLt (by decide) x.tdi.isLt x.scope.code_lt (by decide)) <|
    Eq.trans (raw_X x.tdi.isLt x.scope.code_lt (by decide) (k := fun x =>
      (replyOf x.rpy x.rq).bind fun q => (Scope.ofCode x.scope).bind fun s => 
      req (0 == 0 && 0 == 0 && x.flag == 0) (some (.cpys (reg d) (reg a) (reg b) ⟨BitVec.ofNat 16 x.tdi, q, s⟩))) fun _ => rfl)
      (by simp [req])

theorem cpyf (d a b c : SReg) (nd : Bool) (x : XOp) : Statement (.cpyf d a b c nd x) :=
  of_fields (fit_X (by decide) d.isLt a.isLt b.isLt c.isLt x.tdi.isLt x.scope.code_lt (by have := bit_lt nd; omega)) <|
    Eq.trans (raw_X x.tdi.isLt x.scope.code_lt (by have := bit_lt nd; omega) (k := fun x =>
      (replyOf x.rpy x.rq).bind fun q => (Scope.ofCode x.scope).bind fun s => 
      req (0 == 0 && x.flag < 2) (some (.cpyf (reg d) (reg a) (reg b) (reg c) (x.flag == 1) ⟨BitVec.ofNat 16 x.tdi, q, s⟩))) fun _ => rfl)
      (by simp [req])

theorem cpya (d a b c : SReg) (inDir : Bool) (t : Fmt) (sat : Bool) (reply : Option QReg) (scope : Scope) : Statement (.cpya d a b c inDir t sat reply scope) :=
  of_fields (fit_X (by decide) d.isLt a.isLt b.isLt c.isLt (by decide) scope.code_lt (by have := bit_lt sat; have := t.code_lt; have := bit_lt inDir; omega)) <|
    Eq.trans (raw_X (by decide) scope.code_lt (by have := bit_lt sat; have := t.code_lt; have := bit_lt inDir; omega) (k := fun x =>
      (replyOf x.rpy x.rq).bind fun q => (Scope.ofCode x.scope).bind fun s => 
      (Fmt.ofCode (x.flag / 2 % 32)).bind fun t => req (0 == 0 && x.tdi == 0)
        (some (.cpya (reg d) (reg a) (reg b) (reg c) (x.flag % 2 == 1) t (x.flag / 64 == 1) q s))) fun _ => rfl)
      (by 
        have h1 : (bit sat * 64 + t.code * 2 + bit inDir) % 2 = bit inDir := by have := bit_lt inDir; omega
        have h2 : (bit sat * 64 + t.code * 2 + bit inDir) / 2 % 32 = t.code := by have := t.code_lt; have := bit_lt inDir; omega
        have h3 : (bit sat * 64 + t.code * 2 + bit inDir) / 64 = bit sat := by have := t.code_lt; have := bit_lt inDir; omega
        simp [req, h1, h2, h3])

theorem rsetup (ring : Fin 8) (a b c : SReg) : Statement (.rsetup ring a b c) :=
  of_fields (fit_R (by decide) (by decide) a.isLt b.isLt c.isLt (by decide) (by have := ring.isLt; omega)) <|
    Eq.trans (raw_R (by decide) (by have := ring.isLt; omega) (k := fun r =>
      req (0 == 0 && 0 == 0 && r.untyped && r.func == 0 && r.xmod < 8) (some (.rsetup (Fin.ofNat 8 r.xmod) (reg a) (reg b) (reg c)))) fun _ => rfl)
      (by simp [req, RLow.untyped])

theorem rpub (d : SReg) (ring : Fin 8) : Statement (.rpub d ring) :=
  of_fields (fit_I (by decide) d.isLt (by decide) (by have := ring.isLt; omega)) <|
    Eq.trans (b := req (ring.val < 8) (some (.rpub (reg d) (Fin.ofNat 8 ring.val)))) rfl (by simp [req])

theorem rtake (d : SReg) (ring : Fin 8) : Statement (.rtake d ring) :=
  of_fields (fit_I (by decide) d.isLt (by decide) (by have := ring.isLt; omega)) <|
    Eq.trans (b := req (ring.val < 8) (some (.rtake (reg d) (Fin.ofNat 8 ring.val)))) rfl (by simp [req])

theorem rfree (ring : Fin 8) : Statement (.rfree ring) :=
  of_fields (fit_I (by decide) (by decide) (by decide) (by have := ring.isLt; omega)) <|
    Eq.trans (b := req ((decide (ring.val < 8)) && 0 == 0) (some (.rfree (Fin.ofNat 8 ring.val)))) rfl (by simp [req])

theorem coll (d a b : SReg) (kind : CollKind) (op : CollOp) (det : Bool) (tdi : BitVec 16) (q : QReg) (scope : Scope) : Statement (.coll d a b kind op det tdi q scope) :=
  of_fields (fit_X (by decide) d.isLt a.isLt b.isLt (by decide) tdi.isLt scope.code_lt (by have := bit_lt det; have := op.code_lt; have := kind.code_lt; omega)) <|
    Eq.trans (raw_X tdi.isLt scope.code_lt (by have := bit_lt det; have := op.code_lt; have := kind.code_lt; omega) (k := fun x =>
      (CollKind.ofCode (x.flag % 8)).bind fun kind => (CollOp.ofCode (x.flag / 8 % 8)).bind fun op =>
      (Scope.ofCode x.scope).bind fun s => req (0 == 0 && 0 == 0 && x.rpy == 1)
        (some (.coll (reg d) (reg a) (reg b) kind op (x.flag / 64 == 1) (BitVec.ofNat 16 x.tdi) (Fin.ofNat 4 x.rq) s))) fun _ => rfl)
      (by 
        have h1 : (bit det * 64 + op.code * 8 + kind.code) % 8 = kind.code := by have := kind.code_lt; omega
        have h2 : (bit det * 64 + op.code * 8 + kind.code) / 8 % 8 = op.code := by have := op.code_lt; have := kind.code_lt; omega
        have h3 : (bit det * 64 + op.code * 8 + kind.code) / 64 = bit det := by have := op.code_lt; have := kind.code_lt; omega
        simp [req, replyBits, h1, h2, h3])

theorem mma (d a b c : SReg) (o : MmaOp) (tdi : BitVec 16) (reply : Option QReg) : Statement (.mma d a b c o tdi reply) :=
  of_fields (fit_X (by decide) d.isLt a.isLt b.isLt c.isLt tdi.isLt (by decide) (mmaFlag_lt o)) <|
    Eq.trans (raw_X tdi.isLt (by decide) (mmaFlag_lt o) (k := fun x =>
      (replyOf x.rpy x.rq).bind fun q => req (0 == 0 && x.scope == 0)
        (some (.mma (reg d) (reg a) (reg b) (reg c) (mmaOpOf x.flag) (BitVec.ofNat 16 x.tdi) q))) fun _ => rfl)
      (by simp [req])

theorem mmag (d a b c : SReg) (o : MmaOp) (tdi : BitVec 16) (reply : Option QReg) : Statement (.mmag d a b c o tdi reply) :=
  of_fields (fit_X (by decide) d.isLt a.isLt b.isLt c.isLt tdi.isLt (by decide) (mmaFlag_lt o)) <|
    Eq.trans (raw_X tdi.isLt (by decide) (mmaFlag_lt o) (k := fun x =>
      (replyOf x.rpy x.rq).bind fun q => req (0 == 0 && x.scope == 0)
        (some (.mmag (reg d) (reg a) (reg b) (reg c) (mmaOpOf x.flag) (BitVec.ofNat 16 x.tdi) q))) fun _ => rfl)
      (by simp [req])

theorem mzero (a : SReg) : Statement (.mzero a) :=
  of_fields (fit_R (by decide) (by decide) a.isLt (by decide) (by decide) (by decide) (by decide)) <|
    Eq.trans (raw_R (by decide) (by decide) (k := fun r =>
      req (0 == 0 && 0 == 0 && 0 == 0 && 0 == 0 && r.untyped && r.func == 0 && r.xmod == 0) (some (.mzero (reg a)))) fun _ => rfl)
      (by simp [req, RLow.untyped])

theorem mscale (a b : SReg) (int : Bool) (sat : Bool) (sh : Fin 64) : Statement (.mscale a b int sat sh) := by
  have hf : RLow.Fit ⟨0, if int then 2 else 8, 0, bit sat, 0, 0, sh⟩ :=
    ⟨by simp, by cases int <;> simp, by simp, bit_lt _, by simp, by simp, Nat.lt_trans sh.isLt (by decide)⟩
  refine of_fields (i := .mscale a b int sat sh) (fit_mk (by decide) (by decide) a.isLt b.isLt (by decide) (by decide) (joinR_lt hf)) ?_
  have hk : ∀ lo, decodeRaw ⟨0xB3, 0, a, b, 0, 0, lo⟩ = req (0 == 0 && 0 == 0 && 0 == 0 && (splitR lo).func == 0 &&
      (splitR lo).rnd == 0 && (splitR lo).nsat == 0 && (splitR lo).ginv == 0 &&
      ((splitR lo).ty == 2 || (splitR lo).ty == 8) && (splitR lo).xmod < 64)
      (some (.mscale (reg a) (reg b) ((splitR lo).ty == 2) ((splitR lo).sat == 1) (reg (splitR lo).xmod))) := fun _ => rfl
  refine (hk _).trans ?_
  rw [splitR_joinR hf]
  cases int <;> simp [req]

theorem fscan (u : UnitRef) (d a : FReg) (fmt : ScanFmt) (root uniq : Bool) (tdi : BitVec 16) : Statement (.fscan u d a fmt root uniq tdi) :=
  of_fields (fit_F (by decide) d.isLt a.isLt (by decide) (by decide) (by have := bit_lt uniq; have := bit_lt root; have := fmt.code_lt; have := tdi.isLt; omega)) <|
    Eq.trans (raw_F (fb := 0) (fc := 0) (freg_val d) (freg_val a) rfl rfl (by have := bit_lt uniq; have := bit_lt root; have := fmt.code_lt; have := tdi.isLt; omega) (k := fun fd fa fb fc ok u cfg =>
      (ScanFmt.ofCode (cfg / 2 ^ 16 % 4)).bind fun fmt => req ((0 == 0 && ok) && 0 == 0 && 0 == 0)
        (some (.fscan u fd fa fmt (cfg / 2 ^ 18 % 2 == 1) (cfg / 2 ^ 19 == 1) (BitVec.ofNat 16 cfg)))) fun _ => rfl)
      (by 
        have h1 : (bit uniq * 2 ^ 19 + bit root * 2 ^ 18 + fmt.code * 2 ^ 16 + tdi.toNat) / 2 ^ 16 % 4 = fmt.code := by have := bit_lt uniq; have := bit_lt root; have := fmt.code_lt; have := tdi.isLt; omega
        have h2 : (bit uniq * 2 ^ 19 + bit root * 2 ^ 18 + fmt.code * 2 ^ 16 + tdi.toNat) / 2 ^ 18 % 2 = bit root := by have := bit_lt uniq; have := bit_lt root; have := fmt.code_lt; have := tdi.isLt; omega
        have h3 : (bit uniq * 2 ^ 19 + bit root * 2 ^ 18 + fmt.code * 2 ^ 16 + tdi.toNat) / 2 ^ 19 = bit uniq := by have := bit_lt uniq; have := bit_lt root; have := fmt.code_lt; have := tdi.isLt; omega
        have hv : BitVec.ofNat 16 (bit uniq * 2 ^ 19 + bit root * 2 ^ 18 + fmt.code * 2 ^ 16 + tdi.toNat) = tdi := by
          apply BitVec.eq_of_toNat_eq
          have := tdi.isLt
          rw [BitVec.toNat_ofNat]
          omega
        rw [h1, h2, h3, hv]
        simp [req])

theorem fisect (u : UnitRef) (d c a b : FReg) : Statement (.fisect u d c a b) :=
  of_fields (fit_F (by decide) d.isLt a.isLt b.isLt c.isLt (by decide)) <|
    Eq.trans (raw_F  (freg_val d) (freg_val a) (freg_val b) (freg_val c) (by decide) (k := fun fd fa fb fc ok u cfg =>
      req ((0 == 0 && ok) && cfg == 0) (some (.fisect u fd fc fa fb))) fun _ => rfl)
      (by simp [req])

theorem funion (u : UnitRef) (d c a b : FReg) : Statement (.funion u d c a b) :=
  of_fields (fit_F (by decide) d.isLt a.isLt b.isLt c.isLt (by decide)) <|
    Eq.trans (raw_F  (freg_val d) (freg_val a) (freg_val b) (freg_val c) (by decide) (k := fun fd fa fb fc ok u cfg =>
      req ((0 == 0 && ok) && cfg == 0) (some (.funion u fd fc fa fb))) fun _ => rfl)
      (by simp [req])

theorem frepeat (u : UnitRef) (d a b : FReg) : Statement (.frepeat u d a b) :=
  of_fields (fit_F (by decide) d.isLt a.isLt b.isLt (by decide) (by decide)) <|
    Eq.trans (raw_F (fc := 0) (freg_val d) (freg_val a) (freg_val b) rfl (by decide) (k := fun fd fa fb fc ok u cfg =>
      req ((0 == 0 && ok) && cfg == 0 && 0 == 0) (some (.frepeat u fd fa fb))) fun _ => rfl)
      (by simp [req])

theorem freduce (u : UnitRef) (d a : FReg) (op : RedOp) (t : FTy) (sat : Bool) (rnd : Rnd) : Statement (.freduce u d a op t sat rnd) :=
  of_fields (fit_F (by decide) d.isLt a.isLt (by decide) (by decide) (by have := rnd.code_lt; have := bit_lt sat; have := t.code_lt; have := op.code_lt; omega)) <|
    Eq.trans (raw_F (fb := 0) (fc := 0) (freg_val d) (freg_val a) rfl rfl (by have := rnd.code_lt; have := bit_lt sat; have := t.code_lt; have := op.code_lt; omega) (k := fun fd fa fb fc ok u cfg =>
      (RedOp.ofCode (cfg % 4)).bind fun op => (FTy.ofCode (cfg / 4 % 4)).bind fun t => (Rnd.ofCode (cfg / 32)).bind fun rm => req ((0 == 0 && ok) && 0 == 0 && 0 == 0)
        (some (.freduce u fd fa op t (cfg / 16 % 2 == 1) rm))) fun _ => rfl)
      (by 
        have h1 : (rnd.code * 32 + bit sat * 16 + t.code * 4 + op.code) % 4 = op.code := by have := rnd.code_lt; have := bit_lt sat; have := t.code_lt; have := op.code_lt; omega
        have h2 : (rnd.code * 32 + bit sat * 16 + t.code * 4 + op.code) / 4 % 4 = t.code := by have := rnd.code_lt; have := bit_lt sat; have := t.code_lt; have := op.code_lt; omega
        have h3 : (rnd.code * 32 + bit sat * 16 + t.code * 4 + op.code) / 16 % 2 = bit sat := by have := rnd.code_lt; have := bit_lt sat; have := t.code_lt; have := op.code_lt; omega
        have h4 : (rnd.code * 32 + bit sat * 16 + t.code * 4 + op.code) / 32 = rnd.code := by have := rnd.code_lt; have := bit_lt sat; have := t.code_lt; have := op.code_lt; omega
        rw [h1, h2, h3, h4]
        simp [req])

theorem fval (u : UnitRef) (d a : FReg) (tdi : BitVec 16) : Statement (.fval u d a tdi) :=
  of_fields (fit_F (by decide) d.isLt a.isLt (by decide) (by decide) (by have := tdi.isLt; omega)) <|
    Eq.trans (raw_F (fb := 0) (fc := 0) (freg_val d) (freg_val a) rfl rfl (by have := tdi.isLt; omega) (k := fun fd fa fb fc ok u cfg =>
      req (((0 == 0 && ok) && 0 == 0 && 0 == 0) && cfg < 2 ^ 16) (some (.fval u fd fa (BitVec.ofNat 16 cfg)))) fun _ => rfl)
      (by simp [req, tdi.isLt])

theorem falu (u : UnitRef) (d a b : FReg) (op : AluOp) (t : FTy) (two : Bool) (sat : Bool) (rnd : Rnd) (imm : BitVec 9) : Statement (.falu u d a b op t two sat rnd imm) :=
  of_fields (fit_F (by decide) d.isLt a.isLt b.isLt (by decide) (by have := imm.isLt; have := rnd.code_lt; have := bit_lt sat; have := bit_lt two; have := t.code_lt; have := op.code_lt; omega)) <|
    Eq.trans (raw_F (fc := 0) (freg_val d) (freg_val a) (freg_val b) rfl (by have := imm.isLt; have := rnd.code_lt; have := bit_lt sat; have := bit_lt two; have := t.code_lt; have := op.code_lt; omega) (k := fun fd fa fb fc ok u cfg =>
      (AluOp.ofCode (cfg % 16)).bind fun op => (FTy.ofCode (cfg / 16 % 4)).bind fun t => (Rnd.ofCode (cfg / 2 ^ 8 % 8)).bind fun rm => req ((0 == 0 && ok) && 0 == 0)
        (some (.falu u fd fa fb op t (cfg / 2 ^ 6 % 2 == 1) (cfg / 2 ^ 7 % 2 == 1) rm (BitVec.ofNat 9 (cfg / 2 ^ 11))))) fun _ => rfl)
      (by 
        have h1 : (imm.toNat * 2 ^ 11 + rnd.code * 2 ^ 8 + bit sat * 2 ^ 7 + bit two * 2 ^ 6 + t.code * 2 ^ 4 + op.code) % 16 = op.code := by have := imm.isLt; have := rnd.code_lt; have := bit_lt sat; have := bit_lt two; have := t.code_lt; have := op.code_lt; omega
        have h2 : (imm.toNat * 2 ^ 11 + rnd.code * 2 ^ 8 + bit sat * 2 ^ 7 + bit two * 2 ^ 6 + t.code * 2 ^ 4 + op.code) / 16 % 4 = t.code := by have := imm.isLt; have := rnd.code_lt; have := bit_lt sat; have := bit_lt two; have := t.code_lt; have := op.code_lt; omega
        have h3 : (imm.toNat * 2 ^ 11 + rnd.code * 2 ^ 8 + bit sat * 2 ^ 7 + bit two * 2 ^ 6 + t.code * 2 ^ 4 + op.code) / 2 ^ 8 % 8 = rnd.code := by have := imm.isLt; have := rnd.code_lt; have := bit_lt sat; have := bit_lt two; have := t.code_lt; have := op.code_lt; omega
        have h4 : (imm.toNat * 2 ^ 11 + rnd.code * 2 ^ 8 + bit sat * 2 ^ 7 + bit two * 2 ^ 6 + t.code * 2 ^ 4 + op.code) / 2 ^ 6 % 2 = bit two := by have := imm.isLt; have := rnd.code_lt; have := bit_lt sat; have := bit_lt two; have := t.code_lt; have := op.code_lt; omega
        have h5 : (imm.toNat * 2 ^ 11 + rnd.code * 2 ^ 8 + bit sat * 2 ^ 7 + bit two * 2 ^ 6 + t.code * 2 ^ 4 + op.code) / 2 ^ 7 % 2 = bit sat := by have := imm.isLt; have := rnd.code_lt; have := bit_lt sat; have := bit_lt two; have := t.code_lt; have := op.code_lt; omega
        have h6 : (imm.toNat * 2 ^ 11 + rnd.code * 2 ^ 8 + bit sat * 2 ^ 7 + bit two * 2 ^ 6 + t.code * 2 ^ 4 + op.code) / 2 ^ 11 = imm.toNat := by have := imm.isLt; have := rnd.code_lt; have := bit_lt sat; have := bit_lt two; have := t.code_lt; have := op.code_lt; omega
        rw [h1, h2, h3, h4, h5, h6]
        simp [req])

theorem fwrite (u : UnitRef) (a : FReg) (mode : WrMode) (t : FTy) (tdi : BitVec 16) : Statement (.fwrite u a mode t tdi) :=
  of_fields (fit_F (by decide) (by decide) a.isLt (by decide) (by decide) (by have := t.code_lt; have := mode.code_lt; have := tdi.isLt; omega)) <|
    Eq.trans (raw_F (fd := 0) (fb := 0) (fc := 0) rfl (freg_val a) rfl rfl (by have := t.code_lt; have := mode.code_lt; have := tdi.isLt; omega) (k := fun fd fa fb fc ok u cfg =>
      (WrMode.ofCode (cfg / 2 ^ 16 % 4)).bind fun mode => (FTy.ofCode (cfg / 2 ^ 18)).bind fun t => req (((0 == 0 && ok) && 0 == 0 && 0 == 0) && 0 == 0)
        (some (.fwrite u fa mode t (BitVec.ofNat 16 cfg)))) fun _ => rfl)
      (by 
        have h1 : (t.code * 2 ^ 18 + mode.code * 2 ^ 16 + tdi.toNat) / 2 ^ 16 % 4 = mode.code := by have := t.code_lt; have := mode.code_lt; have := tdi.isLt; omega
        have h2 : (t.code * 2 ^ 18 + mode.code * 2 ^ 16 + tdi.toNat) / 2 ^ 18 = t.code := by have := t.code_lt; have := mode.code_lt; have := tdi.isLt; omega
        have hv : BitVec.ofNat 16 (t.code * 2 ^ 18 + mode.code * 2 ^ 16 + tdi.toNat) = tdi := by
          apply BitVec.eq_of_toNat_eq
          have := tdi.isLt
          rw [BitVec.toNat_ofNat]
          omega
        rw [h1, h2, hv]
        simp [req])

theorem fgen (u : UnitRef) (d a : FReg) : Statement (.fgen u d a) :=
  of_fields (fit_F (by decide) d.isLt a.isLt (by decide) (by decide) (by decide)) <|
    Eq.trans (raw_F (fb := 0) (fc := 0) (freg_val d) (freg_val a) rfl rfl (by decide) (k := fun fd fa fb fc ok u cfg =>
      req (((0 == 0 && ok) && 0 == 0 && 0 == 0) && cfg == 0) (some (.fgen u fd fa))) fun _ => rfl)
      (by simp [req])

theorem fsteer (u : UnitRef) (d c a b : FReg) : Statement (.fsteer u d c a b) :=
  of_fields (fit_F (by decide) d.isLt a.isLt b.isLt c.isLt (by decide)) <|
    Eq.trans (raw_F  (freg_val d) (freg_val a) (freg_val b) (freg_val c) (by decide) (k := fun fd fa fb fc ok u cfg =>
      req ((0 == 0 && ok) && cfg == 0) (some (.fsteer u fd fc fa fb))) fun _ => rfl)
      (by simp [req])

theorem fmerge (u : UnitRef) (d c a b : FReg) : Statement (.fmerge u d c a b) :=
  of_fields (fit_F (by decide) d.isLt a.isLt b.isLt c.isLt (by decide)) <|
    Eq.trans (raw_F  (freg_val d) (freg_val a) (freg_val b) (freg_val c) (by decide) (k := fun fd fa fb fc ok u cfg =>
      req ((0 == 0 && ok) && cfg == 0) (some (.fmerge u fd fc fa fb))) fun _ => rfl)
      (by simp [req])

theorem fcarry (u : UnitRef) (d a b : FReg) : Statement (.fcarry u d a b) :=
  of_fields (fit_F (by decide) d.isLt a.isLt b.isLt (by decide) (by decide)) <|
    Eq.trans (raw_F (fc := 0) (freg_val d) (freg_val a) (freg_val b) rfl (by decide) (k := fun fd fa fb fc ok u cfg =>
      req ((0 == 0 && ok) && cfg == 0 && 0 == 0) (some (.fcarry u fd fa fb))) fun _ => rfl)
      (by simp [req])

theorem fsrc (p : Fin 8) (d : FReg) (level : Fin 8) : Statement (.fsrc p d level) := by
  refine of_fields (fit_I20 (by decide) (by have := d.isLt; omega) (by decide) (by decide) (by have := p.isLt; have := level.isLt; omega)) ?_
  have hk : ∀ lo, decodeRaw ⟨0xCC, d, 0, 0, 0, 0, lo⟩ = (freg d).bind fun fd =>
    req ((0 == 0 && 0 == 0 && 0 == 0) && 0 == 0 && lo / 2 ^ 20 == 0 && lo % 2 ^ 20 % 2 ^ 17 < 8)
      (some (.fsrc (Fin.ofNat 8 (lo % 2 ^ 20 / 2 ^ 17)) fd (Fin.ofNat 8 (lo % 2 ^ 20 % 2 ^ 17)))) := fun _ => rfl
  have h1 : (0 * 2 ^ 20 + (p.val * 2 ^ 17 + level.val)) / 2 ^ 20 = 0 := by have := p.isLt; have := level.isLt; omega
  have h2 : (0 * 2 ^ 20 + (p.val * 2 ^ 17 + level.val)) % 2 ^ 20 / 2 ^ 17 = p.val := by have := p.isLt; have := level.isLt; omega
  have h3 : (0 * 2 ^ 20 + (p.val * 2 ^ 17 + level.val)) % 2 ^ 20 % 2 ^ 17 = level.val := by have := p.isLt; have := level.isLt; omega
  refine (hk _).trans ?_
  rw [h1, h2, h3]
  simp [req]

theorem fsinkPort (p : Fin 8) (a : FReg) : Statement (.fsinkPort p a) := by
  refine of_fields (fit_I20 (by decide) (by decide) (by have := a.isLt; omega) (by decide) (by have := p.isLt; omega)) ?_
  have h1 : (0 * 2 ^ 20 + (p.val * 2 ^ 17)) / 2 ^ 20 = 0 := by have := p.isLt; omega
  have h2 : (0 * 2 ^ 20 + (p.val * 2 ^ 17)) % 2 ^ 20 / 2 ^ 17 = p.val := by have := p.isLt; omega
  have h3 : (0 * 2 ^ 20 + (p.val * 2 ^ 17)) % 2 ^ 20 % 2 ^ 17 = 0 := by have := p.isLt; omega
  refine (sink_raw a _).trans ?_
  rw [h1, h2, h3]
  simp [req, sinkArm]

theorem fsinkQ (p : Fin 8) (a : FReg) (q : QReg) (count : Bool) : Statement (.fsinkQ p a q count) := by
  refine of_fields (fit_I20 (by decide) (by decide) (by have := a.isLt; omega) (by decide) (by have := p.isLt; have := bit_lt count; have := q.isLt; omega)) ?_
  have h1 : (1 * 2 ^ 20 + (p.val * 2 ^ 17 + bit count * 4 + q.val)) / 2 ^ 20 = 1 := by have := p.isLt; have := bit_lt count; have := q.isLt; omega
  have h2 : (1 * 2 ^ 20 + (p.val * 2 ^ 17 + bit count * 4 + q.val)) % 2 ^ 20 / 2 ^ 17 = p.val := by have := p.isLt; have := bit_lt count; have := q.isLt; omega
  have h3 : (1 * 2 ^ 20 + (p.val * 2 ^ 17 + bit count * 4 + q.val)) % 2 ^ 20 % 2 ^ 17 = bit count * 4 + q.val := by have := p.isLt; have := bit_lt count; have := q.isLt; omega
  refine (sink_raw a _).trans ?_
  rw [h1, h2, h3]
  have e1 : (bit count * 4 + q.val) / 4 = bit count := by have := q.isLt; omega
  have e2 : Fin.ofNat 4 (bit count * 4 + q.val) = q := by
    apply Fin.ext
    have := q.isLt
    simp only [Fin.val_ofNat]
    omega
  have e3 : bit count * 4 + q.val < 8 := by have := q.isLt; have := bit_lt count; omega
  simp only [sinkArm, e1, e2]
  simp [req, e3]

theorem fsinkL (p : Fin 8) (a : FReg) (mode : SinkMode) (addr : Fin 32768) : Statement (.fsinkL p a mode addr) := by
  refine of_fields (fit_I20 (by decide) (by decide) (by have := a.isLt; omega) (by decide) (by have := p.isLt; have := mode.code_lt; have := addr.isLt; omega)) ?_
  have h1 : (2 * 2 ^ 20 + (p.val * 2 ^ 17 + mode.code * 2 ^ 15 + addr.val)) / 2 ^ 20 = 2 := by have := p.isLt; have := mode.code_lt; have := addr.isLt; omega
  have h2 : (2 * 2 ^ 20 + (p.val * 2 ^ 17 + mode.code * 2 ^ 15 + addr.val)) % 2 ^ 20 / 2 ^ 17 = p.val := by have := p.isLt; have := mode.code_lt; have := addr.isLt; omega
  have h3 : (2 * 2 ^ 20 + (p.val * 2 ^ 17 + mode.code * 2 ^ 15 + addr.val)) % 2 ^ 20 % 2 ^ 17 = mode.code * 2 ^ 15 + addr.val := by have := p.isLt; have := mode.code_lt; have := addr.isLt; omega
  refine (sink_raw a _).trans ?_
  rw [h1, h2, h3]
  have e1 : (mode.code * 2 ^ 15 + addr.val) / 2 ^ 15 = mode.code := by
    rw [Nat.mul_comm, Nat.mul_add_div (by decide), Nat.div_eq_of_lt (show addr.val < 2 ^ 15 from addr.isLt), Nat.add_zero]
  have e2 : Fin.ofNat 32768 (mode.code * 2 ^ 15 + addr.val) = addr := by
    apply Fin.ext
    have := addr.isLt
    simp only [Fin.val_ofNat]
    omega
  simp only [sinkArm, e1, e2]
  simp

theorem fgo (d : SReg) (q : QReg) : Statement (.fgo d q) := by
  refine of_fields (fit_I20 (by decide) d.isLt (by decide) (by decide) (by have := q.isLt; omega)) ?_
  have hk : ∀ lo, decodeRaw ⟨0xCE, d, 0, 0, 0, 0, lo⟩ =
    req ((0 == 0 && 0 == 0 && 0 == 0) && 0 == 0 && lo / 2 ^ 20 == 0 && lo % 2 ^ 20 < 4)
      (some (.fgo (reg d) (Fin.ofNat 4 (lo % 2 ^ 20)))) := fun _ => rfl
  have h1 : (0 * 2 ^ 20 + q.val) / 2 ^ 20 = 0 := by have := q.isLt; omega
  have h2 : (0 * 2 ^ 20 + q.val) % 2 ^ 20 = q.val := by have := q.isLt; omega
  refine (hk _).trans ?_
  rw [h1, h2]
  simp [req]

theorem fkill : Statement (.fkill) :=
  of_fields (fit_I20 (by decide) (by decide) (by decide) (by decide) (by decide)) <|
    show decodeRaw ⟨0xCF, 0, 0, 0, 0, 0, 0⟩ = _ from by decide

theorem fkillClear : Statement (.fkillClear) :=
  of_fields (fit_I20 (by decide) (by decide) (by decide) (by decide) (by decide)) <|
    show decodeRaw ⟨0xCF, 0, 0, 0, 0, 0, 1⟩ = _ from by decide

theorem portb (p : Fin 8) (region : Fin 16) (rport : Fin 8) : Statement (.portb p region rport) :=
  of_fields (fit_R (by decide) (by decide) (by decide) (by decide) (by decide) (by have := rport.isLt; omega) (by have := region.isLt; have := p.isLt; omega)) <|
    Eq.trans (raw_R (by have := rport.isLt; omega) (by have := region.isLt; have := p.isLt; omega) (k := fun r =>
      req ((0 == 0 && r.untyped) && 0 == 0 && 0 == 0 && 0 == 0 && 0 == 0) (if r.func < 8 then req (r.xmod < 128) (some (.portb (Fin.ofNat 8 r.xmod) (Fin.ofNat 16 (r.xmod / 8)) (Fin.ofNat 8 r.func)))
        else req (r.func == 0x80 && r.xmod < 8) (some (.portbU (Fin.ofNat 8 r.xmod))))) fun _ => rfl)
      (by 
        have e1 : (region.val * 8 + p.val) / 8 = region.val := by have := p.isLt; omega
        have e2 : Fin.ofNat 8 (region.val * 8 + p.val) = p := by
          apply Fin.ext
          have := p.isLt
          simp only [Fin.val_ofNat]
          omega
        have e3 : region.val * 8 + p.val < 128 := by have := region.isLt; have := p.isLt; omega
        simp only [e2]
        simp [req, RLow.untyped, e1, e3])

theorem portbU (p : Fin 8) : Statement (.portbU p) :=
  of_fields (fit_R (by decide) (by decide) (by decide) (by decide) (by decide) (by decide) (by have := p.isLt; omega)) <|
    Eq.trans (raw_R (by decide) (by have := p.isLt; omega) (k := fun r =>
      req ((0 == 0 && r.untyped) && 0 == 0 && 0 == 0 && 0 == 0 && 0 == 0) (if r.func < 8 then req (r.xmod < 128) (some (.portb (Fin.ofNat 8 r.xmod) (Fin.ofNat 16 (r.xmod / 8)) (Fin.ofNat 8 r.func)))
        else req (r.func == 0x80 && r.xmod < 8) (some (.portbU (Fin.ofNat 8 r.xmod))))) fun _ => rfl)
      (by simp [req, RLow.untyped])

theorem portw (p : Fin 8) (a : VReg) (tok fin : Bool) : Statement (.portw p a tok fin) :=
  of_fields (fit_R (by decide) (by decide) a.isLt (by decide) (by decide) (by decide) (by have := bit_lt tok; have := bit_lt fin; have := p.isLt; omega)) <|
    Eq.trans (raw_R (by decide) (by have := bit_lt tok; have := bit_lt fin; have := p.isLt; omega) (k := fun r =>
      req ((0 == 0 && r.untyped) && r.func == 0 && 0 == 0 && 0 == 0 && 0 == 0 && r.xmod < 32) (some (.portw (Fin.ofNat 8 r.xmod) (reg a) (r.xmod / 16 == 1) (r.xmod / 8 % 2 == 1)))) fun _ => rfl)
      (by 
        have e1 : (bit tok * 16 + bit fin * 8 + p.val) / 16 = bit tok := by have := bit_lt fin; have := p.isLt; omega
        have e3 : (bit tok * 16 + bit fin * 8 + p.val) / 8 % 2 = bit fin := by have := bit_lt fin; have := p.isLt; omega
        have e4 : bit tok * 16 + bit fin * 8 + p.val < 32 := by have := bit_lt tok; have := bit_lt fin; have := p.isLt; omega
        have e2 : Fin.ofNat 8 (bit tok * 16 + bit fin * 8 + p.val) = p := by
          apply Fin.ext
          have := p.isLt
          simp only [Fin.val_ofNat]
          omega
        simp only [e2]
        simp [req, RLow.untyped, e1, e3, e4])

theorem portr (p : Fin 8) (d : SReg) (c : VReg) : Statement (.portr p d c) :=
  of_fields (fit_R (by decide) d.isLt (by decide) (by decide) c.isLt (by decide) (by have := p.isLt; omega)) <|
    Eq.trans (raw_R (by decide) (by have := p.isLt; omega) (k := fun r =>
      req ((0 == 0 && r.untyped) && r.func == 0 && 0 == 0 && 0 == 0 && r.xmod < 8) (some (.portr (Fin.ofNat 8 r.xmod) (reg d) (reg c)))) fun _ => rfl)
      (by simp [req, RLow.untyped])

theorem portq (p : Fin 8) (d : SReg) : Statement (.portq p d) :=
  of_fields (fit_R (by decide) d.isLt (by decide) (by decide) (by decide) (by decide) (by have := p.isLt; omega)) <|
    Eq.trans (raw_R (by decide) (by have := p.isLt; omega) (k := fun r =>
      req ((0 == 0 && r.untyped) && r.func == 0 && 0 == 0 && 0 == 0 && 0 == 0 && r.xmod < 8) (some (.portq (Fin.ofNat 8 r.xmod) (reg d)))) fun _ => rfl)
      (by simp [req, RLow.untyped])

theorem blockedStrandWake (tile : Nat) : Statement (.blockedStrandWake tile) := of_event rfl

theorem retentionWake (tile : Nat) : Statement (.retentionWake tile) := of_event rfl

theorem copyStart (tile : Nat) (store : Bool) : Statement (.copyStart tile store) := of_event rfl

theorem copyIssueFinish (tile : Nat) (store : Bool) : Statement (.copyIssueFinish tile store) := of_event rfl

theorem copySourceReadDone (tile : Nat) (ch : Chan) (id : Nat) : Statement (.copySourceReadDone tile ch id) := of_event rfl

theorem copyVisible (tile : Nat) (ch : Chan) (id : Nat) : Statement (.copyVisible tile ch id) := of_event rfl

theorem memoryAccessPerform (sel : AccessSel) : Statement (.memoryAccessPerform sel) := of_event rfl

theorem routerAmoMerge (i j : Nat) : Statement (.routerAmoMerge i j) := of_event rfl

theorem matrixPass (tile : Nat) (check : PassCheck) : Statement (.matrixPass tile check) := of_event rfl

theorem fibreConfigApply (tile : Nat) : Statement (.fibreConfigApply tile) := of_event rfl

theorem graphRunStart (tile : Nat) : Statement (.graphRunStart tile) := of_event rfl

theorem fibreUnitStep (tile unit : Nat) : Statement (.fibreUnitStep tile unit) := of_event rfl

theorem fibreScanReadReturn (tile unit : Nat) : Statement (.fibreScanReadReturn tile unit) := of_event rfl

theorem fibreStallExpiry (tile : Nat) : Statement (.fibreStallExpiry tile) := of_event rfl

theorem graphRunFinish (tile : Nat) : Statement (.graphRunFinish tile) := of_event rfl

theorem collComplete (tile : Nat) : Statement (.collComplete tile) := of_event rfl

theorem collParticipantLost (tile : Nat) : Statement (.collParticipantLost tile) := of_event rfl

theorem barrierInstanceComplete (queue record gang : Nat) (k : Fin 16) : Statement (.barrierInstanceComplete queue record gang k) := of_event rfl

theorem beatTransfer (sel : BeatSel) : Statement (.beatTransfer sel) := of_event rfl

theorem flitDelivery (tile : Nat) : Statement (.flitDelivery tile) := of_event rfl

theorem niFreeze (tile : Nat) : Statement (.niFreeze tile) := of_event rfl

theorem freezeAck (tile peer : Nat) : Statement (.freezeAck tile peer) := of_event rfl

theorem recon (tile : Nat) : Statement (.recon tile) := of_event rfl

theorem deadlineExpiry (tile : Nat) : Statement (.deadlineExpiry tile) := of_event rfl

theorem stopForCause (tile : Nat) : Statement (.stopForCause tile) := of_event rfl

theorem deferredFaultDelivery (tile : Nat) : Statement (.deferredFaultDelivery tile) := of_event rfl

theorem asyncTrapDelivery (tile : Nat) : Statement (.asyncTrapDelivery tile) := of_event rfl

theorem quotaChargeReport (tile : Nat) : Statement (.quotaChargeReport tile) := of_event rfl

theorem quotaExhaustionNotice (tile : Nat) : Statement (.quotaExhaustionNotice tile) := of_event rfl

theorem serviceRequestRecord (i : Nat) : Statement (.serviceRequestRecord i) := of_event rfl

theorem cowService (i : Nat) : Statement (.cowService i) := of_event rfl

theorem folioFormation (tile : Nat) : Statement (.folioFormation tile) := of_event rfl

theorem doorbell (at_ : BellAddr) (v : Word) : Statement (.doorbell at_ v) := of_event rfl

theorem recordHead (queue : Nat) : Statement (.recordHead queue) := of_event rfl

theorem waitEvaluation (queue : Nat) : Statement (.waitEvaluation queue) := of_event rfl

theorem waitPollTimer : Statement (.waitPollTimer) := of_event rfl

theorem agingInterval : Statement (.agingInterval) := of_event rfl

theorem gangDispatch : Statement (.gangDispatch) := of_event rfl

theorem taskCompletionPublish (queue record : Nat) : Statement (.taskCompletionPublish queue record) := of_event rfl

theorem queueEnable (fn queue : Nat) : Statement (.queueEnable fn queue) := of_event rfl

theorem queueDrain (fn queue : Nat) : Statement (.queueDrain fn queue) := of_event rfl

theorem queueAbort (fn queue : Nat) : Statement (.queueAbort fn queue) := of_event rfl

theorem queueReset (fn queue : Nat) : Statement (.queueReset fn queue) := of_event rfl

theorem abortComplete (queue : Nat) : Statement (.abortComplete queue) := of_event rfl

theorem load (fn : Nat) : Statement (.load fn) := of_event rfl

theorem unload (fn : Nat) : Statement (.unload fn) := of_event rfl

theorem tcinv (fn : Nat) : Statement (.tcinv fn) := of_event rfl

theorem tcinvComplete (fn : Nat) : Statement (.tcinvComplete fn) := of_event rfl

theorem group (fn : Nat) : Statement (.group fn) := of_event rfl

theorem ungroup (fn : Nat) : Statement (.ungroup fn) := of_event rfl

theorem tlbinv (fn : Nat) : Statement (.tlbinv fn) := of_event rfl

theorem tlbinvComplete (fn : Nat) : Statement (.tlbinvComplete fn) := of_event rfl

theorem frames (fn : Nat) : Statement (.frames fn) := of_event rfl

theorem resolve (fn : Nat) : Statement (.resolve fn) := of_event rfl

theorem keyset (fn : Nat) : Statement (.keyset fn) := of_event rfl

theorem keyclr (fn : Nat) : Statement (.keyclr fn) := of_event rfl

theorem ctrget (fn : Nat) : Statement (.ctrget fn) := of_event rfl

theorem dbghalt (fn : Nat) : Statement (.dbghalt fn) := of_event rfl

theorem dbgresume (fn : Nat) : Statement (.dbgresume fn) := of_event rfl

theorem dbgpend (fn : Nat) : Statement (.dbgpend fn) := of_event rfl

theorem dbgview (fn : Nat) : Statement (.dbgview fn) := of_event rfl

theorem imghold (fn : Nat) : Statement (.imghold fn) := of_event rfl

theorem imgfree (fn : Nat) : Statement (.imgfree fn) := of_event rfl

theorem swap (fn : Nat) : Statement (.swap fn) := of_event rfl

theorem swapQuiesce (region : Nat) : Statement (.swapQuiesce region) := of_event rfl

theorem rclock (fn : Nat) : Statement (.rclock fn) := of_event rfl

theorem quotaadd (fn : Nat) : Statement (.quotaadd fn) := of_event rfl

theorem fwstage (fn : Nat) : Statement (.fwstage fn) := of_event rfl

theorem restart (fn : Nat) : Statement (.restart fn) := of_event rfl

theorem attest (fn : Nat) : Statement (.attest fn) := of_event rfl

theorem regroup (fn : Nat) : Statement (.regroup fn) := of_event rfl

theorem heldresume (fn : Nat) : Statement (.heldresume fn) := of_event rfl

theorem heldabort (fn : Nat) : Statement (.heldabort fn) := of_event rfl

theorem mailboxUndefinedCommand (fn : Nat) : Statement (.mailboxUndefinedCommand fn) := of_event rfl

theorem regionLoadComplete (region : Nat) : Statement (.regionLoadComplete region) := of_event rfl

theorem regionStop (region : Nat) : Statement (.regionStop region) := of_event rfl

theorem regionRelink (region : Nat) : Statement (.regionRelink region) := of_event rfl

theorem reconfigTokenApply (region : Nat) (port : Fin 8) (depth : Nat) : Statement (.reconfigTokenApply region port depth) := of_event rfl

theorem thermalTick (region temp : Nat) : Statement (.thermalTick region temp) := of_event rfl

theorem regionMachineCheck (region : Nat) : Statement (.regionMachineCheck region) := of_event rfl

theorem tdivreqWrite (chiplet : Nat) (v : Word) : Statement (.tdivreqWrite chiplet v) := of_event rfl

theorem clockDividerChange (dom : ClockDomain) : Statement (.clockDividerChange dom) := of_event rfl

theorem droopDetected (tile : Nat) : Statement (.droopDetected tile) := of_event rfl

theorem eccError (place : EccPlace) (double : Bool) : Statement (.eccError place double) := of_event rfl

theorem memoryScrub (line : Nat) (double : Bool) : Statement (.memoryScrub line double) := of_event rfl

theorem linkReplayLimit (link : Nat) : Statement (.linkReplayLimit link) := of_event rfl

theorem linkRetrainFail (link : Nat) : Statement (.linkRetrainFail link) := of_event rfl

theorem linkEnableWrite (link : Nat) (v : Word) : Statement (.linkEnableWrite link v) := of_event rfl

theorem pkgWrite (v : Word) : Statement (.pkgWrite v) := of_event rfl

theorem tenantWrite (fn : Nat) (v : Word) : Statement (.tenantWrite fn v) := of_event rfl

theorem registerWrite (fn : Nat) (off : Nat) (v : Word) : Statement (.registerWrite fn off v) := of_event rfl

theorem hostMemoryAccess (aperture : Bool) (addr : Nat) (bytes : List Byte) : Statement (.hostMemoryAccess aperture addr bytes) := of_event rfl

theorem vellumRestore (sel : RestoreSel) : Statement (.vellumRestore sel) := of_event rfl

theorem deviceReset : Statement (.deviceReset) := of_event rfl

theorem bootReady : Statement (.bootReady) := of_event rfl

theorem bootWatchdogExpiry : Statement (.bootWatchdogExpiry) := of_event rfl

theorem linkTrainingDone (link peer peerLink : Nat) : Statement (.linkTrainingDone link peer peerLink) := of_event rfl

theorem flitReplay (link : Nat) : Statement (.flitReplay link) := of_event rfl

theorem tileThrottle (tile divider : Nat) : Statement (.tileThrottle tile divider) := of_event rfl

theorem failedStart (reason detail : Nat) : Statement (.failedStart reason detail) := of_event rfl

theorem scanOutComplete (tile : Nat) (parityError : Bool) : Statement (.scanOutComplete tile parityError) := of_event rfl

end Sys2Proof.Laws.RoundTrip
end

