-- ==== Sys2Proof/Safety.lean ====
section
/-!
DEFINITION. What counts as a safe state and a safe run of the machine.
-/

namespace Sys2Proof

open Sys2Proof.Machine

/-- The memories of a tile are in canonical form. -/
def Machine.tileWf (t : Tile) : Bool := t.pad.wf && t.accum.wf

/-- Every memory of the machine is in canonical form: device memory, host memory, every scratchpad and accumulator
store; those of saved strands stand among the other tiles. -/
def Machine.memoriesWf (s : State) : Bool :=
  s.dev.mem.wf && s.dev.host.wf && tileWf s.tile && s.others.all fun t => tileWf t.2

/-- A run of `n` steps is safe when it ends in a next state: no step of this model may fault, and a refusal is only an
agenda entry that is no event. -/
def SafeRun (n : Nat) (s : State) : Prop := ∃ t, Host.Core.run core n s = .next t

end Sys2Proof
end

