-- ==== Sys2Proof/Certificates/Slice0/Obligations.lean ====
section
/-!
DEFINITION. The statements for the provers, with the few predicates they share. A statement names the rules of the spec
it formalises in its docstring; what rests on a choice of the model says so.
-/

namespace Sys2Proof.Claims

open Sys2Proof.Machine

/-! ### What an instruction leaves -/

/-- The instruction completes: it answers a next state, of which `P` holds. -/
def Gives (i : Instr) (s : State) (P : State → Prop) : Prop := ∃ t, exec i s = .next t ∧ P t

/-- S[d] holds `v` (S0 reads zero and discards the write, R135), the other scalar registers are as before, and the
program counter is one instruction on (R125). -/
def Wrote (s : State) (d : SReg) (v : Word) (t : State) : Prop :=
  (∀ r, getS t r = if r = d ∧ d ≠ 0 then v else getS s r) ∧ getPc t = getPc s + 8

/-- The instruction completes and writes `v` to S[d]. -/
def Result (i : Instr) (s : State) (d : SReg) (v : Word) : Prop := Gives i s (Wrote s d v)

/-- `v` has the bits that `f` says. -/
def Bits (v : Word) (f : Nat → Bool) : Prop := ∀ i < 64, v.getLsbD i = f i

/-- Every byte of every memory reads as before. -/
def SameBytes (s t : State) : Prop := ∀ p a, (placeMem t p).read a = (placeMem s p).read a

/-- Nothing changed but the scalar registers, the program counter, and the two marks by which the next boundary knows
what just retired. -/
def OnlyScalars (s t : State) : Prop :=
  t = { s with tile := { s.tile with
    seq := { s.tile.seq with s := t.tile.seq.s, vpc := t.tile.seq.vpc }, fresh := none, barStage := none } }

/-- The trap of `cause` with its two information words, taken by the strand in focus at its present instruction. -/
def Traps (i : Instr) (s : State) (cause : Nat) (info0 info1 : Word) : Prop :=
  exec i s = .next (trapAt s.tileNo ⟨cause, info0, info1, []⟩ s)

/-- The strand in focus blocks before the instruction, which will be executed again. -/
def Blocks (i : Instr) (s : State) (w : WaitFor) : Prop := exec i s = .next (blockOn s.tileNo w s)

/-! ### Values of the scalar rules -/

/-- The smaller of two signed values. -/
def lesser (x y : Word) : Word := if x.toInt ≤ y.toInt then x else y
/-- The larger of two signed values. -/
def greater (x y : Word) : Word := if x.toInt ≤ y.toInt then y else x
/-- The smaller of two unsigned values. -/
def lesserZ (x y : Word) : Word := if x.toNat ≤ y.toNat then x else y
/-- The larger of two unsigned values. -/
def greaterZ (x y : Word) : Word := if x.toNat ≤ y.toNat then y else x

/-- The number of one bits of `x`. -/
def ones (x : Word) : Nat := (List.range 64).countP fun i => x.getLsbD i
/-- `n` zero bits lead, and no more. -/
def Leading (x : Word) (n : Nat) : Prop :=
  n ≤ 64 ∧ (∀ i < n, x.getMsbD i = false) ∧ (n < 64 → x.getMsbD n = true)
/-- `n` zero bits trail, and no more. -/
def Trailing (x : Word) (n : Nat) : Prop :=
  n ≤ 64 ∧ (∀ i < n, x.getLsbD i = false) ∧ (n < 64 → x.getLsbD n = true)

/-- The most negative 64-bit value. -/
def intMin : Word := 0x8000000000000000
/-- The signed quotient with the corners of R155. -/
def quotient (x y : Word) : Word :=
  if y = 0 then 0xFFFFFFFFFFFFFFFF else if x = intMin ∧ y = -1 then intMin else BitVec.ofInt 64 (x.toInt.tdiv y.toInt)
/-- The signed remainder with the corners of R155. -/
def remainder (x y : Word) : Word :=
  if y = 0 then x else if x = intMin ∧ y = -1 then 0 else BitVec.ofInt 64 (x.toInt - y.toInt * x.toInt.tdiv y.toInt)

/-- The destination of the instructions of R154 to R159 and of RDCTL, whose whole effect is on one scalar register. -/
def scalarDest : Instr → Option SReg
  | .add d _ _ | .sub d _ _ | .and d _ _ | .or d _ _ | .xor d _ _ | .shl d _ _ | .shr d _ _ | .sra d _ _ => some d
  | .min d _ _ | .max d _ _ | .minz d _ _ | .maxz d _ _ | .setlt d _ _ | .setltz d _ _ | .seteq d _ _ => some d
  | .popc d _ | .clz d _ | .ctz d _ | .mul d _ _ | .mulh d _ _ | .mulhz d _ _ | .madd d _ _ _ => some d
  | .div d _ _ | .divz d _ _ | .rem d _ _ | .remz d _ _ | .sel d _ _ _ | .bfx d _ _ _ _ | .bfi d _ _ _ => some d
  | .addi d _ _ | .andi d _ _ | .ori d _ _ | .xori d _ _ | .shlImm d _ _ | .shrImm d _ _ | .sraImm d _ _ => some d
  | .li d _ | .addpc d _ | .lui d _ _ _ | .rdctl d _ => some d
  | _ => none

/-! ### Words of the scalar rules -/

/-- A word of Form R with no guard and no modifier but XMOD (R125, R128). -/
def wordR (op func d a b c xmod : Nat) : Word :=
  BitVec.ofNat 64 (op * 2 ^ 56 + d * 2 ^ 50 + a * 2 ^ 44 + b * 2 ^ 38 + c * 2 ^ 32 + func * 2 ^ 20 + xmod)

/-- A word of Form I or K, its low 28 bits given (R129, R134). -/
def wordI (op d a low : Nat) : Word := BitVec.ofNat 64 (op * 2 ^ 56 + d * 2 ^ 50 + a * 2 ^ 44 + low)

/-- The word is a reserved encoding (R142). -/
def IsReserved (w : Word) : Prop := decodeWord w = .reservedEncoding w

/-- FUNC of the binary forms of R154. -/
def binaryFuncs (d a b : SReg) : List (Nat × Instr) :=
  [(0x00, .add d a b), (0x01, .sub d a b), (0x02, .and d a b), (0x03, .or d a b), (0x04, .xor d a b), (0x05, .shl d a b),
   (0x06, .shr d a b), (0x07, .sra d a b), (0x08, .min d a b), (0x09, .max d a b), (0x0A, .minz d a b),
   (0x0B, .maxz d a b), (0x0C, .setlt d a b), (0x0D, .setltz d a b), (0x0E, .seteq d a b)]

/-- FUNC of the unary forms of R154. -/
def unaryFuncs (d a : SReg) : List (Nat × Instr) := [(0x10, .popc d a), (0x11, .clz d a), (0x12, .ctz d a)]

/-- FUNC of R155, but for MADD. -/
def multiplyFuncs (d a b : SReg) : List (Nat × Instr) :=
  [(0x00, .mul d a b), (0x01, .mulh d a b), (0x02, .mulhz d a b), (0x04, .div d a b), (0x05, .divz d a b),
   (0x06, .rem d a b), (0x07, .remz d a b)]

/-! ### Control flow, identity and control registers -/

/-- Bits [63:57] all equal bit 56 (R69). -/
def Canonical (a : Word) : Prop := ∀ i, 57 ≤ i → i < 64 → a.getLsbD i = a.getLsbD 56

/-- When a branch is taken (R131). -/
def Taken : Cond → Word → Word → Prop
  | .eq, x, y => x = y
  | .ne, x, y => x ≠ y
  | .lt, x, y => x.toInt < y.toInt
  | .ge, x, y => y.toInt ≤ x.toInt
  | .ltz, x, y => x.toNat < y.toNat
  | .gez, x, y => y.toNat ≤ x.toNat

/-- The instruction goes to `target`, S[d] (nothing for S0) holds `v`, and nothing else changed but the cached folio and
the marks of the last retirement. -/
def GoesTo (i : Instr) (s : State) (target : Word) (d : SReg) (v : Word) : Prop :=
  Gives i s fun t => getPc t = target ∧ (∀ r, getS t r = if r = d ∧ d ≠ 0 then v else getS s r) ∧
    t = { s with tile := { s.tile with
      seq := { s.tile.seq with s := t.tile.seq.s, vpc := target }, folio := none, fresh := none, barStage := none } }

/-- Features and values of the table of R168. -/
def featureTable : List (Nat × Nat) :=
  [(0x0001, 0x00010000), (0x0002, 256), (0x0003, 0), (0x0004, 1), (0x0005, 0), (0x0006, 8), (0x0007, 64), (0x0008, 16),
   (0x0009, 64), (0x000A, 64)]

/-- The identity table of R178 for strand `k` of a task with record `r`. -/
def identityTable (k : StrandKey) (r : TaskRec) : List (Nat × Nat) :=
  [(0x00, k.tile), (0x01, k.tile % r.gw), (0x02, k.tile / r.gw), (0x03, r.gw), (0x04, r.gh), (0x05, k.gang),
   (0x06, k.gang % r.gx), (0x07, k.gang / r.gx % r.gy), (0x08, k.gang / (r.gx * r.gy)), (0x09, r.gx), (0x0A, r.gy),
   (0x0B, r.gz), (0x0C, r.nregion)]

/-- The control registers that are plain fields, with what RDCTL reads (R136). -/
def controlTable (t : Tile) : List (CtlReg × Word) :=
  [(.round, t.seq.round.setWidth 64), (.sat, t.seq.ufthr.setWidth 64), (.subst, t.seq.subst.setWidth 64),
   (.ufcount, t.seq.ufcount), (.vbank, t.seq.vbank.setWidth 64), (.cycle, t.seq.cycle), (.vl, BitVec.ofNat 64 t.seq.vl),
   (.cwlr, BitVec.ofNat 64 t.chLoad.readMark), (.cwlv, BitVec.ofNat 64 t.chLoad.visMark),
   (.cwsr, BitVec.ofNat 64 t.chStore.readMark), (.cwsv, BitVec.ofNat 64 t.chStore.visMark),
   (.cwar, BitVec.ofNat 64 t.chAcc.readMark), (.cwav, BitVec.ofNat 64 t.chAcc.visMark)]

/-- The instruction retires with the sequencer changed by `f` and nothing else. -/
def Sets (i : Instr) (s : State) (f : Seq → Seq) : Prop :=
  exec i s = .next { s with tile := { s.tile with
    seq := { f s.tile.seq with vpc := s.tile.seq.vpc + 8 }, fresh := none, barStage := none } }

/-- The state code of vector register bank `k` (R121). -/
def bankCode (vb : BitVec 8) (k : Nat) : Nat := (vb.extractLsb' (2 * k) 2).toNat

/-! ### Traps -/

/-- Word `i` of a trap record. -/
def recordWord (b : List Byte) (i : Nat) : Nat := leNat ((b.drop (8 * i)).take 8)

/-- The strand `k` of tile `n` and its task and gang are on the device's lists. -/
def Placed (s : State) (n : Nat) (k : StrandKey) : Prop :=
  (tileAt s n).owner = some k ∧ (s.dev.tasks.any (Task.is k.queue k.record)) = true ∧
    (s.dev.gangs.any (Gang.is k.queue k.record k.gang)) = true

/-! ### Memory accesses of a strand -/

/-- What lies in storage at a piece, little-endian. -/
def valueAt (s : State) (p : Piece) : Nat := (placeMem s p.place).readNat p.addr p.n

/-- The bytes of piece `p` read in `t` as the little-endian bytes of `v`, and every other byte as in `u`. -/
def Stored (u t : State) (p : Piece) (v : Nat) : Prop :=
  ∀ q a, (placeMem t q).read a =
    if q = p.place ∧ p.addr ≤ a ∧ a < p.addr + p.n then BitVec.ofNat 8 (v / 2 ^ (8 * (a - p.addr)))
    else (placeMem u q).read a

/-- A checked load may be performed now: peers answer, no line is poisoned, no reduction of the strand is on its way to a
touched granule, what it must wait for has been acknowledged, and it meets no race (R95, R102, R105, R391, R412). -/
def MayLoad (s : State) (m : MemOp) (xs : List ElemSpot) : Prop :=
  let acc := strandAccess s (if m.order = .plain then .load else .sync) false (m.order != .plain)
  servedPeers s xs = .ok () ∧ poisonFree s xs = .ok () ∧ ownRouted s (touchesOf xs) = .ok () ∧
    (m.order ≠ .plain → owedAcks s (me s) = false) ∧ orderTrap s acc (touchesOf xs) = none ∧
    orderTrap (mark acc (touchesOf xs) s) (strandAccess s .load false false) (expoTouches xs) = none

/-- A checked store may be performed now. -/
def MayStore (s : State) (m : MemOp) (xs : List ElemSpot) : Prop :=
  ownRouted s (touchesOf xs) = .ok () ∧ (m.order ≠ .plain → owedAcks s (me s) = false) ∧
    orderTrap s (strandAccess s (if m.order = .plain then .store else .sync) true (m.order != .plain)) (touchesOf xs) = none

/-- An atomic of order `m` with an operand may be performed now at a found location, where it is its turn at a peer's
scratchpad (R33, R390): as a write where `w`. -/
def MayUpdate (s : State) (m : MemOp) (w : Bool) (x : ElemSpot) (operand : Nat) : Prop :=
  amoServed s x.spot.piece operand = .ok () ∧ poisonTrap s x.spot.piece = .ok () ∧
    (m.order ≠ .plain → owedAcks s (me s) = false) ∧ ownRouted s x.spot.piece.touches = .ok () ∧
    orderTrap s { strandAccess s .sync w true with claims := true } x.spot.piece.touches = none

/-- Nothing of the strand's order state but its knowledge changed; the registers are as before and the strand goes on. -/
def Passed (s t : State) : Prop :=
  getPc t = getPc s + 8 ∧ (∀ r, getS t r = getS s r) ∧ SameBytes s t

/-- The header fields of a CTXSAVE (R379). -/
def saveHead (s : State) (sealed : Bool) (slot : Fin 64) (x y z : Nat) : CtxHead where
  flags := (if sealed then 1 else 0) + if s.tile.seq.liveOverflow then 8 else 0
  slot := if sealed then slot else 0
  ctxid := if sealed then ((keyOf s (taskOf s (me s)).fn slot).map (·.2)).getD 0 else 0
  counter := if sealed then look 0 (fnRegs s (taskOf s (me s)).fn).counters slot + 1 else 0
  resume := (getPc s + 8).toNat
  base := x
  len := y
  rows := z

/-- A sealed save takes the next value of its key slot's counter (R183). -/
def countSave (s : State) (sealed : Bool) (slot : Fin 64) : State :=
  let fn := (taskOf s (me s)).fn
  if sealed then
    onFn fn (fun r => { r with counters := keep r.counters slot (look 0 (fnRegs s fn).counters slot + 1) }) s
  else s

/-! ### Vector instructions -/

/-- Every named vector register lies in a bank that is on (R121, R187). -/
def BanksOn (s : State) (rs : List VReg) : Prop := ∀ r ∈ rs, bankCode s.tile.seq.vbank (r / 16) = 0

/-- The instruction completes and gives the listed lanes of V[d], at type `t`, their results: every other lane and register
keeps its contents, the results' SUBST bits are added, and memory and the device stay as they were. -/
def Lanes (i : Instr) (s : State) (d : VReg) (t : Fmt) (rs : List (Nat × Rep)) : Prop :=
  Gives i s fun u =>
    (∀ r ∈ rs, r.1 < vlmax t → elem (getV u d) r.1 t = r.2.1 % 2 ^ t.bits) ∧
    (∀ j < vlmax t, (∀ r ∈ rs, r.1 ≠ j) → elem (getV u d) j t = elem (getV s d) j t) ∧
    u = { s with tile := { s.tile with
      seq := { s.tile.seq with
        v := s.tile.seq.v.set d (getV u d), subst := s.tile.seq.subst ||| substOf (rs.map (·.2)),
        vpc := s.tile.seq.vpc + 8 },
      fresh := none, barStage := none } }

/-- `Lanes` on the active lanes, lane `j` receiving `f j`. -/
def EachLane (i : Instr) (s : State) (d : VReg) (m : VMod) (g : Guard) (f : Nat → Rep) : Prop :=
  Lanes i s d m.ty ((activeLanes s m.ty g).map fun j => (j, f j))

/-- An exact result rounded once to the type of the instruction (R53, R54). -/
def rounded (s : State) (m : VMod) (x : Machine.Num) : Rep := roundTo m.ty (roundMode s m.rnd) (satSel m) 127 true x

/-- Lane `j` of register `r` as it stands. -/
def lane (s : State) (m : VMod) (r : VReg) (j : Nat) : Nat := elem (getV s r) j m.ty

/-- The exact value of a lane. -/
def value (s : State) (m : VMod) (r : VReg) (j : Nat) : Machine.Num := decodeNum m.ty 127 (lane s m r j)

/-- The vector registers that an instruction of the guarded set names (R187), but for the memory instructions. -/
def namedVectors : Instr → List VReg
  | .vadd d a b _ _ | .vsub d a b _ _ | .vmul d a b _ _ | .vmin d a b _ _ | .vmax d a b _ _ | .vand d a b _ _
  | .vor d a b _ _ | .vxor d a b _ _ | .vsel d a b _ _ _ | .vperm d a b _ _ | .vredsum d a b _ _ _ | .vredmax d a b _ _
  | .vredmin d a b _ _ | .vscan _ d a b _ _ _ | .vladd d a b _ _ | .vlsub d a b _ _ => [d, a, b]
  | .vfma d a b c _ _ => [d, a, b, c]
  | .vabs d a _ _ | .vneg d a _ _ | .vpopc d a _ _ | .vcompress d a _ _ | .vexpand d a _ _ | .vrecip d a _ _
  | .vrsqrt d a _ _ | .vexp2 d a _ _ | .vlog2 d a _ _ => [d, a]
  | .vshl d a b s _ _ | .vshr d a b s _ _ | .vsra d a b s _ _ => if s then [d, a] else [d, a, b]
  | .vcmp _ _ a b _ _ => [a, b]
  | .vbcast d a _ l _ _ => if l then [d, a] else [d]
  | .vext _ a _ _ _ => [a]
  | .viota d _ _ _ => [d]
  | .vcvt d a c ts _ _ m _ => if m.ty = .ds8 ∨ ts = .ds8 then [d, a, c] else [d, a]
  | .vcvtds d a c _ _ _ _ _ => [d, a, c]
  | .portw _ a _ _ => [a]
  | .portr _ _ c => [c]
  | _ => []

/-- The banks in retention among those of named registers, as a mask. -/
def sleeping (s : State) (rs : List VReg) (k : Nat) : Bool :=
  rs.any (fun r => r.val / 16 == k) && bankCode s.tile.seq.vbank k == 1

/-! ### Memory instructions -/

/-- The element of a scalar access to the own scratchpad. -/
def ownElem (s : State) (addr n : Nat) : ElemSpot :=
  ⟨⟨0, addr, false, false⟩, ⟨⟨.pad s.tileNo, addr, n, padReport (me s).tile addr⟩, none⟩, none, none⟩

/-- A piece is in storage that takes a store at once: not the scratchpad of a stopped or halted peer (R33, R391). -/
def Served (s : State) (p : Piece) : Prop := ∀ n, p.place = .pad n → n = s.tileNo ∨ unserved (tileAt s n) = false

/-- The instruction retires with the registers as they were. -/
def RegistersKept (s t : State) : Prop :=
  getPc t = getPc s + 8 ∧ (∀ r, getS t r = getS s r) ∧ (∀ r, getV t r = getV s r) ∧ (∀ r, getP t r = getP s r)

/-- The elements that a vector load or store addresses, with its type, lane guard, space, order and the registers it
names; LDV and STV also probe the page of A (R216, R217). -/
def vectorAccess (s : State) (u : Use) : Instr → Option (MemOp × Option Nat × List VReg × List Elem)
  | .ldv d a m g | .stv d a m g =>
    let x := effAddr s a m.off
    some (m, some x, [d], runElems (fmtAt s m.space u x) m.ty x (activeLanes s m.ty g))
  | .ldvs d a b m g | .stvs d a b m g =>
    some (m, none, [d], strideElems (effAddr s a m.off) (getS s b).toNat (activeLanes s m.ty g))
  | .ldvx d a b m g | .stvx d a b m g =>
    some (m, none, [d, b], indexElems (effAddr s a m.off) (getV s b) (indexLanes s m.ty g))
  | _ => none

/-- What `checkAccess` finds, with no element at all for no active lane. -/
def found (s : State) (u : Use) (m : MemOp) (probe : Option Nat) (es : List Elem) (ok : Option Nat → Bool) :
    Except Stop (List ElemSpot) :=
  if es.isEmpty then .ok [] else checkAccess s m.space u m.ty probe es ok

/-- The value that an AMO writes over `old` (R220). -/
def amoNew (op : AmoKind) (n old x : Nat) : Nat :=
  match op with
  | .add => (old + x) % 2 ^ n
  | .and => old &&& x
  | .or => old ||| x
  | .xor => old ^^^ x
  | .min => if signedOf n old ≤ signedOf n x then old else x
  | .max => if signedOf n x ≤ signedOf n old then old else x
  | .minz => min old x
  | .maxz => max old x
  | .swap => x
  | .faddF32 => (roundTo .f32 .rne .none 127 true (sumNums .rne [decodeNum .f32 127 old, decodeNum .f32 127 x])).1
  | .faddBf16 => (roundTo .bf16 .rne .none 127 true (sumNums .rne [decodeNum .bf16 127 old, decodeNum .bf16 127 x])).1

/-- The operation and operands of an AMO. -/
def amoOf : Instr → Option (AmoKind × SReg × SReg × SReg × Bool × MemOp)
  | .amoAdd d a b x m => some (.add, d, a, b, x, m)
  | .amoAnd d a b x m => some (.and, d, a, b, x, m)
  | .amoOr d a b x m => some (.or, d, a, b, x, m)
  | .amoXor d a b x m => some (.xor, d, a, b, x, m)
  | .amoMin d a b x m => some (.min, d, a, b, x, m)
  | .amoMax d a b x m => some (.max, d, a, b, x, m)
  | .amoMinz d a b x m => some (.minz, d, a, b, x, m)
  | .amoMaxz d a b x m => some (.maxz, d, a, b, x, m)
  | .amoSwap d a b x m => some (.swap, d, a, b, x, m)
  | .amoFaddF32 d a b x m => some (.faddF32, d, a, b, x, m)
  | .amoFaddBf16 d a b x m => some (.faddBf16, d, a, b, x, m)
  | _ => none

/-! ### Engine commands -/

/-- A named reply queue has room for one more entry (R18). -/
def ReplyRoom (s : State) (reply : Option QReg) : Prop :=
  ∀ q : QReg, reply = some q → s.tile.replies[q].entries.length + s.tile.replies[q].reserved < 16

/-- One command more stands last in the queue of engine `e`, with the next number of that queue; the strand has taken one
place in program order. -/
def Queued (s t : State) (e : Eng) (body : Cmd) (reply : Option QReg) : Prop :=
  let n := s.tile.issued[engIx e] + 1
  (∃ c : QCmd, engQueue t.tile e = engQueue s.tile e ++ [c] ∧ c.owner = me s ∧ c.seq = n ∧ c.body = body ∧ c.reply = reply ∧
    c.vpc = getPc s ∧ c.started = false ∧ c.held = none ∧ c.clock = ordClock (me s) s.tile.ord) ∧
  (∀ f, f ≠ e → engQueue t.tile f = engQueue s.tile f) ∧
  t.tile.issued = s.tile.issued.set (engIx e) n ∧ t.tile.fresh = some (e, n) ∧ t.tile.ord.po = s.tile.ord.po + 1

/-- Entries and reservations of the reply queues, with `n q` reservations more in queue `q`. -/
def Reserved (s t : State) (n : QReg → Nat) : Prop :=
  ∀ q : QReg, t.tile.replies[q].entries = s.tile.replies[q].entries ∧
    t.tile.replies[q].reserved = s.tile.replies[q].reserved + n q

/-- The next transfer identifier of a channel, if one is named, is taken; no watermark moves (R17). -/
def TookId (s t : State) (ch : Option Chan) : Prop :=
  ∀ c, chanState t.tile c =
    if ch = some c then { chanState s.tile c with last := (chanState s.tile c).last + 1 } else chanState s.tile c

/-- What the issue of a command leaves alone: all but the queues, the reply queues, the counters of what was issued, the
fibre configuration, the scalar registers, the program counter and the place in program order. -/
def OnlyIssue (s t : State) : Prop :=
  t = { s with tile := { s.tile with
    qLoad := t.tile.qLoad, qStore := t.tile.qStore, qMatrix := t.tile.qMatrix, qFibre := t.tile.qFibre,
    replies := t.tile.replies, issued := t.tile.issued, chLoad := t.tile.chLoad, chStore := t.tile.chStore,
    chAcc := t.tile.chAcc, accSeq := t.tile.accSeq, collCounts := t.tile.collCounts, fibre := t.tile.fibre,
    fresh := t.tile.fresh, barStage := none, ord := { s.tile.ord with po := s.tile.ord.po + 1 },
    seq := { s.tile.seq with
      s := t.tile.seq.s, vpc := s.tile.seq.vpc + 8, subst := t.tile.seq.subst, collSeq := t.tile.seq.collSeq,
      fgoSeq := t.tile.seq.fgoSeq } } }

/-- The issue of a command of body `body` to engine `e` (R15, R17, R18): a reply queue without room raises
REPLY_OVERFLOW, a full command queue blocks, and otherwise the command is queued, S[d] holds `v`, the SUBST bits `f` are
added, and `more` holds. `u` is the state with the pages used of the descriptors that the command names (R372). -/
def Issues (i : Instr) (s u : State) (e : Eng) (body : Cmd) (reply : Option QReg) (ch : Option Chan) (d : SReg) (v : Word)
    (f : BitVec 3) (more : State → Prop) : Prop :=
  (¬ ReplyRoom s reply → Traps i s 0x0C4 0 0) ∧
  (ReplyRoom s reply → queueRoom e ≤ (engQueue s.tile e).length → Blocks i s (.room e)) ∧
  (ReplyRoom s reply → (engQueue s.tile e).length < queueRoom e → Gives i s fun t =>
    Queued s t e body reply ∧ Reserved s t (fun q => if reply = some q then 1 else 0) ∧ TookId s t ch ∧
      (∀ r, getS t r = if r = d ∧ d ≠ 0 then v else getS s r) ∧ t.tile.seq.subst = s.tile.seq.subst ||| f ∧
      OnlyIssue u t ∧ SameBytes u t ∧ more t)

/-- Nothing else is counted: no collective, no graph, no CPYA, and the fibre configuration as it was. -/
def NoOther (s t : State) : Prop :=
  t.tile.accSeq = s.tile.accSeq ∧ t.tile.collCounts = s.tile.collCounts ∧ t.tile.fibre = s.tile.fibre ∧
    t.tile.seq.collSeq = s.tile.seq.collSeq ∧ t.tile.seq.fgoSeq = s.tile.seq.fgoSeq

/-- The pitch in force for operand `p` and rows of `row` bytes (R223). -/
def pitchInForce (p row : Nat) : Nat := if p = 0 then (row + 31) / 32 * 32 else p

/-- The pitch operand is allowed. -/
def PitchOk (p row : Nat) : Prop := p = 0 ∨ (p % 32 = 0 ∧ row ≤ p)

/-- The local layout at `a` lies in the scratchpad, aligned (R223). -/
def LayoutOk (a p rows row : Nat) : Prop :=
  a % 32 = 0 ∧ PitchOk p row ∧ a + (rows - 1) * pitchInForce p row + row ≤ 0x200000

/-- The traps of a local layout that is not: MISALIGNED of S[a], then the pitch, then the lowest byte that lies outside. -/
def LayoutTraps (i : Instr) (s : State) (a p rows row : Nat) : Prop :=
  (a % 32 ≠ 0 → Traps i s 0x04A (BitVec.ofNat 64 a) 0) ∧
  (a % 32 = 0 → ¬ PitchOk p row → Traps i s 0x053 (BitVec.ofNat 64 p) 0) ∧
  (a % 32 = 0 → PitchOk p row → 0 < rows → 0 < row → 0x200000 < a + (rows - 1) * pitchInForce p row + row →
    ∃ b, Traps i s 0x048 (BitVec.ofNat 64 b) 0 ∧
      let outside := fun b => 0x200000 ≤ b ∧ ∃ r < rows, a + r * pitchInForce p row ≤ b ∧ b < a + r * pitchInForce p row + row
      outside b ∧ ∀ c, outside c → b ≤ c)

/-- The copy command of CPYL, CPYS or CPYF at its issue. -/
def copyBody (s : State) (x : XOp) (e : Desc) (tb lb : Nat) (toLocal : Bool) (base pitch : Nat) (ring : Option (Fin 8))
    (print : Option Nat) (nd : Bool) : Cmd :=
  .copy {
    id := (chanState s.tile (if toLocal then .load else .store)).last + 1, toLocal := toLocal, desc := e, base := base,
    pitch := pitch, ring := ring, slot := none, print := print, noData := nd, scope := x.scope, rmode := s.tile.seq.round,
    path := if e.fpath then some (e.fregion, e.fport) else none, tbits := tb, lbits := lb }

/-- The identifier that a copy of a channel takes, as S[d] receives it. -/
def nextId (s : State) (ch : Chan) : Word := BitVec.ofNat 64 ((chanState s.tile ch).last + 1)

/-- RSETUP is allowed (R83, R229): the geometry, no overlap with another ring, every slot free, and no copy naming the
ring still queued, one that an ended strand left neither (R36). -/
def RingAllowed (s : State) (r : Fin 8) (base size count : Nat) : Prop :=
  base % 32 = 0 ∧ size % 32 = 0 ∧ 32 ≤ size ∧ size ≤ 0x100000 ∧ 1 ≤ count ∧ count ≤ 1024 ∧
    base + size * count ≤ 0x200000 ∧
    (∀ (j : Fin 8) (y : Ring), j ≠ r → s.tile.rings[j] = some y →
      base + size * count ≤ y.base ∨ y.base + y.slotSize * y.count ≤ base) ∧
    (∀ y : Ring, s.tile.rings[r] = some y → ∀ x ∈ y.slots, x = .free) ∧
    ∀ c ∈ s.tile.qLoad, ∀ x, c.body = .copy x → x.ring ≠ some r

/-- Ring `r` is `x` afterwards, the other rings are as before. -/
def RingIs (s t : State) (r : Fin 8) (x : Ring) : Prop :=
  t.tile.rings[r] = some x ∧ ∀ j : Fin 8, j ≠ r → t.tile.rings[j] = s.tile.rings[j]

/-! ### Fibre commands -/

/-- The unit, its function and its endpoints, of a configuration command without a descriptor (R275). -/
def graphUnit (s : State) : Instr → Option (UnitRef × UnitCfg)
  | .fisect u d c a b => some (u, ⟨.isect, [d.val, c.val], [a.val, b.val]⟩)
  | .funion u d c a b => some (u, ⟨.union, [d.val, c.val], [a.val, b.val]⟩)
  | .frepeat u d a b => some (u, ⟨.rep, [d.val], [a.val, b.val]⟩)
  | .freduce u d a op t sat rnd => some (u, ⟨.reduce op t sat (roundBits s rnd), [d.val], [a.val]⟩)
  | .falu u d a b op t two sat rnd imm =>
    some (u, ⟨.alu op t two sat (roundBits s rnd) imm, [d.val], if two then [a.val, b.val] else [a.val]⟩)
  | .fgen u d a => some (u, ⟨.gen, [d.val], [a.val]⟩)
  | .fsteer u d c a b => some (u, ⟨.steer, [d.val, c.val], [a.val, b.val]⟩)
  | .fmerge u d c a b => some (u, ⟨.merge, [d.val], [a.val, b.val, c.val]⟩)
  | .fcarry u d a b => some (u, ⟨.carry, [d.val], [a.val, b.val]⟩)
  | _ => none

/-- The units of a class, 0 to 8, and the unit number of its first (R256). -/
def classUnits : List (Nat × Nat) := [(8, 0), (4, 8), (4, 12), (4, 16), (4, 20), (8, 24), (4, 32), (4, 36), (2, 40)]

/-- The class and unit fields are among those a function may take (R133, R275): its own class; for the three routers a
generator, or ALU unit 0. -/
def UnitAllowed (fn : UnitFn) (u : UnitRef) : Prop :=
  let own := fun (k : Nat) => u.cls.val = k ∧ u.unit.val < (classUnits.getD k (0, 0)).1
  match fn with
  | .scan _ _ _ _ _ _ _ => own 0
  | .isect => own 1
  | .union => own 2
  | .rep => own 3
  | .reduce _ _ _ _ => own 4
  | .value _ _ => own 5
  | .alu _ _ _ _ _ _ => own 6
  | .write _ _ _ _ => own 7
  | .gen => own 8
  | .steer | .merge | .carry => own 8 ∨ (u.cls.val = 6 ∧ u.unit.val = 0)
  | _ => False

/-- The unit number of a unit (R256). -/
def unitNumber (u : UnitRef) : Nat := (classUnits.getD u.cls.val (0, 0)).2 + u.unit.val

/-- The strand has an unfinished FGO, whose number FIBRE_BUSY reports (R273). -/
def Busy (i : Instr) (s : State) : Prop :=
  ∀ n, oldestGo s.tile (me s) = some n → Traps i s 0x0CB (BitVec.ofNat 64 n) 0

/-- The configuration of a slot is queued, in place of an earlier one of the same slot; a graph that then has a second
producer or a fifth consumer of some endpoint raises FIBRE_CONFIG (R257, R274). `u` is the state with the pages used of the
descriptors that the command names. -/
def Configures (i : Instr) (s u : State) (slot : Nat) (c : UnitCfg) : Prop :=
  let plan := s.tile.fibre.plan.filter (fun e => e.1 != slot) ++ [(slot, c)]
  let fair := ∀ f < 32, (plan.map fun u => u.2.outs.count f).sum ≤ 1 ∧ (plan.map fun u => u.2.ins.count f).sum ≤ 4
  (¬ fair → Traps i s 0x0CA 0 0) ∧
  (fair → Issues i s u .fibre (.config slot c) none none 0 0 0 fun t =>
    t.tile.fibre = { s.tile.fibre with plan := plan } ∧ t.tile.accSeq = s.tile.accSeq ∧
      t.tile.collCounts = s.tile.collCounts ∧ t.tile.seq.collSeq = s.tile.seq.collSeq ∧
      t.tile.seq.fgoSeq = s.tile.seq.fgoSeq)

/-- Array `k` of a scan is descriptor TDI + k: in the same table, with SCAN, of one dimension, of its format (R276). -/
def ScanArray (s : State) (tdi k : Nat) (fmt : Option Nat) (x : Desc) : Prop :=
  tdi + k ≤ 0xFFFF ∧ ¬ (tdi ≤ 0xFFBF ∧ 0xFFBF < tdi + k) ∧ getDesc s (tdi + k) = .ok x ∧ Nat.land x.rights 8 = 8 ∧
    x.ndim = 1 ∧ ∀ f, fmt = some f → x.fmt = f

/-- Sinks of a graph that post to reply queue `q`. -/
def sinksTo (cfg : List (Nat × UnitCfg)) (q : QReg) : Nat :=
  cfg.countP fun u => match u.2.fn with | .sinkQ _ r _ => r == q | _ => false

/-- Nothing but the named port of the tile changed, besides registers. -/
def PortOnly (s t : State) (p : Fin 8) : Prop := ∀ j : Fin 8, j ≠ p → t.tile.ports[j] = s.tile.ports[j]

/-! ### Device steps -/

/-- The step changes tile `n` by `f` and nothing else. -/
def TileBecomes (i : Instr) (s : State) (n : Nat) (f : Tile → Tile) : Prop := exec i s = .next (onTile n f s)

/-- The step changes the device by `f` and no tile. -/
def DevBecomes (i : Instr) (s : State) (f : Dev → Dev) : Prop := exec i s = .next { s with dev := f s.dev }

/-- The step finds nothing to do. -/
def Unchanged (i : Instr) (s : State) : Prop := exec i s = .next s

/-- What a blocked strand waits for has come (R30); a service and a retention wake end otherwise. -/
def Arrived (s : State) (n : Nat) (k : StrandKey) : WaitFor → Prop
  | .reply q => (tileAt s n).replies[q].entries ≠ []
  | .replies q m => m ≤ (tileAt s n).replies[q].entries.length
  | .mark ch false x => x ≤ (chanState (tileAt s n) ch).readMark
  | .mark ch true x => x ≤ (chanState (tileAt s n) ch).visMark
  | .drained mask => maskDrained (tileAt s n) k mask = true
  | .barrier b => k.tile ∉ (gangOf s k).pending.getD b []
  | .ringFree r => ∀ x : Ring, (tileAt s n).rings[r] = some x → 0 < x.free
  | .ringFilled r => ∀ x : Ring, (tileAt s n).rings[r] = some x → 0 < x.filled
  | .rest => atRest (tileAt s n) k = true
  | .allDrained => allDrained (tileAt s n) k = true
  | .room e => (engQueue (tileAt s n) e).length < queueRoom e
  | .portRoom p m => (tileAt s n).ports[p].tx.length + m ≤ 8
  | .portEmpty p => (tileAt s n).ports[p].tx = []
  | .retention _ => False
  | .acks => owedAcks s k = false
  | .service _ _ => False
  | .folio => (folioAt s (taskOf s k) (tileAt s n).seq.vpc).isSome = true
  | .peer i amo => ∃ m, (gangOf s k).tiles[i]? = some m ∧
      if amo.isSome then amoTurn k (tileAt s m) = true else unserved (tileAt s m) = false
  | .codec => ∀ sent bs, (tileAt s n).codec = some (sent, bs) → bs.any beatEnds = true

/-- A watermark has risen over `id` and the identifiers done before it, as far as they run on without a gap (R17). -/
def Rises (old : Nat) (done : List Nat) (id new : Nat) : Prop :=
  old ≤ new ∧ (∀ j, old < j → j ≤ new → j = id ∨ j ∈ done) ∧ new + 1 ≠ id ∧ new + 1 ∉ done

/-- An entry is posted to the reply queue of a command whose strand is still there, in place of its reservation (R18). -/
def Posted (s t : State) (n : Nat) (c : QCmd) (entry : Nat) : Prop :=
  ∀ q : QReg, (tileAt t n).replies[q] =
    if c.reply = some q ∧ (tileAt s n).owner = some c.owner then
      ⟨(tileAt s n).replies[q].entries ++ [BitVec.ofNat 64 entry], (tileAt s n).replies[q].reserved - 1⟩
    else (tileAt s n).replies[q]

/-- Element (r, c) of the accumulator store of tile `n`. -/
def accAt (s : State) (n r c : Nat) : Nat := (tileAt s n).accum.readNat (4 * (256 * r + c)) 4

/-- Every accumulator element of tile `n` that lies in the window becomes `f row column`, and no other changes. -/
def AccBecomes (s t : State) (n row0 col0 rows cols : Nat) (f : Nat → Nat → Nat) : Prop :=
  ∀ r < 256, ∀ c < 256, accAt t n r c =
    if row0 ≤ r ∧ r < row0 + rows ∧ col0 ≤ c ∧ c < col0 + cols then f r c else accAt s n r c

/-- The head command of a queue is `c`, with `rest` behind it, and may act: its engine runs, what came before it has been
acknowledged, no held copy in flight keeps it from starting, and no copy in flight bears its number. -/
def Head (s : State) (n : Nat) (e : Eng) (c : QCmd) (rest : List QCmd) : Prop :=
  engQueue (tileAt s n) e = c :: rest ∧ enginesRun (tileAt s n) = true ∧ c.held = none ∧ owedAcks s c.owner = false ∧
    (c.started = true ∨ stalled (tileAt s n) e = false) ∧
    ∀ d ∈ flightOf (tileAt s n) e, ¬ (d.owner = c.owner ∧ d.seq = c.seq)

/-- The messages of a copy at region ports are dropped. -/
def unsaid (n : Nat) (c : QCmd) (s : State) : State :=
  match copyId c.body with
  | some (ch, id) => dropServing (· == .copy n ch id) s
  | none => s

/-- The head command is held with a fault, which waits for delivery (R116); a message of its own at a region port is
dropped. -/
def HeldWith (i : Instr) (s : State) (n : Nat) (e : Eng) (c : QCmd) (rest : List QCmd) (t : TrapInfo) : Prop :=
  exec i s = .next (unsaid n c (onTile n (setEngQueue e ({ c with held := some (.fault t) } :: rest)) s))

/-- The head command leaves the queue of engine `e`, is charged to its task, and posts its entry. -/
def Finished (s t : State) (n : Nat) (e : Eng) (c : QCmd) (rest : List QCmd) (entry pj : Nat) : Prop :=
  engQueue (tileAt t n) e = rest ∧ (∀ f, f ≠ e → engQueue (tileAt t n) f = engQueue (tileAt s n) f) ∧
    (tileAt t n).unreported = (tileAt s n).unreported ++ [(c.owner, pj)] ∧
    (telemetryAt t n).energy = (telemetryAt s n).energy + BitVec.ofNat 64 pj ∧ Posted s t n c entry

/-- The graph run of tile `n` is under way: the head of the fibre queue is FGO `seq` with configuration `cfg`, its run `r`. -/
def Running (s : State) (n : Nat) (c : QCmd) (rest : List QCmd) (seq : Nat) (cfg : List (Nat × UnitCfg)) (r : Run) : Prop :=
  (tileAt s n).qFibre = c :: rest ∧ c.body = .go seq cfg ∧ c.held = none ∧ (tileAt s n).fibre.run = some r ∧
    fibreRuns (tileAt s n) = true ∧ ∀ d ∈ flightOf (tileAt s n) .fibre, ¬ (d.owner = c.owner ∧ d.seq = c.seq)

/-- The step changes the run of tile `n` and nothing else. -/
def RunBecomes (i : Instr) (s : State) (n : Nat) (r : Run) : Prop :=
  TileBecomes i s n fun t => { t with fibre := { t.fibre with run := some r } }

/-- The buffers of a collective once every result has been written: participants by rank, tile and command, element by
element, each where its kind writes (R233). -/
def collWritten (s : State) (x : CollCmd) (ranks : Nat) (det : Bool) (ms : List (Nat × Nat × QCmd)) : State :=
  let vals := (List.range (descCount x.desc)).map fun i => (i, collValue s x ranks i det (rankValue s x ms i))
  ms.foldl (fun t m =>
    match m.2.2.body with
    | .coll y => vals.foldl (fun t v => if writesElem y ranks m.1 v.1 then collWrite m.2.1 m.2.2 y v.1 v.2 t else t) t
    | _ => t) s

/-- The accessed bits of the pages that the participants read and wrote are set, and their accesses are kept for the
conflict check. -/
def collUsed (ranks : Nat) (ms : List (Nat × Nat × QCmd)) (s : State) : State :=
  ms.foldl (fun t m => match m.2.2.body with | .coll y => collMark m.2.1 m.2.2 y ranks m.1 t | _ => t) s

/-- Member `i` of a gang has arrived at barrier `k`, or has ended (R171). -/
def Reached (g : Gang) (k i : Nat) : Prop := i ∈ g.pending.getD k [] ∨ g.members[i]? = some .ended

/-- A trap is taken by the strand of tile `n`: a record with the report, the first cause noted, the fault policy (R113,
R117). -/
def TakesTrap (s t : State) (n : Nat) (k : StrandKey) (rep : Report) (f : TrapInfo) : Prop :=
  t = applyPolicy n k rep f.cause (noteCause k f.cause (writeRecord n k rep f s))

/-- A strand stands at an SVI boundary, running or blocked at an instruction that a stop can be taken at (R30). -/
def AtBoundary (t : Tile) : Prop :=
  t.run = .running ∨ ∃ w, t.run = .blocked w ∧
    w ≠ .acks ∧ w ≠ .folio ∧ w ≠ .codec ∧ ∀ m a, w ≠ .peer m a

/-! ### The Scribe, the dispatcher, queues and the mailbox -/

/-- An instruction that ends a folio (R337). -/
def Ends : Instr → Prop
  | .j _ | .jl _ | .jr _ _ | .endStrand _ | .trap _ _ _ | .ctxload _ _ _ => True
  | _ => False

/-- A folio that starts at a VPC holds the words of its page from there to the first that ends it, or to the page's last,
under the task's key (R337, R338). The page of an object loaded with EAGER may stand in an earlier frame (log 41). -/
def FolioFrom (s : State) (k : StrandKey) (vpc : Nat) (f : Folio) : Prop :=
  let n := f.words.length
  f.first.toNat = vpc ∧ f.page.toNat = vpc / 4096 * 4096 ∧ f.last.toNat = vpc + 8 * (n - 1) ∧
    f.tenant = (taskOf s k).trec.tenant ∧ f.root = rootOf s (taskOf s k) ∧ f.binding = (taskOf s k).factors ∧ 0 < n ∧
    ∃ q a, ((∃ p, locate s (strandSpace s k) .fetch (vpc / 4096 * 4096) = .ok p ∧ q = p.place ∧ a = p.addr) ∨
        ((objOf s (taskOf s k)).any (·.eager) = true ∧ ∃ c ∈ s.dev.pages, q = c.place ∧ a = c.addr)) ∧
      (∀ i < n, (f.words.getD i 0).toNat = (placeMem s q).readNat (a + vpc % 4096 + 8 * i) 8) ∧
      (∀ i, i + 1 < n → ¬ Ends (decodeWord (f.words.getD i 0))) ∧
      (Ends (decodeWord (f.words.getD (n - 1) 0)) ∨ vpc % 4096 + 8 * n = 4096)

/-- What a step makes of a state. -/
def after (i : Instr) (s : State) : State := match exec i s with | .next t => t | _ => s

/-- A completion of record `r` of queue `q` is published, leading to memories as in `u` (R356): the status word first, then
the counter, which counts up and keeps or takes FAILED. -/
def Publishes (s : State) (q r code detail cause : Nat) (u : State) : Prop :=
  let x := taskAt s q r
  let as := spaceOf s x.fn x.pasid
  let at_ := x.trec.completion.toNat
  ∃ (u1 : State) (b : List Byte) (f : Found),
    devWrite as x.trec.status.toNat
      (leBytes 8 (code + detail * 2 ^ 8 + cause * 2 ^ 16 + min x.traps (2 ^ 32 - 1) * 2 ^ 32)) s = .ok u1 ∧
    devRead u1 as at_ 8 = .ok b ∧ locate u1 as .update at_ = .ok f ∧
    devWrite as at_ (leBytes 8 ((leNat b + 1) % 2 ^ 63 + if code ≠ 1 ∨ (leNat b).testBit 63 = true then 2 ^ 63 else 0)) u1 =
      .ok u

/-- The messages signalled for a task's completion (R345, R356). -/
def Notified (s t : State) (x : Task) : Prop :=
  t.dev.irqs = if x.trec.irq then (x.fn, x.trec.irqvec) :: s.dev.irqs else s.dev.irqs

/-- A wait's counter has reached its threshold (R357). -/
def WaitMet (s : State) (x : Task) (w : WaitCond) : Prop :=
  ∃ b, devRead s (spaceOf s x.fn x.pasid) w.addr.toNat 8 = .ok b ∧ w.thresh ≤ leNat b % 2 ^ 63

/-- A wait's counter reads FAILED, and the wait does not proceed then (R357). -/
def WaitFails (s : State) (x : Task) (w : WaitCond) : Prop :=
  w.proceed = false ∧ ∃ b, devRead s (spaceOf s x.fn x.pasid) w.addr.toNat 8 = .ok b ∧ (leNat b).testBit 63 = true

/-- A function may command a queue: the PF any, a VF its own (R346). -/
def Commands (s : State) (fn q : Nat) : Prop := q < 4096 ∧ (fn = 0 ∨ (queueAt s q).owner = fn)

/-- The mailbox of function `fn` is busy with a command of a code (R349). -/
def Command (s : State) (fn code : Nat) : Prop := (fnRegs s fn).mbBusy = true ∧ (fnRegs s fn).mbCmd.toNat % 256 = code

/-- Bits `[lo + w - 1 : lo]` of the command word. -/
def cmdBits (s : State) (fn lo w : Nat) : Nat := (fnRegs s fn).mbCmd.toNat / 2 ^ lo % 2 ^ w

/-- The command word has no bit at or above `n` (R444). -/
def CmdBelow (s : State) (fn n : Nat) : Prop := (fnRegs s fn).mbCmd.toNat < 2 ^ n

/-- A mailbox block as its function's own DMA reads it. -/
def Block (s : State) (fn n : Nat) (b : List Byte) : Prop := dmaRead s fn (fnRegs s fn).mbOperand.toNat n = some b

/-- The `n` bytes of a block from an offset are zero. -/
def ZeroBytes (b : List Byte) (off n : Nat) : Prop := ∀ i < n, b.getD (off + i) 0 = 0

/-- The mailbox as a command that succeeded leaves it (R349). -/
def answered (fn : Nat) (r : Option Word) : State → State :=
  onFn fn fun x => { x with mbBusy := false, mbStatus := 0, mbDetail := 0, mbResult := r.getD x.mbResult }

/-- The command succeeds with result `r`, the machine otherwise changed by `f`. -/
def Answers (i : Instr) (s : State) (fn : Nat) (r : Option Word) (f : State → State) : Prop :=
  exec i s = .next (answered fn r (f s))

/-- The command fails with a status, and nothing but the mailbox changes (R349, R444). -/
def Rejects (i : Instr) (s : State) (fn status : Nat) : Prop :=
  ∃ d, exec i s = .next (onFn fn (fun x => { x with mbBusy := false, mbStatus := status, mbDetail := d }) s)

/-- The mailbox of `t` shows success with result `r`, or the result it had. -/
def Succeeded (s t : State) (fn : Nat) (r : Option Word) : Prop :=
  (fnRegs t fn).mbBusy = false ∧ (fnRegs t fn).mbStatus = 0 ∧ (fnRegs t fn).mbDetail = 0 ∧
    (fnRegs t fn).mbResult = r.getD (fnRegs s fn).mbResult

/-- Folios that a TCINV of function `fn` with a scope and a root removes (R342, R349). -/
def Invalidates (s : State) (fn scope : Nat) (root : List Byte) (f : Folio) : Prop :=
  (scope = 2 ∧ fn = 0) ∨ (f.tenant = (fnRegs s fn).tenant ∧ (scope = 1 → f.root = root))

/-- A region as the manager frees it: all cleared, the sensor and the throttle kept (R400, R410). -/
def freed (x : Region) : Region := { Region.blank with slotDly := x.slotDly, dlyMax := x.dlyMax, temp := x.temp }

/-- Stage `k` of a firmware image may run: its signature verifies over its digest, and the version is not below the rollback
floor (R423). -/
def StageGood (image : List Byte) (k : Nat) : Prop :=
  Config.firmwareVerify (shake256 (Config.stagePart image k).1 64) (Config.stagePart image k).2 = true ∧
    Config.rollbackFloor ≤ (Config.firmwareVersion image).toNat

/-- The start of `t` has failed at the image of stage `k`, with the reason and detail of R427. -/
def StageFailed (image : List Byte) (k : Nat) (t : State) : Prop :=
  t.dev.startFailed = true ∧
    if Config.firmwareVerify (shake256 (Config.stagePart image k).1 64) (Config.stagePart image k).2 = true then
      t.dev.reason = 2 ∧ t.dev.detail = (Config.firmwareVersion image).toNat % 2 ^ 32
    else t.dev.reason = 1 ∧ t.dev.detail = k

/-- The links of the device but link `l` are as before. -/
def OtherLinks (s t : State) (l : Nat) : Prop := ∀ m, m ≠ l → linkAt t m = linkAt s m

/-! ### Encodings, reset, steps -/

/-- No override, no saturation. -/
def plainMod (t : Fmt) : VMod := ⟨t, .dyn, false, false⟩

/-- The operand fields of a plain access to global memory. -/
def plainOp (t : Fmt) (off : BitVec 20) : MemOp := ⟨t, .glob, .plain, .tile, false, off⟩

/-- Words of chapters 06 and 07. -/
def scalarWords : List (Nat × Instr) :=
  [(0x001461C000000000, .add 5 6 7), (0x80146002018FFFF0, .ld 5 6 ⟨.s32, .glob, .acq, .dev, false, 0xFFFF0⟩),
   (0x4110518030054200, .vadd 4 5 6 ⟨.bf16, .rup, false, false⟩ ⟨3, true⟩),
   (0x2000310002FFFFFB, .bCond .lt 3 4 0xFFFFFB), (0x2400000000000000, .nop),
   (0x011C824000400000, .div 7 8 9), (0x0310530700000001, .bfx 4 5 12 7 true), (0x3400500000000003, .waitcV .store 5),
   (0x3000000003400000, .fence .ar .gang), (0x3100000000000003, .bar 3), (0x3A08000000000005, .rdid 2 5),
   (0x2800000000000006, .endStrand 6), (0x3E28B30D00123005, .ctxsave 10 11 12 13 0x123 true 2),
   (0xFFFFFFFFFFFFFFFF, .reservedEncoding 0xFFFFFFFFFFFFFFFF), (0x80146002118FFFF0, .reservedEncoding 0x80146002118FFFF0)]

/-- Words of chapters 08 and 15. -/
def vectorWords : List (Nat × Instr) :=
  [(0x400C400000050000, .vsetvl 3 4 .bf16 false),
   (0x4420928B20042000, .vfma 8 9 10 11 ⟨.f32, .rtz, false, false⟩ ⟨2, false⟩),
   (0x4F14108000210000, .vcmp .lt 5 1 2 (plainMod .s32) ⟨0, false⟩),
   (0x5C18700000051028, .vcvt 6 7 0 .f32 1 0 ⟨.bf16, .rne, false, false⟩ ⟨0, false⟩),
   (0x5D30D04E0007000A, .vcvtds 12 13 14 .bf16 0 1 (plainMod .ds8) ⟨0, false⟩), (0x6400000000040000, .ldct 0x40),
   (0x550C100010038000, .vcompress 3 1 (plainMod .z64) ⟨1, false⟩)]

/-- Words of chapter 09. -/
def memoryWords : List (Nat × Instr) :=
  [(0x8014600300000008, .ld 5 6 (plainOp .s64 8)),
   (0x8310200A34000040, .stv 4 2 ⟨.bf16, .loc, .plain, .tile, false, 64⟩ ⟨3, false⟩),
   (0x860430A840000000, .ldvx 1 3 2 (plainOp .f32 0) ⟨4, true⟩),
   (0x88105187038FFFF8, .cas 4 5 6 ⟨.z64, .glob, .ar, .dev, false, 0xFFFF8⟩),
   (0x9600928300000000, .amoMinz 0 9 10 false (plainOp .s64 0)), (0xA01C800000102D00, .cpyl 7 8 0 ⟨0x102, some 2, .dev⟩),
   (0xA60C000000000001, .rtake 3 1), (0xA808400000030A80, .coll 2 4 0 .allreduce .add false 0x30 1 .gang)]

/-- Words of chapters 10 and 12 to 14. -/
def engineWords : List (Nat × Instr) :=
  [(0xB200A00000000000, .mzero 10), (0xB010518700021048, .mma 4 5 6 7 ⟨9, false, false, false⟩ 0x21 none),
   (0xB100518700022E04, .mmag 0 5 6 7 ⟨0, true, false, false⟩ 0x22 (some 3)), (0xB300310000010808, .mscale 3 4 true true 8),
   (0xC004000000060041, .fscan ⟨0, 0⟩ 1 0 .bitmap true false 0x41), (0xC10C108401000000, .fisect ⟨1, 0⟩ 3 4 1 2),
   (0xC424800004000000, .freduce ⟨4, 0⟩ 9 8 .add .s32 false .dyn), (0xCD00900000100002, .fsinkQ 0 9 2 false),
   (0xCE08000000000001, .fgo 2 1), (0xC518400005100046, .fval ⟨5, 1⟩ 6 4 0x46), (0xE000000000300002, .portb 2 0 3),
   (0xE10040000000000A, .portw 2 4 false true), (0xE218000500000002, .portr 2 6 5), (0xE31C000000000002, .portq 2 7),
   (0x3D04B00000042000, .tdnarrow 1 11 0x42)]

/-- Words that the spec writes out with their instructions: chapters 06 to 10 and 12 to 15. -/
def workedWords : List (Nat × Instr) := scalarWords ++ vectorWords ++ memoryWords ++ engineWords

/-- Nothing waits for the strand in focus at its boundary (R116, R117, R119, R120). -/
def NothingOwed (s : State) : Prop :=
  s.tile.yieldReq = none ∧ (∀ e, ∀ c ∈ engQueue s.tile e, ∀ f, c.held ≠ some (.fault f)) ∧
    (∀ c ∈ s.tile.flight, ∀ f, c.held ≠ some (.fault f)) ∧ s.tile.async = [] ∧ s.tile.notice = false

end Sys2Proof.Claims

open Sys2Proof Sys2Proof.Machine Sys2Proof.Claims

/-! ## Scalar arithmetic (R152 to R160) -/

/-- R154: the register arithmetic of opcode 0x00. -/
def Sys2Proof.Claims.ScalarArithmetic : Prop :=
  ∀ (s : State) (d a b : SReg), let x := getS s a; let y := getS s b; let n := y.toNat % 64
    Result (.add d a b) s d (x + y) ∧ Result (.sub d a b) s d (x - y) ∧
    Result (.and d a b) s d (x &&& y) ∧ Result (.or d a b) s d (x ||| y) ∧ Result (.xor d a b) s d (x ^^^ y) ∧
    Result (.shl d a b) s d (x <<< n) ∧ Result (.shr d a b) s d (x >>> n) ∧ Result (.sra d a b) s d (x.sshiftRight n) ∧
    Result (.min d a b) s d (lesser x y) ∧ Result (.max d a b) s d (greater x y) ∧
    Result (.minz d a b) s d (lesserZ x y) ∧ Result (.maxz d a b) s d (greaterZ x y) ∧
    Result (.setlt d a b) s d (if x.toInt < y.toInt then 1 else 0) ∧
    Result (.setltz d a b) s d (if x.toNat < y.toNat then 1 else 0) ∧
    Result (.seteq d a b) s d (if x = y then 1 else 0) ∧
    Result (.popc d a) s d (BitVec.ofNat 64 (ones x)) ∧
    (∃ n, Leading x n ∧ Result (.clz d a) s d (BitVec.ofNat 64 n)) ∧
    ∃ n, Trailing x n ∧ Result (.ctz d a) s d (BitVec.ofNat 64 n)

/-- R155: multiplication and division; division never traps. -/
def Sys2Proof.Claims.ScalarMultiplyDivide : Prop :=
  ∀ (s : State) (d a b c : SReg), let x := getS s a; let y := getS s b
    Result (.mul d a b) s d (x * y) ∧
    Result (.mulh d a b) s d ((x.signExtend 128 * y.signExtend 128).extractLsb' 64 64) ∧
    Result (.mulhz d a b) s d ((x.setWidth 128 * y.setWidth 128).extractLsb' 64 64) ∧
    Result (.madd d a b c) s d (x * y + getS s c) ∧
    Result (.div d a b) s d (quotient x y) ∧ Result (.rem d a b) s d (remainder x y) ∧
    Result (.divz d a b) s d (if y = 0 then 0xFFFFFFFFFFFFFFFF else x / y) ∧
    Result (.remz d a b) s d (if y = 0 then x else x % y)

/-- R154, R155: the words of the register arithmetic: opcode, FUNC and registers in their places of Form R (R125, R128); the
field that an instruction does not use is zero, and a word in which it is not is a reserved encoding. -/
def Sys2Proof.Claims.ScalarWords : Prop :=
  ∀ d a b c : SReg,
    (∀ e ∈ binaryFuncs d a b, decodeWord (wordR 0x00 e.1 d a b 0 0) = e.2) ∧
    (∀ e ∈ unaryFuncs d a, decodeWord (wordR 0x00 e.1 d a 0 0 0) = e.2 ∧
      (b ≠ 0 → IsReserved (wordR 0x00 e.1 d a b 0 0))) ∧
    (∀ e ∈ multiplyFuncs d a b, decodeWord (wordR 0x01 e.1 d a b 0 0) = e.2 ∧
      (c ≠ 0 → IsReserved (wordR 0x01 e.1 d a b c 0))) ∧
    decodeWord (wordR 0x01 0x03 d a b c 0) = .madd d a b c

/-- R154, R155: the register forms of scalar arithmetic, multiplication and division, with their words. -/
def Obligations.ScalarOperations : Prop :=
  Sys2Proof.Claims.ScalarArithmetic ∧ Sys2Proof.Claims.ScalarMultiplyDivide ∧ Sys2Proof.Claims.ScalarWords

/-- R156, R157: SEL, BFX with and without .sx, and BFI, bit by bit. -/
def Sys2Proof.Claims.SelectAndFields : Prop :=
  ∀ (s : State) (d a b c : SReg) (pos wm1 : Fin 64) (sx : Bool), let x := getS s a; let w := wm1.val + 1
    Result (.sel d a b c) s d (if getS s c ≠ 0 then x else getS s b) ∧
    (pos.val + w ≤ 64 →
      (∃ v, Bits v (fun i => if i < w then x.getLsbD (pos + i) else sx && x.getLsbD (pos + w - 1)) ∧
        Result (.bfx d a pos wm1 sx) s d v) ∧
      ∃ v, Bits v (fun i => if pos.val ≤ i ∧ i < pos + w then x.getLsbD (i - pos) else (getS s d).getLsbD i) ∧
        Result (.bfi d a pos wm1) s d v)

/-- R158, R159: the immediate instructions, LI, ADDPC and LUI. -/
def Sys2Proof.Claims.Immediates : Prop :=
  ∀ (s : State) (d a : SReg) (imm : BitVec 28) (n : Fin 64) (hi : BitVec 20), let x := getS s a
    Result (.addi d a imm) s d (x + imm.signExtend 64) ∧ Result (.andi d a imm) s d (x &&& imm.signExtend 64) ∧
    Result (.ori d a imm) s d (x ||| imm.signExtend 64) ∧ Result (.xori d a imm) s d (x ^^^ imm.signExtend 64) ∧
    Result (.shlImm d a n) s d (x <<< n.val) ∧ Result (.shrImm d a n) s d (x >>> n.val) ∧
    Result (.sraImm d a n) s d (x.sshiftRight n.val) ∧
    Result (.li d imm) s d (imm.signExtend 64) ∧ Result (.addpc d imm) s d (getPc s + imm.signExtend 64) ∧
    ∃ v, Bits v (fun i => if n.val ≤ i ∧ i ≤ min (n.val + 19) 63 then hi.getLsbD (i - n.val) else x.getLsbD i) ∧
      Result (.lui d a hi n) s d v

/-- R160: the factor forms with a bound slot, and the trap of a slot with no binding, which leaves S[d] alone. -/
def Sys2Proof.Claims.FactorForms : Prop :=
  ∀ (s : State) (d a : SReg) (slot : Fin 64) (scale : BitVec 22), let slots := (taskOf s (me s)).factors
    (∀ f, slots.getD slot none = some f →
      Result (.liFactor d slot scale) s d (scale.signExtend 64 * f) ∧
      Result (.addiFactor d a slot scale) s d (getS s a + scale.signExtend 64 * f)) ∧
    (slots.getD slot none = none →
      Traps (.liFactor d slot scale) s 0x143 (BitVec.ofNat 64 slot) 0 ∧
      Traps (.addiFactor d a slot scale) s 0x143 (BitVec.ofNat 64 slot) 0)

/-- R156 to R160: the words of these instructions, and those whose field, amount, position or unused register is out of
range, which are reserved encodings. -/
def Sys2Proof.Claims.ImmediateWords : Prop :=
  ∀ (d a b c : SReg) (pos wm1 slot : Fin 64) (sx : Bool) (imm : BitVec 28) (hi : BitVec 20) (scale : BitVec 22)
    (func : BitVec 8),
    decodeWord (wordR 0x02 0 d a b c 0) = .sel d a b c ∧
    (if pos.val + (wm1 + 1) ≤ 64 then
      decodeWord (wordR 0x03 0 d a pos wm1 (if sx then 1 else 0)) = .bfx d a pos wm1 sx ∧
        decodeWord (wordR 0x04 0 d a pos wm1 0) = .bfi d a pos wm1
    else IsReserved (wordR 0x03 0 d a pos wm1 (if sx then 1 else 0)) ∧ IsReserved (wordR 0x04 0 d a pos wm1 0)) ∧
    IsReserved (wordR 0x04 0 d a pos wm1 1) ∧
    decodeWord (wordI 0x08 d a imm.toNat) = .addi d a imm ∧ decodeWord (wordI 0x09 d a imm.toNat) = .andi d a imm ∧
    decodeWord (wordI 0x0A d a imm.toNat) = .ori d a imm ∧ decodeWord (wordI 0x0B d a imm.toNat) = .xori d a imm ∧
    decodeWord (wordI 0x0C d a pos) = .shlImm d a pos ∧ decodeWord (wordI 0x0D d a pos) = .shrImm d a pos ∧
    decodeWord (wordI 0x0E d a pos) = .sraImm d a pos ∧
    (64 ≤ imm.toNat → ∀ op ∈ [0x0C, 0x0D, 0x0E], IsReserved (wordI op d a imm.toNat)) ∧
    decodeWord (wordI 0x10 d 0 imm.toNat) = .li d imm ∧ decodeWord (wordI 0x12 d 0 imm.toNat) = .addpc d imm ∧
    decodeWord (wordI 0x13 d 0 (slot * 2 ^ 22 + scale.toNat)) = .liFactor d slot scale ∧
    decodeWord (wordI 0x14 d a (slot * 2 ^ 22 + scale.toNat)) = .addiFactor d a slot scale ∧
    (a ≠ 0 → ∀ op ∈ [0x10, 0x12, 0x13], IsReserved (wordI op d a imm.toNat)) ∧
    (if func.toNat < 64 then decodeWord (wordI 0x11 d a (func.toNat * 2 ^ 20 + hi.toNat)) = .lui d a hi (Fin.ofNat 64 func.toNat)
    else IsReserved (wordI 0x11 d a (func.toNat * 2 ^ 20 + hi.toNat)))

/-- R156 to R160: selection and bit fields, the immediate forms, and the factor forms, with their words. -/
def Obligations.SelectionAndImmediates : Prop :=
  Sys2Proof.Claims.SelectAndFields ∧ Sys2Proof.Claims.Immediates ∧ Sys2Proof.Claims.FactorForms ∧ Sys2Proof.Claims.ImmediateWords

/-- R152, R153: frame of the scalar arithmetic, bit field and immediate instructions and of RDCTL: they complete in
every state, and change S[d] and the program counter and nothing else; no byte of memory, no other register, no SUBST
bit, no vector or predicate register, no queue. -/
def Obligations.ScalarFrame : Prop :=
  ∀ (i : Instr) (d : SReg) (s : State), scalarDest i = some d →
    Gives i s fun t => OnlyScalars s t ∧ SameBytes s t ∧ (∀ r, r ≠ d → getS t r = getS s r) ∧ getPc t = getPc s + 8

/-! ## Control flow and traps (R131, R161 to R168) -/

/-- R131, R161: a branch goes to VPC + 8 sext(OFF) where its condition holds, else on; J, JL and JR; JR reads its target
before it writes the link. Targets are canonical here; `JumpTraps` has the others. -/
def Sys2Proof.Claims.BranchesAndJumps : Prop :=
  ∀ (s : State) (c : Cond) (a b d : SReg) (off : BitVec 24) (imm : BitVec 28),
    let near := getPc s + 8 * off.signExtend 64
    let far := getPc s + 8 * imm.signExtend 64
    (Taken c (getS s a) (getS s b) → Canonical near → GoesTo (.bCond c a b off) s near 0 0) ∧
    (¬ Taken c (getS s a) (getS s b) →
      Gives (.bCond c a b off) s fun t => OnlyScalars s t ∧ (∀ r, getS t r = getS s r) ∧ getPc t = getPc s + 8) ∧
    (Canonical far → GoesTo (.j imm) s far 0 0 ∧ GoesTo (.jl imm) s far 63 (getPc s + 8)) ∧
    (Canonical (getS s a) → (getS s a).toNat % 8 = 0 → GoesTo (.jr d a) s (getS s a) d (getPc s + 8))

/-- R161: a transfer to a VPC that is not canonical traps at the transfer with the target in INFO0; a misaligned JR
raises PC_MISALIGNED, the lower code, first. -/
def Sys2Proof.Claims.JumpTraps : Prop :=
  ∀ (s : State) (c : Cond) (a b d : SReg) (off : BitVec 24) (imm : BitVec 28),
    let near := getPc s + 8 * off.signExtend 64
    let far := getPc s + 8 * imm.signExtend 64
    (Taken c (getS s a) (getS s b) → ¬ Canonical near → Traps (.bCond c a b off) s 0x040 near 0) ∧
    (¬ Canonical far → Traps (.j imm) s 0x040 far 0 ∧ Traps (.jl imm) s 0x040 far 0) ∧
    ((getS s a).toNat % 8 ≠ 0 → Traps (.jr d a) s 0x005 (getS s a) 0) ∧
    ((getS s a).toNat % 8 = 0 → ¬ Canonical (getS s a) → Traps (.jr d a) s 0x040 (getS s a) 0)

/-- R131, R161: branches and jumps, with the traps of their targets. -/
def Obligations.ControlFlow : Prop :=
  Sys2Proof.Claims.BranchesAndJumps ∧ Sys2Proof.Claims.JumpTraps

/-- R162, R163, R164, R142: NOP has no effect; BRK halts under a debugger at the boundary after it and otherwise raises
BREAKPOINT with its tag; TRAP raises 0x1E0 + n with two registers; a reserved encoding raises ILLEGAL_INSTRUCTION with
the instruction word. -/
def Sys2Proof.Claims.NopBreakTrap : Prop :=
  ∀ (s : State) (tag : Fin 512) (n : Fin 32) (a b : SReg) (w : Word),
    Sets .nop s id ∧
    ((taskOf s (me s)).debugger = true → Gives (.brk tag) s fun t => t.tile.run = .halted .running ∧ getPc t = getPc s + 8 ∧
      (∀ r, getS t r = getS s r) ∧ t.dev = s.dev) ∧
    ((taskOf s (me s)).debugger = false → Traps (.brk tag) s 0x003 (BitVec.ofNat 64 tag) 0) ∧
    Traps (.trap n a b) s (0x1E0 + n) (getS s a) (getS s b) ∧
    Traps (.reservedEncoding w) s 0x001 w 0

/-- R32, R166, R168: YIELD answers 0 and does nothing else with no request pending; with one it retires with S[d] = 1 and
the strand stops cooperatively, the request counting on toward its deadline unless YIELD retired in the deadline clock. FEAT
gives the table's value, 0 for an identifier from 0x0113 on, and marks a feature of nonzero value live, or the map's
overflow. -/
def Sys2Proof.Claims.YieldAndFeature : Prop :=
  ∀ (s : State) (d : SReg) (id : BitVec 16),
    (s.tile.yieldReq = none → Gives (.yieldTo d) s fun t => OnlyScalars s t ∧ Wrote s d 0 t) ∧
    (∀ n, s.tile.yieldReq = some n → Gives (.yieldTo d) s fun t => Wrote s d 1 t ∧ t.tile.run = .resting .yield ∧
      t.tile.yieldReq = (if n ≤ s.tile.sincePost then none else some n) ∧ t.dev = s.dev) ∧
    (∀ v, (id.toNat, v) ∈ featureTable ∨ (0x0113 ≤ id.toNat ∧ v = 0) →
      Gives (.feat d id) s fun t => Wrote s d (BitVec.ofNat 64 v) t ∧ t.dev = s.dev ∧
        (v = 0 → t.tile.seq.live = s.tile.seq.live) ∧
        (v ≠ 0 → (∃ m, v ≤ m ∧ (id.toNat, m) ∈ t.tile.seq.live) ∨ t.tile.seq.liveOverflow = true))

/-- R162 to R168: NOP, BREAK, TRAP, YIELD and FEAT. -/
def Obligations.HintsAndTraps : Prop :=
  Sys2Proof.Claims.NopBreakTrap ∧ Sys2Proof.Claims.YieldAndFeature

/-- R25, R178: RDID gives the identity table's value, and a privileged selector traps with the instruction word. -/
def Sys2Proof.Claims.Identity : Prop :=
  ∀ (s : State) (d : SReg) (sel : BitVec 8),
    (∀ v, (sel.toNat, v) ∈ identityTable (me s) (taskOf s (me s)).trec →
      Gives (.rdid d sel) s fun t => OnlyScalars s t ∧ Wrote s d (BitVec.ofNat 64 v) t) ∧
    (0x80 ≤ sel.toNat → sel.toNat ≤ 0x83 → Traps (.rdid d sel) s 0x001 (Instr.rdid d sel).encode 0)

/-- R136, R179: RDCTL reads the control registers (QUOTA is the balance, kept in picojoules, in whole nanojoules); WRCTL
writes ROUND, SAT, UFCOUNT, clears SUBST bits, and raises CTL_ACCESS with no effect on a read-only register. -/
def Sys2Proof.Claims.ControlRegisters : Prop :=
  ∀ (s : State) (d a : SReg) (r : CtlReg), let x := getS s a
    (∀ v, (r, v) ∈ controlTable s.tile → Result (.rdctl d r) s d v) ∧
    Result (.rdctl d .quota) s d (BitVec.ofInt 64 ((taskOf s (me s)).balance / 1000)) ∧
    Sets (.wrctl .round a) s (fun q => { q with round := x.setWidth 2 }) ∧
    Sets (.wrctl .sat a) s (fun q => { q with ufthr := x.setWidth 16 }) ∧
    Sets (.wrctl .subst a) s (fun q => { q with subst := q.subst &&& ~~~ x.setWidth 3 }) ∧
    Sets (.wrctl .ufcount a) s (fun q => { q with ufcount := x }) ∧
    (r ∈ [.quota, .cycle, .vl, .cwlr, .cwlv, .cwsr, .cwsv, .cwar, .cwav] → Traps (.wrctl r a) s 0x004 0 0)

/-- R136, R178 to R181: RDID, RDCTL and WRCTL. -/
def Obligations.IdentityAndControl : Prop :=
  Sys2Proof.Claims.Identity ∧ Sys2Proof.Claims.ControlRegisters

/-- R121, R179: WRCTL VBANK moves every bank to its new state unless some code is 3, which raises CTL_ACCESS with no
effect; a register of a bank that leaves the gated state reads zero, and every other register keeps its contents. -/
def Sys2Proof.Claims.BankStates : Prop :=
  ∀ (s : State) (a : SReg), let new : BitVec 8 := (getS s a).setWidth 8
    ((∃ k < 4, bankCode new k = 3) → Traps (.wrctl .vbank a) s 0x004 0 0) ∧
    ((∀ k < 4, bankCode new k ≠ 3) →
      Gives (.wrctl .vbank a) s fun t => t.tile.seq.vbank = new ∧ getPc t = getPc s + 8 ∧ t.dev = s.dev ∧
        (∀ r, getS t r = getS s r) ∧
        ∀ v : VReg, getV t v =
          if bankCode s.tile.seq.vbank (v / 16) = 2 ∧ bankCode new (v / 16) ≠ 2 then 0 else getV s v)

/-! ## Traps and ends (R30, R113 to R117, R167) -/

/-- R113: the layout of a trap record; a word that no bullet names is not constrained. FREQ is set while the
divider of the strand's compute chiplet, of its tile, or of one of its regions changes. -/
def Sys2Proof.Claims.TrapRecordLayout : Prop :=
  ∀ (s : State) (n : Nat) (k : StrandKey) (seq : Nat) (rep : Report) (t : TrapInfo),
    t.cause < 2 ^ 9 → seq < 2 ^ 64 → k.gang < 2 ^ 32 → k.tile < 64 →
    let b := trapBytes s n k seq rep t
    let w := recordWord b
    b.length = 128 ∧ w 0 = rep.vpc.toNat ∧ fieldOf (w 1) 0 9 = t.cause ∧
      fieldOf (w 1) 9 1 = (if rep.deferred then 1 else 0) ∧
      (fieldOf (w 1) 10 1 = 1 ↔ (clockAt s (n / 128)).pending.isSome = true ∨ (telemetryAt s n).newTdiv.isSome = true ∨
        ∃ r ∈ (gangOf s k).regions, (regionAt s r).newDivider.isSome = true) ∧
      w 2 = t.info0.toNat ∧ w 3 = t.info1.toNat ∧ w 5 = (tileAt s n).seq.cycle.toNat ∧ w 6 = s.dev.ncycle.toNat ∧
      fieldOf (w 7) 0 32 = k.gang ∧ fieldOf (w 7) 32 6 = k.tile ∧
      (∀ i < 4, w (8 + i) = (t.aux.getD i 0).toNat) ∧ w 12 = seq ∧
      (rep.cmd = none → fieldOf (w 1) 11 21 = 0 ∧ w 4 = 0) ∧
      ∀ e num x sus, rep.cmd = some (e, num, x, sus) → x < 2 ^ 64 →
        fieldOf (w 1) 11 1 = (if sus then 1 else 0) ∧ fieldOf (w 1) 12 1 = 1 ∧
        fieldOf (w 1) 13 2 = (match e with | .load => 0 | .store => 1 | .matrix => 2 | .fibre => 3) ∧
        fieldOf (w 1) 16 16 = num % 2 ^ 16 ∧ w 4 = x

/-- R113: the record of a trap takes the task's next sequence number SEQ and goes to slot (SEQ - 1) mod TRAPSLOTS of the
trap area, as device writes of its 128 bytes; a strand's registers and its program counter stay. The area can be written
here (log 6 has the other case). -/
def Sys2Proof.Claims.TrapRecordWritten : Prop :=
  ∀ (s u : State) (n : Nat) (k : StrandKey) (rep : Report) (t : TrapInfo),
    let task := taskOf s k
    let seq := task.traps + 1
    let s1 := onTask k.queue k.record (fun x => { x with traps := seq }) s
    Placed s n k → 0 < task.trec.trapSlots →
    devWrite (strandSpace s k) ((task.trec.trapBase.toNat + 128 * ((seq - 1) % task.trec.trapSlots)) % 2 ^ 64)
      (trapBytes s1 n k seq rep t) s1 = .ok u →
    writeRecord n k rep t s = u ∧ (taskOf u k).traps = seq ∧ (tileAt u n).seq = (tileAt s n).seq

/-- R113: what a trap record holds and where it is written. -/
def Obligations.TrapRecords : Prop :=
  Sys2Proof.Claims.TrapRecordLayout ∧ Sys2Proof.Claims.TrapRecordWritten

/-- R117: under hold for service the strand stops at its boundary, behind a debug halt too, its registers as they were, and
IRQVEC is signalled where the record sets IRQ; the gang and the task are not stopped. CODE_INTEGRITY (R122) is excepted. -/
def Sys2Proof.Claims.HoldPolicy : Prop :=
  ∀ (s : State) (n : Nat) (k : StrandKey) (rep : Report) (cause : Nat),
    Placed s n k → (taskOf s k).trec.policy = 2 → cause ≠ 0x141 →
    let t := applyPolicy n k rep cause s
    let why : StopWhy := .hold cause rep.cmd.isSome (softCause cause)
    ((∀ h, (tileAt s n).run ≠ .halted h) → (tileAt t n).run = .resting why) ∧
      (∀ h, (tileAt s n).run = .halted h → (tileAt t n).run = .halted (.resting why)) ∧ (tileAt t n).owner = some k ∧
      (tileAt t n).seq = (tileAt s n).seq ∧ SameBytes s t ∧ t.dev.tasks = s.dev.tasks ∧ t.dev.gangs = s.dev.gangs ∧
      t.dev.irqs = (if (taskOf s k).trec.irq then ((taskOf s k).fn, (taskOf s k).trec.irqvec) :: s.dev.irqs else s.dev.irqs)

/-- R117, R122: under stop task, and for CODE_INTEGRITY whatever the policy, the task stops; under stop gang the strand
and its gang stop and the task's other gangs are not stopped. -/
def Sys2Proof.Claims.StopPolicies : Prop :=
  ∀ (s : State) (n : Nat) (k : StrandKey) (rep : Report) (cause : Nat), Placed s n k →
    let t := applyPolicy n k rep cause s
    ((taskOf s k).trec.policy = 0 ∨ cause = 0x141 → (taskOf t k).stopping = true) ∧ t.dev.mem = s.dev.mem ∧
    t.dev.host = s.dev.host ∧
    ((taskOf s k).trec.policy = 1 → cause ≠ 0x141 →
      (gangOf t k).stopping = true ∧ (taskOf t k).stopping = (taskOf s k).stopping ∧
        ((gangOf s k).members[k.tile]? = some (.on n) → (tileAt t n).owner = none) ∧
        ∀ g ≠ k.gang, (gangAt t k.queue k.record g).stopping = (gangAt s k.queue k.record g).stopping)

/-- R30, R34, R35, R167: END ends the strand once its releases are acknowledged and the named queues have drained; its
queued commands stay, its replies are discarded, and it counts as ended in its gang. Before that it blocks. -/
def Sys2Proof.Claims.EndOfStrand : Prop :=
  ∀ (s : State) (mask : BitVec 4), Placed s s.tileNo (me s) →
    (owedAcks s (me s) = true → Blocks (.endStrand mask) s .acks) ∧
    (owedAcks s (me s) = false → maskDrained s.tile (me s) mask = false → Blocks (.endStrand mask) s (.drained mask)) ∧
    (owedAcks s (me s) = false → maskDrained s.tile (me s) mask = true →
      Gives (.endStrand mask) s fun t => t.tile.owner = none ∧ t.tile.run = .free ∧ getPc t = getPc s + 8 ∧
        (∀ q : QReg, t.tile.replies[q] = ⟨[], 0⟩) ∧ t.tile.qLoad = s.tile.qLoad ∧ t.tile.qStore = s.tile.qStore ∧
        t.tile.qMatrix = s.tile.qMatrix ∧ t.tile.qFibre = s.tile.qFibre ∧ SameBytes s t ∧
        ((me s).tile < (gangOf s (me s)).members.length → (gangOf t (me s)).members[(me s).tile]? = some .ended))

/-- R35, R117, R163 to R165: the fault policies, and the end of a strand. -/
def Obligations.FaultPolicies : Prop :=
  Sys2Proof.Claims.HoldPolicy ∧ Sys2Proof.Claims.StopPolicies ∧ Sys2Proof.Claims.EndOfStrand

/-! ## Synchronisation (R95, R99, R169 to R175) -/

/-- R99, R169: FENCE waits for the acknowledgements of its region; then it takes one place in program order, an acquire
adds what the met releases of its scope tell, a release leaves the strand's whole knowledge for its later writes. -/
def Sys2Proof.Claims.Fence : Prop :=
  ∀ (s : State) (order : Order) (sc : Scope),
    let o := s.tile.ord
    let acq := order = .acq ∨ order = .ar
    let rel := order = .rel ∨ order = .ar
    (owedAcks s (me s) = true → Blocks (.fence order sc) s .acks) ∧
    (owedAcks s (me s) = false → Gives (.fence order sc) s fun t => Passed s t ∧ t.tile.ord.po = o.po + 1 ∧ t.dev = s.dev ∧
      (acq → t.tile.ord.clock = acquireFrom (me s) sc o.met o.clock) ∧ (¬ acq → t.tile.ord.clock = o.clock) ∧
      (rel → ∃ r ∈ t.tile.ord.fences, r.by_ = me s ∧ r.scope = sc ∧ covers r.clock.seen (me s) o.po = true) ∧
      (¬ rel → t.tile.ord.fences = o.fences))

/-- R170, R171: BARA waits for the instance of an earlier arrival, then arrives; BARW waits for that instance; BAR
arrives, waits, and returns; a number at or above the task's count raises BARRIER_INVALID with INFO0 = k. -/
def Sys2Proof.Claims.Barriers : Prop :=
  ∀ (s : State) (k : Fin 16), Placed s s.tileNo (me s) →
    let ok := k.val < (taskOf s (me s)).trec.nbar
    let pending := fun (t : State) => isPending (gangOf t (me s)) k (me s).tile
    (¬ ok → Traps (.bara k) s 0x082 (BitVec.ofNat 64 k) 0 ∧ Traps (.barw k) s 0x082 (BitVec.ofNat 64 k) 0 ∧
      Traps (.bar k) s 0x082 (BitVec.ofNat 64 k) 0) ∧
    (ok → pending s = true →
      Blocks (.bara k) s (.barrier k) ∧ Blocks (.barw k) s (.barrier k) ∧ Blocks (.bar k) s (.barrier k)) ∧
    (ok → pending s = false → owedAcks s (me s) = true →
      Blocks (.bara k) s .acks ∧ Blocks (.barw k) s .acks ∧ Blocks (.bar k) s .acks) ∧
    (ok → pending s = false → owedAcks s (me s) = false →
      (Gives (.bara k) s fun t => Passed s t ∧ pending t = true ∧ t.tile.run = s.tile.run) ∧
      (Gives (.barw k) s fun t => Passed s t ∧ pending t = false ∧ t.tile.run = s.tile.run) ∧
      (s.tile.barStage ≠ some k.val → Gives (.bar k) s fun t =>
        getPc t = getPc s ∧ pending t = true ∧ t.tile.run = .blocked (.barrier k) ∧ t.tile.barStage = some k.val) ∧
      (s.tile.barStage = some k.val → Gives (.bar k) s fun t =>
        Passed s t ∧ pending t = false ∧ t.tile.run = s.tile.run ∧ t.tile.barStage = none))

/-- R94, R95, R169 to R171: FENCE and the barriers. -/
def Obligations.FencesAndBarriers : Prop :=
  Sys2Proof.Claims.Fence ∧ Sys2Proof.Claims.Barriers

/-- R17, R96, R172: WAITC blocks while the watermark it names is below min(S[a], last identifier issued); then it
retires, and every access that a copy of the strand up to that identifier made as a source (and with .V every access of
it) carries the strand's present place in program order. -/
def Sys2Proof.Claims.CopyWaits : Prop :=
  ∀ (s : State) (ch : Chan) (a : SReg),
    let c := match ch with | .load => s.tile.chLoad | .store => s.tile.chStore | .acc => s.tile.chAcc
    let t := min (getS s a).toNat c.last
    (c.readMark < t → Blocks (.waitcR ch a) s (.mark ch false t)) ∧
    (c.visMark < t → Blocks (.waitcV ch a) s (.mark ch true t)) ∧
    (t ≤ c.visMark → owedAcks s (me s) = true → Blocks (.waitcV ch a) s .acks) ∧
    (t ≤ c.readMark → Gives (.waitcR ch a) s fun u => Passed s u ∧ ∀ m ∈ s.dev.marks, ∀ id, id ≤ t →
      m.party = .copy (me s) ch id → m.kind = .copyRead →
        { m with stamps := ⟨s.tile.ord.po, m.scope⟩ :: m.stamps } ∈ u.dev.marks) ∧
    (t ≤ c.visMark → owedAcks s (me s) = false → Gives (.waitcV ch a) s fun u => Passed s u ∧
      u.tile.ord.po = s.tile.ord.po + 1 ∧ ∀ m ∈ s.dev.marks, ∀ id, id ≤ t →
      m.party = .copy (me s) ch id → { m with stamps := ⟨s.tile.ord.po, m.scope⟩ :: m.stamps } ∈ u.dev.marks)

/-- R173, R174: WAITR blocks while fewer than min(S[b], present + reserved, 16) entries are present, then S[d] is the
number present; WAITE blocks until every named queue has drained; neither removes or changes anything else. -/
def Sys2Proof.Claims.ReplyAndEngineWaits : Prop :=
  ∀ (s : State) (d b : SReg) (q : QReg) (mask : BitVec 4),
    let p := s.tile.replies[q].entries.length
    let want := min (min (getS s b).toNat (p + s.tile.replies[q].reserved)) 16
    (p < want → Blocks (.waitr d q b) s (.replies q want)) ∧
    (want ≤ p → Gives (.waitr d q b) s fun t => OnlyScalars s t ∧ Wrote s d (BitVec.ofNat 64 p) t) ∧
    (maskDrained s.tile (me s) mask = false → Blocks (.waite mask) s (.drained mask)) ∧
    (maskDrained s.tile (me s) mask = true → Sets (.waite mask) s id)

/-- R18, R19, R175: POPQ and PEEKQ block on an empty queue; PEEKQ gives the oldest entry and changes nothing else; POPQ
gives it and removes it, after the acknowledgements of its region when it completes a COLL (kind 0xC). -/
def Sys2Proof.Claims.ReplyQueues : Prop :=
  ∀ (s : State) (d : SReg) (q : QReg),
    (s.tile.replies[q].entries = [] → Blocks (.popq d q) s (.reply q) ∧ Blocks (.peekq d q) s (.reply q)) ∧
    ∀ x rest, s.tile.replies[q].entries = x :: rest →
      (Gives (.peekq d q) s fun t => OnlyScalars s t ∧ Wrote s d x t) ∧
      (x.toNat / 2 ^ 60 = 0xC → owedAcks s (me s) = true → Blocks (.popq d q) s .acks) ∧
      (x.toNat / 2 ^ 60 ≠ 0xC ∨ owedAcks s (me s) = false → Gives (.popq d q) s fun t => Wrote s d x t ∧ SameBytes s t ∧
        t.tile.replies[q].entries = rest ∧ t.tile.replies[q].reserved = s.tile.replies[q].reserved ∧
        ∀ r : QReg, r ≠ q → t.tile.replies[r] = s.tile.replies[r])

/-- R17, R18, R172 to R175: waits for copies, replies and engines, POPQ and PEEKQ. -/
def Obligations.WaitsAndReplies : Prop :=
  Sys2Proof.Claims.CopyWaits ∧ Sys2Proof.Claims.ReplyAndEngineWaits ∧ Sys2Proof.Claims.ReplyQueues

/-! ## LAUNCH, SIGINC, TDNARROW and contexts (R176 to R184) -/

/-- R176, R350: a queue that is not open to device enqueue by the strand's tenant refuses LAUNCH with its number; a full queue
answers 0; otherwise, where the record of 256 bytes can be loaded and the ring slot at TAIL written, the record is written
there, TAIL advances by one, and the answer is 1. A slot that cannot be written puts the queue in ERROR with ERRCODE 3; that the
answer is then 0 is the model's choice (log 18). -/
def Sys2Proof.Claims.Launch : Prop :=
  ∀ (s : State) (d a b : SReg),
    let x := (getS s a).toNat
    let q := (getS s b).toNat
    let r := queueAt s q
    let isOpen := q < 4096 ∧ r.devenq = true ∧ r.owner = (taskOf s (me s)).fn ∧ r.state ≠ .disabled ∧ r.state ≠ .error
    let full := (r.tail + 2 ^ 32 - r.head) % 2 ^ 32 = 2 ^ r.qlog2
    (¬ isOpen → Traps (.launch d a b) s 0x183 (getS s b) 0) ∧
    (isOpen → ¬ Canonical (getS s a) → Traps (.launch d a b) s 0x040 (getS s a) 0) ∧
    (isOpen → Canonical (getS s a) → x % 256 ≠ 0 → Traps (.launch d a b) s 0x04A (getS s a) 0) ∧
    (isOpen → Canonical (getS s a) → x % 256 = 0 → ∀ u bytes, coherentBytes s x 256 = .ok (u, bytes) →
      (full → Gives (.launch d a b) s fun t => Wrote s d 0 t ∧ t.dev = u.dev) ∧
      (¬ full → ∀ v, writeSlot q r.tail bytes u = some v → Gives (.launch d a b) s fun t => Wrote s d 1 t ∧
        t.dev = (onQueue q (fun y => { y with tail := (y.tail + 1) % 2 ^ 32 }) v).dev ∧
        (queueAt t q).tail = (r.tail + 1) % 2 ^ 32 ∧ (queueAt t q).head = r.head) ∧
      (¬ full → writeSlot q r.tail bytes u = none → Gives (.launch d a b) s fun t => Wrote s d 0 t ∧
        (r.state ≠ .aborting → (queueAt t q).state = .error ∧ (queueAt t q).err = 3) ∧ (queueAt t q).tail = r.tail))

/-- R89, R177: SIGINC adds S[b] to the 8-byte global counter at S[a], gives the old value, and stores nothing else but
the page's accessed and written bits (R372). -/
def Sys2Proof.Claims.SignalIncrement : Prop :=
  ∀ (s : State) (d a b : SReg) (x : ElemSpot),
    let m : MemOp := ⟨.s64, .glob, .rel, .dev, false, 0⟩
    memoriesWf s = true → findScalar s .glob .update .s64 (getS s a).toNat = .ok x →
    (pageFmt x.spot.leaf = none ∨ pageFmt x.spot.leaf = some 0x03 ∨ pageFmt x.spot.leaf = some 0x07) →
    MayUpdate s m true x 0 →
    let old := valueAt s x.spot.piece
    Gives (.siginc d a b) s fun t => Wrote s d (BitVec.ofNat 64 old) t ∧
      Stored (useSpot (self s) .update x.spot s) t x.spot.piece (old + (getS s b).toNat)

/-- R82, R181, R182: TDNARROW reads 44 bytes of the own scratchpad and puts the entry they make of the parent into the
private slot: the root stays the parent's, origins add, extents and rights are the block's, and FPATH stays where the block
keeps it; a block out of the scratchpad, misaligned, with a reserved bit or an extent too large, with a right or a path that the
parent lacks, or reaching out of the parent raises its cause with no effect. -/
def Sys2Proof.Claims.Narrowing : Prop :=
  ∀ (s : State) (slot : Fin 64) (a : SReg) (tdi : BitVec 16) (d : Desc), getDesc s tdi.toNat = .ok d →
    let x := (getS s a).toNat
    let b := s.tile.pad.readNat x 44
    let start := fun k => fieldOf b (32 * k) 32
    let size := fun k => fieldOf b (160 + 32 * k) 32
    let last := fieldOf b 320 32
    let stops := fun cause => Traps (.tdnarrow slot a tdi) s cause (BitVec.ofNat 64 tdi.toNat) 0
    let wellFormed := last < 64 ∧ ∀ k < 5, size k ≤ 0x00FFFFFF
    let allowed := Nat.land (last % 32) d.rights = last % 32 ∧ (last.testBit 5 = true → d.fpath = true)
    let inside := ∀ k < 5,
      if k < d.ndim then 1 ≤ size k ∧ start k + size k ≤ d.ext.getD k 0 else start k = 0 ∧ size k = 0
    (0x200000 < x + 44 → Traps (.tdnarrow slot a tdi) s 0x048 (BitVec.ofNat 64 (max x 0x200000)) 0) ∧
    (x + 44 ≤ 0x200000 → x % 4 ≠ 0 → Traps (.tdnarrow slot a tdi) s 0x04A (getS s a) 0) ∧
    (x + 44 ≤ 0x200000 → x % 4 = 0 →
      orderTrap s (strandAccess s .load false false) (Piece.touches ⟨.pad s.tileNo, x, 44, padReport (me s).tile x⟩) = none →
      (¬ wellFormed → stops 0x051) ∧ (wellFormed → ¬ allowed → stops 0x052) ∧
      (wellFormed → allowed → ¬ inside → stops 0x053) ∧
      (wellFormed → allowed → inside → Gives (.tdnarrow slot a tdi) s fun t =>
        getPc t = getPc s + 8 ∧ (∀ r, getS t r = getS s r) ∧ SameBytes (useDesc tdi.toNat s) t ∧
        t.tile.window[slot] = some {
          root := rootIndex s tdi.toNat
          origin := (List.range 5).map fun k => d.origin.getD k 0 + start k
          ext := (List.range 5).map size
          rights := last % 32
          fpath := last.testBit 5 } ∧
        ∀ j : Fin 64, j ≠ slot → t.tile.window[j] = s.tile.window[j]))

/-- R82, R176, R177, R182: LAUNCH, SIGINC and TDNARROW. -/
def Obligations.LaunchSignalNarrow : Prop :=
  Sys2Proof.Claims.Launch ∧ Sys2Proof.Claims.SignalIncrement ∧ Sys2Proof.Claims.Narrowing

/-- R183, R379: CTXSAVE checks its operands in the order of its rule, waits until the engines are at rest, writes the image
and answers its length; a sealed save takes the next value of the slot's counter. The header holds the resume point
VPC + 8, the extents and the length. The parts that R380 gives no layout for are those of log 12. -/
def Sys2Proof.Claims.ContextSave : Prop :=
  ∀ (s : State) (d a b c : SReg) (tdi : BitVec 16) (sealed : Bool) (slot : Fin 64),
    let i : Instr := .ctxsave d a b c tdi sealed slot
    let x := (getS s a).toNat; let y := (getS s b).toNat; let z := (getS s c).toNat
    let fn := (taskOf s (me s)).fn
    let room := recordLength (placeSections 0x400 (sectionsOf (restTile s.tile) (me s) d x y z []))
    let sections := sectionsOf s.tile (me s) d x y z []
    let n := recordLength (placeSections 0x400 sections)
    let h := saveHead s sealed slot x y z
    let key := if sealed then (keyOf s fn slot).map (·.1) else none
    let img := recordBytes s.tile h key sections
    (0x200000 < x + y → Traps i s 0x048 (BitVec.ofNat 64 (max x 0x200000)) 0) ∧
    (x + y ≤ 0x200000 → x % 32 ≠ 0 → Traps i s 0x04A (getS s a) 0) ∧
    (x + y ≤ 0x200000 → x % 32 = 0 → y % 32 ≠ 0 → Traps i s 0x04A (getS s b) 0) ∧
    (x + y ≤ 0x200000 → x % 32 = 0 → y % 32 = 0 → 256 < z → Traps i s 0x0C0 0 0) ∧
    (x + y ≤ 0x200000 → x % 32 = 0 → y % 32 = 0 → z ≤ 256 → ∀ e, imageDesc s tdi.toNat rightWrite = .ok e →
      (dimOf e 0 < room → Traps i s 0x053 (BitVec.ofNat 64 tdi.toNat) 0) ∧
      (room ≤ dimOf e 0 → checkRegion s e = .ok () →
        (sealed = true → keyOf s fn slot = none → Traps i s 0x187 (BitVec.ofNat 64 slot) 0) ∧
        ((sealed = true → (keyOf s fn slot).isSome = true) → atRest s.tile (me s) = false → Blocks i s .rest) ∧
        ((sealed = true → (keyOf s fn slot).isSome = true) → atRest s.tile (me s) = true →
          (dimOf e 0 < n → Traps i s 0x053 (BitVec.ofNat 64 tdi.toNat) 0) ∧
          (n ≤ dimOf e 0 →
            ∀ u, imageWrite (elemAddr e 8 0) img (useDesc tdi.toNat (countSave s sealed slot)) = .ok u →
              img.length = n ∧ headResume img = (getPc s + 8).toNat ∧ headBase img = x ∧ headLen img = y ∧
              headRows img = z ∧ headLength img = n % 2 ^ 64 ∧
              Gives i s fun t => Wrote s d (BitVec.ofNat 64 n) t ∧ SameBytes u t ∧
                partsOf t (openBytes sections) = some (openState s.tile (me s)) ∧
                (sealed = true → look 0 (fnRegs t fn).counters slot = look 0 (fnRegs s fn).counters slot + 1)))))

/-- R184, R379: CTXLOAD waits until every queue has drained, refuses a header that R383 refuses, and otherwise replaces
the strand's state by the image's and goes to its resume point; bytes outside the saved extents stay. The last clause
needs the device to read the sections whose layout R380 leaves open (log 12). -/
def Sys2Proof.Claims.ContextLoad : Prop :=
  ∀ (s : State) (tdi : BitVec 16) (sealed : Bool) (slot : Fin 64) (e : Desc),
    let i : Instr := .ctxload tdi sealed slot
    let addr := elemAddr e 8 0
    imageDesc s tdi.toNat rightRead = .ok e → checkRegion s e = .ok () →
    (allDrained s.tile (me s) = false → Blocks i s .allDrained) ∧
    (allDrained s.tile (me s) = true → dimOf e 0 < 0x410 → Traps i s 0x184 0 0) ∧
    (allDrained s.tile (me s) = true → 0x410 ≤ dimOf e 0 → ∀ v h, coherentBytes s addr 0x400 = .ok (v, h) →
      (headerOk h sealed (dimOf e 0) = false → Traps i s 0x184 0 0) ∧
      (headerOk h sealed (dimOf e 0) = true → ∀ u raw, coherentBytes s addr (headLength h) = .ok (u, raw) →
        ∀ img, (if sealed then unsealRecord s (taskOf s (me s)).fn slot h raw else .ok raw) = .ok img →
        ∀ o, openParts s h img = .ok o → checkFeatures s h img = .ok () → checkBindings s o.ports = .ok () →
          Gives i s fun t => (getPc t).toNat = headResume h ∧ SameBytes (onFocus (fun x => { x with
              pad := s.tile.pad.writeBytes (headBase h) (sectionAt h img 12) }) (useDesc tdi.toNat u)) t ∧
            (∀ r : SReg, r ≠ 0 → (getS t r).toNat = fieldAt (sectionAt h img 1) (8 * r) 8) ∧
            (∀ r : VReg, bankCode t.tile.seq.vbank (r / 16) ≠ 2 →
              (getV t r).toNat = fieldAt (sectionAt h img 4) (headVlb h * r) (headVlb h) % 2 ^ 2048) ∧
            t.tile.accum = s.tile.accum.writeBytes 0 (sectionAt h img 13)))

/-- R183, R184: CTXSAVE and CTXLOAD. -/
def Obligations.ContextImages : Prop :=
  Sys2Proof.Claims.ContextSave ∧ Sys2Proof.Claims.ContextLoad

/-! ## Vector and predicate instructions (R185 to R213) -/

/-- R121, R187: a gated bank of a named register raises BANK_OFF with no effect, whatever the lanes; with no gated bank,
banks in retention stall the instruction until all of them are woken together. -/
def Sys2Proof.Claims.GatedBanks : Prop :=
  ∀ (s : State) (i : Instr), namedVectors i ≠ [] →
    ((∃ r ∈ namedVectors i, bankCode s.tile.seq.vbank (r / 16) = 2) → Traps i s 0x002 0 0) ∧
    ((∀ r ∈ namedVectors i, bankCode s.tile.seq.vbank (r / 16) ≠ 2) →
      (∃ r ∈ namedVectors i, bankCode s.tile.seq.vbank (r / 16) = 1) →
      ∃ mask : BitVec 4, Blocks i s (.retention mask) ∧ ∀ k < 4, mask.getLsbD k = sleeping s (namedVectors i) k)

/-- R121, R187: the bank states that WRCTL sets and what a vector instruction meets in them. -/
def Obligations.VectorBanks : Prop :=
  Sys2Proof.Claims.BankStates ∧ Sys2Proof.Claims.GatedBanks

/-- R191, R192, R193, R206, R210: each active lane receives the exact result rounded once to the type, with its other lanes
and everything else kept: VADD, VSUB, VMUL, VFMA, VMIN, VMAX, the defined approximations, VLADD and VLSUB. -/
def Obligations.LaneArithmetic : Prop :=
  ∀ (s : State) (d a b c : VReg) (m : VMod) (g : Guard), BanksOn s [d, a, b, c] →
    let rm := roundMode s m.rnd
    let va := value s m a; let vb := value s m b; let vc := value s m c
    EachLane (.vadd d a b m g) s d m g (fun j => rounded s m (sumNums rm [va j, vb j])) ∧
    EachLane (.vsub d a b m g) s d m g (fun j => rounded s m (sumNums rm [va j, (vb j).neg])) ∧
    (m.ty ≠ .l16 → EachLane (.vmul d a b m g) s d m g (fun j => rounded s m ((va j).mul (vb j)))) ∧
    (m.ty = .l16 → EachLane (.vmul d a b m g) s d m g (fun j => mulL16 rm (lane s m a j) (lane s m b j))) ∧
    EachLane (.vfma d a b c m g) s d m g (fun j => rounded s m (sumNums rm [(va j).mul (vb j), vc j])) ∧
    EachLane (.vmin d a b m g) s d m g (fun j => (pickMin m.ty false (lane s m a j) (lane s m b j), 0)) ∧
    EachLane (.vmax d a b m g) s d m g (fun j => (pickMin m.ty true (lane s m a j) (lane s m b j), 0)) ∧
    EachLane (.vrecip d a m g) s d m g (fun j => rounded s m (approxNum .recip (va j))) ∧
    EachLane (.vrsqrt d a m g) s d m g (fun j => rounded s m (approxNum .rsqrt (va j))) ∧
    EachLane (.vexp2 d a m g) s d m g (fun j => rounded s m (approxNum .exp2 (va j))) ∧
    EachLane (.vlog2 d a m g) s d m g (fun j => rounded s m (approxNum .log2 (va j))) ∧
    (m.ty = .l16 → EachLane (.vladd d a b m g) s d m g
      (fun j => logAddSub false s.tile.seq.tables (lane s m a j) (lane s m b j))) ∧
    (m.ty = .l16 → EachLane (.vlsub d a b m g) s d m g
      (fun j => logAddSub true s.tile.seq.tables (lane s m a j) (lane s m b j)))

/-- R186, R191, R193: on S and Z types the lane arithmetic is that of integers: without .sat the result modulo 2^n, with
.sat the result clamped to the type's range, and SATC only where it was clamped. -/
def Sys2Proof.Claims.IntegerLanes : Prop :=
  ∀ (s : State) (d a b c : VReg) (m : VMod) (g : Guard), BanksOn s [d, a, b, c] → m.ty.isInt = true →
    let n := m.ty.bits
    let lo : Int := if m.ty.isS then -(2 ^ (n - 1)) else 0
    let hi : Int := if m.ty.isS then 2 ^ (n - 1) - 1 else 2 ^ n - 1
    let int := fun (r : VReg) (j : Nat) => if m.ty.isS then signedOf n (lane s m r j) else (lane s m r j : Int)
    let fit := fun (x : Int) => ((x % 2 ^ n).toNat, (0 : BitVec 3))
    let put := fun (x : Int) =>
      if m.sat ∧ x < lo then ((lo % 2 ^ n).toNat, satc) else if m.sat ∧ hi < x then ((hi % 2 ^ n).toNat, satc) else fit x
    EachLane (.vadd d a b m g) s d m g (fun j => put (int a j + int b j)) ∧
    EachLane (.vsub d a b m g) s d m g (fun j => put (int a j - int b j)) ∧
    EachLane (.vmul d a b m g) s d m g (fun j => put (int a j * int b j)) ∧
    EachLane (.vfma d a b c m g) s d m g (fun j => put (int a j * int b j + int c j)) ∧
    EachLane (.vmin d a b m g) s d m g (fun j => fit (min (int a j) (int b j))) ∧
    EachLane (.vmax d a b m g) s d m g (fun j => fit (max (int a j) (int b j))) ∧
    (m.ty.isS = true → EachLane (.vabs d a m g) s d m g (fun j => put |int a j|)) ∧
    (m.ty.isS = true → EachLane (.vneg d a m g) s d m g (fun j => put (-int a j)))

/-- R191: VABS and VNEG of float types clear or invert the sign bit, a NaN becoming canonical; of L16 the same, zero and NaN
unchanged. -/
def Sys2Proof.Claims.FloatSigns : Prop :=
  ∀ (s : State) (d a : VReg) (m : VMod) (g : Guard), BanksOn s [d, a] → m.ty.isInt = false → m.ty ≠ .ds8 →
    let top := 2 ^ (m.ty.bits - 1)
    let kept := fun x => m.ty = .l16 ∧ (x = 0x4000 ∨ x = 0xC000)
    let nan := fun x => orderKey m.ty true x = none
    EachLane (.vabs d a m g) s d m g (fun j => let x := lane s m a j
      if kept x then (x, 0) else if nan x then (nanBits m.ty, 0) else (x % top, 0)) ∧
    EachLane (.vneg d a m g) s d m g (fun j => let x := lane s m a j
      if kept x then (x, 0) else if nan x then (nanBits m.ty, 0) else ((x + top) % (2 * top), 0))

/-- R194, R195, R197, R198, R200, R201, R203: logic, shifts by a lane's or a scalar register's amount modulo the width,
VPOPC, VSEL, VBCAST, VIOTA and VPERM, lane by lane on bits. -/
def Sys2Proof.Claims.LaneBits : Prop :=
  ∀ (s : State) (d a b : VReg) (c : PReg) (m : VMod) (g : Guard) (sc pre : Bool), BanksOn s [d, a, b] →
    let n := m.ty.bits
    let x := lane s m a; let y := lane s m b
    let k := fun j => (if sc then (getS s b).toNat else y j) % n
    let act := activeLanes s m.ty g
    EachLane (.vand d a b m g) s d m g (fun j => (x j &&& y j, 0)) ∧
    EachLane (.vor d a b m g) s d m g (fun j => (x j ||| y j, 0)) ∧
    EachLane (.vxor d a b m g) s d m g (fun j => (x j ^^^ y j, 0)) ∧
    EachLane (.vshl d a b sc m g) s d m g (fun j => (x j * 2 ^ k j % 2 ^ n, 0)) ∧
    EachLane (.vshr d a b sc m g) s d m g (fun j => (x j / 2 ^ k j, 0)) ∧
    EachLane (.vsra d a b sc m g) s d m g (fun j => ((signedOf n (x j) / 2 ^ k j % 2 ^ n).toNat, 0)) ∧
    EachLane (.vpopc d a m g) s d m g (fun j => ((List.range n).countP (x j).testBit, 0)) ∧
    EachLane (.vsel d a b c m g) s d m g (fun j => (if (getP s c).getLsbD (j * n / 8) then x j else y j, 0)) ∧
    EachLane (.vbcast d a b sc m g) s d m g (fun _ =>
      (if sc then (if (getS s b).toNat < vlmax m.ty then x (getS s b).toNat else 0) else (getS s a).toNat % 2 ^ n, 0)) ∧
    EachLane (.viota d pre m g) s d m g (fun j => ((if pre then (act.filter (· < j)).length else j) % 2 ^ n, 0)) ∧
    EachLane (.vperm d a b m g) s d m g (fun j => (if y j < vlmax m.ty then x (y j) else 0, 0))

/-- R191 to R197: integer lanes, the signs of float lanes, and lanes as bits. -/
def Obligations.IntegerAndBitLanes : Prop :=
  Sys2Proof.Claims.IntegerLanes ∧ Sys2Proof.Claims.FloatSigns ∧ Sys2Proof.Claims.LaneBits

/-- R199, R202: VCOMPRESS packs the active lanes upward from lane 0, VEXPAND spreads them, and VEXT gives one active lane,
extended by its type, or 0. -/
def Sys2Proof.Claims.PackingAndExtract : Prop :=
  ∀ (s : State) (d a : VReg) (e b : SReg) (m : VMod) (g : Guard), BanksOn s [d, a] →
    let act := activeLanes s m.ty g
    let j := (getS s b).toNat
    Lanes (.vcompress d a m g) s d m.ty ((List.range act.length).map fun k => (k, lane s m a (act.getD k 0), 0)) ∧
    Lanes (.vexpand d a m g) s d m.ty ((List.range act.length).map fun k => (act.getD k 0, lane s m a k, 0)) ∧
    (j ∈ act → Result (.vext e a b m g) s e (extendElem m.ty (lane s m a j))) ∧
    (j ∉ act → Result (.vext e a b m g) s e 0)

/-- R204, R205: the reductions write lane 0 at the result type, whatever the active lanes, from V[b]'s lane 0 and every
active lane; VSCAN gives each active lane the reduction of its own prefix. -/
def Obligations.ReductionsAndScans : Prop :=
  ∀ (s : State) (d a b : VReg) (op : ScanOp) (wide excl : Bool) (m : VMod) (g : Guard), BanksOn s [d, a, b] →
    let act := activeLanes s m.ty g
    let r : Fmt := if wide then (if m.ty.isS then .s64 else if m.ty.isZ then .z64 else .f32) else m.ty
    let sum := fun (t : Fmt) (xs : List Machine.Num) => roundTo t (roundMode s m.rnd) (satSel m) 127 true (sumNums (roundMode s m.rnd) xs)
    let pick := fun (gt : Bool) (xs : List Nat) =>
      (xs.foldl (pickMin m.ty gt) (pickMin m.ty gt (lane s m b 0) (lane s m b 0)), (0 : BitVec 3))
    let prefix_ := fun (j : Nat) => act.filter fun i => if excl then decide (i < j) else decide (i ≤ j)
    Lanes (.vredsum d a b wide m g) s d r
      [(0, sum r (decodeNum r 127 (elem (getV s b) 0 r) :: act.map (value s m a)))] ∧
    Lanes (.vredmax d a b m g) s d m.ty [(0, pick true (act.map (lane s m a)))] ∧
    Lanes (.vredmin d a b m g) s d m.ty [(0, pick false (act.map (lane s m a)))] ∧
    EachLane (.vscan op d a b excl m g) s d m g (fun j => match op with
      | .sum => sum m.ty (value s m b 0 :: (prefix_ j).map (value s m a))
      | .max => pick true ((prefix_ j).map (lane s m a))
      | .min => pick false ((prefix_ j).map (lane s m a)))

/-- R207, R208: VCVT takes active lanes at the wider type, widens from the part PART of the source or narrows into that part
of the destination, reads block exponents of DS8 sides from the scale vector and never changes it. Between two L16 types
the bits stay. -/
def Sys2Proof.Claims.Conversions : Prop :=
  ∀ (s : State) (d a c : VReg) (ts : Fmt) (part : Fin 16) (blk : Fin 4) (m : VMod) (g : Guard),
    BanksOn s (if m.ty = .ds8 ∨ ts = .ds8 then [d, a, c] else [d, a]) →
    let td := m.ty
    let w := if ts.bits ≤ td.bits then td else ts
    let size := 16 * 2 ^ blk.val
    let src := fun i => if ts.bits < td.bits then i + part * vlmax td else i
    let dst := fun i => if td.bits < ts.bits then i + part * vlmax ts else i
    let e := fun (t : Fmt) (j : Nat) => if t = .ds8 then elem (getV s c) (128 + j / size) .z8 else 127
    Lanes (.vcvt d a c ts part blk m g) s d td ((activeLanes s w g).map fun i =>
      (dst i, if td = .l16 ∧ ts = .l16 then (elem (getV s a) (src i) ts, 0)
        else roundTo td (roundMode s m.rnd) (satSel m) (e td (dst i)) ts.isInt
          (decodeNum ts (e ts (src i)) (elem (getV s a) (src i) ts))))

/-- R66, R67, R209: VCVTDS chooses one exponent for each block with an active lane, converts the block's active lanes under
it, writes exponent and new count into the scale vector, and adds the new counts to UFCOUNT, saturating. -/
def Sys2Proof.Claims.ScaleSelection : Prop :=
  ∀ (s : State) (d a c : VReg) (ts : Fmt) (part : Fin 16) (blk : Fin 4) (m : VMod) (g : Guard),
    BanksOn s [d, a, c] → d ≠ c → m.ty = .ds8 → (ts = .f32 ∨ ts = .bf16) → part * vlmax ts < 256 →
    let size := 16 * 2 ^ blk.val
    let lanes := (activeLanes s ts g).map fun i => (i, i + part * vlmax ts)
    let blockOf := fun k => (lanes.filter fun j => j.2 / size == k).map fun j => (j.2, decodeNum ts 127 (elem (getV s a) j.1 ts))
    let result := fun k => scaleBlock (roundMode s m.rnd) s.tile.seq.ufthr.toNat (elem (getV s c) k .z16) (blockOf k)
    Gives (.vcvtds d a c ts part blk m g) s fun t => getPc t = getPc s + 8 ∧ t.dev = s.dev ∧
      (∀ r, getS t r = getS s r) ∧ (∀ r, r ≠ d → r ≠ c → getV t r = getV s r) ∧
      (∀ k < 16, blockOf k = [] → elem (getV t c) k .z16 = elem (getV s c) k .z16 ∧
        elem (getV t c) (128 + k) .z8 = elem (getV s c) (128 + k) .z8) ∧
      (∀ k < 16, blockOf k ≠ [] → elem (getV t c) k .z16 = (result k).2.2 ∧
        elem (getV t c) (128 + k) .z8 = (result k).1 % 256 ∧
        ∀ r ∈ (result k).2.1, elem (getV t d) r.1 .ds8 = r.2.1 % 256) ∧
      (∀ j < 256, (∀ i ∈ lanes, i.2 ≠ j) → elem (getV t d) j .ds8 = elem (getV s d) j .ds8) ∧
      t.tile.seq.ufcount.toNat = min (s.tile.seq.ufcount.toNat +
        (((List.range 16).filter fun k => !(blockOf k).isEmpty).map fun k => (result k).2.2).sum) (2 ^ 64 - 1)

/-- R135, R140, R190, R196, R212, R213: VSETVL sets VL and S[d]; VCMP writes the truth of each active lane into every
predicate bit of its bytes and no other bit; the predicate logic acts on all 256 bits; PCNT and PFIRST look at the lanes
below VL. -/
def Sys2Proof.Claims.PredicatesAndLength : Prop :=
  ∀ (s : State) (e f : SReg) (t : Fmt) (max : Bool) (d p q : PReg) (a b : VReg) (cond : VCond) (m : VMod) (g : Guard),
    let n := if max then 2048 / t.bits else min (getS s f).toNat (2048 / t.bits)
    let set := (List.range (min s.tile.seq.vl (2048 / t.bits))).filter fun i => (getP s p).getLsbD (i * t.bits / 8)
    let writesP := fun (i : Instr) (f : Nat → Bool) => Gives i s fun u => (∀ j < 256, (getP u d).getLsbD j = f j) ∧
      (∀ r, r ≠ d → getP u r = getP s r) ∧ getPc u = getPc s + 8 ∧ (∀ r, getS u r = getS s r) ∧
      (∀ r, getV u r = getV s r) ∧ u.dev = s.dev
    (Gives (.vsetvl e f t max) s fun u => Wrote s e (BitVec.ofNat 64 n) u ∧ u.tile.seq.vl = n ∧ u.dev = s.dev) ∧
    Result (.pcnt e p t) s e (BitVec.ofNat 64 set.length) ∧
    Result (.pfirst e p t) s e (match set.head? with | some i => BitVec.ofNat 64 i | none => 0xFFFFFFFFFFFFFFFF) ∧
    (d ≠ 0 →
      writesP (.pand d p q) (fun j => (getP s p).getLsbD j && (getP s q).getLsbD j) ∧
      writesP (.por d p q) (fun j => (getP s p).getLsbD j || (getP s q).getLsbD j) ∧
      writesP (.pxor d p q) (fun j => (getP s p).getLsbD j != (getP s q).getLsbD j) ∧
      writesP (.pnot d p) (fun j => !(getP s p).getLsbD j) ∧
      (BanksOn s [a, b] → 8 ≤ m.ty.bits → writesP (.vcmp cond d a b m g) (fun j =>
        if activeLane s m.ty g (j / (m.ty.bits / 8)) then
          compareElems m.ty cond (lane s m a (j / (m.ty.bits / 8))) (lane s m b (j / (m.ty.bits / 8)))
        else (getP s d).getLsbD j)))

/-- R188 to R213: packing, extraction, predicates and VSETVL. -/
def Obligations.PackingAndPredicates : Prop :=
  Sys2Proof.Claims.PackingAndExtract ∧ Sys2Proof.Claims.PredicatesAndLength

/-- R64, R211: LDCT.reset restores the power-on contents of the correction tables; LDCT replaces all 512 entries by the 512
S16 elements it loads, after the checks of its rule. -/
def Sys2Proof.Claims.CorrectionTables : Prop :=
  ∀ (s : State) (tdi : BitVec 16), Sets .ldctReset s (fun q => { q with tables := tablesPowerOn }) ∧
    ∀ d, getDesc s tdi.toNat = .ok d → needRights d tdi.toNat rightRead = .ok () → checkRegion s d = .ok () →
      let x := (elemByte d 16 (elemOffset d [])).1
      let m : MemOp := ⟨.s16, d.space, .plain, .tile, true, 0⟩
      (¬ (d.ndim = 1 ∧ d.fmt = 0x01 ∧ d.stride.getD 0 0 = 1 ∧ 512 ≤ d.ext.getD 0 0) →
        Traps (.ldct tdi) s 0x053 (BitVec.ofNat 64 tdi.toNat) 0) ∧
      (d.ndim = 1 → d.fmt = 0x01 → d.stride.getD 0 0 = 1 → 512 ≤ d.ext.getD 0 0 → x % 2 ≠ 0 →
        Traps (.ldct tdi) s 0x04A (BitVec.ofNat 64 x) 0) ∧
      (d.ndim = 1 → d.fmt = 0x01 → d.stride.getD 0 0 = 1 → 512 ≤ d.ext.getD 0 0 → x % 2 = 0 →
        ∀ xs, checkAccess s d.space .read .s16 (some x) (runElems (fmtAt s d.space .read x) .s16 x (List.range 512))
          (fun p => loadFormatOk p .s16 false) = .ok xs → MayLoad s m xs →
          Gives (.ldct tdi) s fun t => getPc t = getPc s + 8 ∧ (∀ r, getS t r = getS s r) ∧
            t.tile.seq.tables = xs.map fun y => BitVec.ofNat 16 (elemValue s false .s16 y).1)

/-- R204 to R211: conversions, the choice of a scale, logarithmic lanes and the correction tables. -/
def Obligations.ConversionsAndTables : Prop :=
  Sys2Proof.Claims.Conversions ∧ Sys2Proof.Claims.ScaleSelection ∧ Sys2Proof.Claims.CorrectionTables

/-! ## Loads, stores and atomics of a strand (R68 to R76, R87 to R89, R214 to R221) -/

/-- R69, R70, R73, R215: LD and ST of the own scratchpad, spelled out: the range is checked before alignment, the value is
the little-endian bytes at A extended by the type, a load changes no byte, and a store changes the size(t) bytes at A and no
other byte. -/
def Obligations.OwnScratchpad : Prop :=
  ∀ (s : State) (d a : SReg) (m : MemOp), m.space = .loc → m.ty ≠ .f4 → memoriesWf s = true →
    let x := (getS s a + m.off.signExtend 64).toNat
    let n := m.ty.bits / 8
    (0x200000 < x + n → Traps (.ld d a m) s 0x048 (BitVec.ofNat 64 (max x 0x200000)) 0 ∧
      Traps (.st d a m) s 0x048 (BitVec.ofNat 64 (max x 0x200000)) 0) ∧
    (x + n ≤ 0x200000 → x % n ≠ 0 → Traps (.ld d a m) s 0x04A (BitVec.ofNat 64 x) 0 ∧
      Traps (.st d a m) s 0x04A (BitVec.ofNat 64 x) 0) ∧
    (x + n ≤ 0x200000 → x % n = 0 → MayLoad s m [ownElem s x n] → Gives (.ld d a m) s fun t =>
      Wrote s d (extendElem m.ty (s.tile.pad.readNat x n)) t ∧ SameBytes s t) ∧
    (x + n ≤ 0x200000 → x % n = 0 → MayStore s m [ownElem s x n] → Gives (.st d a m) s fun t =>
      RegistersKept s t ∧ Stored s t ⟨.pad s.tileNo, x, n, 0⟩ (getS s d).toNat)

/-- R88, R215: LD in any space, of an element that is found, of a format it may take, and free to be loaded: S[d] receives
the element, converted from its page's format, and no byte changes but the accessed bits of the pages used (R372). -/
def Sys2Proof.Claims.ScalarLoad : Prop :=
  ∀ (s : State) (d a : SReg) (m : MemOp) (x : ElemSpot),
    findScalar s m.space .read m.ty (effAddr s a m.off) = .ok x → loadFormatOk (pageFmt x.spot.leaf) m.ty false = true →
    MayLoad s m [x] →
    Gives (.ld d a m) s fun t => Wrote s d (extendElem m.ty (elemValue s (constLoad m) m.ty x).1) t ∧
      t.tile.seq.subst = s.tile.seq.subst ||| (elemValue s (constLoad m) m.ty x).2 ∧
      (∀ r, getV t r = getV s r) ∧ (∀ r, getP t r = getP s r) ∧ SameBytes (useSpots .read [x] s) t

/-- R89, R215, R391: ST in any space stores the low bits of S[d] at the element and changes no other byte but the accessed
and written bits of its page (R372); toward the scratchpad of a peer that is stopped or halted the store waits as a flit. -/
def Sys2Proof.Claims.ScalarStore : Prop :=
  ∀ (s : State) (d a : SReg) (m : MemOp) (x : ElemSpot), memoriesWf s = true → m.ty ≠ .f4 →
    findScalar s m.space .write m.ty (effAddr s a m.off) = .ok x → storeFormatOk (pageFmt x.spot.leaf) m.ty = true →
    MayStore s m [x] →
    (Served s x.spot.piece → Gives (.st d a m) s fun t => RegistersKept s t ∧
      Stored (useSpots .write [x] s) t x.spot.piece (getS s d).toNat) ∧
    (∀ n, x.spot.piece.place = .pad n → n ≠ s.tileNo → unserved (tileAt s n) = true →
      Gives (.st d a m) s fun t => RegistersKept s t ∧ SameBytes s t ∧ ∃ f : Flit, f.kind = 1 ∧ f.sender = me s ∧
        f.port = false ∧ f.nibble = none ∧ f.elem = none ∧ f.offset = x.spot.piece.addr ∧
        f.bytes = leBytes x.spot.piece.n (getS s d).toNat ∧
        (f ∈ (tileAt t n).net.rx ∨ ((keyOn s n).tile, f) ∈ t.tile.net.outbound))

/-- R214, R215: scalar loads and stores. -/
def Obligations.ScalarAccesses : Prop :=
  Sys2Proof.Claims.ScalarLoad ∧ Sys2Proof.Claims.ScalarStore

/-- R216: the lane addresses: runs of the element size, nibbles for F4, signed byte strides, signed 32-bit byte indices,
all modulo 2^64; LDVX and STVX take no lane from 64 on. -/
def Sys2Proof.Claims.LaneAddresses : Prop :=
  ∀ (s : State) (t : Fmt) (g : Guard) (a st : Nat) (v : VecWord) (lanes : List Nat), a < 2 ^ 64 →
    (∀ e ∈ runElems none t a lanes, e.lane ∈ lanes ∧
      if t = .f4 then e.addr = (a + e.lane / 2) % 2 ^ 64 ∧ (e.high = true ↔ e.lane % 2 = 1)
      else e.addr = (a + e.lane * (t.bits / 8)) % 2 ^ 64) ∧
    (∀ c f, Fmt.ofCode c = some f → ∀ e ∈ runElems (some c) t a lanes, e.lane ∈ lanes ∧
      if f = .f4 then e.addr = (a + e.lane / 2) % 2 ^ 64 ∧ (e.high = true ↔ e.lane % 2 = 1)
      else e.addr = (a + e.lane * (f.bits / 8)) % 2 ^ 64) ∧
    (∀ e ∈ strideElems a st lanes, e.lane ∈ lanes ∧
      (BitVec.ofNat 64 e.addr) = BitVec.ofNat 64 a + BitVec.ofNat 64 e.lane * BitVec.ofNat 64 st) ∧
    (∀ e ∈ indexElems a v lanes, e.lane ∈ lanes ∧
      (BitVec.ofNat 64 e.addr) = BitVec.ofNat 64 a + (v.extractLsb' (32 * e.lane) 32).signExtend 64) ∧
    ∀ i, i ∈ indexLanes s t g ↔ i ∈ activeLanes s t g ∧ i < 64

/-- R88, R216, R217: LDV, LDVS and LDVX of native elements: checked whole, every active lane receives its element and the
others keep; no byte changes but the accessed bits of the pages used. -/
def Sys2Proof.Claims.VectorLoad : Prop :=
  ∀ (s : State) (i : Instr) (d : VReg) (m : MemOp) (probe : Option Nat) (named : List VReg) (es : List Elem)
    (xs : List ElemSpot),
    ((∃ a g, i = .ldv d a m g) ∨ (∃ a b g, i = .ldvs d a b m g) ∨ ∃ a b g, i = .ldvx d a b m g) →
    vectorAccess s .read i = some (m, probe, named, es) → BanksOn s named →
    (∀ e, es.head? = some e → codecFmt (fmtAt s m.space .read (probe.getD e.addr)) = none) →
    found s .read m probe es (fun p => loadFormatOk p m.ty false) = .ok xs → MayLoad s m xs →
    Gives i s fun t =>
      (∀ x ∈ xs, x.elem.lane < vlmax m.ty →
        elem (getV t d) x.elem.lane m.ty = (elemValue s (constLoad m) m.ty x).1 % 2 ^ m.ty.bits) ∧
      (∀ j < vlmax m.ty, (∀ e ∈ es, e.lane ≠ j) → elem (getV t d) j m.ty = elem (getV s d) j m.ty) ∧
      getPc t = getPc s + 8 ∧ (∀ r, getS t r = getS s r) ∧ (∀ r, r ≠ d → getV t r = getV s r) ∧
      (∀ r, getP t r = getP s r) ∧ SameBytes (useSpots .read xs s) t

/-- R89, R216, R217: STV, STVS and STVX: checked whole, the lanes' elements are written in ascending order, and every byte
outside the elements keeps but for the accessed and written bits of the pages used; where the elements do not overlap, each
holds its lane's bits, an element over two pages in both parts. -/
def Sys2Proof.Claims.VectorStore : Prop :=
  ∀ (s : State) (i : Instr) (d : VReg) (m : MemOp) (probe : Option Nat) (named : List VReg) (es : List Elem)
    (xs : List ElemSpot), memoriesWf s = true →
    ((∃ a g, i = .stv d a m g) ∨ (∃ a b g, i = .stvs d a b m g) ∨ ∃ a b g, i = .stvx d a b m g) →
    vectorAccess s .write i = some (m, probe, named, es) → BanksOn s named →
    found s .write m probe es (fun p => storeFormatOk p m.ty) = .ok xs → MayStore s m xs →
    let ps := (xs.flatMap ElemSpot.spots).map (·.piece)
    (∀ p ∈ ps, Served s p) →
    Gives i s fun t => RegistersKept s t ∧
      (∀ q a, (∀ p ∈ ps, ¬ (p.place = q ∧ p.addr ≤ a ∧ a < p.addr + p.n)) →
        (placeMem t q).read a = (placeMem (useSpots .write xs s) q).read a) ∧
      (m.ty ≠ .f4 → (ps.Pairwise fun x y => x.place = y.place → x.addr + x.n ≤ y.addr ∨ y.addr + y.n ≤ x.addr) →
        ∀ x ∈ xs, let v := elem (getV s d) x.elem.lane m.ty
          valueAt t x.spot.piece = v % 2 ^ (8 * x.spot.piece.n) ∧
          ∀ q, x.tail = some q → valueAt t q.piece = v / 2 ^ (8 * x.spot.piece.n))

/-- R88, R90, R306: LDV from a page of a codec format. As DS8 it raises FORMAT_ACCESS (log 51); with no bound operator for the
codec it raises CODEC_UNBOUND; otherwise its message goes to the codec port, and once the operator's message has ended each
active lane receives its element converted from the port's format. -/
def Sys2Proof.Claims.CodecLoad : Prop :=
  ∀ (s : State) (d : VReg) (a : SReg) (m : MemOp) (g : Guard) (c : Nat) (l : Nat) (ls : List Nat),
    let x := effAddr s a m.off
    let lanes := l :: ls
    codecFmt (fmtAt s m.space .read x) = some c → activeLanes s m.ty g = lanes → BanksOn s [d] →
    (m.ty = .ds8 → x + 256 ≤ 2 ^ 64 → ∀ xs,
      findElems s m.space .read m.ty (runElems (fmtAt s m.space .read x) m.ty x lanes) = .ok xs →
      Traps (.ldv d a m g) s 0x054 (BitVec.ofNat 64 x) 0) ∧
    (m.ty ≠ .ds8 → codecPort s (me s) c = none → ∀ xs, findCodec s 8 (codecElems true 8 x 0 lanes) = .ok xs →
      (∀ y ∈ xs, ∀ p ∈ y.spots, pageFmt p.leaf = some c) → MayLoad s { m with ty := .z8 } xs →
      Traps (.ldv d a m g) s 0x101 0 0) ∧
    (m.ty ≠ .ds8 → ∀ region port mp, codecPort s (me s) c = some (region, port, mp) →
      ∀ xs, findCodec s mp.ibits (codecElems true mp.ibits x 0 lanes) = .ok xs →
      (∀ y ∈ xs, ∀ p ∈ y.spots, pageFmt p.leaf = some c) → MayLoad s { m with ty := .z8 } xs →
      let bytes := packBytes mp.ibits (codecRaw s (constLoad m) mp.ibits xs)
      (s.tile.codec = none → Gives (.ldv d a m g) s fun t => t.tile.run = .blocked .codec ∧ getPc t = getPc s ∧
        t.tile.codec = some (bytes, []) ∧ SameBytes s t ∧
        ∀ r, regionNo s (me s) region = some r → (∀ y ∈ (regionAt s r).serving, y.user ≠ .load s.tileNo) →
          (regionAt t r).serving = (regionAt s r).serving ++ [⟨port, .load s.tileNo, dataMessage bytes⟩]) ∧
      (∀ sent back ys, s.tile.codec = some (sent, back) → back.any beatEnds = true →
        codecResult region port xs.length mp back = .ok ys →
        Gives (.ldv d a m g) s fun t => t.tile.codec = none ∧ getPc t = getPc s + 8 ∧ (∀ r, getS t r = getS s r) ∧
          (∀ r, r ≠ d → getV t r = getV s r) ∧ SameBytes (useSpots .read xs s) t ∧
          ∀ j, (h : j < xs.length) → (xs[j]).elem.lane < vlmax m.ty →
            elem (getV t d) (xs[j]).elem.lane m.ty = (match ofmtOf mp with
              | some f => (convertElem f (RMode.ofBits s.tile.seq.round) 127 m.ty (ys.getD j 0)).1
              | none => ys.getD j 0) % 2 ^ m.ty.bits))

/-- R216 to R218, R306: vector loads and stores, their lane addresses, and loads through a codec. -/
def Obligations.VectorAccesses : Prop :=
  Sys2Proof.Claims.LaneAddresses ∧ Sys2Proof.Claims.VectorLoad ∧ Sys2Proof.Claims.VectorStore ∧ Sys2Proof.Claims.CodecLoad

/-- R76, R219: CAS gives the old value extended by its type, stores S[b] exactly when the old bits equal those of S[d], and
changes no other byte but the accessed and written bits of its page. -/
def Sys2Proof.Claims.CompareAndSwap : Prop :=
  ∀ (s : State) (d a b : SReg) (m : MemOp) (x : ElemSpot), memoriesWf s = true → 8 ≤ m.ty.bits →
    findScalar s m.space .update m.ty (effAddr s a m.off) = .ok x → storeFormatOk (pageFmt x.spot.leaf) m.ty = true →
    let old := valueAt s x.spot.piece
    let same := old = (getS s d).toNat % 2 ^ m.ty.bits
    (MayUpdate s m true x (getS s b).toNat → same → Gives (.cas d a b m) s fun t => Wrote s d (extendElem m.ty old) t ∧
      Stored (useSpot (self s) .update x.spot s) t x.spot.piece (getS s b).toNat) ∧
    (MayUpdate s m false x (getS s b).toNat → ¬ same → Gives (.cas d a b m) s fun t => Wrote s d (extendElem m.ty old) t ∧
      SameBytes (useSpot (self s) .update x.spot s) t)

/-- R112, R220: an AMO that is not a posted reduction gives the old value and stores the new one of its operation, bits of
S[b] being the operand; nothing else changes but the accessed and written bits of its page. -/
def Sys2Proof.Claims.AtomicOperations : Prop :=
  ∀ (s : State) (i : Instr) (op : AmoKind) (d a b : SReg) (det : Bool) (m : MemOp) (x : ElemSpot),
    amoOf i = some (op, d, a, b, det, m) → memoriesWf s = true → 8 ≤ m.ty.bits →
    (op = .faddF32 → m.ty = .f32) → (op = .faddBf16 → m.ty = .bf16) →
    findScalar s m.space .update m.ty (effAddr s a m.off) = .ok x → storeFormatOk (pageFmt x.spot.leaf) m.ty = true →
    MayUpdate s m true x ((getS s b).toNat % 2 ^ m.ty.bits) → ¬ (m.order = .plain ∧ d = 0 ∧ m.space = .glob) →
    let old := valueAt s x.spot.piece
    Gives i s fun t => Wrote s d (extendElem m.ty old) t ∧
      Stored (useSpot (self s) .update x.spot s) t x.spot.piece (amoNew op m.ty.bits old ((getS s b).toNat % 2 ^ m.ty.bits))

/-- R111, R221: a reduction AMO (order plain, d = 0, global) is posted: it changes no byte yet but the accessed and written
bits of its page, and stands last in the routers with its operand, mergeable unless .det or the task's bit forbids it. -/
def Sys2Proof.Claims.PostedReductions : Prop :=
  ∀ (s : State) (i : Instr) (op : AmoKind) (a b : SReg) (det : Bool) (m : MemOp) (x : ElemSpot),
    amoOf i = some (op, 0, a, b, det, m) → m.order = .plain → m.space = .glob →
    findScalar s m.space .update m.ty (effAddr s a m.off) = .ok x → storeFormatOk (pageFmt x.spot.leaf) m.ty = true →
    poisonTrap s x.spot.piece = .ok () → orderTrap s (strandAccess s .sync true true) x.spot.piece.touches = none →
    Gives i s fun t => RegistersKept s t ∧ SameBytes (useSpot (self s) .update x.spot s) t ∧
      ∃ r, t.dev.router = s.dev.router ++ [r] ∧ r.opcode = amoCode op ∧ r.place = x.spot.piece.place ∧
        r.addr = x.spot.piece.addr ∧ r.operand = (getS s b).toNat % 2 ^ m.ty.bits ∧ r.parts.map (·.1) = [me s] ∧
        (r.noMerge = true ↔ det = true ∨ (taskOf s (me s)).trec.det = true)

/-- R111, R219 to R221: CAS, the AMOs, and reductions whose result is not wanted. -/
def Obligations.Atomics : Prop :=
  Sys2Proof.Claims.CompareAndSwap ∧ Sys2Proof.Claims.AtomicOperations ∧ Sys2Proof.Claims.PostedReductions

/-- R372: the first use of a page sets its A bit, and the first write its D bit, and no other bit of its entry: no byte
outside the entry's eight changes. A bit that the driver has cleared stays clear while the translation is cached. -/
def Obligations.PageMarks : Prop :=
  ∀ (s : State) (w : Who) (u : Use) (x : Spot) (l : Leaf), memoriesWf s = true → x.leaf = some l →
    let e := s.dev.mem.readNat l.eaddr 8
    let e' := (useSpot w u x s).dev.mem.readNat l.eaddr 8
    let writes := u = .write ∨ u = .update
    let known := cachedAs s (strandSpace s w.key) l
    (∀ q a, (q ≠ .dev ∨ a < l.eaddr ∨ l.eaddr + 8 ≤ a) →
      (placeMem (useSpot w u x s) q).read a = (placeMem s q).read a) ∧
    (∀ k, k ≠ 6 → k ≠ 7 → e'.testBit k = e.testBit k) ∧
    (pteCore e = pteCore l.entry → known = none →
      e'.testBit 6 = true ∧ (writes → e'.testBit 7 = true) ∧ (¬ writes → e'.testBit 7 = e.testBit 7)) ∧
    (∀ k, pteCore e = pteCore l.entry → known = some k → e'.testBit 6 = e.testBit 6 ∧
      (writes → pteD k.entry = false → e'.testBit 7 = true) ∧
      (¬ (writes ∧ pteD k.entry = false) → e'.testBit 7 = e.testBit 7)) ∧
    (pteCore e ≠ pteCore l.entry → e' = e)

/-! ## Copies, rings and collectives at issue (R83 to R86, R222 to R235) -/

/-- CPYL, CPYL.ring, CPYS and CPYF at their issue. -/
def Sys2Proof.Claims.CopyIssue : Prop :=
  ∀ (s : State) (d a b c : SReg) (x : XOp) (ring : Fin 8) (e : Desc) (tb lb : Nat) (load : Bool),
    let tdi := x.tdi.toNat
    let need := (if load then 1 else 2) + (if e.fpath then 4 else 0)
    let ch : Chan := if load then .load else .store
    let eng : Eng := if load then .load else .store
    let base := (getS s a).toNat; let p := (getS s b).toNat; let print := (getS s c).toNat
    let row := (dimOf e 0 * lb + 7) / 8
    let rows := dimOf e 1 * dimOf e 2 * dimOf e 3 * dimOf e 4
    let pitch := pitchInForce p row
    let apart := checkOverlap e tdi tb (layoutGran base pitch rows row) = .ok ()
    let plain : Instr := if load then .cpyl d a b x else .cpys d a b x
    getDesc s tdi = .ok e →
    (Nat.land e.rights need ≠ need → Traps plain s 0x052 (BitVec.ofNat 64 tdi) 0) ∧
    (Nat.land e.rights need = need → checkPath s e (if load then roleCopyIn else roleCopyOut) = .ok () →
      copyBits s e load = .ok (tb, lb) →
      LayoutTraps plain s base p rows row ∧
      (LayoutOk base p rows row → checkCanonical e tb = .ok () → apart →
        Issues plain s (useDesc tdi s) eng (copyBody s x e tb lb load base pitch none none false) x.reply (some ch) d
          (nextId s ch) 0 (NoOther s) ∧
        (load = true →
          (print % 32 ≠ 0 → Traps (.cpyf d a b c false x) s 0x04A (BitVec.ofNat 64 print) 0) ∧
          (print % 32 = 0 → print + 16 ≤ 0x200000 →
            Issues (.cpyf d a b c false x) s (useDesc tdi s) .load (copyBody s x e tb lb true base pitch none (some print) false) x.reply
              (some .load) d (nextId s .load) 0 (NoOther s)))) ∧
      (load = true → checkCanonical e tb = .ok () → print % 32 = 0 → print + 16 ≤ 0x200000 →
        Issues (.cpyf d a b c true x) s (useDesc tdi s) .load (copyBody s x e tb lb true base pitch none (some print) true) x.reply
          (some .load) d (nextId s .load) 0 (NoOther s)) ∧
      (load = true → PitchOk p row → checkCanonical e tb = .ok () →
        (s.tile.rings[ring] = none → Traps (.cpylRing d ring b x) s 0x058 (BitVec.ofNat 64 ring) 0) ∧
        ∀ g : Ring, s.tile.rings[ring] = some g →
          checkOverlap e tdi tb (fun i => decide (g.base / 32 ≤ i ∧ i < (g.base + g.slotSize * g.count) / 32)) = .ok () →
          (g.slotSize < pitch * rows → Traps (.cpylRing d ring b x) s 0x058 (BitVec.ofNat 64 ring) 0) ∧
          (pitch * rows ≤ g.slotSize →
            Issues (.cpylRing d ring b x) s (useDesc tdi s) .load (copyBody s x e tb lb true 0 pitch (some ring) none false) x.reply
              (some .load) d (nextId s .load) 0 (NoOther s))))

/-- CPYA at its issue: the window word, the layout, and the copy in the matrix queue. -/
def Sys2Proof.Claims.AccumulatorCopyIssue : Prop :=
  ∀ (s : State) (d a b c : SReg) (inDir sat : Bool) (t : Fmt) (reply : Option QReg) (sc : Scope),
    let i : Instr := .cpya d a b c inDir t sat reply sc
    let w := (getS s c).toNat
    let row0 := w % 256; let col0 := w / 2 ^ 8 % 256; let rows := w / 2 ^ 16 % 256 + 1; let cols := w / 2 ^ 24 % 256 + 1
    let windowOk := w < 2 ^ 32 ∧ row0 + rows ≤ 256 ∧ col0 + cols ≤ 256
    let base := (getS s a).toNat; let p := (getS s b).toNat
    let row := (cols * t.bits + 7) / 8
    (¬ windowOk → Traps i s 0x0C0 0 0) ∧
    (windowOk → LayoutTraps i s base p rows row) ∧
    (windowOk → LayoutOk base p rows row →
      Issues i s s .matrix (.acc {
          id := (chanState s.tile .acc).last + 1, inDir := inDir, row0 := row0, col0 := col0, rows := rows, cols := cols,
          base := base, pitch := pitchInForce p row, fmt := t, sat := sat, scope := if sc = .tile then .tile else .gang,
          rmode := s.tile.seq.round }) reply (some .acc) d (nextId s .acc) 0 fun u =>
        look 0 u.tile.accSeq ((chanState s.tile .acc).last + 1) = s.tile.issued[(2 : Fin 4)] + 1 ∧
          u.tile.collCounts = s.tile.collCounts ∧ u.tile.fibre = s.tile.fibre)

/-- R17, R18, R222 to R227: CPYL, CPYL.ring, CPYS, CPYF with and without .nd, and CPYA: rights, path and local layout are
checked, each with its trap, a full reply queue traps and a full command queue blocks; else one command is queued, the
transfer identifier is one more than the channel's last, and S[d] receives it. -/
def Sys2Proof.Claims.CopyCommands : Prop := CopyIssue ∧ AccumulatorCopyIssue

/-- R83, R84, R229, R230: RSETUP configures a ring whose geometry is allowed, or raises RING_INVALID; RPUB and RTAKE
block without a FREE or a FILLED slot, and else give the address of the slot at the fill index or of the oldest FILLED one;
RFREE frees the oldest HELD slot, or raises RING_STATE; memory does not change. -/
def Sys2Proof.Claims.Rings : Prop :=
  ∀ (s : State) (r : Fin 8) (d a b c : SReg),
    let base := (getS s a).toNat; let size := (getS s b).toNat; let count := (getS s c).toNat
    let old := s.tile.rings[r]
    (RingAllowed s r base size count → Gives (.rsetup r a b c) s fun t => Passed s t ∧ RingIs s t r {
      base := base, slotSize := size, count := count, free := count, filled := 0, fillIx := 0, pubIx := 0, takeIx := 0,
      slots := List.replicate count .free, freedAt := List.replicate count 0, filler := List.replicate count 0 }) ∧
    (¬ RingAllowed s r base size count → Traps (.rsetup r a b c) s 0x058 (BitVec.ofNat 64 r) 0) ∧
    (old = none → Traps (.rpub d r) s 0x058 (BitVec.ofNat 64 r) 0 ∧ Traps (.rtake d r) s 0x058 (BitVec.ofNat 64 r) 0 ∧
      Traps (.rfree r) s 0x058 (BitVec.ofNat 64 r) 0) ∧
    ∀ x : Ring, old = some x →
      (x.free = 0 → Blocks (.rpub d r) s (.ringFree r)) ∧
      (0 < x.free → Gives (.rpub d r) s fun t => Wrote s d (BitVec.ofNat 64 (x.base + x.fillIx * x.slotSize)) t ∧
        SameBytes s t ∧ t.dev = s.dev ∧ ∃ y, RingIs s t r y ∧ y.free = x.free - 1 ∧ y.fillIx = (x.fillIx + 1) % x.count ∧
          y.takeIx = x.takeIx ∧
          (x.pubIx = x.fillIx → x.fillIx < x.count → x.slots.length = x.count →
            (x.count = 1 ∨ x.slots.getD ((x.fillIx + 1) % x.count) .free ≠ .landed) →
            y.filled = x.filled + 1 ∧ y.pubIx = (x.fillIx + 1) % x.count ∧ y.slots = x.slots.set x.fillIx .filled)) ∧
      (x.filled = 0 → Blocks (.rtake d r) s (.ringFilled r)) ∧
      (0 < x.filled → Gives (.rtake d r) s fun t => Wrote s d (BitVec.ofNat 64 (x.base + x.takeIx * x.slotSize)) t ∧
        SameBytes s t ∧ RingIs s t r
          { x with slots := x.slots.set x.takeIx .held, filled := x.filled - 1, takeIx := (x.takeIx + 1) % x.count }) ∧
      ((∀ k < x.count, x.slots.getD k .free ≠ .held) → Traps (.rfree r) s 0x059 (BitVec.ofNat 64 r) 0) ∧
      ∀ j < x.count, x.slots.getD ((x.takeIx + j) % x.count) .free = .held →
        (∀ i < j, x.slots.getD ((x.takeIx + i) % x.count) .free ≠ .held) →
        Gives (.rfree r) s fun t => Passed s t ∧ t.dev = s.dev ∧ RingIs s t r { x with
          slots := x.slots.set ((x.takeIx + j) % x.count) .free, free := x.free + 1
          freedAt := x.freedAt.set ((x.takeIx + j) % x.count) s.tile.ord.po }

/-- R83, R84, R222 to R231: the copy commands and the ring instructions. -/
def Obligations.CopiesAndRings : Prop :=
  Sys2Proof.Claims.CopyCommands ∧ Sys2Proof.Claims.Rings

/-- R69, R81, R232, R233: COLL needs READ and WRITE, and ATOMIC where it reduces; a buffer that leaves the canonical addresses
raises ADDRESS_NONCANONICAL; at tile and gang scope S[a] must be a mask of
gang members with the issuer's own bit, else COLL_MISMATCH; a type that the reduction does not take raises DESC_BOUNDS.
Otherwise the collective is queued and S[d] receives the strand's next COLL number. -/
def Sys2Proof.Claims.CollectiveIssue : Prop :=
  ∀ (s : State) (d a b : SReg) (kind : CollKind) (op : CollOp) (det : Bool) (tdi : BitVec 16) (q : QReg) (sc : Scope)
    (e : Desc),
    let i : Instr := .coll d a b kind op det tdi q sc
    let group := (getS s a).toNat
    let reduces := kind = .allreduce ∨ kind = .reducescatter ∨ kind = .reduce
    let need := 3 + if reduces then 16 else 0
    let maskOk := group.testBit (me s).tile = true ∧ group < 2 ^ gangSize s (me s)
    let typeOk := ¬ reduces ∨ e.fmt ∈ [0x02, 0x03, 0x06, 0x07] ∨
      (e.fmt ∈ [0x08, 0x0A] ∧ (op = .add ∨ op = .min ∨ op = .max))
    getDesc s tdi.toNat = .ok e →
    (Nat.land e.rights need ≠ need → Traps i s 0x052 (BitVec.ofNat 64 tdi.toNat) 0) ∧
    (Nat.land e.rights need = need → checkRegion s e = .ok () → ∀ x,
      checkCanonical e (collBits s (me s) e) = .error (.cause 0x040 x) → Traps i s 0x040 (BitVec.ofNat 64 x) 0) ∧
    (Nat.land e.rights need = need → checkRegion s e = .ok () → checkCanonical e (collBits s (me s) e) = .ok () →
      (sc = .tile ∨ sc = .gang → ¬ maskOk → Traps i s 0x0D0 0 0) ∧
      (((sc = .tile ∨ sc = .gang) ∧ maskOk) ∨ ((sc = .dev ∨ sc = .sys) ∧ groupOk s sc group = true) →
        (¬ typeOk → Traps i s 0x053 (BitVec.ofNat 64 tdi.toNat) 0) ∧
        (typeOk → Issues i s (useDesc tdi.toNat s) .store (.coll {
            seq := s.tile.seq.collSeq + 1, scope := sc, group := BitVec.ofNat 64 group,
            index := look 0 s.tile.collCounts (collKey sc group) + 1, kind := kind, op := op, det := det,
            root := (getS s b).toNat, desc := e }) (some q) none d (BitVec.ofNat 64 (s.tile.seq.collSeq + 1)) 0 fun t =>
          t.tile.seq.collSeq = s.tile.seq.collSeq + 1 ∧
            look 0 t.tile.collCounts (collKey sc group) = look 0 s.tile.collCounts (collKey sc group) + 1)))

/-! ## Matrix commands at issue (R236 to R249) -/

/-- MMA and MMAG at their issue. -/
def Sys2Proof.Claims.MultiplyIssue : Prop :=
  ∀ (s : State) (d a b c : SReg) (o : MmaOp) (tdi : BitVec 16) (reply : Option QReg) (gang : Bool),
    let i : Instr := if gang then .mmag d a b c o tdi reply else .mma d a b c o tdi reply
    let w := (getS s c).toNat
    let m := w % 256 + 1; let n := w / 2 ^ 8 % 256 + 1; let k := w / 2 ^ 16 % 2 ^ 16 + 1
    let row0 := w / 2 ^ 32 % 256; let col0 := w / 2 ^ 40 % 256
    let shapeRight := w < 2 ^ 58 ∧ (gang = true ∨ w < 2 ^ 48) ∧ row0 + m ≤ 256 ∧ col0 + n ≤ 256
    let va := (getS s a).toNat; let vb := (getS s b).toNat
    (10 < o.pair.val → Traps i s 0x0C2 (BitVec.ofNat 64 o.pair) 0) ∧
    ∀ fa fb, pairFmts o.pair.val = some (fa, fb) →
      (¬ shapeRight → Traps i s 0x0C0 (BitVec.ofNat 64 w) 0) ∧
      (shapeRight → gang = true → groupTiles s w = false → Traps i s 0x0C1 (BitVec.ofNat 64 w) 0) ∧
      (shapeRight → (gang = true → groupTiles s w = true) →
        -- the specifier of A: its zero bits and its alignment (R237)
        (o.av = false → 2 ^ 62 ≤ va → Traps i s 0x0C0 (BitVec.ofNat 64 va) 0) ∧
        (o.av = false → va < 2 ^ 62 → va % 32 ≠ 0 → Traps i s 0x04A (BitVec.ofNat 64 (va % 2 ^ 27)) 0) ∧
        (o.av = true → 64 ≤ va → Traps i s 0x0C0 (BitVec.ofNat 64 va) 0) ∧
        -- both specifiers, the operand window and the scale word allowed: the command is queued
        (checkSpecBits o.av va = .ok () → checkSpecBits o.bv vb = .ok () →
          checkSpecPitch o.av va fa = .ok () → checkSpecPitch o.bv vb fb = .ok () →
          checkSpecRegs o.av va fa m k = .ok () → checkSpecRegs o.bv vb fb n k = .ok () →
          let named := (if o.av then specNamed va fa m else []) ++ if o.bv then specNamed vb fb n else []
          ((∃ r ∈ named, bankCode s.tile.seq.vbank (r / 16) = 2) → Traps i s 0x002 0 0) ∧
          (BanksOn s named →
          let ds8 := o.pair.val = 9 ∨ o.pair.val = 10
          let sw := if ds8 then (getS s d).toNat else 0
          let esrc := decide (sw / 2 ^ 29 % 2 = 1)
          let geom := sw / 2 ^ 27 % 4
          let oa := captureOperand s o.av va fa m
          let ob := captureOperand s o.bv vb fb n
          let scales := if esrc then [(sw % 2 ^ 27, exponentBytes (if o.pair.val = 9 then n else m) k geom)] else []
          (o.av = true → o.bv = true → esrc = true → Traps i s 0x0C0 0 0) ∧
          ((if o.av && o.bv then esrc = false
            else checkWindow s gang tdi.toNat (operandPieces oa fa m k ++ operandPieces ob fb n k ++ scales) = .ok ()) →
            (2 ^ 38 ≤ sw → Traps i s 0x0C0 (BitVec.ofNat 64 sw) 0) ∧
            (sw < 2 ^ 38 → Issues i s (if o.av && o.bv then s else useDesc tdi.toNat s) .matrix (.mma {
                gang := gang, pair := o.pair.val, sat := o.sat, a := oa, b := ob, m := m, n := n, k := k, row0 := row0,
                col0 := col0, eaddr := sw % 2 ^ 27, geom := geom, esrc := esrc,
                efix := if ds8 then sw / 2 ^ 30 % 256 else 127 }) reply none 0 0
              (if o.pair.val = 6 ∨ o.pair.val = 7 then 1 else 0) (NoOther s))))))

/-- MZERO and MSCALE at their issue. -/
def Sys2Proof.Claims.WindowIssue : Prop :=
  ∀ (s : State) (a b : SReg) (int sat : Bool) (sh : Fin 64),
    let w := (getS s a).toNat
    let row0 := w % 256; let col0 := w / 2 ^ 8 % 256; let rows := w / 2 ^ 16 % 256 + 1; let cols := w / 2 ^ 24 % 256 + 1
    let windowRight := w < 2 ^ 32 ∧ row0 + rows ≤ 256 ∧ col0 + cols ≤ 256
    (¬ windowRight → Traps (.mzero a) s 0x0C0 0 0 ∧ Traps (.mscale a b int sat sh) s 0x0C0 0 0) ∧
    (windowRight →
      Issues (.mzero a) s s .matrix (.mzero row0 col0 rows cols) none none 0 0 0 (NoOther s) ∧
      Issues (.mscale a b int sat sh) s s .matrix (.mscale row0 col0 rows cols int sat (getS s b) sh) none none 0 0 0
        (NoOther s))

/-- R236 to R249: MMA, MMAG, MZERO and MSCALE at their issue: the pair code, the shape word, the tile group, the specifiers
and the scale word are checked in the order of log 10, each with its trap; a register operand and the factor of MSCALE are
captured at issue; the command is queued. -/
def Sys2Proof.Claims.MatrixCommands : Prop := MultiplyIssue ∧ WindowIssue

/-- R232, R233, R236 to R249: COLL and the matrix commands at their issue. -/
def Obligations.CollectiveAndMatrixIssue : Prop :=
  Sys2Proof.Claims.CollectiveIssue ∧ Sys2Proof.Claims.MatrixCommands

/-! ## Fibre commands and stream ports (R133, R256, R257, R268, R272 to R301) -/

/-- Units that take no descriptor, and the port adapters. -/
def Sys2Proof.Claims.UnitConfiguration : Prop :=
  ∀ (s : State) (i : Instr) (u : UnitRef) (c : UnitCfg) (p : Fin 8) (f : FReg) (level : Fin 8) (q : QReg) (count : Bool)
    (mode : SinkMode) (addr : Fin 32768),
    (graphUnit s i = some (u, c) → Busy i s ∧
      (oldestGo s.tile (me s) = none →
        (¬ UnitAllowed c.fn u → Traps i s 0x0CA 0 0) ∧ (UnitAllowed c.fn u → Configures i s s (unitNumber u) c))) ∧
    (Busy (.fsrc p f level) s ∧ Busy (.fsinkPort p f) s ∧ Busy (.fsinkQ p f q count) s ∧ Busy (.fsinkL p f mode addr) s) ∧
    (oldestGo s.tile (me s) = none →
      (s.tile.ports[p].binding = none → Traps (.fsrc p f level) s 0x100 0 0 ∧ Traps (.fsinkPort p f) s 0x100 0 0) ∧
      (s.tile.ports[p].binding.isSome = true →
        Configures (.fsrc p f level) s s (42 + p) ⟨.src p level, [f.val], []⟩ ∧
        Configures (.fsinkPort p f) s s (50 + p) ⟨.sinkPort p, [], [f.val]⟩) ∧
      Configures (.fsinkQ p f q count) s s (50 + p) ⟨.sinkQ p q count, [], [f.val]⟩ ∧
      Configures (.fsinkL p f mode addr) s s (50 + p) ⟨.sinkL p mode (64 * addr.val), [], [f.val]⟩)

/-- Units that take descriptors: scans by level format, FVAL and FWRITE. -/
def Sys2Proof.Claims.ArrayConfiguration : Prop :=
  ∀ (s : State) (u : UnitRef) (d a : FReg) (fmt : ScanFmt) (root uniq : Bool) (tdi : BitVec 16) (mode : WrMode) (t : FTy),
    let k := tdi.toNat
    let rm := s.tile.seq.round
    let scan : Instr := .fscan u d a fmt root uniq tdi
    let ins := if root then [] else [a.val]
    let used := useDescs k (scanArrays fmt root) s
    let cfg := fun n x y => (⟨.scan fmt root uniq n x y rm, [d.val], ins⟩ : UnitCfg)
    (Busy scan s ∧ Busy (.fval u d a tdi) s ∧ Busy (.fwrite u a mode t tdi) s) ∧
    (oldestGo s.tile (me s) = none →
      (¬ UnitAllowed (.scan fmt root uniq 0 none none rm) u → Traps scan s 0x0CA 0 0) ∧
      (UnitAllowed (.scan fmt root uniq 0 none none rm) u →
        (∀ x, fmt = .dense → ScanArray s k 0 none x → Configures scan s used (unitNumber u) (cfg (dimOf x 0) none none)) ∧
        (∀ x, fmt = .clist → ScanArray s k 0 (some 6) x → Configures scan s used (unitNumber u) (cfg (dimOf x 0) (some x) none)) ∧
        (∀ x, fmt = .comp → ScanArray s k 0 (some 6) x →
          (k ≤ 0xFFBF ∧ 0xFFBF < k + 1 → Traps scan s 0x050 (BitVec.ofNat 64 (k + 1)) 0) ∧
          ∀ y, ScanArray s k 1 (some 6) y → Configures scan s used (unitNumber u) (cfg 0 (some x) (some y))) ∧
        (∀ x y, fmt = .bitmap → ScanArray s k 0 none x → ScanArray s k 1 (some 7) y →
          (root = true → Configures scan s used (unitNumber u) (cfg (dimOf x 0) (some y) none)) ∧
          ∀ z, root = false → ScanArray s k 2 (some 6) z →
            Configures scan s used (unitNumber u) (cfg (dimOf x 0) (some y) (some z)))) ∧
      (∀ x, UnitAllowed (.value x rm) u → getDesc s k = .ok x →
        (Nat.land x.rights 9 ≠ 9 → Traps (.fval u d a tdi) s 0x052 (BitVec.ofNat 64 k) 0) ∧
        (Nat.land x.rights 9 = 9 → ¬ (x.ndim = 1 ∧ x.fmt ∈ [0, 1, 2, 4, 5, 6, 8, 9, 10, 11, 12, 13]) →
          Traps (.fval u d a tdi) s 0x053 (BitVec.ofNat 64 k) 0) ∧
        (Nat.land x.rights 9 = 9 → x.ndim = 1 → x.fmt ∈ [0, 1, 2, 4, 5, 6, 8, 9, 10, 11, 12, 13] →
          checkRegion s x = .ok () →
          Configures (.fval u d a tdi) s (useDesc k s) (unitNumber u) ⟨.value x rm, [d.val], [a.val]⟩)) ∧
      ∀ x, UnitAllowed (.write mode t x rm) u → getDesc s k = .ok x →
        let need := if mode = .add then 18 else 2
        let same := match t with | .s32 => x.fmt = 2 | .z32 => x.fmt = 6 | .f32 => x.fmt = 8
        (Nat.land x.rights need ≠ need → Traps (.fwrite u a mode t tdi) s 0x052 (BitVec.ofNat 64 k) 0) ∧
        (Nat.land x.rights need = need → ¬ (x.ndim = 1 ∧ (mode = .add → same)) →
          Traps (.fwrite u a mode t tdi) s 0x053 (BitVec.ofNat 64 k) 0) ∧
        (Nat.land x.rights need = need → x.ndim = 1 → (mode = .add → same) → checkRegion s x = .ok () →
          Configures (.fwrite u a mode t tdi) s (useDesc k s) (unitNumber u) ⟨.write mode t x rm, [], [a.val]⟩))

/-- R133, R256, R257, R273 to R286: every configuration command raises FIBRE_BUSY, with the oldest FGO, while one of the
strand is unfinished; a class or unit that its mnemonic cannot take raises FIBRE_CONFIG; what its descriptors must be is
checked; else its unit or adapter is configured through the fibre queue. -/
def Sys2Proof.Claims.FibreConfiguration : Prop := UnitConfiguration ∧ ArrayConfiguration

/-- R257, R268, R287, R288, R289: FGO refuses a graph that fails a check, naming one of its failures; a graph that passes
has no endpoint with only a producer or only a consumer, and has a sink; it reserves an entry for each queue-mode sink and
one for its completion, and takes the next FGO number into S[d]. FKILL ends a running graph of the strand whose stores have
been performed with KILLED and FAIL, sets the SUBST bits of its units and posts its completion entry; .clear also discards
the strand's fibre commands and the configuration. -/
def Sys2Proof.Claims.GraphCommands : Prop :=
  ∀ (s : State) (d : SReg) (q : QReg),
    let plan := s.tile.fibre.plan
    let n := s.tile.seq.fgoSeq + 1
    let want := fun r : QReg => sinksTo plan r + if r = q then 1 else 0
    let fits := ∀ r : QReg, want r = 0 ∨ s.tile.replies[r].entries.length + s.tile.replies[r].reserved + want r ≤ 16
    (graphFailures plan ≠ [] → ∃ f ∈ graphFailures plan, match f.2 with
      | some ep => Traps (.fgo d q) s 0x0CA (BitVec.ofNat 64 (unitNo f.1)) (BitVec.ofNat 64 ep)
      | none => ∃ w, Traps (.fgo d q) s 0x0CA w 0xFFFFFFFFFFFFFFFF) ∧
    (graphFailures plan = [] →
      (∀ f < 32, (∃ u ∈ plan, f ∈ u.2.outs) ↔ ∃ u ∈ plan, f ∈ u.2.ins) ∧ (∃ u ∈ plan, isSink u.2.fn = true) ∧
      (¬ fits → Traps (.fgo d q) s 0x0C4 0 0) ∧
      (fits → 32 ≤ s.tile.qFibre.length → Blocks (.fgo d q) s (.room .fibre)) ∧
      (fits → s.tile.qFibre.length < 32 → Gives (.fgo d q) s fun t =>
        Queued s t .fibre (.go n plan) (some q) ∧ Reserved s t want ∧
          (∀ r, getS t r = if r = d ∧ d ≠ 0 then BitVec.ofNat 64 n else getS s r) ∧ t.tile.seq.fgoSeq = n ∧
          t.tile.fibre = s.tile.fibre ∧ OnlyIssue s t ∧ SameBytes s t)) ∧
    (s.tile.fibre.run = none → Sets .fkill s id) ∧
    (s.tile.fibre.run = none → Gives .fkillClear s fun t => t.tile.fibre = ⟨[], [], none⟩ ∧ SameBytes s t ∧ t.dev = s.dev ∧
      t.tile.qFibre = s.tile.qFibre.filter (fun c => c.owner != me s || c.started) ∧ (∀ r, getS t r = getS s r) ∧
      getPc t = getPc s + 8) ∧
    ∀ c rest r seq cfg, s.tile.qFibre = c :: rest → c.body = .go seq cfg → c.owner = me s → s.tile.owner = some (me s) →
      s.tile.fibre.run = some r → c.held = none → fibreRuns s.tile = true → c.reply = some q →
      (∀ u ∈ cfg, (unitAt r u.1).sends = []) →
      Gives .fkill s fun t => t.tile.seq.subst = s.tile.seq.subst ||| runSubst r cfg ∧ t.tile.qFibre = rest ∧
        t.tile.fibre = { s.tile.fibre with run := none } ∧ SameBytes s t ∧
        t.tile.replies[q].entries = s.tile.replies[q].entries ++
          [BitVec.ofNat 64 (2 * 2 ^ 60 + 2 ^ 59 + 2 ^ 58 + seq % 2 ^ 32)] ∧
        (∀ x : QReg, t.tile.replies[x].reserved =
          s.tile.replies[x].reserved - (sinksTo cfg x + if x = q then 1 else 0)) ∧
        (∀ x, getS t x = getS s x) ∧ getPc t = getPc s + 8

/-- R256, R257, R272 to R289: the fibre configuration commands, FGO and FKILL. -/
def Obligations.FibreIssue : Prop :=
  Sys2Proof.Claims.FibreConfiguration ∧ Sys2Proof.Claims.GraphCommands

/-- R39, R296 to R300: PORTB binds a tile port to a region port of ROLE TILE that no other tile port of the gang has, once
its outbound queue is empty, and names which check fails; PORTB.u unbinds; PORTW appends the register's four beats, and END;
PORTR takes the run of like beats at the head, raising PORT_PROTOCOL for one that may not be taken; PORTQ reports. -/
def Obligations.StreamPorts : Prop :=
  ∀ (s : State) (p : Fin 8) (region : Fin 16) (rport : Fin 8) (a : VReg) (d : SReg) (tok fin : Bool),
    let x := s.tile.ports[p]
    let bind : Instr := .portb p region rport
    let here := region.val < (gangOf s (me s)).regions.length
    let role := (manPort s (me s) region rport).map (·.role) = some 1
    let taken := boundElsewhere s p (region, rport) = true
    let beats := mkBeats (if tok then 1 else 0) 4 (vecBytes (getV s a)) ++ if fin then [endBeat] else []
    (¬ here → Traps bind s 0x100 (BitVec.ofNat 64 region) 0) ∧
    (here → ¬ role → Traps bind s 0x100 (BitVec.ofNat 64 region) 2) ∧
    (here → role → taken → Traps bind s 0x100 (BitVec.ofNat 64 region) 1) ∧
    (here → role → ¬ taken → x.tx ≠ [] → Blocks bind s (.portEmpty p)) ∧
    (here → role → ¬ taken → x.tx = [] → Gives bind s fun t => Passed s t ∧ PortOnly s t p ∧ t.dev = s.dev ∧
      t.tile.ports[p] = { x with binding := some (region, rport) }) ∧
    (x.tx ≠ [] → Blocks (.portbU p) s (.portEmpty p)) ∧
    (x.tx = [] → Gives (.portbU p) s fun t => Passed s t ∧ PortOnly s t p ∧ t.dev = s.dev ∧
      t.tile.ports[p] = { x with binding := none }) ∧
    (BanksOn s [a] →
      ((find? s.tile.fibre.plan (50 + p)).isSome = true → Traps (.portw p a tok fin) s 0x0CA (BitVec.ofNat 64 (42 + p)) 0) ∧
      ((find? s.tile.fibre.plan (42 + p)).isSome = true → Traps (.portr p d a) s 0x0CA (BitVec.ofNat 64 (42 + p)) 0) ∧
      ((find? s.tile.fibre.plan (50 + p)).isSome = false →
        (x.binding = none → Traps (.portw p a tok fin) s 0x100 (BitVec.ofNat 64 p) 0) ∧
        (x.binding.isSome = true → (∀ b ∈ beats, beatOk b = true) →
          (8 < x.tx.length + beats.length → Blocks (.portw p a tok fin) s (.portRoom p beats.length)) ∧
          (x.tx.length + beats.length ≤ 8 → Gives (.portw p a tok fin) s fun t => Passed s t ∧ PortOnly s t p ∧
            t.dev = s.dev ∧ t.tile.ports[p] = { x with tx := x.tx ++ beats }))) ∧
      ((find? s.tile.fibre.plan (42 + p)).isSome = false →
        (x.binding = none → Traps (.portr p d a) s 0x100 (BitVec.ofNat 64 p) 0) ∧
        (x.binding.isSome = true → ∀ b rest, x.rx = b :: rest → beatOk b = false →
          Traps (.portr p d a) s 0x102 (BitVec.ofNat 64 p) (b.side.setWidth 64)) ∧
        (x.binding.isSome = true → ∀ run rest : List Beat, ∀ ended : Bool,
          x.rx = run ++ (if ended then [endBeat] else []) ++ rest → run.length ≤ 4 →
          ((∀ b ∈ run, isData b = true) ∨ (∀ b ∈ run, isTokens b = true)) → (∀ b ∈ run, beatOk b = true) →
          (ended = false → ∀ b, rest.head? = some b → run ≠ [] ∧ isEnd b = false ∧
            (run.length = 4 ∨ ((∀ c ∈ run, isData c = true) ∧ isData b = false) ∨
              ((∀ c ∈ run, isTokens c = true) ∧ isTokens b = false))) →
          (ended = true → x.broken.head?.bind id = none) →
          let bytes := run.flatMap beatBytes
          let kind := if run.any isTokens then 2 ^ 62 else 0
          Gives (.portr p d a) s fun t =>
            Wrote s d (BitVec.ofNat 64 (bytes.length + kind + if ended then 2 ^ 63 else 0)) t ∧
            SameBytes s t ∧ PortOnly s t p ∧ t.tile.ports[p].rx = rest ∧ t.dev = s.dev ∧
            getV t a = (if run = [] then getV s a else bytesVec bytes) ∧ ∀ r, r ≠ a → getV t r = getV s r))) ∧
    Gives (.portq p d) s fun t => OnlyScalars s t ∧ Wrote s d (BitVec.ofNat 64 (x.rx.length +
      (if x.rx.any isEnd then 2 ^ 8 else 0) + (8 - x.tx.length) * 2 ^ 16 +
      match x.binding with | some (i, j) => 2 ^ 24 + i * 2 ^ 25 + j * 2 ^ 29 | none => 0)) t

/-! ## Steps of the engines (R13 to R18, R30, R96, R105, R116, R228, R244, R250, R258 to R291, R306) -/

/-- R30, R121, R187: a blocked strand runs on when what it waits for has come, and not before; a retention wake turns the
named banks that are in retention on, all together, and the strand runs on. -/
def Obligations.Wakes : Prop :=
  ∀ (s : State) (n : Nat) (k : StrandKey) (w : WaitFor) (banks : BitVec 4), (tileAt s n).owner = some k →
    ((tileAt s n).run = .blocked w →
      (Arrived s n k w → TileBecomes (.blockedStrandWake n) s n fun t => { t with run := .running }) ∧
      (¬ Arrived s n k w → Unchanged (.blockedStrandWake n) s)) ∧
    ((∀ v, (tileAt s n).run ≠ .blocked v) → Unchanged (.blockedStrandWake n) s ∧ Unchanged (.retentionWake n) s) ∧
    ((tileAt s n).run = .blocked (.retention banks) → ∃ vb : BitVec 8,
      (∀ j < 4, bankCode vb j = if banks.getLsbD j = true ∧ bankCode (tileAt s n).seq.vbank j = 1 then 0
        else bankCode (tileAt s n).seq.vbank j) ∧
      TileBecomes (.retentionWake n) s n fun t => { t with run := .running, seq := { t.seq with vbank := vb } })

/-- R16, R17, R84, R231: a copy starts while fewer than 64 are in flight, a ring copy with a FREE slot, which becomes
FILLING, or raises RING_INVALID where its strand has ended and left none (log 50); it finishes when its requests have been issued (log 7), posts its entry and goes on in flight; once its source has been
read, and once its accesses have been performed and are visible, the watermarks move over the run of identifiers without a gap;
visibility lands its ring slot and takes it out of flight. -/
def Obligations.CopyProgress : Prop :=
  ∀ (s : State) (n : Nat) (c : QCmd) (rest : List QCmd) (x : CopyCmd) (store : Bool),
    let e : Eng := if store then .store else .load
    let t0 := tileAt s n
    (Head s n e c rest → c.body = .copy x → c.started = false →
      (64 ≤ inFlight t0 → Unchanged (.copyStart n store) s) ∧
      (inFlight t0 < 64 → x.ring = none →
        TileBecomes (.copyStart n store) s n (setEngQueue e ({ c with started := true } :: rest))) ∧
      (inFlight t0 < 64 → x.slot = none → ∀ (r : Fin 8), x.ring = some r →
        let refused := HeldWith (.copyStart n store) s n e c rest ⟨0x058, BitVec.ofNat 64 r, 0, []⟩
        (t0.rings[r] = none ∨ (∃ k, t0.owner = some k ∧ k ≠ c.owner) → refused) ∧
        ∀ y : Ring, t0.owner = none ∨ t0.owner = some c.owner → t0.rings[r] = some y →
          (y.free = 0 → t0.owner = some c.owner → Unchanged (.copyStart n store) s) ∧
          (y.free = 0 → t0.owner = none → refused) ∧
          (0 < y.free → Gives (.copyStart n store) s fun t => SameBytes s t ∧
            (tileAt t n).rings[r] = some { y with
              slots := y.slots.set y.fillIx .filling, free := y.free - 1, fillIx := (y.fillIx + 1) % y.count
              filler := y.filler.set y.fillIx x.id } ∧
            ∃ clock, engQueue (tileAt t n) e = { c with
              started := true, clock := clock
              body := .copy { x with slot := some y.fillIx, base := y.base + y.fillIx * y.slotSize } } :: rest))) ∧
    (Head s n e c rest → c.body = .copy x → c.started = true →
      (requestsIssued s n c x = false → Unchanged (.copyIssueFinish n store) s) ∧
      (requestsIssued s n c x = true → Gives (.copyIssueFinish n store) s fun t => SameBytes s t ∧
        (c.finished = false → Finished s t n e c rest ((if x.toLocal then 4 else 5) * 2 ^ 60 + x.id % 2 ^ 60)
          (copyCharge s n c x)) ∧
        (c.finished = true → engQueue (tileAt t n) e = rest ∧ (tileAt t n).replies = t0.replies ∧
          (tileAt t n).unreported = t0.unreported) ∧
        (tileAt t n).flight = t0.flight ++ [{ c with finished := true }])) ∧
    ∀ (ch : Chan) (id : Nat), let w := chanState t0 ch
      let read := activeCopy s n ch id fun d => sourceRead d && t0.owner == some d.owner
      let ready := t0.flight.find? fun d => isCopy ch id d && d.held.isNone && accessesDone s n d
      (read = none ∨ readNoted w id = true → Unchanged (.copySourceReadDone n ch id) s) ∧
      (read.isSome = true → readNoted w id = false →
        Gives (.copySourceReadDone n ch id) s fun t => SameBytes s t ∧ (tileAt t n).flight = t0.flight ∧
          Rises w.readMark w.readDone id (chanState (tileAt t n) ch).readMark ∧
          (chanState (tileAt t n) ch).visMark = w.visMark ∧
          ∀ d, d ≠ ch → chanState (tileAt t n) d = chanState t0 d) ∧
      (ready = none → Unchanged (.copyVisible n ch id) s) ∧
      (ready = some c → enginesRun t0 = true →
        (copyWritesWait s c.owner ch id = true → Unchanged (.copyVisible n ch id) s) ∧
        (copyWritesWait s c.owner ch id = false → Gives (.copyVisible n ch id) s fun t => SameBytes s t ∧
          (tileAt t n).flight = t0.flight.eraseP (fun d => isCopy ch id d && d.owner == c.owner) ∧
          (∀ d, d ≠ ch → chanState (tileAt t n) d = chanState t0 d) ∧
          (t0.owner ≠ some c.owner → chanState (tileAt t n) ch = w ∧ (tileAt t n).seq.subst = t0.seq.subst) ∧
          (t0.owner = some c.owner → Rises w.visMark w.visDone id (chanState (tileAt t n) ch).visMark ∧
            (tileAt t n).seq.subst = t0.seq.subst ||| c.flags ∧
            ∀ r k y, c.body = .copy x → x.ring = some r → x.slot = some k → t0.rings[r] = some y →
              (tileAt t n).rings[r] = some (land k y))))

/-- R105, R106, R111, R112, R225, R282: an access at its serialisation point: an element that can be read stands in the
copy's buffer, one that can be written is written and noted, the fingerprint of CPYF is 16 bytes of SHAKE256 over the packed
elements; a store of a write unit is the oldest one; a fault or a service request holds the command, a conflict with the lowest
granule of the copy that conflicts. A reduction AMO that no earlier one of its strands must precede (R102) writes the operation
of the old value and its operand; two of one operation and place merge into one with the combined operand. -/
def Obligations.AccessSteps : Prop :=
  ∀ (s : State) (n : Nat) (c : QCmd) (rest : List QCmd) (x : CopyCmd) (i : Nat),
    let ch : Chan := if x.toLocal then .load else .store
    let e : Eng := if x.toLocal then .load else .store
    let who := cmdWho n c
    let count := descCount x.desc
    let active := Head s n e c rest ∧ c.body = .copy x ∧ c.started = true ∧
      ∀ d ∈ (tileAt s n).flight, isCopy ch x.id d = false
    let write := fun v => if x.toLocal then localWrite (cmdAccess c .copyWrite true false) who (copyLocal x i) x.lbits v s
      else copyDest n c x i v s
    (active → i < count → c.rd.testBit i = false →
      (∀ u y, copySource n c x i s = .ok (u, y) → Gives (.memoryAccessPerform (.copyRead n ch x.id i)) s fun t =>
        SameBytes u t ∧
          engQueue (tileAt t n) e = noteRead (copyCodec s n c x).isSome x.path.isSome count i y c :: rest) ∧
      (∀ f g, copySource n c x i s = .error (.trap f) → wholeReport s n c false (.error (.trap f)) = .error (.trap g) →
        HeldWith (.memoryAccessPerform (.copyRead n ch x.id i)) s n e c rest g)) ∧
    (active → x.noData = false → readyElem s n c x = true → (x.toLocal = true → returnWaits s n x.id i = false) →
      c.wr.testBit i = false → ∀ v, find? c.buf i = some v →
      (∀ u, write v = .ok u → Gives (.memoryAccessPerform (.copyWrite n ch x.id i)) s fun t =>
        SameBytes u t ∧ engQueue (tileAt t n) e = noteWrite x.print.isSome i c :: rest) ∧
      ∀ f g, write v = .error (.trap f) → wholeReport s n c true (.error (.trap f)) = .error (.trap g) →
        HeldWith (.memoryAccessPerform (.copyWrite n ch x.id i)) s n e c rest g) ∧
    (active → x.toLocal = true → allReady s n c x = true → c.wr.testBit count = false →
      ∀ addr, x.print = some addr → ∀ u,
      engWrite (cmdAccess c .copyWrite true false) who .loc (fun _ => true) addr
        ⟨shake256 (packBytes x.lbits ((List.range count).map (look 0 c.buf))) 16, none, none⟩ s = .ok u →
      Gives (.memoryAccessPerform (.copyPrint n x.id)) s fun t => SameBytes u t ∧
        engQueue (tileAt t n) .load = { c with wr := c.wr ||| 2 ^ count } :: rest) ∧
    (∀ (seq : Nat) (cfg : List (Nat × UnitCfg)) (r : Run) (slot : Nat) (f : UnitCfg) (a v : Nat) (more : List (Nat × Nat)),
      Running s n c rest seq cfg r → find? cfg slot = some f → (unitAt r slot).sends = (a, v) :: more →
      (unitAt r slot).held = none → owedAcks s c.owner = false →
      (∀ u flags, performSend n c f.fn a v s = .ok (u, flags) →
        Gives (.memoryAccessPerform (.fibreWrite n slot)) s fun t => SameBytes u t ∧
          (tileAt t n).fibre.run = some { setUnit slot { unitAt r slot with sends := more } r with
            subst := r.subst ||| flags, still := 0 }) ∧
      ∀ g, performSend n c f.fn a v s = .error (.trap g) →
        HeldWith (.memoryAccessPerform (.fibreWrite n slot)) s n .fibre c rest g) ∧
    (∀ r : RouterAmo, s.dev.router[i]? = some r → memoriesWf s = true →
      let w := r.ty.bits / 8
      let old := (placeMem s r.place).readNat r.addr w
      (amoFirst s.dev.router i none r = false → Unchanged (.memoryAccessPerform (.routerAmo i)) s) ∧
      (amoFirst s.dev.router i none r = true → Gives (.memoryAccessPerform (.routerAmo i)) s fun t =>
        t.dev.router = s.dev.router.eraseIdx i ∧
        Stored s t ⟨r.place, r.addr, w, 0⟩ (amoValue (amoOf r.opcode) r.ty.bits old r.operand))) ∧
    ∀ (j : Nat) (a b : RouterAmo), i < j → s.dev.router[i]? = some a → s.dev.router[j]? = some b →
      let may := a.opcode = b.opcode ∧ a.ty = b.ty ∧ a.place = b.place ∧ a.addr = b.addr ∧ a.noMerge = false ∧
        b.noMerge = false ∧ amoFirst s.dev.router j (some i) b = true
      (may → DevBecomes (.routerAmoMerge i j) s fun d => { d with router := (d.router.set i { a with
          operand := amoValue (amoOf a.opcode) a.ty.bits a.operand b.operand, parts := a.parts ++ b.parts }).eraseIdx j }) ∧
      (¬ may → Unchanged (.routerAmoMerge i j) s)

/-- R226, R244, R248 to R252, R255, R411: MZERO and MSCALE write their window and finish; a clean pass of MMA writes every
element of its at most 64 rows and 32 columns, each from its accumulator and its row and column, and no other; a pass that is
not clean, a droop flagged while it ran making it so, writes nothing and counts a replay, and after 16 replays the command is
held with REPLAY_LIMIT. CPYA starts, and goes into flight when the matrix queue has read or written its accumulators (log 7). -/
def Obligations.MatrixPasses : Prop :=
  ∀ (s : State) (n : Nat) (q : QCmd) (rest : List QCmd) (check : PassCheck), memoriesWf s = true → Head s n .matrix q rest →
    let entry := 8 * 2 ^ 60 + min q.replays 65535 * 2 ^ 32 + q.seq % 2 ^ 32
    let fill := fun rows cols => 745 * ((rows * cols + 2047) / 2048 + 2)
    (∀ row0 col0 rows cols, q.body = .mzero row0 col0 rows cols → row0 + rows ≤ 256 → col0 + cols ≤ 256 →
      Gives (.matrixPass n check) s fun t => AccBecomes s t n row0 col0 rows cols (fun _ _ => 0) ∧ SameBytes s t ∧
        Finished s t n .matrix q rest entry (fill rows cols)) ∧
    (∀ row0 col0 rows cols int sat f sh, q.body = .mscale row0 col0 rows cols int sat f sh → row0 + rows ≤ 256 →
      col0 + cols ≤ 256 → Gives (.matrixPass n check) s fun t =>
        AccBecomes s t n row0 col0 rows cols (fun r c => (scaleElem int sat f sh (accAt s n r c)).1 % 2 ^ 32) ∧
        SameBytes s t ∧ Finished s t n .matrix q rest entry (fill rows cols)) ∧
    (∀ x : AccCmd, q.body = .acc x →
      let done := (if x.inDir then q.wr else q.rd) = 2 ^ (x.rows * x.cols) - 1
      (q.started = false →
        TileBecomes (.matrixPass n check) s n (setEngQueue .matrix ({ q with started := true } :: rest))) ∧
      (q.started = true → ¬ done → Unchanged (.matrixPass n check) s) ∧
      (q.started = true → done → Gives (.matrixPass n check) s fun t => SameBytes s t ∧
        (q.finished = false → Finished s t n .matrix q rest (6 * 2 ^ 60 + x.id % 2 ^ 60)
          (500 + 2 * (x.rows * ((x.cols * x.fmt.bits + 7) / 8)))) ∧
        (q.finished = true → (tileAt t n).qMatrix = rest ∧ (tileAt t n).replies = (tileAt s n).replies) ∧
        ((tileAt s n).owner = some q.owner → (tileAt t n).seq.subst = (tileAt s n).seq.subst ||| q.flags) ∧
        (tileAt t n).flight = (tileAt s n).flight ++ [{ q with finished := true }])) ∧
    ∀ (c : MmaCmd) (fa fb : Fmt), q.body = .mma c → pairFmts c.pair = some (fa, fb) → 0 < c.n →
      c.row0 + c.m ≤ 256 → c.col0 + c.n ≤ 256 →
      let blocks := (c.n + 31) / 32
      let r1 := 64 * (q.pass / blocks); let c1 := 32 * (q.pass % blocks)
      let rows := passRows c q.pass; let cols := passCols c q.pass
      ∀ u v a b, operandRows q n c c.a fa rows s = .ok (u, a) → operandRows q n c c.b fb cols u = .ok (v, b) →
      (check = .clean → q.droop = false → Gives (.matrixPass n check) s fun t => SameBytes v t ∧
        AccBecomes s t n (c.row0 + r1) (c.col0 + c1) (min 64 (c.m - r1)) (min 32 (c.n - c1)) (fun r k =>
          (outputElem (c.pair == 8) c.sat (accAt s n r k) (a.getD (r - (c.row0 + r1)) []) (b.getD (k - (c.col0 + c1)) [])).1
            % 2 ^ 32) ∧
        (q.pass + 1 < (c.m + 63) / 64 * blocks → ∃ d, engQueue (tileAt t n) .matrix = d :: rest ∧ d.pass = q.pass + 1 ∧
          d.run = 0 ∧ d.replays = q.replays) ∧
        ((c.m + 63) / 64 * blocks ≤ q.pass + 1 → Finished v t n .matrix q rest entry (745 * (16 + (q.cost + passClocks c))))) ∧
      (check ≠ .clean ∨ q.droop = true → Gives (.matrixPass n check) s fun t => SameBytes v t ∧
        (∀ r k, accAt t n r k = accAt s n r k) ∧
        ∃ d, engQueue (tileAt t n) .matrix = d :: rest ∧ d.pass = q.pass ∧ d.droop = false ∧
          (q.run = 16 → d.held = some (.fault ⟨0x1C2, BitVec.ofNat 64 q.pass, 0, []⟩) ∧ d.replays = q.replays) ∧
          (q.run ≠ 16 → d.held = none ∧ d.run = q.run + 1 ∧ d.replays = q.replays + 1 ∧
            let droop := check = .droop ∨ q.droop = true
            (telemetryAt t n).droopRep = (telemetryAt s n).droopRep + (if droop then 1 else 0) ∧
            (telemetryAt t n).resRep = (telemetryAt s n).resRep + (if droop then 0 else 1)))

/-- R260, R262, R265, R269, R270, R274, R287 to R291: a configuration takes effect at the head of the queue; a run starts with
every edge empty and every unit blank; a unit with its inputs, its outputs' room and no fault takes its tokens and writes its
own, at once; a breach holds the FGO with STREAM_GRAMMAR, its own or one that another unit meets at a lower endpoint, and moves
nothing; a read that returns stands in its unit; a graph in which nothing has moved for 2^20 clocks is held with FIBRE_STALL; a
run whose sinks have all taken D and whose stores have been performed finishes and posts its entry, a killed one with FAIL and
KILLED. -/
def Sys2Proof.Claims.GraphSteps : Prop :=
  ∀ (s : State) (n : Nat) (c : QCmd) (rest : List QCmd) (seq slot : Nat) (cfg : List (Nat × UnitCfg)) (r : Run) (f : UnitCfg),
    let t0 := tileAt s n
    let u := unitAt r slot
    let next := slotStep s n cfg r (slot, f)
    let room := fun writes : List (Nat × Tok) =>
      ∀ w ∈ writes, (r.edges.getD (f.outs.getD w.1 32) (Edge.start 0)).toks.length < 8
    let reports := fun (ep : Nat) (own : TrapInfo) => ∃ g, HeldWith (.fibreUnitStep n slot) s n .fibre c rest g ∧
      (g = own ∨ ∃ v ∈ cfg, ∃ b, unitBreach s n cfg r v = some b ∧ b.1 < ep ∧ g = b.2)
    let waits := fun g : Nat × UnitCfg => (unitAt r g.1).held.isSome = true ∨ waitsStopped s c.owner t0 g.2.fn = true
    (fibreRuns t0 = true → Head s n .fibre c rest →
      (∀ k g, c.body = .config k g → t0.owner = some c.owner →
        TileBecomes (.fibreConfigApply n) s n fun t =>
          { t with qFibre := rest, fibre := { t.fibre with units := keep t.fibre.units k g } }) ∧
      (c.body = .go seq cfg → t0.fibre.run = none → Gives (.graphRunStart n) s fun t => SameBytes s t ∧ t.dev = s.dev ∧
        (tileAt t n).qFibre = { c with started := true } :: rest ∧
        ∃ q, (tileAt t n).fibre = { t0.fibre with run := some q } ∧ q.seq = seq ∧ q.edges.length = 32 ∧ q.subst = 0 ∧
          q.still = 0 ∧ q.killed = false ∧
          (∀ e ∈ q.edges, e.toks = [] ∧ e.ended = false ∧ e.m = e.level) ∧ (∀ k, unitAt q k = UnitState.blank))) ∧
    (Running s n c rest seq cfg r → find? cfg slot = some f →
      (∀ takes writes v q, next = .move takes writes v 0 [] → adapterPort f.fn = none → room writes →
        writeTokens f writes r = .ok q →
        RunBecomes (.fibreUnitStep n slot) s n
          (let q := setUnit slot v (takes.foldl (fun r i => takeToken cfg f slot i r) q)
            if takes = [] ∧ writes = [] then q else { q with still := 0 })) ∧
      (∀ takes writes v pop push, next = .move takes writes v pop push → adapterPort f.fn = none → ¬ room writes →
        Unchanged (.fibreUnitStep n slot) s) ∧
      (∀ ep sub side t, next = .breach ep sub side t → reports ep (breachTrap r ep slot sub side t)) ∧
      (∀ takes writes v ep sub t, next = .move takes writes v 0 [] → adapterPort f.fn = none → room writes →
        writeTokens f writes r = .error (ep, sub, t) → reports ep (breachTrap r ep slot sub 0 t)) ∧
      (next = .idle → Unchanged (.fibreUnitStep n slot) s) ∧
      (∀ which ix, graphStep (freeAt s (2 ^ 68)) cfg r f slot [] u = .read which ix → owedAcks s c.owner = false →
        (∀ w y, readFor n c f.fn which ix s = .ok (w, y) → Gives (.fibreScanReadReturn n slot) s fun t => SameBytes w t ∧
          (tileAt t n).fibre.run = some { setUnit slot
            { u with arr := keep (if (wordPartner cfg r slot).isSome then [] else u.arr) (readKey which ix) y.1 } r with
            subst := r.subst ||| y.2, still := 0 }) ∧
        ∀ g, readFor n c f.fn which ix s = .error (.trap g) →
          HeldWith (.fibreScanReadReturn n slot) s n .fibre c rest g)) ∧
    (Running s n c rest seq cfg r →
      ((∀ g ∈ cfg, ¬ waits g) → r.killed = false → 2 ^ 20 ≤ r.still → (∀ g ∈ cfg, unitMoves s n cfg r g = false) →
        HeldWith (.fibreStallExpiry n) s n .fibre c rest (stallTrap s n cfg r)) ∧
      (r.still < 2 ^ 20 ∨ (∃ g ∈ cfg, waits g) ∨ (∃ g ∈ cfg, unitMoves s n cfg r g = true) →
        Unchanged (.fibreStallExpiry n) s) ∧
      ((∃ g ∈ cfg, (unitAt r g.1).sends ≠ []) ∨
          (r.killed = false ∧ ∃ g ∈ cfg, isSink g.2.fn = true ∧ (unitAt r g.1).ended = false) →
        Unchanged (.graphRunFinish n) s) ∧
      ((∀ g ∈ cfg, (unitAt r g.1).sends = []) →
        (r.killed = true ∨ ∀ g ∈ cfg, isSink g.2.fn = true → (unitAt r g.1).ended = true) →
        sinkQueues cfg = [] → ∀ q : QReg, c.reply = some q → t0.owner = some c.owner →
        Gives (.graphRunFinish n) s fun t => SameBytes s t ∧ (tileAt t n).qFibre = rest ∧
          (tileAt t n).fibre = { t0.fibre with run := none } ∧
          (tileAt t n).seq.subst = t0.seq.subst ||| runSubst r cfg ∧
          Posted s t n c (2 * 2 ^ 60 + (if r.killed then 2 ^ 59 + 2 ^ 58 else 0) + seq % 2 ^ 32)))

/-- R261, R264, R279, R281: single tokens: an intersection of equal coordinates writes both references and drops the lower
of unequal ones, a union keeps each with the absent reference beside it, an ALU combines two values, and a value read for an
absent reference gives zero. -/
def Sys2Proof.Claims.StreamUnits : Prop :=
  ∀ (r : Run) (c : UnitCfg) (slot : Nat) (u : UnitState) (x y p q v w : BitVec 32) (vp vq : Option (BitVec 32)),
    (inputHead r c slot 0 = some (.elem x p vp) → inputHead r c slot 1 = some (.elem y q vq) → u.lastA = none →
      u.lastB = none →
      (x = y → ∀ union : Bool, stepPair r c slot union u = .move [0, 1] [(0, .elem x p vp), (1, .elem x q vq)]
        { u with lastA := some x.toNat, lastB := some x.toNat } 0 []) ∧
      (x.toNat < y.toNat →
        stepPair r c slot false u = .move [0] [] { u with lastA := some x.toNat } 0 [] ∧
        stepPair r c slot true u = .move [0] [(0, .elem x p vp), (1, .elem x 0xFFFFFFFF none)]
          { u with lastA := some x.toNat } 0 []) ∧
      (y.toNat < x.toNat →
        stepPair r c slot false u = .move [1] [] { u with lastB := some y.toNat } 0 [] ∧
        stepPair r c slot true u = .move [1] [(0, .elem y 0xFFFFFFFF none), (1, .elem y q vq)]
          { u with lastB := some y.toNat } 0 [])) ∧
    (∀ op t sat rm imm, inputHead r c slot 0 = some (.elem x p (some v)) →
      inputHead r c slot 1 = some (.elem y q (some w)) → ∃ u1,
        stepAlu r c slot op t true sat rm imm u =
          .move [0, 1] [(0, .elem x p (some (BitVec.ofNat 32 (aluValue op t sat rm v.toNat w.toNat).1)))] u1 0 []) ∧
    (inputHead r c slot 0 = some (.elem x 0xFFFFFFFF vp) →
      stepValue r c slot u = .move [0] [(0, .elem x 0xFFFFFFFF (some 0))] u 0 []) ∧
    (∀ (t : FTy) (sat : Bool) (rm : BitVec 2), reduceValue .add t sat rm [] = (0, 0)) ∧
    ∀ (t : FTy) (sat : Bool) (rm : BitVec 2),
      (reduceValue .min t sat rm []).1 = (match t with | .s32 => 0x7FFFFFFF | .z32 => 0xFFFFFFFF | .f32 => 0x7F800000) ∧
      (reduceValue .max t sat rm []).1 = (match t with | .s32 => 0x80000000 | .z32 => 0 | .f32 => 0xFF800000)

/-- R258 to R291: the steps of a graph run and its stream units. -/
def Obligations.GraphAndStreamSteps : Prop :=
  Sys2Proof.Claims.GraphSteps ∧ Sys2Proof.Claims.StreamUnits

/-- R110, R171, R233, R235: once every participant's COLL heads its queue and has started, and none can be stopped, a
collective writes each result element where its kind says and every participant's COLL finishes, its entry waiting at the
network interface of a tile that is not served (R33); a disagreement holds each with COLL_MISMATCH; a lost participant holds
the survivor with COLL_ABORTED. A barrier instance completes when every member has arrived or ended, and its bits clear
together. -/
def Obligations.CollectiveSteps : Prop :=
  ∀ (s : State) (n : Nat) (c : QCmd) (rest : List QCmd) (x : CollCmd), Head s n .store c rest → c.body = .coll x →
    let members := collMembers s c.owner x
    let ranks := members.length
    (c.started = false →
      TileBecomes (.copyStart n true) s n (setEngQueue .store ({ c with started := true } :: rest))) ∧
    (readyMembers s x 0 members = none → Unchanged (.collComplete n) s) ∧
    (∀ ms, readyMembers s x 0 members = some ms → ms ≠ [] → (ms.map (·.2.1)).Nodup → CollMember.away ∉ members →
      (∀ m ∈ ms, ∀ d ∈ flightOf (tileAt s m.2.1) .store, ¬ (d.owner = m.2.2.owner ∧ d.seq = m.2.2.seq)) →
      (agree x ranks (ms.filterMap fun m => collOf m.2.2) = false → Gives (.collComplete n) s fun t => SameBytes s t ∧
        ∀ m ∈ ms, ∃ d, (tileAt t m.2.1).qStore.head? = some d ∧ d.seq = m.2.2.seq ∧
          d.held = some (.fault ⟨0x0D0, 0, 0, []⟩)) ∧
      (agree x ranks (ms.filterMap fun m => collOf m.2.2) = true → collStopper s ranks ms = none →
        Gives (.collComplete n) s fun t =>
          SameBytes (collUsed ranks ms (collWritten s x ranks (x.det || (taskOf s c.owner).trec.det) ms)) t ∧
          ∀ m ∈ ms, (tileAt t m.2.1).qStore = (tileAt s m.2.1).qStore.tail ∧
            (tileAt t m.2.1).unreported.length = (tileAt s m.2.1).unreported.length + 1 ∧
            (unserved (tileAt s m.2.1) = false →
              ∀ y, m.2.2.body = .coll y → Posted s t m.2.1 m.2.2 (0xC * 2 ^ 60 + y.seq % 2 ^ 60)))) ∧
    ((s.dev.lost.contains (lostKey c.owner x) || members.any (memberLost s x)) = true →
      Gives (.collParticipantLost n) s fun t => lostKey c.owner x ∈ t.dev.lost ∧
        ∃ d, (tileAt t n).qStore = d :: rest ∧ d.seq = c.seq ∧ d.held = some (.fault ⟨0x0D1, 0, 0, []⟩)) ∧
    ((s.dev.lost.contains (lostKey c.owner x) || members.any (memberLost s x)) = false →
      Unchanged (.collParticipantLost n) s) ∧
    ∀ (q rec g : Nat) (k : Fin 16), (s.dev.gangs.any (Gang.is q rec g)) = true →
      let gang := gangAt s q rec g
      let full := gang.pending.getD k [] ≠ [] ∧ ∀ i < gang.members.length, Reached gang k i
      (¬ full → Unchanged (.barrierInstanceComplete q rec g k) s) ∧
      (full → Gives (.barrierInstanceComplete q rec g k) s fun t => SameBytes s t ∧
        (gangAt t q rec g).pending.getD k [] = [] ∧ (gangAt t q rec g).members = gang.members ∧
        (∀ j ≠ k.val, (gangAt t q rec g).pending.getD j [] = gang.pending.getD j []) ∧
        (gangAt t q rec g).done.getD k Clock.none =
          (gang.arrived.getD k []).foldl (fun c a => joinClock c a.2) (gang.done.getD k Clock.none) ∧
        (gangAt t q rec g).arrived.getD k [] = [])

/-! ## Beats, flits, stops and quota (R28, R29, R33, R116, R117, R119, R120, R293, R295, R302, R306, R388 to R393, R414 to
R416, R443) -/

/-- R293, R295, R302, R303, R306: a beat leaves the outbound queue of a port for the edge buffer of a bound region that has
room, and a beat of a copy's or a load's message leaves the message that its port serves; an operator's beat joins a receive
queue of fewer than 16, an END that breaks the ratio marked; a copy and a load that wait take the beats of the message their port
serves, END once the whole message has gone out (log 55), and a copy's bad one holds it with PORT_PROTOCOL. The operator may
have taken what the buffer held (log 5). -/
def Obligations.BeatSteps : Prop :=
  ∀ (s : State) (n : Nat) (p : Fin 8) (b : Beat) (k : StrandKey) (i j g : Nat) (m : ManPort),
    let t0 := tileAt s n
    let x := t0.ports[p]
    let moving := t0.net.frozen = false ∧ clockStopped t0 = false
    let bound := (regionAt s g).state = .bound
    let buffer := fun (u : State) (h : Nat) => (regionAt u g).edges.getD h []
    let joins := fun (t : State) (b : Beat) => (∃ taken, taken ≤ (buffer s j).length ∧
      buffer t j = (buffer s j).drop taken ++ [b]) ∧ (∀ h ≠ j, buffer t h = buffer s h) ∧
        (regionAt t g).atBoundary.getD j true = isEnd b
    t0.owner = some k →
    (x.binding = some (i, j) → (gangOf s k).regions[i]? = some g → manPort s k i j = some m →
      (∀ tx, x.tx = b :: tx → ¬ (moving ∧ bound) → Unchanged (.beatTransfer (.toRegion n p)) s) ∧
      (∀ tx, x.tx = b :: tx → moving → bound → (buffer s j).length < m.depth →
        Gives (.beatTransfer (.toRegion n p)) s fun t => (tileAt t n).ports[p] = { x with tx := tx } ∧
          (∀ q : Fin 8, q ≠ p → (tileAt t n).ports[q] = t0.ports[q]) ∧ SameBytes s t ∧ joins t b) ∧
      (¬ (moving ∧ bound) ∨ 16 ≤ x.rx.length → Unchanged (.beatTransfer (.toTile n p b)) s) ∧
      (moving → bound → x.rx.length < 16 → Gives (.beatTransfer (.toTile n p b)) s fun t => SameBytes s t ∧
        (tileAt t n).ports[p].rx = x.rx ++ [b] ∧ (tileAt t n).ports[p].tx = x.tx ∧
        (isEnd b = false → (tileAt t n).ports[p].broken = x.broken) ∧
        (isEnd b = true → let cnt := (regionAt s g).counts.getD j ([], 0)
          ∃ f, (tileAt t n).ports[p].broken = x.broken ++ [f] ∧
            (f = none ↔ m.rin = 0 ∨ cnt.2 * m.rin = cnt.1.headD 0 * m.rout)) ∧
        (∀ q : Fin 8, q ≠ p → (tileAt t n).ports[q] = t0.ports[q]))) ∧
    (∀ sent got, t0.run = .blocked .codec → t0.codec = some (sent, got) → got.any beatEnds = false →
      (servedFor s (.load n) = none → Unchanged (.beatTransfer (.toLoad n b)) s) ∧
      ∀ y, servedFor s (.load n) = some y → moving →
        (isEnd b = true → y.out ≠ [] → Unchanged (.beatTransfer (.toLoad n b)) s) ∧
        (isEnd b = false ∨ y.out = [] → Gives (.beatTransfer (.toLoad n b)) s fun t => SameBytes s t ∧
          tileAt t n = { t0 with codec := some (sent, got ++ [b]) })) ∧
    (∀ y mp out, servedMsg (regionAt s g) j = some y → (regionAt s g).manifest.bind (fun m => m.ports[j]?) = some mp →
      y.out = b :: out → (s.dev.regions.any fun r => r.1 == g) = true →
      (tileAt s (userTile y.user)).net.frozen = false → clockStopped (tileAt s (userTile y.user)) = false → bound →
      (buffer s j).length < mp.depth → Gives (.beatTransfer (.toPort g j)) s fun t => SameBytes s t ∧ joins t b ∧
        servedMsg (regionAt t g) j = some { y with out := out }) ∧
    ∀ (c : QCmd) (rest : List QCmd) (cp : CopyCmd) (ri po : Nat) (mp : ManPort),
      let e : Eng := if cp.toLocal then .load else .store
      let ch : Chan := if cp.toLocal then .load else .store
      let user : PortUser := .copy n ch cp.id
      let take : Instr := .beatTransfer (.toCopy n ch cp.id b)
      Head s n e c rest → c.body = .copy cp → c.started = true → (∀ d ∈ t0.flight, isCopy ch cp.id d = false) →
      (c.pass = 1 ∨ c.pass = 2) → stagePort s n c cp = some (ri, po, mp) →
      (mayServe s c.owner ri po user = false → Unchanged take s) ∧
      (mayServe s c.owner ri po user = true →
        (isEnd b = true → messageSent s c.owner ri po user = false → Unchanged take s) ∧
        ((isEnd b = true → messageSent s c.owner ri po user = true) →
          (beatOk b = false ∨ isTokens b = true → HeldWith take s n e c rest
            ⟨0x102, BitVec.ofNat 64 po, b.side.setWidth 64, []⟩) ∧
          (beatOk b = true → isData b = true → Gives take s fun t => SameBytes s t ∧
            engQueue (tileAt t n) e = { c with beats := c.beats ++ [b] } :: rest) ∧
          (beatOk b = true → isEnd b = true →
            (∀ ys, codecResult ri po (descCount cp.desc) mp (c.beats ++ [b]) = .ok ys → Gives take s fun t => SameBytes s t ∧
              ∃ d, engQueue (tileAt t n) e = d :: rest ∧ d.beats = [] ∧
                d.buf.length = min (descCount cp.desc) ys.length ∧
                d.pass = if c.pass = 1 ∧ cp.path.isSome = true then 2 else 3) ∧
            ∀ f, codecResult ri po (descCount cp.desc) mp (c.beats ++ [b]) = .error (.trap f) →
              HeldWith take s n e c rest f)))

/-- R33, R390, R391, R392: the oldest flit of a receive buffer is delivered unless the interface is frozen or its clock stopped:
a store lands in the scratchpad, a reply entry is posted, a window AMO waits for its strand; a stopped tile's interface freezes;
each peer, and the local port, acknowledges once, is recorded with its occupancy and its count, and from then on holds its
traffic; a served interface, once RECON runs, is frozen no more and no peer holds its traffic. -/
def Obligations.NetworkSteps : Prop :=
  ∀ (s : State) (n peer : Nat) (k : StrandKey),
    let t0 := tileAt s n
    let stopped := (∃ w, t0.run = .frozen w) ∨ ∃ w, t0.run = .halted w
    memoriesWf s = true → t0.owner = some k →
    (∀ f rest, t0.net.rx = f :: rest →
      (t0.net.frozen = true ∨ stopped → Unchanged (.flitDelivery n) s) ∧
      (t0.net.frozen = false → ¬ stopped →
        (f.kind = 1 → Gives (.flitDelivery n) s fun t => (∃ more, (tileAt t n).net.rx = rest ++ more) ∧
          (tileAt t n).pad = landBytes t0.pad f.offset f.nibble f.bytes ∧
          (∀ p, p ≠ .pad n → ∀ a, (placeMem t p).read a = (placeMem s p).read a) ∧
          (f.nibble = none → ∀ a, (tileAt t n).pad.read a =
            if f.offset ≤ a ∧ a < f.offset + f.bytes.length then f.bytes.getD (a - f.offset) 0 else t0.pad.read a)) ∧
        (f.kind = 2 → amoWaits s f = true → Unchanged (.flitDelivery n) s) ∧
        (f.kind = 4 → f.sender = k → f.offset < 4 → Gives (.flitDelivery n) s fun t => SameBytes s t ∧
          (∃ more, (tileAt t n).net.rx = rest ++ more) ∧
          ∀ q : QReg, (tileAt t n).replies[q] = if q.val = f.offset then
            ⟨t0.replies[q].entries ++ [BitVec.ofNat 64 (leNat f.bytes)], t0.replies[q].reserved - 1⟩ else t0.replies[q]))) ∧
    (t0.net.rx = [] → Unchanged (.flitDelivery n) s) ∧
    (stopped → t0.net.frozen = false → TileBecomes (.niFreeze n) s n fun t =>
      { t with net := { t.net with frozen := true, acks := [], credit := [] } }) ∧
    (¬ stopped ∨ t0.net.frozen = true → Unchanged (.niFreeze n) s) ∧
    (stopped → t0.net.frozen = true → peer ∉ t0.net.acks → (peer = 64 ∨ peer < gangSize s k) →
      let waiting := (t0.net.rx.filter fun f =>
        if peer = 64 then f.port else !f.port && f.sender == { k with tile := peer }).length
      Gives (.freezeAck n peer) s fun t => SameBytes s t ∧ (tileAt t n).net.acks = peer :: t0.net.acks ∧
        (tileAt t n).net.credit = t0.net.credit ++ [(peer, waiting, (if peer = 64 then 512 else 8) - waiting)] ∧
        (tileAt t n).net.portHeld = (t0.net.portHeld || peer == 64) ∧
        ∀ m, (gangOf s k).tiles[peer]? = some m → peer < 64 → m ≠ n →
          (tileAt t m).net.holding = k.tile :: (tileAt s m).net.holding) ∧
    (peer ∈ t0.net.acks → Unchanged (.freezeAck n peer) s) ∧
    (t0.net.frozen = true → ¬ stopped → n < 1024 → Gives (.recon n) s fun t => SameBytes s t ∧
      (tileAt t n).net.frozen = false ∧ (tileAt t n).net.acks = [] ∧ (tileAt t n).net.credit = [] ∧
      (tileAt t n).net.portHeld = false ∧ (tileAt t n).run = t0.run ∧
      ∀ m ∈ (gangOf s k).tiles, m ≠ n → k.tile ∉ (tileAt t m).net.holding) ∧
    (t0.net.frozen = false ∨ stopped → Unchanged (.recon n) s)

/-- R28, R29, R30, R32, R119, R388, R389, R393: at its deadline a strand stops where it stands, with a record of DEADLINE and no
fault policy, the arrival of a BAR that waits withdrawn; before it nothing happens, nor to a strand that yielded in time or
whose engines have come to rest. A stopped strand leaves its tile once its engines are at rest, as an architected context that
hardware took; a frozen tile is scanned out into an image once every peer has acknowledged, and a parity error loses it with
SCAN_PARITY. -/
def Obligations.StopSteps : Prop :=
  ∀ (s : State) (n : Nat) (k : StrandKey) (why : StopWhy), Placed s n k →
    let t0 := tileAt s n
    (∀ d, t0.yieldReq = some d → (t0.run = .running ∨ ∃ w, t0.run = .blocked w) →
      (t0.sincePost < d → Unchanged (.deadlineExpiry n) s) ∧
      (d ≤ t0.sincePost → Gives (.deadlineExpiry n) s fun t => (tileAt t n).seq = t0.seq ∧ (tileAt t n).owner = some k ∧
        (tileAt t n).run = .frozen .deadline ∧ (tileAt t n).yieldReq = none ∧
        (∀ b, t0.barStage = some b → k.tile ∉ (gangOf t k).pending.getD b []) ∧
        (t0.barStage = none → t = onTile n (fun x => { x with run := .frozen .deadline, yieldReq := none })
          (noteStop n (writeRecord n k ⟨t0.seq.vpc, false, none⟩ ⟨0x181, 0, 0, []⟩ s))))) ∧
    (t0.yieldReq = none → t0.run = .resting why →
      (why = .yield ∨ atRest t0 k = true ∨ t0.sincePost < (taskOf s k).trec.deadline →
        Unchanged (.deadlineExpiry n) s) ∧
      (why ≠ .yield → atRest t0 k = false → (taskOf s k).trec.deadline ≤ t0.sincePost →
        Gives (.deadlineExpiry n) s fun t => (tileAt t n).run = .frozen why)) ∧
    (t0.run = .resting why → readyToSave t0 k = false → Unchanged (.stopForCause n) s) ∧
    (t0.run = .resting .yield → readyToSave t0 k = true → n < 1024 → savedOf s k = none → Gives (.stopForCause n) s fun t =>
      (tileAt t n).owner = none ∧ (tileAt t n).pad = t0.pad ∧ (gangOf t k).members = (gangOf s k).members.set k.tile .saved ∧
        ∃ x, savedOf t k = some x ∧ x.vellum = false ∧ x.why = .yield ∧ (tileAt t x.home).seq = t0.seq ∧
          x.head.flags = (if t0.seq.liveOverflow then 10 else 2) ∧ x.head.vpc = t0.seq.vpc ∧
          (tileAt t x.home).pad = t0.pad ∧ (tileAt t x.home).accum = t0.accum) ∧
    (∀ w, t0.run = .frozen w → n < 1024 → savedOf s k = none →
      (freezeDone s t0 k = false → ∀ err, Unchanged (.scanOutComplete n err) s) ∧
      (freezeDone s t0 k = true →
        (Gives (.scanOutComplete n false) s fun t => (tileAt t n).owner = none ∧
          ∃ x, savedOf t k = some x ∧ x.vellum = true ∧ x.why = w ∧ (tileAt t x.home).seq = t0.seq ∧
            x.head.vpc = t0.seq.vpc ∧ x.head.npend = t0.net.rx.length ∧ x.head.credit = t0.net.credit ∧
            (tileAt t x.home).pad = t0.pad ∧ (tileAt t x.home).folio = t0.folio) ∧
        Gives (.scanOutComplete n true) s fun t => savedOf t k = none ∧
          (telemetryAt t n).parity = (telemetryAt s n).parity + 1 ∧
          ((taskOf s k).trec.policy = 2 → (tileAt t n).owner = none)))

/-- R116, R117, R120, R414, R415, R443: at a boundary the fault of the lowest engine is delivered, virtual-precisely when its
command is the last instruction's and otherwise DEFERRED; then the oldest asynchronous cause; a fault whose strand has ended
is recorded with the place where it ended. Charges reach the task's balance; a charge that takes it to zero or less owes the
notice to every strand of the task, whatever the balance is when it arrives, at which the strand stops with a record of
QUOTA_EXHAUSTED and no fault policy. -/
def Obligations.DeliverySteps : Prop :=
  ∀ (s : State) (n : Nat) (k : StrandKey) (e : Eng) (c : QCmd) (f : TrapInfo), Placed s n k →
    let t0 := tileAt s n
    (AtBoundary t0 → t0.barStage = none → lowestFault (fun c => c.owner == k) t0 = some (e, c, f) →
      Gives (.deferredFaultDelivery n) s fun t =>
        ∃ u, TakesTrap s u n k ⟨if t0.fresh = some (e, c.seq) then c.vpc else t0.seq.vpc, decide (t0.fresh ≠ some (e, c.seq)),
            some (e, c.seq, xferOf c, decide (0 < c.replays))⟩ f ∧ t = afterDelivery n e k c f u) ∧
    (AtBoundary t0 → t0.barStage = none → ∀ rest, t0.async = f :: rest → Gives (.asyncTrapDelivery n) s fun t =>
      TakesTrap (onTile n (fun x => { x with async := rest }) s) t n k ⟨t0.seq.vpc, false, none⟩ f) ∧
    (¬ AtBoundary t0 → Unchanged (.asyncTrapDelivery n) s) ∧
    (t0.async = [] → t0.barStage = none → Unchanged (.asyncTrapDelivery n) s) ∧
    (lowestFault (fun c => c.owner == k) t0 = none → lowestFault (fun c => some c.owner != t0.owner) t0 = some (e, c, f) →
      Gives (.deferredFaultDelivery n) s fun t => ∃ u, u = writeRecord n c.owner
          ⟨(((taskOf s c.owner).endedPc.find? fun x => x.1 == c.owner).map (·.2)).getD 0, true,
            some (e, c.seq, xferOf c, decide (0 < c.replays))⟩ f s ∧
        ((taskOf s c.owner).trec.policy = 2 → t = dropFrom n e c.owner c.seq (noteCause c.owner f.cause u))) ∧
    (∀ pj, t0.unreported = [(k, pj)] → Gives (.quotaChargeReport n) s fun t => (tileAt t n).unreported = [] ∧
      (taskOf t k).balance = (taskOf s k).balance - pj ∧ SameBytes s t ∧
      (0 < (taskOf s k).balance → (taskOf s k).balance - pj ≤ 0 → n < 1024 → k ∈ (taskOf t k).owed)) ∧
    (k ∈ (taskOf s k).owed → Gives (.quotaExhaustionNotice n) s fun t => (tileAt t n).notice = true ∧
      (tileAt t n).run = t0.run ∧ k ∉ (taskOf t k).owed ∧ (taskOf t k).balance = (taskOf s k).balance ∧ SameBytes s t) ∧
    (k ∉ (taskOf s k).owed → Unchanged (.quotaExhaustionNotice n) s) ∧
    (t0.run = .running → t0.notice = true → t0.barStage = none → Gives (.stopForCause n) s fun t =>
      (tileAt t n).run = .resting .quota ∧ (tileAt t n).notice = false ∧ (tileAt t n).seq = t0.seq ∧
        ∃ u, u = writeRecord n k ⟨t0.seq.vpc, false, none⟩ ⟨0x180, 0, 0, []⟩ s ∧ SameBytes u t)

/-! ## Service requests, copy-on-write and folios (R337 to R340, R373 to R375) -/

/-- R373, R374, R375, R337, R338, R340: a request is recorded at FTAIL once the ring has a slot, and FVEC is signalled; without a
ring it is delivered unresolved at once. A copy-on-write request takes a frame, copies the page, remaps it writable, and lets its
waiters go on once its KIND 4 record has been written, or at once without a ring. A folio is formed from the waiting strand's
VPC to the first word that ends it, and the strand goes on, no pinned folio evicted for it, or traps. -/
def Obligations.ServiceSteps : Prop :=
  ∀ (s : State) (i n : Nat) (r : Request) (k : StrandKey), memoriesWf s = true →
    let f := fnRegs s r.fn
    let without := { s with dev := { s.dev with requests := s.dev.requests.eraseIdx i } }
    (s.dev.requests[i]? = some r →
      let asks := r.recorded = false ∧ r.answered = none ∧ ∀ x ∈ f.pool, ¬ (r.kind = 3 ∧ x.2 = r.size)
      let room := (f.ftail + 1) % 64 ≠ f.fhead
      (asks → f.fring = 0 → exec (.serviceRequestRecord i) s = .next (answerAll r.id (decide (r.kind = 4)) without)) ∧
      (asks → f.fring ≠ 0 → room → Gives (.serviceRequestRecord i) s fun t =>
        Stored s t ⟨.dev, f.fring * 4096 + 64 * f.ftail, 64, 0⟩
          (r.va % 2 ^ 64 + (r.kind + r.size * 2 ^ 8 + r.id * 2 ^ 16) % 2 ^ 64 * 2 ^ 64 + r.newAddr % 2 ^ 64 * 2 ^ 128) ∧
        fnRegs t r.fn = { f with ftail := (f.ftail + 1) % 64 } ∧ t.dev.irqs = (r.fn, f.fvec) :: s.dev.irqs ∧
        (r.kind = 4 → t.dev.requests = s.dev.requests.eraseIdx i ∧
          ∀ m w, (tileAt s m).run = .blocked (.service r.id w) → (tileAt t m).run = .running) ∧
        (r.kind ≠ 4 → t.dev.requests = s.dev.requests.set i { r with recorded := true } ∧ t.tile = s.tile ∧
          t.others = s.others)) ∧
      (¬ asks ∨ (f.fring ≠ 0 ∧ ¬ room) → Unchanged (.serviceRequestRecord i) s)) ∧
    (s.dev.requests[i]? = some r → r.kind = 3 → r.recorded = false → ∀ frame first m e : Nat,
      f.pool.find? (fun x => x.2 == r.size) = some (frame, r.size) → pageEntries s r.fn r.va = some (first, m, e) →
      pteCow e = true → (first + 8 * m ≤ frame ∨ frame + pageBytes r.size ≤ first) → frame % 4096 = 0 → frame < 2 ^ 56 →
      (∀ a < pageBytes r.size, (pageByte s r.fn e a).isSome = true) →
      Gives (.cowService i) s fun t =>
        (∀ a < pageBytes r.size, ∀ p b, pageByte s r.fn e a = some (p, b) →
          t.dev.mem.read (frame + a) = (placeMem s p).read b) ∧
        (∀ j < m, let x := s.dev.mem.readNat (first + 8 * j) 8; let y := t.dev.mem.readNat (first + 8 * j) 8
          y / 2 ^ 20 % 2 ^ 44 = frame / 4096 ∧ y.testBit 3 = true ∧ y.testBit 5 = false ∧ y.testBit 8 = false ∧
            ∀ b < 20, b ≠ 3 → b ≠ 5 → b ≠ 8 → y.testBit b = x.testBit b) ∧
        (∀ a, ¬ (frame ≤ a ∧ a < frame + pageBytes r.size) → ¬ (first ≤ a ∧ a < first + 8 * m) →
          t.dev.mem.read a = s.dev.mem.read a) ∧
        (fnRegs t r.fn).pool = f.pool.eraseP (fun x => x == (frame, r.size)) ∧
        (∀ x ∈ t.dev.tlb, ¬ (x.fn = r.fn ∧ x.vbase < r.va + pageBytes r.size ∧ r.va < x.vbase + x.size)) ∧
        (f.fring ≠ 0 → t.tile = s.tile ∧ t.others = s.others ∧
          t.dev.requests = s.dev.requests.set i { r with kind := 4, newAddr := frame }) ∧
        (f.fring = 0 → t.dev.requests = s.dev.requests.eraseIdx i ∧
          ∀ m w, (tileAt s m).run = .blocked (.service r.id w) → (tileAt t m).run = .running)) ∧
    ((tileAt s n).run = .blocked .folio → (tileAt s n).owner = some k → (tileAt s n).seq.vpc.toNat % 8 = 0 →
      let vpc := (tileAt s n).seq.vpc
      (∀ g, folioAt s (taskOf s k) vpc = some g →
        TileBecomes (.folioFormation n) s n fun t => { t with run := .running }) ∧
      (folioAt s (taskOf s k) vpc = none →
        (∀ u g, formFolio s (taskOf s k) (strandSpace s k) vpc.toNat = .ok (u, g) →
          FolioFrom s k vpc.toNat g ∧
          (∀ w, keepFolio g u = some w → Gives (.folioFormation n) s fun t =>
            t = onTile n (fun t => { t with run := .running }) w ∧ g ∈ t.dev.folios ∧
              ∀ h ∈ s.dev.folios, pinned s h = true → h ∈ t.dev.folios) ∧
          (keepFolio g u = none → ∃ size : Word, size.toNat ≤ 128 + 24 * g.words.length ∧
            exec (.folioFormation n) s = .next (trapAt n ⟨0x142, vpc, size, []⟩ u))) ∧
        ∀ x, formFolio s (taskOf s k) (strandSpace s k) vpc.toNat = .error (.trap x) →
          exec (.folioFormation n) s = .next (trapAt n x s)))

/-! ## The dispatcher (R10, R11, R22, R23, R35, R97, R117, R351, R352, R354, R356 to R360) -/

/-- R346, R351, R352, R354: the doorbell at the first word of page k of a function's BAR2 is that of the k-th queue that the
function sees; it moves TAIL, or puts the queue in ERROR when it exceeds the ring or goes backwards. The record at HEAD of a
running queue becomes head once the one before is dispatched: it is read, checked and, if nothing is wrong, its task stands
waiting with the values its record and object give. -/
def Obligations.QueueIntake : Prop :=
  ∀ (s : State) (fn k q : Nat) (v : Word),
    let r := queueAt s q
    let ahead := (v.toNat % 2 ^ 32 + 2 ^ 32 - r.head) % 2 ^ 32
    let open_ := r.state ≠ .disabled ∧ r.state ≠ .error ∧ ¬ (r.state = .aborting ∧ r.err ≠ 0) ∧ r.resetting = false ∧
      r.devenq = false
    let fails := fun code : Nat => fun x : Queue =>
      if r.state = .aborting then { x with err := code } else { x with state := QState.error, err := code }
    let rings := exec (.doorbell ⟨fn, 4096 * k⟩ v) s
    (∀ a, a % 4096 ≠ 0 → Unchanged (.doorbell ⟨fn, a⟩ v) s) ∧
    (queueSeen s fn k = none → Unchanged (.doorbell ⟨fn, 4096 * k⟩ v) s) ∧
    (queueSeen s fn k = some q →
      (¬ open_ → rings = .next s) ∧
      (open_ → 2 ^ 32 ≤ v.toNat ∨ 2 ^ r.qlog2 < ahead → rings = .next (onQueue q (fails 1) s)) ∧
      (open_ → v.toNat < 2 ^ 32 → ahead ≤ 2 ^ r.qlog2 →
        (ahead < (r.tail + 2 ^ 32 - r.head) % 2 ^ 32 → rings = .next (onQueue q (fails 2) s)) ∧
        ((r.tail + 2 ^ 32 - r.head) % 2 ^ 32 ≤ ahead →
          rings = .next (onQueue q (fun x => { x with tail := v.toNat }) s)))) ∧
    (r.state ≠ .running ∨ r.head = r.tail → Unchanged (.recordHead q) s) ∧
    (r.state = .running → r.head ≠ r.tail → (∀ x, headTask s q = some x → headDone x = true) →
      (readSlot s q r.head = none → exec (.recordHead q) s = .next (onQueue q (fails 3) s)) ∧
      ∀ b, readSlot s q r.head = some b →
        let rec_ := parseRecord b
        let as := spaceOf s r.owner r.pasid
        let u := slotUsed q r.head s
        let w := onQueue q (fun x => { x with head := (r.head + 1) % 2 ^ 32 }) (factorsUsed as rec_ u)
        (publishable u as rec_ = false → exec (.recordHead q) s = .next (onQueue q (fails 4) u)) ∧
        ∀ o, publishable u as rec_ = true → refusal w q r.owner as rec_ = none →
          s.dev.objs.find? (fun o => o.handle == rec_.object && o.fn == r.owner) = some o →
          Gives (.recordHead q) s fun t => SameBytes w t ∧ (queueAt t q).head = (r.head + 1) % 2 ^ 32 ∧
            ∃ x, t.dev.tasks.getLast? = some x ∧ x.queue = q ∧ x.record = r.head ∧ x.fn = r.owner ∧ x.pasid = r.pasid ∧
              x.trec = rec_ ∧ x.base = o.base ∧ x.balance = rec_.quota * 1000 ∧ x.ready = false ∧ x.nextGang = 0 ∧
              x.published = .no ∧ x.traps = 0 ∧ x.age = 0 ∧ (4 ≤ rec_.prio → x.level = rec_.prio))

/-- R357, R358, R341: the head becomes ready when every wait is met, is cancelled with the index of the lowest failed wait,
or stands as it is; the poll timer looks at every queue; an aging interval lowers a ready head by at most one level, never
below 4, and not at all with AGEINT = 0 (which heads a full interval has passed for is timing, log 5). -/
def Obligations.WaitsAndAging : Prop :=
  ∀ (s : State) (q : Nat) (x : Task),
    (headTask s q = some x → (queueAt s q).state = .running → x.published = .no → x.stopping = false → x.nextGang = 0 →
      quarantined s x = false → x.ready = false → x.trec.handover = false →
      let v := waitsUsed x s
      ((∃ w ∈ x.trec.waits, ¬ WaitMet s x w) → exec (.waitEvaluation q) s = .next v) ∧
      ((∀ w ∈ x.trec.waits, WaitMet s x w ∧ ¬ WaitFails v x w) → Gives (.waitEvaluation q) s fun t => SameBytes v t ∧
        (taskAt t q x.record).ready = true ∧ t.dev.queues = s.dev.queues ∧ t.tile = s.tile ∧ t.others = s.others) ∧
      ∀ j w u, (∀ w ∈ x.trec.waits, WaitMet s x w) → x.trec.waits[j]? = some w → WaitFails v x w →
        (∀ i < j, ∀ w, x.trec.waits[i]? = some w → ¬ WaitFails v x w) → Publishes v q x.record 4 j 0 u →
        Gives (.waitEvaluation q) s fun t => SameBytes u t ∧ (taskAt t q x.record).published = .cancelled) ∧
    (headTask s q = none → Unchanged (.waitEvaluation q) s) ∧
    exec .waitPollTimer s = .next (s.dev.queues.foldl (fun u e => after (.waitEvaluation e.1) u) s) ∧
    (s.dev.ageInt = 0 → Unchanged .agingInterval s) ∧
    (s.dev.ageInt ≠ 0 → Gives .agingInterval s fun t =>
      t = { s with dev := { s.dev with tasks := t.dev.tasks, ageTicks := s.dev.ageTicks + 1 } } ∧
      t.dev.tasks.length = s.dev.tasks.length ∧
      ∀ (i : Nat) (y : Task), s.dev.tasks[i]? = some y → ∃ z, t.dev.tasks[i]? = some z ∧
        (z = y ∨ (y.ready = true ∧ y.published = .no ∧ z = { y with age := y.age + s.dev.ageInt })) ∧
        effLevel t z ≤ effLevel s y ∧ (y.level < 4 → effLevel t z = y.level) ∧
        (4 ≤ y.level → max 4 (effLevel s y - 1) ≤ effLevel t z))

/-- R11, R22, R23, R38, R358, R401: the next gang of the task of lowest level is placed whole: its members on the tiles
found for it, every strand running with the registers of a strand start, memories zero for another tenant, its regions
bound by gang-relative index; without room, or until its regions have been loaded, it keeps its turn. -/
def Obligations.GangDispatch : Prop :=
  ∀ (s : State) (x : Task),
    let u := reap s
    (nextTask u = none → exec .gangDispatch s = .next u) ∧
    (nextTask u = some x → (∀ y ∈ u.dev.tasks, candidate u y = true → effLevel u x ≤ effLevel u y) ∧
      (preemptedGang u x = none → roomFor u x x.nextGang = none → x.immediate = false → Gives .gangDispatch s fun t =>
        (x.queue, x.record) ∈ t.dev.stuck ∧ t = { u with dev := { u.dev with stuck := t.dev.stuck } }) ∧
      (∀ ts rs, preemptedGang u x = none → roomFor u x x.nextGang = some (ts, rs) → allLoaded u x x.nextGang 0 rs = false →
        Gives .gangDispatch s fun t => (x.queue, x.record) ∈ t.dev.stuck ∧ SameBytes s t ∧
          t.dev.gangs = s.dev.gangs ∧ ∀ r, r ∉ rs → regionAt t r = regionAt u r) ∧
      ∀ ts rs, preemptedGang u x = none → roomFor u x x.nextGang = some (ts, rs) → allLoaded u x x.nextGang 0 rs = true → ts.Nodup →
        rs.Nodup → Gives .gangDispatch s fun t =>
          let g := gangAt t x.queue x.record x.nextGang
          g.members = ts.map .on ∧ g.tiles = ts ∧ g.regions = rs ∧ g.pending = [] ∧ g.root = (fnRegs u x.fn).root ∧
          (taskAt t x.queue x.record).nextGang = x.nextGang + 1 ∧
          (∀ i n, ts[i]? = some n → let a := tileAt t n
            a.owner = some ⟨x.queue, x.record, x.nextGang, i⟩ ∧ a.run = .running ∧
            a.seq.s = (Vector.replicate 64 0).set 1 x.trec.args ∧ a.seq.v = Vector.replicate 64 0 ∧
            a.seq.p = (Vector.replicate 16 0).set 0 (BitVec.allOnes 256) ∧ a.seq.vl = 0 ∧ a.seq.round = 0 ∧
            a.seq.ufthr = 0 ∧ a.seq.subst = 0 ∧ a.seq.ufcount = 0 ∧ a.seq.vbank = 0 ∧ a.seq.cycle = 0 ∧
            (∀ o e, objOf u x = some o → o.entries[x.trec.entry]? = some e →
              a.seq.vpc = BitVec.ofNat 64 (x.base.toNat + e.1)) ∧
            (x.trec.handover = false → (telemetryAt u n).lastFn ≠ some x.fn → a.pad = [] ∧ a.accum = []) ∧
            (x.trec.handover = false → (telemetryAt u n).lastFn = some x.fn → a.pad = (tileAt u n).pad)) ∧
          ∀ i r, rs[i]? = some r → (regionAt t r).state = .bound ∧
            (regionAt t r).boundTo = some (x.queue, x.record, x.nextGang, i) ∧
            (regionAt t r).image = some (x.fn, x.trec.object, (imagesOf x).getD i 0))

/-- R35, R97, R117, R356: once every gang of a task is over and nothing of it is under way, its completion is published: OK,
or FAULTED with the first cause; before that nothing happens. -/
def Obligations.TaskCompletion : Prop :=
  ∀ (s : State) (q r : Nat) (x : Task), s.dev.tasks.find? (Task.is q r) = some x →
    let finished := x.published = .no ∧ x.aborted = false ∧ (0 < x.nextGang ∨ x.stopping = true) ∧ gangsOver s x = true ∧
      taskQuiet s q r = true
    (¬ finished → Unchanged (.taskCompletionPublish q r) s) ∧
    (finished → ∀ u,
      (x.firstCause = none → Publishes s q r 1 0 0 u → Gives (.taskCompletionPublish q r) s fun t =>
        SameBytes u t ∧ (taskAt t q r).published = .ok ∧ Notified s t x) ∧
      ∀ c a b d, x.firstCause = some (c, a, b, d) → Publishes s q r 2 0 c u →
        Gives (.taskCompletionPublish q r) s fun t =>
          SameBytes u t ∧ (taskAt t q r).published = .faulted ∧ Notified s t x)

/-- R361 to R364, R366: ENABLE runs a DISABLED or DRAINED queue whose registers are right and otherwise puts it in ERROR;
DRAIN lets dispatched tasks finish; ABORT stops every unpublished task by scan and RESET does so and disables; the end of
an ABORT publishes what it stopped as ABORTED with cause 182H and leaves the queue DRAINED, in ERROR, or, for RESET,
DISABLED with HEAD and TAIL zero. -/
def Obligations.QueueCommands : Prop :=
  ∀ (s : State) (fn q : Nat),
    let r := queueAt s q
    (Commands s fn q → r.state = .disabled ∨ r.state = .drained → s.dev.mode ≠ .minimal →
      let fit := 1 ≤ r.qlog2 ∧ r.qlog2 ≤ 16 ∧ Canonical r.qbase ∧ r.qbase.toNat % 256 = 0 ∧ Canonical r.dtbase ∧
        r.dtbase.toNat % 64 = 0 ∧ r.dtsize ≤ 65472 ∧ r.owner ≤ 64 ∧ (fnRegs s r.owner).en = true
      (fit → exec (.queueEnable fn q) s = .next (onQueue q (fun x => { x with state := .running, err := 0 }) s)) ∧
      (¬ fit → exec (.queueEnable fn q) s = .next (onQueue q (fun x => { x with state := .error, err := 5 }) s))) ∧
    (¬ Commands s fn q → Unchanged (.queueEnable fn q) s ∧ Unchanged (.queueDrain fn q) s ∧
      Unchanged (.queueAbort fn q) s ∧ Unchanged (.queueReset fn q) s) ∧
    (Commands s fn q → r.state = .running →
      let owed := ∃ x ∈ s.dev.tasks, x.queue = q ∧ 0 < x.nextGang ∧ x.published = .no
      Gives (.queueDrain fn q) s fun t => (owed → queueAt t q = { r with state := .draining }) ∧
        (¬ owed → queueAt t q = { r with state := .drained }) ∧ t = { s with dev := { s.dev with queues := t.dev.queues } }) ∧
    (Commands s fn q → r.state ≠ .running → Unchanged (.queueDrain fn q) s) ∧
    (Commands s fn q → r.state ≠ .aborting →
      let stopped := fun (reset : Bool) (t : State) =>
        queueAt t q = { r with state := .aborting, abortTail := r.tail, resetting := reset } ∧ t.dev.mem = s.dev.mem ∧
        t.dev.host = s.dev.host ∧
        ∀ x ∈ s.dev.tasks, x.queue = q → x.published = .no →
          (taskAt t q x.record).aborted = true ∧ (taskAt t q x.record).stopping = true ∧
          ∀ n e, ∀ c ∈ engQueue (tileAt t n) e, ¬ (c.owner.queue = q ∧ c.owner.record = x.record)
      (r.state ≠ .disabled → Gives (.queueAbort fn q) s (stopped false)) ∧ Gives (.queueReset fn q) s (stopped true)) ∧
    (Commands s fn q → r.state = .aborting → Unchanged (.queueAbort fn q) s ∧
      exec (.queueReset fn q) s = .next (onQueue q (fun x => { x with resetting := true }) s)) ∧
    (r.state ≠ .aborting ∨ (∃ x ∈ s.dev.tasks, x.queue = q ∧ x.published = .no ∧ taskQuiet s q x.record = false) →
      Unchanged (.abortComplete q) s) ∧
    (r.state = .aborting → r.head = r.abortTail →
      let ended := fun t : State =>
        queueAt t q = if r.resetting = true then { r with head := 0, tail := 0, err := 0, state := .disabled, resetting := false }
          else if r.err = 0 then { r with state := .drained } else { r with state := .error }
      (s.dev.tasks.filter (fun x => x.queue == q && x.published == .no) = [] →
        Gives (.abortComplete q) s fun t => ended t ∧ SameBytes s t) ∧
      ∀ x u, s.dev.tasks.filter (fun x => x.queue == q && x.published == .no) = [x] → x.aborted = true →
        taskQuiet s q x.record = true → Publishes s q x.record 3 0 0x182 u →
        Gives (.abortComplete q) s fun t => ended t ∧ SameBytes u t ∧ (taskAt t q x.record).published = .aborted)

/-! ## The mailbox (R349, R444) -/

/-- R336, R341, R342, R349, R402, R444: LOAD and UNLOAD, TCINV with its completion, and a code that no rule defines. -/
def Obligations.ObjectCommands : Prop :=
  ∀ (s : State) (fn : Nat), s.dev.mode ≠ .minimal →
    let h := cmdBits s fn 8 32
    (¬ Command s fn 1 → Unchanged (.load fn) s) ∧
    (Command s fn 1 → ∀ b, readObject s fn = some b →
      (objectFailure s fn b = none → CmdBelow s fn 8 →
        Answers (.load fn) s fn (some (BitVec.ofNat 64 s.dev.nextHandle)) (onDev fun d => { d with
          objs := d.objs ++ [objectOf fn d.nextHandle b], nextHandle := (d.nextHandle + 1) % 2 ^ 32 })) ∧
      ∀ c d, objectFailure s fn b = some (c, d) → Rejects (.load fn) s fn c) ∧
    (Command s fn 2 → objBusy s fn h = true → Rejects (.unload fn) s fn 0x0C) ∧
    (Command s fn 2 → objBusy s fn h = false → objByHandle s fn h = none → Rejects (.unload fn) s fn 0x12) ∧
    (Command s fn 2 → objBusy s fn h = false → objByHandle s fn h ≠ none → CmdBelow s fn 40 →
      Gives (.unload fn) s fun t => Succeeded s t fn none ∧
        (∀ o, o ∈ t.dev.objs ↔ o ∈ s.dev.objs ∧ ¬ (o.handle = h ∧ o.fn = fn)) ∧
        ∀ r, ((∃ ix, (regionAt s r).image = some (fn, h, ix)) → regionAt t r = freed (regionAt s r)) ∧
          ((∀ ix, (regionAt s r).image ≠ some (fn, h, ix)) → regionAt t r = regionAt s r)) ∧
    (Command s fn 3 → CmdBelow s fn 10 → cmdBits s fn 8 2 < 3 → ∀ root, (cmdBits s fn 8 2 = 1 → Block s fn 64 root) →
      (cmdBits s fn 8 2 ≠ 1 → root = []) →
      let hit := Invalidates s fn (cmdBits s fn 8 2) root
      Gives (.tcinv fn) s fun t => (fnRegs t fn).mbBusy = true ∧ SameBytes s t ∧
        (∀ f, f ∈ t.dev.folios ↔ f ∈ s.dev.folios ∧ ¬ hit f) ∧
        (∀ c, c ∈ t.dev.pages ↔ c ∈ s.dev.pages ∧ ¬ ((cmdBits s fn 8 2 = 2 ∧ fn = 0) ∨
          (c.tenant = (fnRegs s fn).tenant ∧ (cmdBits s fn 8 2 = 1 → c.root = root)))) ∧
        (∀ n f, (tileAt s n).folio = some f → (tileAt t n).folio = some f ∧ (tileAt t n).run = (tileAt s n).run ∧
          (hit f → (tileAt t n).folioStale = true) ∧ (¬ hit f → (tileAt t n).folioStale = (tileAt s n).folioStale)) ∧
        ∀ q, q ∈ t.dev.quarantine ↔ q ∈ s.dev.quarantine ∧ ¬ ((cmdBits s fn 8 2 = 2 ∧ fn = 0) ∨
          (q.1 = fn ∧ (cmdBits s fn 8 2 = 1 → q.2 = root)))) ∧
    (Command s fn 3 → cmdBits s fn 8 2 < 3 → ∀ root, (cmdBits s fn 8 2 = 1 → Block s fn 64 root) →
      (cmdBits s fn 8 2 ≠ 1 → root = []) →
      let hit := Invalidates s fn (cmdBits s fn 8 2) root
      let idle := ∀ e ∈ allTiles s, executing e.1 e.2 = true → e.2.folioStale = true → ∀ f, e.2.folio = some f → ¬ hit f
      (idle → Answers (.tcinvComplete fn) s fn none id) ∧ (¬ idle → Unchanged (.tcinvComplete fn) s)) ∧
    ((fnRegs s fn).mbBusy = true → (fnRegs s fn).mbCmd.toNat % 256 = 0 ∨ 0x1A < (fnRegs s fn).mbCmd.toNat % 256 →
      Rejects (.mailboxUndefinedCommand fn) s fn 0x18) ∧
    ((fnRegs s fn).mbBusy = false → Unchanged (.mailboxUndefinedCommand fn) s)

/-- R232, R349, R428 to R430, R436, R439: GROUP, UNGROUP and REGROUP, which replaces the members in place and lets strands
held for the lost group go on; FWSTAGE, RESTART and ATTEST. The layout of a group's list is open (log 20), where the report
goes is the model's reading (log 24). -/
def Obligations.GroupAndFirmwareCommands : Prop :=
  ∀ (s : State) (fn : Nat),
    let h := cmdBits s fn 8 32
    (s.dev.mode ≠ .minimal → Command s fn 4 → CmdBelow s fn 8 → ∀ l, readGroup s fn = some l →
      (packagesClash s l = true → Rejects (.group fn) s fn 0x15) ∧
      (packagesClash s l = false → Answers (.group fn) s fn (some (BitVec.ofNat 64 s.dev.nextHandle)) (onDev fun d =>
        { d with groups := d.groups ++ [⟨d.nextHandle, fn, l⟩], nextHandle := (d.nextHandle + 1) % 2 ^ 32 }))) ∧
    (s.dev.mode ≠ .minimal → Command s fn 5 →
      (hasGroup s fn h = false → Rejects (.ungroup fn) s fn 0x12) ∧
      (hasGroup s fn h = true → CmdBelow s fn 40 → Gives (.ungroup fn) s fun t => Succeeded s t fn none ∧
        ∀ g, g ∈ t.dev.groups ↔ g ∈ s.dev.groups ∧ ¬ (g.handle = h ∧ g.fn = fn))) ∧
    (s.dev.mode ≠ .minimal → Command s fn 0x18 → CmdBelow s fn 40 → ∀ l, readGroup s fn = some l →
      (hasGroup s fn h = false → Rejects (.regroup fn) s fn 0x12) ∧
      (hasGroup s fn h = true → packagesClash s l = false → Gives (.regroup fn) s fun t => Succeeded s t fn none ∧
        t.dev.groups = s.dev.groups.map (fun g => if g.handle = h ∧ g.fn = fn then { g with members := l } else g) ∧
        ∀ n k c q x, n < 1024 → (tileAt s n).owner = some k → (tileAt s n).run = .parked (.hold c q x) →
          c = 0x1C4 ∨ c = 0x0D1 → namesHandle h (tileAt s n) = true → (tileAt t n).run = .running)) ∧
    (Command s fn 0x15 → CmdBelow s fn 40 → ∀ b, Block s fn h b →
      ((∀ j, j = 1 ∨ j = 2 → StageGood b j) → Answers (.fwstage fn) s fn none (onDev fun d => { d with staged := some b })) ∧
      ((∃ j, (j = 1 ∨ j = 2) ∧ ¬ StageGood b j) → Rejects (.fwstage fn) s fn 0x14)) ∧
    (Command s fn 0x16 → CmdBelow s fn 9 →
      ((∃ e ∈ s.dev.queues, e.2.state ≠ .disabled) → s.dev.mode ≠ .minimal → Rejects (.restart fn) s fn 0x13) ∧
      ((∀ e ∈ s.dev.queues, e.2.state = .disabled) ∨ s.dev.mode = .minimal →
        exec (.restart fn) s = exec .deviceReset (onDev (fun d => { d with
          fails := if cmdBits s fn 8 1 = 1 then 0 else d.fails }) s))) ∧
    (Command s fn 0x17 → CmdBelow s fn 8 → ∀ b u, Block s fn 120 b →
      dmaWrite fn (fnRegs s fn).mbOperand.toNat (reportBytes s fn (b.take 64)) s = some u → Gives (.attest fn) s fun t =>
        Succeeded s t fn (some 384) ∧ SameBytes u t ∧ t.dev.attests = s.dev.attests + 1 ∧
        (fnRegs t fn).transport =
          some (shake256 (Config.x448Shared s.dev.attests ((b.drop 64).take 56) ++ b.take 64) 32) ∧
        (reportBytes s fn (b.take 64)).length = 384)

/-- R165, R374 to R377, R385, R430: TLBINV with its completion, FRAMES, RESOLVE, KEYSET, KEYCLR and CTRGET. -/
def Obligations.MemoryCommands : Prop :=
  ∀ (s : State) (fn : Nat), s.dev.mode ≠ .minimal →
    let slot := cmdBits s fn 8 6
    let all := cmdBits s fn 8 2 = 1
    let lo := (fnRegs s fn).mbOperand.toNat
    let len := 4096 * cmdBits s fn 16 32
    let within := fun base size : Nat => all ∨ (base < lo + len ∧ lo < base + size)
    (Command s fn 6 → CmdBelow s fn 48 → cmdBits s fn 10 6 = 0 → cmdBits s fn 8 2 < 2 → (all → CmdBelow s fn 10) →
      Gives (.tlbinv fn) s fun t => (fnRegs t fn).mbBusy = true ∧ SameBytes s t ∧
        (∀ e ∈ t.dev.tlb, e ∈ s.dev.tlb ∧ ¬ (e.fn = fn ∧ e.vbase < 2 ^ 64 ∧ 0 < e.size ∧ within e.vbase e.size)) ∧
        ∀ f ∈ t.dev.folios, f ∈ s.dev.folios ∧
          ¬ (f.tenant = (fnRegs s fn).tenant ∧ within f.page.toNat 4096)) ∧
    (Command s fn 6 → (∀ e ∈ allTiles s, executing e.1 e.2 = true → e.2.folioStale = false) →
      (∀ r ∈ s.dev.router, r.fn = fn → ¬ within r.va.toNat 1) → Gives (.tlbinvComplete fn) s fun t =>
        Succeeded s t fn none ∧ SameBytes s t) ∧
    (Command s fn 6 → (∃ r ∈ s.dev.router, r.fn = fn ∧ within r.va.toNat 1) → Unchanged (.tlbinvComplete fn) s) ∧
    (Command s fn 7 → CmdBelow s fn 19 →
      let count := cmdBits s fn 8 8
      let size := cmdBits s fn 16 3
      ∀ b, 0 < count → size < 2 → Block s fn (8 * count) b →
        (∀ i < count, leNat ((b.drop (8 * i)).take 8) % pageBytes size = 0) →
        Answers (.frames fn) s fn none (onFn fn fun r => { r with
          pool := r.pool ++ (List.range count).map fun i => (leNat ((b.drop (8 * i)).take 8), size) })) ∧
    (Command s fn 8 → CmdBelow s fn 25 →
      let id := cmdBits s fn 8 16
      let ok := cmdBits s fn 24 1 = 1
      let pending := ∃ r ∈ s.dev.requests, r.id = id ∧ r.fn = fn ∧ r.kind ≠ 4
      (¬ pending → Rejects (.resolve fn) s fn 0x12) ∧
      (pending → Gives (.resolve fn) s fun t => Succeeded s t fn none ∧
        (∀ r ∈ t.dev.requests, r.id = id → r.kind = 4) ∧
        (ok → ∀ n w, ((tileAt s n).run = .blocked (.service id w) → (tileAt t n).run = .running) ∧
          ((tileAt s n).run = .halted (.blocked (.service id w)) → (tileAt t n).run = .halted .running)) ∧
        (ok ∨ (∀ n w, awaited (tileAt s n) ≠ some (id, w)) → ∀ n e, e ≠ .fibre →
          engQueue (tileAt t n) e = (engQueue (tileAt s n) e).map (answerCmd id (decide ok))))) ∧
    (Command s fn 9 → CmdBelow s fn 14 → ∀ b, Block s fn 48 b → ZeroBytes b 4 4 →
      ((find? (fnRegs s fn).keys slot).isSome = true → Rejects (.keyset fn) s fn 0x0D) ∧
      ((find? (fnRegs s fn).keys slot).isSome = false → unwrapKey s fn b = none → Rejects (.keyset fn) s fn 0x0E) ∧
      ∀ key, (find? (fnRegs s fn).keys slot).isSome = false → unwrapKey s fn b = some key →
        Answers (.keyset fn) s fn none (onFn fn fun r => { r with keys := keep r.keys slot (key, leNat (b.take 4)) })) ∧
    (Command s fn 0x0A → CmdBelow s fn 14 → Gives (.keyclr fn) s fun t => Succeeded s t fn none ∧
      find? (fnRegs t fn).keys slot = none ∧ (∀ j, j ≠ slot → find? (fnRegs t fn).keys j = find? (fnRegs s fn).keys j) ∧
      (fnRegs t fn).counters = (fnRegs s fn).counters) ∧
    (Command s fn 0x0B → CmdBelow s fn 14 →
      Answers (.ctrget fn) s fn (some (BitVec.ofNat 64 (look 0 (fnRegs s fn).counters slot))) id)

/-- R33, R123, R365, R397, R416: the debug commands halt named strands, let them run on once their pending lists have landed,
and write out what waits for them and their contexts; a debugger is attached to the task. HELDRESUME and HELDABORT end a hold;
QUOTAADD adds to a balance and recalls no notice. Which gang a debug command means, when several have the index, is open (log
23). -/
def Obligations.DebugAndHeldCommands : Prop :=
  ∀ (s : State) (fn n : Nat), s.dev.mode ≠ .minimal →
    (Command s 0 0x0C → CmdBelow s 0 47 →
      (debugNamed s 0 canHalt = [] → Rejects (.dbghalt 0) s 0 0x12) ∧
      (debugNamed s 0 canHalt ≠ [] → Gives (.dbghalt 0) s fun t => Succeeded s t 0 none ∧ SameBytes s t ∧
        (∀ m ∈ debugNamed s 0 canHalt, ∃ w, (tileAt t m).run = .halted w ∧
          ((tileAt s m).run = .running → w = .running) ∧ (∀ x, (tileAt s m).run = .blocked x → w = .blocked x) ∧
          (∀ x, (tileAt s m).run = .resting x → w = .resting x) ∧ (∀ x, (tileAt s m).run = .parked x → w = .parked x) ∧
          ∀ k, Placed s m k → (taskOf t k).debugger = true) ∧
        ∀ m, m ∉ debugNamed s 0 canHalt → (tileAt t m).run = (tileAt s m).run)) ∧
    (fn ≠ 0 → Command s fn 0x0C → CmdBelow s fn 47 → debugNamed s fn canHalt ≠ [] → Rejects (.dbghalt fn) s fn 0x18) ∧
    (Command s 0 0x0D → CmdBelow s 0 47 → debugNamed s 0 isHalted = [n] → ∀ was, (tileAt s n).run = .halted was →
      (∀ f ∈ (tileAt s n).net.rx, f.kind = 1) → Gives (.dbgresume 0) s fun t => Succeeded s t 0 none ∧
        (tileAt t n).net.frozen = false ∧
        (tileAt t n).pad = (tileAt s n).net.rx.foldl (fun m f => landBytes m f.offset f.nibble f.bytes) (tileAt s n).pad ∧
        (tileAt t n).seq = (tileAt s n).seq ∧
        ((∀ e ∈ allTiles s, e.2.net.outbound = []) → (tileAt t n).net.rx = [] ∧ (tileAt t n).net.landing = false) ∧
        (tileAt t n).run = match was with
          | .blocked (.service id f) => .blocked (.service id f)
          | .blocked .codec => .blocked .codec
          | .running | .blocked _ => .running
          | .resting w => .resting w
          | .parked w => .parked w) ∧
    (Command s 0 0x0E → CmdBelow s 0 47 → debugNamed s 0 isHalted = [n] → ∀ u,
      dmaWrite 0 (fnRegs s 0).mbOperand.toNat ((tileAt s n).net.rx.flatMap pendingEntry) s = some u →
      Gives (.dbgpend 0) s fun t => SameBytes u t ∧ t.tile = s.tile ∧ t.others = s.others ∧
        Succeeded s t 0 (some (BitVec.ofNat 64 (tileAt s n).net.rx.length)) ∧
        ∀ f ∈ (tileAt s n).net.rx, f.kind < 256 → f.bytes.length ≤ 64 → let b := pendingEntry f
          b.length = 96 ∧ (b.getD 0 0).toNat = f.kind ∧ (f.port = true → (b.getD 1 0).toNat = 0xFF) ∧
            recordWord b 1 = f.offset % 2 ^ 64 ∧ recordWord b 2 = (2 ^ f.bytes.length - 1) % 2 ^ 64 ∧
            (f.nibble = none → (b.drop 0x20).take f.bytes.length = f.bytes)) ∧
    (Command s 0 0x0F → CmdBelow s 0 47 → debugNamed s 0 isHalted = [n] → ∀ u,
      dmaWrite 0 (fnRegs s 0).mbOperand.toNat (viewBytes s n) s = some u →
      Gives (.dbgview 0) s fun t => SameBytes u t ∧ t.tile = s.tile ∧ t.others = s.others ∧ Succeeded s t 0 none) ∧
    (∀ b k c q x, Command s fn 0x19 → CmdBelow s fn 8 → Block s fn 32 b → namedHeld s fn b = some (k, .hold c q x) →
      ZeroBytes b 0x0C 20 →
      let skip := (b.getD 3 0).toNat = 1
      (skip → q = true → Rejects (.heldresume fn) s fn 0x16) ∧
      ((b.getD 3 0).toNat < 2 → ¬ (skip ∧ q = true) → (gangOf s k).members[k.tile]? = some (.on n) →
        Gives (.heldresume fn) s fun t => Succeeded s t fn none ∧
          ((∀ w, (tileAt s n).run ≠ .halted w) → (tileAt t n).run = .running) ∧
          (∀ w, (tileAt s n).run = .halted w → (tileAt t n).run = .halted .running) ∧
          (tileAt t n).seq.vpc = (if x = true ∨ skip then (tileAt s n).seq.vpc + 8 else (tileAt s n).seq.vpc) ∧
          (tileAt t n).seq.s = (tileAt s n).seq.s ∧ (tileAt t n).seq.v = (tileAt s n).seq.v ∧
          (q = false ∨ (tileAt s n).qFibre = [] → SameBytes s t))) ∧
    (∀ b k c q x, Command s fn 0x1A → CmdBelow s fn 8 → Block s fn 32 b → namedHeld s fn b = some (k, .hold c q x) →
      ZeroBytes b 0x0C 20 → (b.getD 3 0).toNat < 2 → (s.dev.tasks.any (Task.is k.queue k.record)) = true →
      Gives (.heldabort fn) s fun t => Succeeded s t fn none ∧ (taskOf t k).stopping = true ∧
        (taskOf t k).firstCause = some (c, 0, 0, 0)) ∧
    (∀ b x, Command s fn 0x14 → CmdBelow s fn 8 → Block s fn 32 b → ZeroBytes b 0x0C 4 → ZeroBytes b 0x18 8 →
      namedTask s fn b = some x → s.dev.tasks.find? (Task.is x.queue x.record) = some x →
      let nj := (BitVec.ofNat 64 (leNat ((b.drop 0x10).take 8))).toInt
      Gives (.quotaadd fn) s fun t => Succeeded s t fn none ∧ SameBytes s t ∧
        (taskAt t x.queue x.record).balance = x.balance + nj * 1000 ∧ ∀ m, tileAt t m = tileAt s m)

/-! ## Operator regions (R305, R394 to R396, R399 to R406, R408 to R410) -/

/-- R402 to R406, R408, R409: IMGHOLD holds IDLE regions with the image and loads FREE ones, and answers how many; IMGFREE
makes HELD ones IDLE; SWAP loads a compatible image into a spare region of the chiplet, and once the old region is quiet
the gang's routes, edges and shared state move over; RCLOCK sets the divider of a named region within its manifest. -/
def Obligations.RegionCommands : Prop :=
  ∀ (s : State) (fn : Nat), s.dev.mode ≠ .minimal →
    let h := cmdBits s fn 8 32
    let ix := cmdBits s fn 40 4
    let count := cmdBits s fn 44 6
    let known := ∃ o, objByHandle s fn h = some o ∧ ix < o.images.length
    (Command s fn 0x10 → CmdBelow s fn 50 → known → 1 ≤ count → count ≤ 32 →
      let rs := (holdOrder s fn h ix).take count
      (rs = [] → Rejects (.imghold fn) s fn 0x0F) ∧
      (rs ≠ [] → Gives (.imghold fn) s fun t => Succeeded s t fn (some (BitVec.ofNat 64 rs.length)) ∧
        (∀ r ∈ rs, (regionAt t r).hold = true ∧ ((regionAt t r).state = .held ∨ (regionAt t r).state = .loading) ∧
          (regionAt t r).image = some (fn, h, ix)) ∧
        ∀ r, r ∉ rs → regionAt t r = regionAt s r)) ∧
    (Command s fn 0x11 → CmdBelow s fn 50 → known → 1 ≤ count → count ≤ 32 →
      let held := (List.range 256).filter fun r =>
        (regionAt s r).state == .held && (regionAt s r).image == some (fn, h, ix)
      Gives (.imgfree fn) s fun t => Succeeded s t fn none ∧
        (∀ r ∈ held.take count, regionAt t r = { regionAt s r with state := .idle, hold := false }) ∧
        ∀ r, r ∉ held.take count → regionAt t r = regionAt s r) ∧
    (∀ b k i r img m, Command s fn 0x12 → CmdBelow s fn 8 → Block s fn 32 b → ZeroBytes b 0x0C 20 →
      namedRegion s fn b = some (k, i, r) → imageAt s (taskOf s k) (leNat ((b.drop 3).take 1)) = some img →
      checkImage (fnRegs s (taskOf s k).fn).tenant img = .ok m →
      (compatible (regionAt s r) m = false ∨ (regionAt s r).swapTo ≠ none → Rejects (.swap fn) s fn 0x10) ∧
      (compatible (regionAt s r) m = true → (regionAt s r).swapTo = none →
        (spareRegion s r = none → Unchanged (.swap fn) s) ∧
        ∀ n, spareRegion s r = some n → Gives (.swap fn) s fun t => Succeeded s t fn none ∧
          (regionAt t r) = { regionAt s r with swapTo := some n } ∧ (regionAt t n).state = .loading ∧
          (regionAt t n).image = some ((taskOf s k).fn, (taskOf s k).trec.object, leNat ((b.drop 3).take 1)))) ∧
    (∀ r n old new q c g i, (regionAt s r).swapTo = some n → n ≠ r → (regionAt s r).manifest = some old →
      (regionAt s n).manifest = some new → (regionAt s r).state = .bound → (regionAt s n).state = .standby →
      (regionAt s r).boundTo = some (q, c, g, i) → (s.dev.gangs.any (Gang.is q c g)) = true →
      let x := regionAt s r
      (false ∈ x.atBoundary ∨ quiesced s r old new x = false → Unchanged (.swapQuiesce r) s) ∧
      (quiesced s r old new x = true → Gives (.swapQuiesce r) s fun t =>
        (∀ j < 8, ∀ p, new.ports[j]? = some p → (x.edges.getD j []).length ≤ p.depth) ∧
        (regionAt t n).state = .bound ∧ (regionAt t n).boundTo = x.boundTo ∧ (regionAt t n).edges = x.edges ∧
        (regionAt t n).divider = x.divider ∧ (regionAt t n).newDivider = x.newDivider ∧
        (regionAt t n).manifest = some new ∧
        (∀ e ∈ (regionAt t n).elements, (∃ y ∈ new.states, y.1 = e.1) ∧ ∃ y ∈ old.states, y.1 = e.1) ∧
        (regionAt t r).state = .idle ∧ (regionAt t r).boundTo = none ∧ (regionAt t r).swapTo = none ∧
        (gangAt t q c g).regions = (gangAt s q c g).regions.map fun z => if z = r then n else z)) ∧
    (∀ b k i r m, Command s fn 0x13 → CmdBelow s fn 8 → Block s fn 32 b → ZeroBytes b 3 1 → ZeroBytes b 0x0E 18 →
      namedRegion s fn b = some (k, i, r) → (regionAt s r).manifest = some m →
      let mhz := leNat ((b.drop 0x0C).take 2)
      let n := (4000 + mhz - 1) / mhz
      let fits := 0 < mhz ∧ m.clkMin * n ≤ 4000 ∧ 4000 ≤ m.clkMax * n
      (¬ fits → Rejects (.rclock fn) s fn 0x11) ∧
      (fits → Answers (.rclock fn) s fn none (onRegion r fun x => { x with newDivider := some n })))

/-- R305, R394 to R396, R399 to R401, R405, R410: a loaded image stands IDLE, HELD or, for a swap, STANDBY, and one refused
leaves the region FREE; a stopped gang's region stops and is relinked by name and port; a drained edge takes a new depth
within the limits; the sensor moves SLOTDLY; at 110 degrees a bound region is stopped and its gang loses it. -/
def Obligations.RegionSteps : Prop :=
  ∀ (s : State) (r n temp depth : Nat) (p : Fin 8) (m : Manifest),
    let x := regionAt s r
    (x.state ≠ .loading → Unchanged (.regionLoadComplete r) s) ∧
    (x.state = .loading → loadedFor s r = none →
      (checkRegionImage s x = some m → exec (.regionLoadComplete r) s = .next (onRegion r (fun y => { y with
        state := if x.hold = true then .held else .idle, manifest := some m, boundTo := none }) s)) ∧
      (checkRegionImage s x = none → x.boundTo = none →
        exec (.regionLoadComplete r) s = .next (onRegion r freed s)) ∧
      ∀ q c g i, checkRegionImage s x = none → x.boundTo = some (q, c, g, i) →
        (s.dev.tasks.any (Task.is q c)) = true → Gives (.regionLoadComplete r) s fun t =>
          regionAt t r = freed x ∧ (taskAt t q c).stopping = true ∧ ((taskAt s q c).firstCause = none →
            ∃ a b d, (taskAt t q c).firstCause = some (0x103, a, b, d))) ∧
    (x.state = .loading → ∀ y, loadedFor s r = some (n, y) → y.state ≠ .stopped → checkRegionImage s x = some m →
      exec (.regionLoadComplete r) s = .next (onRegion r (fun y => { y with
        state := .standby, manifest := some m, boundTo := none }) s)) ∧
    (x.state ≠ .bound ∨ regionGangStopped s x = false ∨ x.swapTo = some r → Unchanged (.regionStop r) s) ∧
    (x.state = .bound → x.swapTo = none → regionGangStopped s x = true → Gives (.regionStop r) s fun t =>
      (regionAt t r).state = .stopped ∧ (regionAt t r).boundTo = x.boundTo ∧ (regionAt t r).edges = x.edges ∧
      (regionAt t r).image = x.image ∧ SameBytes s t) ∧
    (x.state = .stopped → x.swapTo = some n → checkRegionImage s x = some m → ∀ q c g i, x.boundTo = some (q, c, g, i) →
      (s.dev.gangs.any (Gang.is q c g)) = true → Gives (.regionRelink r) s fun t =>
        (regionAt t n).state = .bound ∧ (regionAt t n).boundTo = x.boundTo ∧ (regionAt t n).edges = x.edges ∧
        (regionAt t n).elements = x.elements.filter (fun e => m.states.any fun y => y.1 == e.1) ∧
        (regionAt t n).divider = x.divider ∧ (regionAt t n).newDivider = x.newDivider ∧
        (n ≠ r → regionAt t r = freed x ∧
          (gangAt t q c g).regions = (gangAt s q c g).regions.map fun z => if z = r then n else z)) ∧
    (x.state ≠ .stopped ∨ x.swapTo = none → Unchanged (.regionRelink r) s) ∧
    (x.state = .bound → x.manifest = some m → x.edges.getD p [] = [] →
      let allowed := 2 ≤ depth ∧ depth ≤ 1024 ∧ bufferBytes (withDepth m p depth) ≤ 96 * 1024
      (¬ allowed → Unchanged (.reconfigTokenApply r p depth) s) ∧
      (allowed → Gives (.reconfigTokenApply r p depth) s fun t => ∃ y, (regionAt t r).manifest = some y ∧
        (p < m.ports.length → ∃ z, y.ports[p.val]? = some z ∧ z.depth = depth) ∧
        ∀ j, j ≠ p.val → y.ports[j]? = m.ports[j]?)) ∧
    (r < 256 → exec (.thermalTick r temp) s = .next (onRegion r (fun x => { x with
      temp := temp % 256
      slotDly := if 95 ≤ temp % 256 then min (x.slotDly + 8) x.dlyMax
        else if temp % 256 < 90 then x.slotDly - 8 else x.slotDly }) s)) ∧
    (x.temp < 110 ∨ x.state ≠ .bound → Unchanged (.regionMachineCheck r) s) ∧
    (110 ≤ x.temp → x.state = .bound → x.swapTo = none → ∀ q c g i, x.boundTo = some (q, c, g, i) →
      Gives (.regionMachineCheck r) s fun t => (regionAt t r).state = .stopped ∧ (regionAt t r).boundTo = x.boundTo ∧
        ∀ j k, (tileAt s j).owner = some k → k.queue = q → k.record = c → k.gang = g →
          (tileAt t j).async = (tileAt s j).async ++ [⟨0x104, 0, 0, []⟩])

/-! ## Clocks, errors, links, registers, boot (R6, R7, R345 to R350, R373, R389, R407 to R413, R423 to R427, R436 to R438) -/

/-- R407, R409, R411, R412: TDIVREQ takes 4 to 64 and is in force from the next edge, for a throttled tile at the greater
divider; a throttle, in force from the next edge too, never goes below it, and FORCED shows it; a droop stretches the next 32
clocks; a single error is counted, a double one is MACHINE_CHECK for the tile or poisons a line. Whether a pass runs at a
droop is timing (log 5). -/
def Obligations.ClockAndErrorSteps : Prop :=
  ∀ (s : State) (c n line d : Nat) (v : Word),
    let want := v.toNat % 2 ^ 7
    let x := clockAt s c
    let t0 := telemetryAt s n
    (c < 8 → s.dev.mode ≠ .minimal → 4 ≤ want → want ≤ 64 → exec (.tdivreqWrite c v) s =
      .next (onClock c (fun y => { y with req := want, pending := some (y.pending.getD y.req) }) s)) ∧
    (want < 4 ∨ 64 < want → Unchanged (.tdivreqWrite c v) s) ∧
    (
      let waits := x.pending ≠ none ∨ ∃ j < 128, (telemetryAt s (128 * c + j)).newTdiv ≠ none
      (¬ waits → Unchanged (.clockDividerChange (.tiles c)) s) ∧
      (waits → Gives (.clockDividerChange (.tiles c)) s fun t => (clockAt t c).req = x.req ∧ (clockAt t c).pending = none ∧
        ((clockAt t c).forced = true ↔ ∃ j < 128, x.req < (telemetryAt t (128 * c + j)).tdiv) ∧
        ∀ j < 128,
          let y := telemetryAt s (128 * c + j)
          let z := telemetryAt t (128 * c + j)
          z.newTdiv = none ∧ (∀ m, y.newTdiv = some m → z.tdiv = max x.req m) ∧
          (y.newTdiv = none → x.pending = none → z.tdiv = y.tdiv) ∧
          ∀ old, y.newTdiv = none → x.pending = some old → z.tdiv = if y.tdiv = old then x.req else max x.req y.tdiv)) ∧
    (∀ r m, (regionAt s r).newDivider = some m → exec (.clockDividerChange (.region r)) s =
      .next (onRegion r (fun y => { y with divider := m, newDivider := none }) s)) ∧
    (n < 1024 → let base := (clockAt s (n / 128)).pending.getD (clockAt s (n / 128)).req
      (d < base ∨ 64 < d → Unchanged (.tileThrottle n d) s) ∧
      (base ≤ d → d ≤ 64 → Gives (.tileThrottle n d) s fun t =>
        telemetryAt t n = { t0 with newTdiv := some d } ∧ (base < d → (clockAt t (n / 128)).forced = true) ∧
        ∀ m, m ≠ n → telemetryAt t m = telemetryAt s m)) ∧
    (n < 1024 → Gives (.droopDetected n) s fun t => (telemetryAt t n).stretchLeft = 32 ∧ SameBytes s t ∧
      (tileAt t n).seq = (tileAt s n).seq ∧ (tileAt t n).accum = (tileAt s n).accum ∧
      let u := onTelemetry n (fun y => { y with stretchLeft := 32 }) s
      (liveHead s n .matrix = none → t = u) ∧
      ∀ q, liveHead s n .matrix = some q →
        t = u ∨ t = onCmd n .matrix q.owner q.seq (fun y => { y with droop := true }) u) ∧
    (n < 1024 →
      exec (.eccError (.tile n) false) s = .next (onTelemetry n (fun y => { y with eccCor := t0.eccCor + 1 }) s) ∧
      Gives (.eccError (.tile n) true) s fun t => (telemetryAt t n).eccUnc = t0.eccUnc + 1 ∧
        ((tileAt s n).owner ≠ none → (tileAt t n).async = (tileAt s n).async ++ [⟨0x1C0, 0, 0, []⟩]) ∧
        ((tileAt s n).owner = none → tileAt t n = tileAt s n)) ∧
    Unchanged (.eccError (.line line) false) s ∧ Unchanged (.memoryScrub line false) s ∧
    (∀ i, i = Instr.eccError (.line line) true ∨ i = Instr.memoryScrub line true → Gives i s fun t =>
      (∀ l, l ∈ t.dev.poison ↔ l = line ∨ l ∈ s.dev.poison) ∧ SameBytes s t)

/-- R436, R437, R438: training brings a link up toward its peer; a flit with a bad CRC is replayed and counted, after 16
replays the link trains once more, and a failure of that takes it down, signals the PF, and cuts off what no other link
reaches; ENABLE = 0 takes it out of service; PKG is written while every queue is DISABLED. -/
def Obligations.LinkSteps : Prop :=
  ∀ (s : State) (l peer pl : Nat) (v : Word),
    let x := linkAt s l
    (x.state ≠ 1 → Unchanged (.linkTrainingDone l peer pl) s) ∧
    (x.state = 1 → Gives (.linkTrainingDone l peer pl) s fun t => OtherLinks s t l ∧ linkAt t l =
      { x with state := 2, peer := peer % 2 ^ 12, peerLink := pl % 16, tries := 0, retraining := false }) ∧
    (x.state ≠ 2 → Unchanged (.flitReplay l) s) ∧
    (x.state = 2 → Gives (.flitReplay l) s fun t => OtherLinks s t l ∧ (linkAt t l).state = 2 ∧
      (linkAt t l).replays = x.replays + 1 ∧ (linkAt t l).crcErr = x.crcErr + 1 ∧
      ((linkAt t l).tries = 1 ∨ (linkAt t l).tries = x.tries + 1)) ∧
    (x.state ≠ 2 ∨ x.tries < 16 → Unchanged (.linkReplayLimit l) s) ∧
    (x.state = 2 → 16 ≤ x.tries → Gives (.linkReplayLimit l) s fun t => OtherLinks s t l ∧
      linkAt t l = { x with state := 1, tries := 0, retraining := true }) ∧
    (x.state ≠ 1 ∨ x.retraining = false → Unchanged (.linkRetrainFail l) s) ∧
    (x.state = 1 → x.retraining = true → Gives (.linkRetrainFail l) s fun t => OtherLinks s t l ∧
      linkAt t l = { x with state := 3, downs := (x.downs + 1) % 2 ^ 32, retraining := false, tries := 0 } ∧
      t.dev.irqs = (0, 0) :: s.dev.irqs ∧
      ((∃ m, m ≠ l ∧ (linkAt s m).state = 2 ∧ (linkAt s m).peer = x.peer) → t.dev.lost = s.dev.lost ∧ t.tile = s.tile ∧
        t.others = s.others)) ∧
    (l < 16 → s.dev.mode ≠ .minimal → Gives (.linkEnableWrite l v) s fun t => OtherLinks s t l ∧
      (linkAt t l).enable = v.getLsbD 0 ∧ (v.getLsbD 0 = false → (linkAt t l).state = 0) ∧
      (v.getLsbD 0 = true → x.state ≠ 0 → (linkAt t l).state = x.state)) ∧
    ((∀ e ∈ s.dev.queues, e.2.state = .disabled) →
      DevBecomes (.pkgWrite v) s fun d => { d with pkg := v.toNat % 2 ^ 12 }) ∧
    ((∃ e ∈ s.dev.queues, e.2.state ≠ .disabled) → Unchanged (.pkgWrite v) s)

/-- R6, R7, R109, R345 to R350, R373, R410: a write of an aligned word changes the writable fields of the register there and
no other, and never a tile or a memory; the mailbox takes a command only while it is not BUSY; a function reaches the blocks of
its own queues in ascending number, the PF all, which are written only while the queue is DISABLED; a tenant number that another
function has is not taken; the host writes device memory, within BAR4, and its own. The size of BAR4 is the device's (log 61). -/
def Obligations.RegisterWrites : Prop :=
  ∀ (s : State) (fn f q : Nat) (v : Word),
    let bits := fun lo w : Nat => v.toNat / 2 ^ lo % 2 ^ w
    (∀ off, Gives (.registerWrite fn off v) s fun t => t.tile = s.tile ∧ t.others = s.others ∧ SameBytes s t) ∧
    (∀ off, off % 8 ≠ 0 → Unchanged (.registerWrite fn off v) s) ∧
    (∀ off, fn ≠ 0 → off < 0x1000 ∨ (0x1020 ≤ off ∧ off < 0x100000) → Unchanged (.registerWrite fn off v) s) ∧
    DevBecomes (.registerWrite 0 0x00 v) s (fun d => { d with ageInt := bits 0 32 }) ∧
    DevBecomes (.registerWrite 0 0x08 v) s (fun d => { d with immPool := bits 0 16 }) ∧
    DevBecomes (.registerWrite 0 0x10 v) s (fun d => { d with immDl := bits 0 32 }) ∧
    (∀ off, 0x300 ≤ off → off < 0x1000 → Unchanged (.registerWrite 0 off v) s) ∧
    (f ≤ 64 → Gives (.tenantWrite f v) s fun t => (fnRegs t f).tcshare = bits 16 16 ∧ t.tile = s.tile ∧ t.others = s.others ∧
      SameBytes s t ∧
      ((∃ g, g ≤ 64 ∧ g ≠ f ∧ (fnRegs s g).tenant = bits 0 16) → (fnRegs t f).tenant = (fnRegs s f).tenant) ∧
      ((∀ g, g ≤ 64 → g ≠ f → (fnRegs s g).tenant ≠ bits 0 16) → (fnRegs t f).tenant = bits 0 16) ∧
      ∀ g, g ≠ f → fnRegs t g = fnRegs s g) ∧
    (64 < f → Unchanged (.tenantWrite f v) s) ∧
    (memoriesWf s = true → ∀ (aperture : Bool) (a : Nat) (bytes : List Byte),
      (aperture = true → a + bytes.length ≤ Config.bar4Bytes ∧ s.dev.mode ≠ .minimal) →
        Gives (.hostMemoryAccess aperture a bytes) s fun t =>
          ∀ p b, (placeMem t p).read b = if p = (if aperture then .dev else .host) ∧ a ≤ b ∧ b < a + bytes.length then
            bytes.getD (b - a) 0 else (placeMem s p).read b) ∧
    (∀ a bytes, Config.bar4Bytes < a + bytes.length → Unchanged (.hostMemoryAccess true a bytes) s) ∧
    (∀ aperture a, Unchanged (.hostMemoryAccess aperture a []) s) ∧
    (s.dev.mode ≠ .minimal → fn ≤ 64 →
      ((fnRegs s fn).mbBusy = false → exec (.registerWrite fn 0x1000 v) s =
        .next (onFn fn (fun x => { x with mbCmd := v, mbBusy := true }) s)) ∧
      ((fnRegs s fn).mbBusy = true → Gives (.registerWrite fn 0x1000 v) s fun t => fnRegs t fn = fnRegs s fn) ∧
      exec (.registerWrite fn 0x1008 v) s = .next (onFn fn (fun x => { x with mbOperand := v }) s) ∧
      Unchanged (.registerWrite fn 0x1010 v) s ∧ Unchanged (.registerWrite fn 0x1018 v) s) ∧
    (s.dev.mode ≠ .minimal → f ≤ 64 →
      exec (.registerWrite 0 (0x2000 + 32 * f) v) s =
        .next (onFn f (fun x => { x with en := v.getLsbD 0, root := bits 12 44 }) s) ∧
      exec (.registerWrite 0 (0x2008 + 32 * f) v) s = .next (onFn f (fun x => { x with etbase := v }) s) ∧
      exec (.registerWrite 0 (0x2010 + 32 * f) v) s =
        .next (onFn f (fun x => { x with fvec := bits 0 11, fring := bits 12 44 }) s) ∧
      exec (.registerWrite 0 (0x2018 + 32 * f) v) s = .next (onFn f (fun x => { x with fhead := bits 8 6 }) s)) ∧
    (s.dev.mode ≠ .minimal → fn ≤ 64 → ∀ k < 4096, queueSeen s fn k = some q →
      let at_ := 0x100000 + 64 * k
      ((queueAt s q).state ≠ .disabled → ∀ j < 8, Unchanged (.registerWrite fn (at_ + 8 * j) v) s) ∧
      ((queueAt s q).state = .disabled →
        exec (.registerWrite fn at_ v) s = .next (onQueue q (fun x => { x with qbase := v }) s) ∧
        exec (.registerWrite fn (at_ + 0x08) v) s = .next (onQueue q (fun x => { x with
          qlog2 := bits 0 5, qhost := v.getLsbD 5, devenq := v.getLsbD 6, pasid := bits 7 20
          owner := if fn = 0 then bits 27 7 else x.owner }) s) ∧
        exec (.registerWrite fn (at_ + 0x10) v) s = .next (onQueue q (fun x => { x with dtbase := v }) s) ∧
        exec (.registerWrite fn (at_ + 0x18) v) s = .next (onQueue q (fun x => { x with dtsize := bits 0 17 }) s))) ∧
    (s.dev.mode ≠ .minimal → f < 256 →
      exec (.registerWrite 0 (0x3800 + 8 * f) v) s = .next (onRegion f (fun x => { x with dlyMax := bits 8 8 }) s))

/-- R343, R389, R423 to R427: a reset keeps the persistent store and counts the start, or, after three failed ones, enters
minimal mode; each stage runs once its image verifies against the floor, or the start fails with its reason; a good start
reaches stage 3, freezes the measurement chain and clears FAILS. A vellum image goes back onto the tile set aside for it, with
its folio where it was in one that can be had, or is refused for another translator, a quarantined root or a page that fails
its check; a parity error discards it. What a firmware image holds is left open (log 13), when stage 2 is entered is timing
(log 5). -/
def Obligations.BootAndRestore : Prop :=
  ∀ (s : State) (reason detail n : Nat) (x : Saved) (k : StrandKey),
    let d := s.dev
    let staged := (d.staged.orElse fun _ => d.store).getD Config.factoryImage
    let image := d.store.getD Config.factoryImage
    let digest := fun j => shake256 (Config.stagePart image j).1 64
    Gives .deviceReset s (fun t => t.tile = Tile.blank ∧ t.others = [] ∧ t.dev.host = d.host ∧ t.dev.mem = [] ∧
      t.dev.queues = [] ∧ t.dev.tasks = [] ∧ t.dev.fns = [] ∧ t.dev.regions = [] ∧ t.dev.objs = [] ∧
      t.dev.failsAtEntry = d.fails ∧
      (d.fails = 3 → t.dev.mode = .minimal ∧ t.dev.fails = 3 ∧ t.dev.stage = 0 ∧ t.dev.reason = d.reason ∧
        t.dev.detail = d.detail) ∧
      (d.fails ≠ 3 → t.dev.mode = .booting ∧ t.dev.fails = d.fails + 1 ∧
        (¬ StageGood staged 1 → t.dev.stage = 0 ∧ StageFailed staged 1 t) ∧
        (StageGood staged 1 → t.dev.startFailed = false → (t.dev.stage = 1 ∨ (t.dev.stage = 2 ∧ StageGood staged 2)) ∧
          t.dev.reason = d.reason ∧ t.dev.detail = d.detail) ∧
        (StageGood staged 1 → t.dev.startFailed = true →
          t.dev.stage = 1 ∧ ¬ StageGood staged 2 ∧ StageFailed staged 2 t))) ∧
    (d.mode = .booting → d.startFailed = false →
      (d.stage = 2 ∨ (d.stage = 1 ∧ StageGood image 2) → Gives .bootReady s fun t => t.dev.stage = 3 ∧
        t.dev.mode = .normal ∧ t.dev.fails = 0 ∧ t.dev.fwVersion = Config.firmwareVersion image ∧
        t.dev.measure = shake256 (shake256 (List.replicate 64 0 ++ digest 1) 64 ++ digest 2) 64 ∧ t.tile = s.tile ∧
        t.others = s.others ∧ SameBytes s t) ∧
      (d.stage = 1 → ¬ StageGood image 2 → Gives .bootReady s fun t => t.dev.stage = 1 ∧ StageFailed image 2 t) ∧
      (d.stage ≠ 1 → d.stage ≠ 2 → Unchanged .bootReady s) ∧
      (1 ≤ reason → reason ≤ 6 → reason ≠ 5 → Gives (.failedStart reason detail) s fun t => t.dev.startFailed = true ∧
        t.tile = s.tile ∧ t.others = s.others ∧ SameBytes s t ∧ t.dev.fails = d.fails ∧
        (d.stage ≠ 1 ∨ StageGood image 2 → t.dev.reason = reason ∧ t.dev.detail = detail % 2 ^ 32)) ∧
      Gives .bootWatchdogExpiry s fun t => t.dev.startFailed = true ∧ t.tile = s.tile ∧ t.others = s.others ∧
        SameBytes s t ∧ t.dev.fails = d.fails ∧
        (d.stage ≠ 1 ∨ StageGood image 2 → t.dev.reason = 5 ∧ t.dev.detail = t.dev.stage % 2 ^ 32)) ∧
    (d.mode ≠ .booting ∨ d.startFailed = true →
      Unchanged .bootReady s ∧ Unchanged (.failedStart reason detail) s ∧ Unchanged .bootWatchdogExpiry s) ∧
    (reason = 0 ∨ reason = 5 ∨ 6 < reason → Unchanged (.failedStart reason detail) s) ∧
    ((tileAt s n).owner = some k → savedOf s k = some x → x.vellum = true → n < 1024 → 1024 ≤ x.home →
      let held := tileAt s x.home
      let restored := fun (t : State) => savedOf t k = none ∧ (tileAt t n).owner = held.owner ∧ (tileAt t n).seq = held.seq ∧
        (tileAt t n).pad = held.pad ∧ (tileAt t n).accum = held.accum ∧ (x.why = .deadline → (tileAt t n).run = .running)
      let sound := x.tver = Config.tver d.fwGen ∧ quarantined s (taskOf s k) = false
      let noted := fun (cause : Nat) (t : State) => (s.dev.tasks.any (Task.is k.queue k.record)) = true →
        (taskOf s k).firstCause = none → ∃ a b c, (taskOf t k).firstCause = some (cause, a, b, c)
      (sound → held.folio = none → Gives (.vellumRestore ⟨n, false⟩) s fun t => restored t ∧ (tileAt t n).folio = none) ∧
      (sound → ∀ f u g, held.folio = some f → restoreFolio s k f = (u, some g) → g.intact = true →
        Gives (.vellumRestore ⟨n, false⟩) s fun t => restored t ∧ (tileAt t n).folio = some g) ∧
      (sound → ∀ f u, held.folio = some f → restoreFolio s k f = (u, none) →
        Gives (.vellumRestore ⟨n, false⟩) s fun t => restored t ∧ (tileAt t n).folio = none) ∧
      (sound → ∀ f u g, held.folio = some f → restoreFolio s k f = (u, some g) → g.intact = false →
        Gives (.vellumRestore ⟨n, false⟩) s (noted 0x141)) ∧
      (x.tver ≠ Config.tver d.fwGen → Gives (.vellumRestore ⟨n, false⟩) s (noted 0x18C)) ∧
      (x.tver = Config.tver d.fwGen → quarantined s (taskOf s k) = true → Gives (.vellumRestore ⟨n, false⟩) s (noted 0x141)) ∧
      Gives (.vellumRestore ⟨n, true⟩) s fun t => noted 0x1C1 t ∧ (telemetryAt t n).parity = (telemetryAt s n).parity + 1)

/-! ## The whole machine -/

/-- R64, R347, R350, R373, R407, R410, R413, R426, R436, R437: what the spec states for reset: the host's registers, the
queues, the translation blocks, the clocks, the regions, telemetry and the links; no tile runs a strand. -/
def Obligations.ResetState : Prop :=
  let s := State.reset
  (∀ n, (tileAt s n).owner = none ∧ (tileAt s n).run = .free) ∧
  readRegister s 0 0 = 1000 ∧ readRegister s 0 8 = 256 ∧ readRegister s 0 0x10 = 16384 ∧
  (∀ f ≤ 64, readRegister s 0 (0x18 + 8 * f) = BitVec.ofNat 64 f ∧
    ∀ j < 4, readRegister s 0 (0x2000 + 32 * f + 8 * j) = 0) ∧
  (∀ q < 4096, (queueAt s q).state = .disabled ∧ ∀ j < 8, readRegister s 0 (0x100000 + 64 * q + 8 * j) = 0) ∧
  (∀ c < 8, (clockAt s c).req = 4 ∧ (clockAt s c).forced = false) ∧
  (∀ r < 256, (regionAt s r).state = .free ∧ readRegister s 0 (0x3800 + 8 * r) = 64 * 2 ^ 8) ∧
  (∀ n < 1024, readRegister s 0 (0x40038 + 64 * n) = 4 ∧ ∀ j < 7, readRegister s 0 (0x40000 + 64 * n + 8 * j) = 0) ∧
  (∀ l < 16, readRegister s 0 (0x50020 + 64 * l) = 1 ∧ ∀ j < 4, readRegister s 0 (0x50000 + 64 * l + 8 * j) = 0) ∧
  s.dev.mode = .booting ∧ s.dev.stage = 0 ∧ s.dev.pkg = 0 ∧
  (∀ n, (tileAt s n).seq.tables.take 4 = [1020, 1012, 1004, 996]) ∧
  ∀ n, (tileAt s n).seq.tables.length = 512 ∧ (tileAt s n).seq.tables.getD 255 1 = 0 ∧
    (tileAt s n).seq.tables.getD 256 0 = BitVec.ofInt 16 (-7713)

/-- The machine's memories are in canonical form at reset. -/
def Obligations.ResetMemoriesCanonical : Prop := memoriesWf State.reset = true

/-- Every step, of an instruction or of any agent of the device, keeps every memory in canonical form: addresses rise
strictly and no listed byte is zero, so that equal memories are equal data. -/
def Obligations.StepKeepsMemoriesCanonical : Prop :=
  ∀ s t : State, memoriesWf s = true → step s = .next t → memoriesWf t = true

/-- R113, R119, R125, R137, R337, R338, R392: a step lets time pass and then runs the instruction that its folio's word decodes
to, be it of the folio in hand or of one entered at its first word; a strand past its deadline is stopped, and one whose
interface is still frozen, or whose pending list still lands, waits; a turn of the agenda goes to its agent first (log 4; how
far the clocks move is timing, log 5). -/
def Obligations.StepRunsFetched : Prop :=
  ∀ (s : State) (f : Folio) (i : Instr) (rest : List Turn),
    let pc := s.tile.seq.vpc
    let serves := s.tile.net.frozen = false ∧ s.tile.net.landing = false
    (s.agenda = [] → s.tile.run = .running → serves → NothingOwed s → f.intact = true →
      (s.tile.folio = some f → f.first.toNat ≤ pc.toNat → pc.toNat ≤ f.last.toNat →
        step s = exec (decodeWord (f.words.getD ((pc.toNat - f.first.toNat) / 8) (BitVec.allOnes 64))) (tick s)) ∧
      (s.tile.folio = none → Canonical pc → folioAt s (taskOf s (me s)) pc = some f →
        step s = exec (decodeWord (f.words.getD 0 (BitVec.allOnes 64)))
          (onFocus (fun t => { t with folio := some f, folioStale := false }) (tick s)))) ∧
    (s.agenda = .event i :: rest → isEvent i = true → step s = exec i { tick s with agenda := rest }) ∧
    (s.agenda = [.strand s.tileNo] → step s = step { s with agenda := [] }) ∧
    (s.agenda = [] → s.tile.run ≠ .running ∨ ¬ serves → step s = .next (tick s)) ∧
    (∀ d, s.agenda = [] → s.tile.run = .running → serves → s.tileNo < 1024 → s.tile.yieldReq = some d →
      d ≤ s.tile.sincePost → step s = .next (forceStop s.tileNo (me s) .deadline (tick s))) ∧
    (s.tileNo < 1024 → (∀ w, s.tile.run ≠ .frozen w) → ∃ j, 0 < j ∧ (tick s).tile = { s.tile with
      seq := { s.tile.seq with cycle := s.tile.seq.cycle + BitVec.ofNat 64 j }, sincePost := s.tile.sincePost + j
      fibre := (tick s).tile.fibre }) ∧
    (s.tile.fibre.run = none → (tick s).tile.fibre = s.tile.fibre) ∧
    SameBytes s (tick s) ∧ (tick s).tileNo = s.tileNo ∧ (tick s).agenda = s.agenda ∧ (tick s).dev.tasks = s.dev.tasks

/-- R125 to R133, R143, R144: words that the spec writes out decode to the instructions it gives them, and illegal words of
its examples to none. -/
def Obligations.DecodeWords : Prop := ∀ e ∈ workedWords, decodeWord (BitVec.ofNat 64 e.1) = e.2

/-- Decoding undoes encoding: for every well-formed SVI instruction, with every operand at every value its encoding admits. -/
def Obligations.EncodeDecodeAgree : Prop := ∀ i : Instr, Laws.RoundTrip.Statement i

/-- Encoding undoes decoding: every word is the encoding of what it decodes to, so that each word has one meaning, and no
two instructions share a word. -/
def Obligations.DecodeEncodeAgree : Prop := ∀ w : Word, (decodeWord w).encode = w
end

