-- ==== Sys2Proof/Laws/Context.lean ====
section
/-!
SUPPORT. Lengths of the parts of a context record (R379, R380): every section, the placement of sections at multiples of 64,
the header and the unsealed record.
-/

namespace Sys2Proof.Machine

open Sys2Proof

@[simp] theorem leBytes_length (n x : Nat) : (leBytes n x).length = n := by
  induction n generalizing x with
  | zero => rfl
  | succ n ih => simp [leBytes, ih]

@[simp] theorem padTo_length (n : Nat) (bs : List Byte) : (padTo n bs).length = n := by
  simp only [padTo, List.length_append, List.length_take, List.length_replicate]
  omega

@[simp] theorem wordsBytes_length (l : List Nat) : (wordsBytes l).length = 8 * l.length := by
  induction l with
  | nil => rfl
  | cons x l ih =>
    simp only [wordsBytes, List.flatMap_cons, List.length_append, leBytes_length, List.length_cons] at ih ⊢
    omega

@[simp] theorem Memory.readBytes_length (m : Memory) (a n : Nat) : (m.readBytes a n).length = n := by
  induction n generalizing a with
  | zero => rfl
  | succ n ih => simp [Memory.readBytes, ih]

/-- Pieces of one length, joined. -/
theorem flatMap_length {α : Type} (l : List α) (f : α → List Byte) (k : Nat) (h : ∀ x ∈ l, (f x).length = k) :
    (l.flatMap f).length = k * l.length := by
  induction l with
  | nil => rfl
  | cons x l ih =>
    rw [List.flatMap_cons, List.length_append, h x List.mem_cons_self, ih fun y hy => h y (List.mem_cons_of_mem _ hy),
      List.length_cons, Nat.mul_add, Nat.mul_one, Nat.add_comm]

/-- The lengths of the sections (R380). -/
theorem sectionsOf_lengths (t : Tile) (k : StrandKey) (d : SReg) (base len rows : Nat) (faults : List Byte) :
    (sectionsOf t k d base len rows faults).map List.length =
      [512, 256, 512, 16384, 576, 2 * t.seq.tables.length, 4096, 256, 13888, engineLength (engineSection t k), 17920, len,
       1024 * rows, 512] := by
  simp only [sectionsOf, List.map_cons, List.map_nil, padTo_length, Memory.readBytes_length,
    scalarSection, wordsBytes_length, List.length_map, List.length_finRange, controlSection, predSection, vectorSection,
    replySection]
  rw [flatMap_length _ _ 32 fun x _ => leBytes_length _ _, flatMap_length _ _ 256 fun x _ => leBytes_length _ _,
    flatMap_length _ _ 144 fun x _ => padTo_length _ _, flatMap_length _ _ 2 fun x _ => leBytes_length _ _]
  simp

theorem le_alignUp (n : Nat) : n ≤ alignUp n := by
  simp only [alignUp, ceilDiv]
  omega

/-- Where the last of sections of these lengths ends, the first of them placed at an offset. -/
def lastEnd (off n : Nat) : List Nat → Nat
  | [] => off + n
  | m :: ms => lastEnd (alignUp (off + n)) m ms

theorem le_lastEnd (off n : Nat) (ms : List Nat) : off + n ≤ lastEnd off n ms := by
  induction ms generalizing off n with
  | nil => exact Nat.le_refl _
  | cons m ms ih => exact Nat.le_trans (le_alignUp _) (Nat.le_trans (Nat.le_add_right _ _) (ih _ _))

/-- The length of a record is that of its last section's end with the trailer. -/
theorem recordLength_place (off : Nat) (b : List Byte) (bs : List (List Byte)) :
    recordLength (placeSections off (b :: bs)) = lastEnd off b.length (bs.map List.length) + 16 := by
  induction bs generalizing off b with
  | nil => rfl
  | cons c cs ih => exact ih (alignUp (off + b.length)) c

/-- The body of a record runs from the first section to the end of the last. -/
theorem bodyBytes_place (at_ off : Nat) (b : List Byte) (bs : List (List Byte)) (h : at_ ≤ off) :
    (bodyBytes at_ (placeSections off (b :: bs))).length = lastEnd off b.length (bs.map List.length) - at_ := by
  induction bs generalizing at_ off b with
  | nil =>
    simp only [placeSections, bodyBytes, List.length_append, List.length_replicate, List.map_nil, lastEnd, List.length_nil]
    omega
  | cons c cs ih =>
    have := le_lastEnd (alignUp (off + b.length)) c.length (cs.map List.length)
    have ha := le_alignUp (off + b.length)
    rw [placeSections, bodyBytes, List.length_append, List.length_append, List.length_replicate,
      ih (off + b.length) (alignUp (off + b.length)) c ha, List.map_cons, lastEnd]
    omega

theorem headerBytes_length (h : CtxHead) (t : Tile) (n : Nat) (p : List (Nat × List Byte)) : (headerBytes h t n p).length = 0x400 := by
  simp only [headerBytes, List.length_append, padTo_length]

/-- An unsealed record has the length that its header states. -/
theorem recordBytes_length (t : Tile) (h : CtxHead) (b : List Byte) (bs : List (List Byte)) :
    (recordBytes t h none (b :: bs)).length = recordLength (placeSections 0x400 (b :: bs)) := by
  have := le_lastEnd 0x400 b.length (bs.map List.length)
  simp only [recordBytes, List.length_append, headerBytes_length, List.length_replicate]
  rw [bodyBytes_place 0x400 0x400 b bs (Nat.le_refl _), recordLength_place]
  omega

end Sys2Proof.Machine
end

