-- ==== Sys2Proof/Laws/State.lean ====
section
/-!
SUPPORT. What every update of the state leaves alone, one lemma per field: no later proof unfolds a record update.
-/

namespace Sys2Proof.Machine

open Sys2Proof

/-! ### The tile in focus -/

@[simp] theorem onFocus_tile (f : Tile → Tile) (s : State) : (onFocus f s).tile = f s.tile := rfl
@[simp] theorem onFocus_tileNo (f : Tile → Tile) (s : State) : (onFocus f s).tileNo = s.tileNo := rfl
@[simp] theorem onFocus_others (f : Tile → Tile) (s : State) : (onFocus f s).others = s.others := rfl
@[simp] theorem onFocus_dev (f : Tile → Tile) (s : State) : (onFocus f s).dev = s.dev := rfl
@[simp] theorem onFocus_agenda (f : Tile → Tile) (s : State) : (onFocus f s).agenda = s.agenda := rfl
@[simp] theorem onFocus_draws (f : Tile → Tile) (s : State) : (onFocus f s).draws = s.draws := rfl

/-! ### The device -/

@[simp] theorem onDev_tile (f : Dev → Dev) (s : State) : (onDev f s).tile = s.tile := rfl
@[simp] theorem onDev_tileNo (f : Dev → Dev) (s : State) : (onDev f s).tileNo = s.tileNo := rfl
@[simp] theorem onDev_others (f : Dev → Dev) (s : State) : (onDev f s).others = s.others := rfl
@[simp] theorem onDev_dev (f : Dev → Dev) (s : State) : (onDev f s).dev = f s.dev := rfl
@[simp] theorem onDev_agenda (f : Dev → Dev) (s : State) : (onDev f s).agenda = s.agenda := rfl
@[simp] theorem onDev_draws (f : Dev → Dev) (s : State) : (onDev f s).draws = s.draws := rfl

/-! ### The sequencer of a tile -/

@[simp] theorem Tile.onSeq_owner (f : Seq → Seq) (t : Tile) : (t.onSeq f).owner = t.owner := rfl
@[simp] theorem Tile.onSeq_run (f : Seq → Seq) (t : Tile) : (t.onSeq f).run = t.run := rfl
@[simp] theorem Tile.onSeq_seq (f : Seq → Seq) (t : Tile) : (t.onSeq f).seq = f t.seq := rfl
@[simp] theorem Tile.onSeq_pad (f : Seq → Seq) (t : Tile) : (t.onSeq f).pad = t.pad := rfl
@[simp] theorem Tile.onSeq_accum (f : Seq → Seq) (t : Tile) : (t.onSeq f).accum = t.accum := rfl
@[simp] theorem Tile.onSeq_replies (f : Seq → Seq) (t : Tile) : (t.onSeq f).replies = t.replies := rfl
@[simp] theorem Tile.onSeq_chLoad (f : Seq → Seq) (t : Tile) : (t.onSeq f).chLoad = t.chLoad := rfl
@[simp] theorem Tile.onSeq_chStore (f : Seq → Seq) (t : Tile) : (t.onSeq f).chStore = t.chStore := rfl
@[simp] theorem Tile.onSeq_chAcc (f : Seq → Seq) (t : Tile) : (t.onSeq f).chAcc = t.chAcc := rfl
@[simp] theorem Tile.onSeq_qLoad (f : Seq → Seq) (t : Tile) : (t.onSeq f).qLoad = t.qLoad := rfl
@[simp] theorem Tile.onSeq_qStore (f : Seq → Seq) (t : Tile) : (t.onSeq f).qStore = t.qStore := rfl
@[simp] theorem Tile.onSeq_qMatrix (f : Seq → Seq) (t : Tile) : (t.onSeq f).qMatrix = t.qMatrix := rfl
@[simp] theorem Tile.onSeq_qFibre (f : Seq → Seq) (t : Tile) : (t.onSeq f).qFibre = t.qFibre := rfl
@[simp] theorem Tile.onSeq_issued (f : Seq → Seq) (t : Tile) : (t.onSeq f).issued = t.issued := rfl
@[simp] theorem Tile.onSeq_flight (f : Seq → Seq) (t : Tile) : (t.onSeq f).flight = t.flight := rfl
@[simp] theorem Tile.onSeq_window (f : Seq → Seq) (t : Tile) : (t.onSeq f).window = t.window := rfl
@[simp] theorem Tile.onSeq_rings (f : Seq → Seq) (t : Tile) : (t.onSeq f).rings = t.rings := rfl
@[simp] theorem Tile.onSeq_ports (f : Seq → Seq) (t : Tile) : (t.onSeq f).ports = t.ports := rfl
@[simp] theorem Tile.onSeq_accSeq (f : Seq → Seq) (t : Tile) : (t.onSeq f).accSeq = t.accSeq := rfl
@[simp] theorem Tile.onSeq_collCounts (f : Seq → Seq) (t : Tile) : (t.onSeq f).collCounts = t.collCounts := rfl
@[simp] theorem Tile.onSeq_collGain (f : Seq → Seq) (t : Tile) : (t.onSeq f).collGain = t.collGain := rfl
@[simp] theorem Tile.onSeq_fibre (f : Seq → Seq) (t : Tile) : (t.onSeq f).fibre = t.fibre := rfl
@[simp] theorem Tile.onSeq_folio (f : Seq → Seq) (t : Tile) : (t.onSeq f).folio = t.folio := rfl
@[simp] theorem Tile.onSeq_folioStale (f : Seq → Seq) (t : Tile) : (t.onSeq f).folioStale = t.folioStale := rfl
@[simp] theorem Tile.onSeq_ord (f : Seq → Seq) (t : Tile) : (t.onSeq f).ord = t.ord := rfl
@[simp] theorem Tile.onSeq_barStage (f : Seq → Seq) (t : Tile) : (t.onSeq f).barStage = t.barStage := rfl
@[simp] theorem Tile.onSeq_fresh (f : Seq → Seq) (t : Tile) : (t.onSeq f).fresh = t.fresh := rfl
@[simp] theorem Tile.onSeq_yieldReq (f : Seq → Seq) (t : Tile) : (t.onSeq f).yieldReq = t.yieldReq := rfl
@[simp] theorem Tile.onSeq_sincePost (f : Seq → Seq) (t : Tile) : (t.onSeq f).sincePost = t.sincePost := rfl
@[simp] theorem Tile.onSeq_async (f : Seq → Seq) (t : Tile) : (t.onSeq f).async = t.async := rfl
@[simp] theorem Tile.onSeq_notice (f : Seq → Seq) (t : Tile) : (t.onSeq f).notice = t.notice := rfl
@[simp] theorem Tile.onSeq_unreported (f : Seq → Seq) (t : Tile) : (t.onSeq f).unreported = t.unreported := rfl
@[simp] theorem Tile.onSeq_atStop (f : Seq → Seq) (t : Tile) : (t.onSeq f).atStop = t.atStop := rfl
@[simp] theorem Tile.onSeq_codec (f : Seq → Seq) (t : Tile) : (t.onSeq f).codec = t.codec := rfl
@[simp] theorem Tile.onSeq_pendingReads (f : Seq → Seq) (t : Tile) : (t.onSeq f).pendingReads = t.pendingReads := rfl
@[simp] theorem Tile.onSeq_net (f : Seq → Seq) (t : Tile) : (t.onSeq f).net = t.net := rfl

/-! ### Records of the device -/

@[simp] theorem onTask_tile (q r : Nat) (f : Task → Task) (s : State) : (onTask q r f s).tile = s.tile := rfl
@[simp] theorem onTask_tileNo (q r : Nat) (f : Task → Task) (s : State) : (onTask q r f s).tileNo = s.tileNo := rfl
@[simp] theorem onTask_others (q r : Nat) (f : Task → Task) (s : State) : (onTask q r f s).others = s.others := rfl
@[simp] theorem onTask_agenda (q r : Nat) (f : Task → Task) (s : State) : (onTask q r f s).agenda = s.agenda := rfl
@[simp] theorem onTask_draws (q r : Nat) (f : Task → Task) (s : State) : (onTask q r f s).draws = s.draws := rfl
@[simp] theorem onTask_mem (q r : Nat) (f : Task → Task) (s : State) : (onTask q r f s).dev.mem = s.dev.mem := rfl
@[simp] theorem onTask_host (q r : Nat) (f : Task → Task) (s : State) : (onTask q r f s).dev.host = s.dev.host := rfl
@[simp] theorem onTask_gangs (q r : Nat) (f : Task → Task) (s : State) : (onTask q r f s).dev.gangs = s.dev.gangs := rfl
@[simp] theorem onTask_queues (q r : Nat) (f : Task → Task) (s : State) : (onTask q r f s).dev.queues = s.dev.queues := rfl
@[simp] theorem onTask_regions (q r : Nat) (f : Task → Task) (s : State) : (onTask q r f s).dev.regions = s.dev.regions := rfl
@[simp] theorem onTask_fns (q r : Nat) (f : Task → Task) (s : State) : (onTask q r f s).dev.fns = s.dev.fns := rfl
@[simp] theorem onTask_clocks (q r : Nat) (f : Task → Task) (s : State) : (onTask q r f s).dev.clocks = s.dev.clocks := rfl
@[simp] theorem onTask_telemetry (q r : Nat) (f : Task → Task) (s : State) : (onTask q r f s).dev.telemetry = s.dev.telemetry := rfl
@[simp] theorem onTask_marks (q r : Nat) (f : Task → Task) (s : State) : (onTask q r f s).dev.marks = s.dev.marks := rfl
@[simp] theorem onTask_consts (q r : Nat) (f : Task → Task) (s : State) : (onTask q r f s).dev.consts = s.dev.consts := rfl
@[simp] theorem onTask_syncs (q r : Nat) (f : Task → Task) (s : State) : (onTask q r f s).dev.syncs = s.dev.syncs := rfl
@[simp] theorem onTask_tlb (q r : Nat) (f : Task → Task) (s : State) : (onTask q r f s).dev.tlb = s.dev.tlb := rfl
@[simp] theorem onTask_requests (q r : Nat) (f : Task → Task) (s : State) : (onTask q r f s).dev.requests = s.dev.requests := rfl
@[simp] theorem onTask_router (q r : Nat) (f : Task → Task) (s : State) : (onTask q r f s).dev.router = s.dev.router := rfl
@[simp] theorem onTask_ncycle (q r : Nat) (f : Task → Task) (s : State) : (onTask q r f s).dev.ncycle = s.dev.ncycle := rfl
@[simp] theorem onTask_folios (q r : Nat) (f : Task → Task) (s : State) : (onTask q r f s).dev.folios = s.dev.folios := rfl
@[simp] theorem onTask_pages (q r : Nat) (f : Task → Task) (s : State) : (onTask q r f s).dev.pages = s.dev.pages := rfl
@[simp] theorem onTask_contexts (q r : Nat) (f : Task → Task) (s : State) : (onTask q r f s).dev.contexts = s.dev.contexts := rfl
@[simp] theorem onTask_saved (q r : Nat) (f : Task → Task) (s : State) : (onTask q r f s).dev.saved = s.dev.saved := rfl
@[simp] theorem onTask_store (q r : Nat) (f : Task → Task) (s : State) : (onTask q r f s).dev.store = s.dev.store := rfl
@[simp] theorem onTask_published (q r : Nat) (f : Task → Task) (s : State) : (onTask q r f s).dev.published = s.dev.published := rfl

@[simp] theorem onGang_tile (q r g : Nat) (f : Gang → Gang) (s : State) : (onGang q r g f s).tile = s.tile := rfl
@[simp] theorem onGang_tileNo (q r g : Nat) (f : Gang → Gang) (s : State) : (onGang q r g f s).tileNo = s.tileNo := rfl
@[simp] theorem onGang_others (q r g : Nat) (f : Gang → Gang) (s : State) : (onGang q r g f s).others = s.others := rfl
@[simp] theorem onGang_agenda (q r g : Nat) (f : Gang → Gang) (s : State) : (onGang q r g f s).agenda = s.agenda := rfl
@[simp] theorem onGang_draws (q r g : Nat) (f : Gang → Gang) (s : State) : (onGang q r g f s).draws = s.draws := rfl
@[simp] theorem onGang_mem (q r g : Nat) (f : Gang → Gang) (s : State) : (onGang q r g f s).dev.mem = s.dev.mem := rfl
@[simp] theorem onGang_host (q r g : Nat) (f : Gang → Gang) (s : State) : (onGang q r g f s).dev.host = s.dev.host := rfl
@[simp] theorem onGang_tasks (q r g : Nat) (f : Gang → Gang) (s : State) : (onGang q r g f s).dev.tasks = s.dev.tasks := rfl
@[simp] theorem onGang_queues (q r g : Nat) (f : Gang → Gang) (s : State) : (onGang q r g f s).dev.queues = s.dev.queues := rfl
@[simp] theorem onGang_regions (q r g : Nat) (f : Gang → Gang) (s : State) : (onGang q r g f s).dev.regions = s.dev.regions := rfl
@[simp] theorem onGang_fns (q r g : Nat) (f : Gang → Gang) (s : State) : (onGang q r g f s).dev.fns = s.dev.fns := rfl
@[simp] theorem onGang_clocks (q r g : Nat) (f : Gang → Gang) (s : State) : (onGang q r g f s).dev.clocks = s.dev.clocks := rfl
@[simp] theorem onGang_telemetry (q r g : Nat) (f : Gang → Gang) (s : State) : (onGang q r g f s).dev.telemetry = s.dev.telemetry := rfl
@[simp] theorem onGang_marks (q r g : Nat) (f : Gang → Gang) (s : State) : (onGang q r g f s).dev.marks = s.dev.marks := rfl
@[simp] theorem onGang_consts (q r g : Nat) (f : Gang → Gang) (s : State) : (onGang q r g f s).dev.consts = s.dev.consts := rfl
@[simp] theorem onGang_syncs (q r g : Nat) (f : Gang → Gang) (s : State) : (onGang q r g f s).dev.syncs = s.dev.syncs := rfl
@[simp] theorem onGang_tlb (q r g : Nat) (f : Gang → Gang) (s : State) : (onGang q r g f s).dev.tlb = s.dev.tlb := rfl
@[simp] theorem onGang_requests (q r g : Nat) (f : Gang → Gang) (s : State) : (onGang q r g f s).dev.requests = s.dev.requests := rfl
@[simp] theorem onGang_router (q r g : Nat) (f : Gang → Gang) (s : State) : (onGang q r g f s).dev.router = s.dev.router := rfl
@[simp] theorem onGang_ncycle (q r g : Nat) (f : Gang → Gang) (s : State) : (onGang q r g f s).dev.ncycle = s.dev.ncycle := rfl
@[simp] theorem onGang_folios (q r g : Nat) (f : Gang → Gang) (s : State) : (onGang q r g f s).dev.folios = s.dev.folios := rfl
@[simp] theorem onGang_pages (q r g : Nat) (f : Gang → Gang) (s : State) : (onGang q r g f s).dev.pages = s.dev.pages := rfl
@[simp] theorem onGang_contexts (q r g : Nat) (f : Gang → Gang) (s : State) : (onGang q r g f s).dev.contexts = s.dev.contexts := rfl
@[simp] theorem onGang_saved (q r g : Nat) (f : Gang → Gang) (s : State) : (onGang q r g f s).dev.saved = s.dev.saved := rfl
@[simp] theorem onGang_store (q r g : Nat) (f : Gang → Gang) (s : State) : (onGang q r g f s).dev.store = s.dev.store := rfl
@[simp] theorem onGang_published (q r g : Nat) (f : Gang → Gang) (s : State) : (onGang q r g f s).dev.published = s.dev.published := rfl

@[simp] theorem onQueue_tile (q : Nat) (f : Queue → Queue) (s : State) : (onQueue q f s).tile = s.tile := rfl
@[simp] theorem onQueue_tileNo (q : Nat) (f : Queue → Queue) (s : State) : (onQueue q f s).tileNo = s.tileNo := rfl
@[simp] theorem onQueue_others (q : Nat) (f : Queue → Queue) (s : State) : (onQueue q f s).others = s.others := rfl
@[simp] theorem onQueue_agenda (q : Nat) (f : Queue → Queue) (s : State) : (onQueue q f s).agenda = s.agenda := rfl
@[simp] theorem onQueue_draws (q : Nat) (f : Queue → Queue) (s : State) : (onQueue q f s).draws = s.draws := rfl
@[simp] theorem onQueue_mem (q : Nat) (f : Queue → Queue) (s : State) : (onQueue q f s).dev.mem = s.dev.mem := rfl
@[simp] theorem onQueue_host (q : Nat) (f : Queue → Queue) (s : State) : (onQueue q f s).dev.host = s.dev.host := rfl
@[simp] theorem onQueue_tasks (q : Nat) (f : Queue → Queue) (s : State) : (onQueue q f s).dev.tasks = s.dev.tasks := rfl
@[simp] theorem onQueue_gangs (q : Nat) (f : Queue → Queue) (s : State) : (onQueue q f s).dev.gangs = s.dev.gangs := rfl
@[simp] theorem onQueue_regions (q : Nat) (f : Queue → Queue) (s : State) : (onQueue q f s).dev.regions = s.dev.regions := rfl
@[simp] theorem onQueue_fns (q : Nat) (f : Queue → Queue) (s : State) : (onQueue q f s).dev.fns = s.dev.fns := rfl
@[simp] theorem onQueue_clocks (q : Nat) (f : Queue → Queue) (s : State) : (onQueue q f s).dev.clocks = s.dev.clocks := rfl
@[simp] theorem onQueue_telemetry (q : Nat) (f : Queue → Queue) (s : State) : (onQueue q f s).dev.telemetry = s.dev.telemetry := rfl
@[simp] theorem onQueue_marks (q : Nat) (f : Queue → Queue) (s : State) : (onQueue q f s).dev.marks = s.dev.marks := rfl
@[simp] theorem onQueue_consts (q : Nat) (f : Queue → Queue) (s : State) : (onQueue q f s).dev.consts = s.dev.consts := rfl
@[simp] theorem onQueue_syncs (q : Nat) (f : Queue → Queue) (s : State) : (onQueue q f s).dev.syncs = s.dev.syncs := rfl
@[simp] theorem onQueue_tlb (q : Nat) (f : Queue → Queue) (s : State) : (onQueue q f s).dev.tlb = s.dev.tlb := rfl
@[simp] theorem onQueue_requests (q : Nat) (f : Queue → Queue) (s : State) : (onQueue q f s).dev.requests = s.dev.requests := rfl
@[simp] theorem onQueue_router (q : Nat) (f : Queue → Queue) (s : State) : (onQueue q f s).dev.router = s.dev.router := rfl
@[simp] theorem onQueue_ncycle (q : Nat) (f : Queue → Queue) (s : State) : (onQueue q f s).dev.ncycle = s.dev.ncycle := rfl
@[simp] theorem onQueue_folios (q : Nat) (f : Queue → Queue) (s : State) : (onQueue q f s).dev.folios = s.dev.folios := rfl
@[simp] theorem onQueue_pages (q : Nat) (f : Queue → Queue) (s : State) : (onQueue q f s).dev.pages = s.dev.pages := rfl
@[simp] theorem onQueue_contexts (q : Nat) (f : Queue → Queue) (s : State) : (onQueue q f s).dev.contexts = s.dev.contexts := rfl
@[simp] theorem onQueue_saved (q : Nat) (f : Queue → Queue) (s : State) : (onQueue q f s).dev.saved = s.dev.saved := rfl
@[simp] theorem onQueue_store (q : Nat) (f : Queue → Queue) (s : State) : (onQueue q f s).dev.store = s.dev.store := rfl
@[simp] theorem onQueue_published (q : Nat) (f : Queue → Queue) (s : State) : (onQueue q f s).dev.published = s.dev.published := rfl

@[simp] theorem onRegion_tile (r : Nat) (f : Region → Region) (s : State) : (onRegion r f s).tile = s.tile := rfl
@[simp] theorem onRegion_tileNo (r : Nat) (f : Region → Region) (s : State) : (onRegion r f s).tileNo = s.tileNo := rfl
@[simp] theorem onRegion_others (r : Nat) (f : Region → Region) (s : State) : (onRegion r f s).others = s.others := rfl
@[simp] theorem onRegion_agenda (r : Nat) (f : Region → Region) (s : State) : (onRegion r f s).agenda = s.agenda := rfl
@[simp] theorem onRegion_draws (r : Nat) (f : Region → Region) (s : State) : (onRegion r f s).draws = s.draws := rfl
@[simp] theorem onRegion_mem (r : Nat) (f : Region → Region) (s : State) : (onRegion r f s).dev.mem = s.dev.mem := rfl
@[simp] theorem onRegion_host (r : Nat) (f : Region → Region) (s : State) : (onRegion r f s).dev.host = s.dev.host := rfl
@[simp] theorem onRegion_tasks (r : Nat) (f : Region → Region) (s : State) : (onRegion r f s).dev.tasks = s.dev.tasks := rfl
@[simp] theorem onRegion_gangs (r : Nat) (f : Region → Region) (s : State) : (onRegion r f s).dev.gangs = s.dev.gangs := rfl
@[simp] theorem onRegion_queues (r : Nat) (f : Region → Region) (s : State) : (onRegion r f s).dev.queues = s.dev.queues := rfl
@[simp] theorem onRegion_fns (r : Nat) (f : Region → Region) (s : State) : (onRegion r f s).dev.fns = s.dev.fns := rfl
@[simp] theorem onRegion_clocks (r : Nat) (f : Region → Region) (s : State) : (onRegion r f s).dev.clocks = s.dev.clocks := rfl
@[simp] theorem onRegion_telemetry (r : Nat) (f : Region → Region) (s : State) : (onRegion r f s).dev.telemetry = s.dev.telemetry := rfl
@[simp] theorem onRegion_marks (r : Nat) (f : Region → Region) (s : State) : (onRegion r f s).dev.marks = s.dev.marks := rfl
@[simp] theorem onRegion_consts (r : Nat) (f : Region → Region) (s : State) : (onRegion r f s).dev.consts = s.dev.consts := rfl
@[simp] theorem onRegion_syncs (r : Nat) (f : Region → Region) (s : State) : (onRegion r f s).dev.syncs = s.dev.syncs := rfl
@[simp] theorem onRegion_tlb (r : Nat) (f : Region → Region) (s : State) : (onRegion r f s).dev.tlb = s.dev.tlb := rfl
@[simp] theorem onRegion_requests (r : Nat) (f : Region → Region) (s : State) : (onRegion r f s).dev.requests = s.dev.requests := rfl
@[simp] theorem onRegion_router (r : Nat) (f : Region → Region) (s : State) : (onRegion r f s).dev.router = s.dev.router := rfl
@[simp] theorem onRegion_ncycle (r : Nat) (f : Region → Region) (s : State) : (onRegion r f s).dev.ncycle = s.dev.ncycle := rfl
@[simp] theorem onRegion_folios (r : Nat) (f : Region → Region) (s : State) : (onRegion r f s).dev.folios = s.dev.folios := rfl
@[simp] theorem onRegion_pages (r : Nat) (f : Region → Region) (s : State) : (onRegion r f s).dev.pages = s.dev.pages := rfl
@[simp] theorem onRegion_contexts (r : Nat) (f : Region → Region) (s : State) : (onRegion r f s).dev.contexts = s.dev.contexts := rfl
@[simp] theorem onRegion_saved (r : Nat) (f : Region → Region) (s : State) : (onRegion r f s).dev.saved = s.dev.saved := rfl
@[simp] theorem onRegion_store (r : Nat) (f : Region → Region) (s : State) : (onRegion r f s).dev.store = s.dev.store := rfl
@[simp] theorem onRegion_published (r : Nat) (f : Region → Region) (s : State) : (onRegion r f s).dev.published = s.dev.published := rfl

@[simp] theorem onFn_tile (n : Nat) (f : FnRegs → FnRegs) (s : State) : (onFn n f s).tile = s.tile := rfl
@[simp] theorem onFn_tileNo (n : Nat) (f : FnRegs → FnRegs) (s : State) : (onFn n f s).tileNo = s.tileNo := rfl
@[simp] theorem onFn_others (n : Nat) (f : FnRegs → FnRegs) (s : State) : (onFn n f s).others = s.others := rfl
@[simp] theorem onFn_agenda (n : Nat) (f : FnRegs → FnRegs) (s : State) : (onFn n f s).agenda = s.agenda := rfl
@[simp] theorem onFn_draws (n : Nat) (f : FnRegs → FnRegs) (s : State) : (onFn n f s).draws = s.draws := rfl
@[simp] theorem onFn_mem (n : Nat) (f : FnRegs → FnRegs) (s : State) : (onFn n f s).dev.mem = s.dev.mem := rfl
@[simp] theorem onFn_host (n : Nat) (f : FnRegs → FnRegs) (s : State) : (onFn n f s).dev.host = s.dev.host := rfl
@[simp] theorem onFn_tasks (n : Nat) (f : FnRegs → FnRegs) (s : State) : (onFn n f s).dev.tasks = s.dev.tasks := rfl
@[simp] theorem onFn_gangs (n : Nat) (f : FnRegs → FnRegs) (s : State) : (onFn n f s).dev.gangs = s.dev.gangs := rfl
@[simp] theorem onFn_queues (n : Nat) (f : FnRegs → FnRegs) (s : State) : (onFn n f s).dev.queues = s.dev.queues := rfl
@[simp] theorem onFn_regions (n : Nat) (f : FnRegs → FnRegs) (s : State) : (onFn n f s).dev.regions = s.dev.regions := rfl
@[simp] theorem onFn_clocks (n : Nat) (f : FnRegs → FnRegs) (s : State) : (onFn n f s).dev.clocks = s.dev.clocks := rfl
@[simp] theorem onFn_telemetry (n : Nat) (f : FnRegs → FnRegs) (s : State) : (onFn n f s).dev.telemetry = s.dev.telemetry := rfl
@[simp] theorem onFn_marks (n : Nat) (f : FnRegs → FnRegs) (s : State) : (onFn n f s).dev.marks = s.dev.marks := rfl
@[simp] theorem onFn_consts (n : Nat) (f : FnRegs → FnRegs) (s : State) : (onFn n f s).dev.consts = s.dev.consts := rfl
@[simp] theorem onFn_syncs (n : Nat) (f : FnRegs → FnRegs) (s : State) : (onFn n f s).dev.syncs = s.dev.syncs := rfl
@[simp] theorem onFn_tlb (n : Nat) (f : FnRegs → FnRegs) (s : State) : (onFn n f s).dev.tlb = s.dev.tlb := rfl
@[simp] theorem onFn_requests (n : Nat) (f : FnRegs → FnRegs) (s : State) : (onFn n f s).dev.requests = s.dev.requests := rfl
@[simp] theorem onFn_router (n : Nat) (f : FnRegs → FnRegs) (s : State) : (onFn n f s).dev.router = s.dev.router := rfl
@[simp] theorem onFn_ncycle (n : Nat) (f : FnRegs → FnRegs) (s : State) : (onFn n f s).dev.ncycle = s.dev.ncycle := rfl
@[simp] theorem onFn_folios (n : Nat) (f : FnRegs → FnRegs) (s : State) : (onFn n f s).dev.folios = s.dev.folios := rfl
@[simp] theorem onFn_pages (n : Nat) (f : FnRegs → FnRegs) (s : State) : (onFn n f s).dev.pages = s.dev.pages := rfl
@[simp] theorem onFn_contexts (n : Nat) (f : FnRegs → FnRegs) (s : State) : (onFn n f s).dev.contexts = s.dev.contexts := rfl
@[simp] theorem onFn_saved (n : Nat) (f : FnRegs → FnRegs) (s : State) : (onFn n f s).dev.saved = s.dev.saved := rfl
@[simp] theorem onFn_store (n : Nat) (f : FnRegs → FnRegs) (s : State) : (onFn n f s).dev.store = s.dev.store := rfl
@[simp] theorem onFn_published (n : Nat) (f : FnRegs → FnRegs) (s : State) : (onFn n f s).dev.published = s.dev.published := rfl

@[simp] theorem onClock_tile (c : Nat) (f : ClockRegs → ClockRegs) (s : State) : (onClock c f s).tile = s.tile := rfl
@[simp] theorem onClock_tileNo (c : Nat) (f : ClockRegs → ClockRegs) (s : State) : (onClock c f s).tileNo = s.tileNo := rfl
@[simp] theorem onClock_others (c : Nat) (f : ClockRegs → ClockRegs) (s : State) : (onClock c f s).others = s.others := rfl
@[simp] theorem onClock_agenda (c : Nat) (f : ClockRegs → ClockRegs) (s : State) : (onClock c f s).agenda = s.agenda := rfl
@[simp] theorem onClock_draws (c : Nat) (f : ClockRegs → ClockRegs) (s : State) : (onClock c f s).draws = s.draws := rfl
@[simp] theorem onClock_mem (c : Nat) (f : ClockRegs → ClockRegs) (s : State) : (onClock c f s).dev.mem = s.dev.mem := rfl
@[simp] theorem onClock_host (c : Nat) (f : ClockRegs → ClockRegs) (s : State) : (onClock c f s).dev.host = s.dev.host := rfl
@[simp] theorem onClock_tasks (c : Nat) (f : ClockRegs → ClockRegs) (s : State) : (onClock c f s).dev.tasks = s.dev.tasks := rfl
@[simp] theorem onClock_gangs (c : Nat) (f : ClockRegs → ClockRegs) (s : State) : (onClock c f s).dev.gangs = s.dev.gangs := rfl
@[simp] theorem onClock_queues (c : Nat) (f : ClockRegs → ClockRegs) (s : State) : (onClock c f s).dev.queues = s.dev.queues := rfl
@[simp] theorem onClock_regions (c : Nat) (f : ClockRegs → ClockRegs) (s : State) : (onClock c f s).dev.regions = s.dev.regions := rfl
@[simp] theorem onClock_fns (c : Nat) (f : ClockRegs → ClockRegs) (s : State) : (onClock c f s).dev.fns = s.dev.fns := rfl
@[simp] theorem onClock_telemetry (c : Nat) (f : ClockRegs → ClockRegs) (s : State) : (onClock c f s).dev.telemetry = s.dev.telemetry := rfl
@[simp] theorem onClock_marks (c : Nat) (f : ClockRegs → ClockRegs) (s : State) : (onClock c f s).dev.marks = s.dev.marks := rfl
@[simp] theorem onClock_consts (c : Nat) (f : ClockRegs → ClockRegs) (s : State) : (onClock c f s).dev.consts = s.dev.consts := rfl
@[simp] theorem onClock_syncs (c : Nat) (f : ClockRegs → ClockRegs) (s : State) : (onClock c f s).dev.syncs = s.dev.syncs := rfl
@[simp] theorem onClock_tlb (c : Nat) (f : ClockRegs → ClockRegs) (s : State) : (onClock c f s).dev.tlb = s.dev.tlb := rfl
@[simp] theorem onClock_requests (c : Nat) (f : ClockRegs → ClockRegs) (s : State) : (onClock c f s).dev.requests = s.dev.requests := rfl
@[simp] theorem onClock_router (c : Nat) (f : ClockRegs → ClockRegs) (s : State) : (onClock c f s).dev.router = s.dev.router := rfl
@[simp] theorem onClock_ncycle (c : Nat) (f : ClockRegs → ClockRegs) (s : State) : (onClock c f s).dev.ncycle = s.dev.ncycle := rfl
@[simp] theorem onClock_folios (c : Nat) (f : ClockRegs → ClockRegs) (s : State) : (onClock c f s).dev.folios = s.dev.folios := rfl
@[simp] theorem onClock_pages (c : Nat) (f : ClockRegs → ClockRegs) (s : State) : (onClock c f s).dev.pages = s.dev.pages := rfl
@[simp] theorem onClock_contexts (c : Nat) (f : ClockRegs → ClockRegs) (s : State) : (onClock c f s).dev.contexts = s.dev.contexts := rfl
@[simp] theorem onClock_saved (c : Nat) (f : ClockRegs → ClockRegs) (s : State) : (onClock c f s).dev.saved = s.dev.saved := rfl
@[simp] theorem onClock_store (c : Nat) (f : ClockRegs → ClockRegs) (s : State) : (onClock c f s).dev.store = s.dev.store := rfl
@[simp] theorem onClock_published (c : Nat) (f : ClockRegs → ClockRegs) (s : State) : (onClock c f s).dev.published = s.dev.published := rfl

@[simp] theorem onTelemetry_tile (n : Nat) (f : Telemetry → Telemetry) (s : State) : (onTelemetry n f s).tile = s.tile := rfl
@[simp] theorem onTelemetry_tileNo (n : Nat) (f : Telemetry → Telemetry) (s : State) : (onTelemetry n f s).tileNo = s.tileNo := rfl
@[simp] theorem onTelemetry_others (n : Nat) (f : Telemetry → Telemetry) (s : State) : (onTelemetry n f s).others = s.others := rfl
@[simp] theorem onTelemetry_agenda (n : Nat) (f : Telemetry → Telemetry) (s : State) : (onTelemetry n f s).agenda = s.agenda := rfl
@[simp] theorem onTelemetry_draws (n : Nat) (f : Telemetry → Telemetry) (s : State) : (onTelemetry n f s).draws = s.draws := rfl
@[simp] theorem onTelemetry_mem (n : Nat) (f : Telemetry → Telemetry) (s : State) : (onTelemetry n f s).dev.mem = s.dev.mem := rfl
@[simp] theorem onTelemetry_host (n : Nat) (f : Telemetry → Telemetry) (s : State) : (onTelemetry n f s).dev.host = s.dev.host := rfl
@[simp] theorem onTelemetry_tasks (n : Nat) (f : Telemetry → Telemetry) (s : State) : (onTelemetry n f s).dev.tasks = s.dev.tasks := rfl
@[simp] theorem onTelemetry_gangs (n : Nat) (f : Telemetry → Telemetry) (s : State) : (onTelemetry n f s).dev.gangs = s.dev.gangs := rfl
@[simp] theorem onTelemetry_queues (n : Nat) (f : Telemetry → Telemetry) (s : State) : (onTelemetry n f s).dev.queues = s.dev.queues := rfl
@[simp] theorem onTelemetry_regions (n : Nat) (f : Telemetry → Telemetry) (s : State) : (onTelemetry n f s).dev.regions = s.dev.regions := rfl
@[simp] theorem onTelemetry_fns (n : Nat) (f : Telemetry → Telemetry) (s : State) : (onTelemetry n f s).dev.fns = s.dev.fns := rfl
@[simp] theorem onTelemetry_clocks (n : Nat) (f : Telemetry → Telemetry) (s : State) : (onTelemetry n f s).dev.clocks = s.dev.clocks := rfl
@[simp] theorem onTelemetry_marks (n : Nat) (f : Telemetry → Telemetry) (s : State) : (onTelemetry n f s).dev.marks = s.dev.marks := rfl
@[simp] theorem onTelemetry_consts (n : Nat) (f : Telemetry → Telemetry) (s : State) : (onTelemetry n f s).dev.consts = s.dev.consts := rfl
@[simp] theorem onTelemetry_syncs (n : Nat) (f : Telemetry → Telemetry) (s : State) : (onTelemetry n f s).dev.syncs = s.dev.syncs := rfl
@[simp] theorem onTelemetry_tlb (n : Nat) (f : Telemetry → Telemetry) (s : State) : (onTelemetry n f s).dev.tlb = s.dev.tlb := rfl
@[simp] theorem onTelemetry_requests (n : Nat) (f : Telemetry → Telemetry) (s : State) : (onTelemetry n f s).dev.requests = s.dev.requests := rfl
@[simp] theorem onTelemetry_router (n : Nat) (f : Telemetry → Telemetry) (s : State) : (onTelemetry n f s).dev.router = s.dev.router := rfl
@[simp] theorem onTelemetry_ncycle (n : Nat) (f : Telemetry → Telemetry) (s : State) : (onTelemetry n f s).dev.ncycle = s.dev.ncycle := rfl
@[simp] theorem onTelemetry_folios (n : Nat) (f : Telemetry → Telemetry) (s : State) : (onTelemetry n f s).dev.folios = s.dev.folios := rfl
@[simp] theorem onTelemetry_pages (n : Nat) (f : Telemetry → Telemetry) (s : State) : (onTelemetry n f s).dev.pages = s.dev.pages := rfl
@[simp] theorem onTelemetry_contexts (n : Nat) (f : Telemetry → Telemetry) (s : State) : (onTelemetry n f s).dev.contexts = s.dev.contexts := rfl
@[simp] theorem onTelemetry_saved (n : Nat) (f : Telemetry → Telemetry) (s : State) : (onTelemetry n f s).dev.saved = s.dev.saved := rfl
@[simp] theorem onTelemetry_store (n : Nat) (f : Telemetry → Telemetry) (s : State) : (onTelemetry n f s).dev.store = s.dev.store := rfl
@[simp] theorem onTelemetry_published (n : Nat) (f : Telemetry → Telemetry) (s : State) : (onTelemetry n f s).dev.published = s.dev.published := rfl

@[simp] theorem signal_tile (fn vec : Nat) (s : State) : (signal fn vec s).tile = s.tile := rfl
@[simp] theorem signal_tileNo (fn vec : Nat) (s : State) : (signal fn vec s).tileNo = s.tileNo := rfl
@[simp] theorem signal_others (fn vec : Nat) (s : State) : (signal fn vec s).others = s.others := rfl
@[simp] theorem signal_agenda (fn vec : Nat) (s : State) : (signal fn vec s).agenda = s.agenda := rfl
@[simp] theorem signal_draws (fn vec : Nat) (s : State) : (signal fn vec s).draws = s.draws := rfl
@[simp] theorem signal_mem (fn vec : Nat) (s : State) : (signal fn vec s).dev.mem = s.dev.mem := rfl
@[simp] theorem signal_host (fn vec : Nat) (s : State) : (signal fn vec s).dev.host = s.dev.host := rfl
@[simp] theorem signal_tasks (fn vec : Nat) (s : State) : (signal fn vec s).dev.tasks = s.dev.tasks := rfl
@[simp] theorem signal_gangs (fn vec : Nat) (s : State) : (signal fn vec s).dev.gangs = s.dev.gangs := rfl
@[simp] theorem signal_queues (fn vec : Nat) (s : State) : (signal fn vec s).dev.queues = s.dev.queues := rfl
@[simp] theorem signal_regions (fn vec : Nat) (s : State) : (signal fn vec s).dev.regions = s.dev.regions := rfl
@[simp] theorem signal_fns (fn vec : Nat) (s : State) : (signal fn vec s).dev.fns = s.dev.fns := rfl
@[simp] theorem signal_clocks (fn vec : Nat) (s : State) : (signal fn vec s).dev.clocks = s.dev.clocks := rfl
@[simp] theorem signal_telemetry (fn vec : Nat) (s : State) : (signal fn vec s).dev.telemetry = s.dev.telemetry := rfl
@[simp] theorem signal_marks (fn vec : Nat) (s : State) : (signal fn vec s).dev.marks = s.dev.marks := rfl
@[simp] theorem signal_consts (fn vec : Nat) (s : State) : (signal fn vec s).dev.consts = s.dev.consts := rfl
@[simp] theorem signal_syncs (fn vec : Nat) (s : State) : (signal fn vec s).dev.syncs = s.dev.syncs := rfl
@[simp] theorem signal_tlb (fn vec : Nat) (s : State) : (signal fn vec s).dev.tlb = s.dev.tlb := rfl
@[simp] theorem signal_requests (fn vec : Nat) (s : State) : (signal fn vec s).dev.requests = s.dev.requests := rfl
@[simp] theorem signal_router (fn vec : Nat) (s : State) : (signal fn vec s).dev.router = s.dev.router := rfl
@[simp] theorem signal_ncycle (fn vec : Nat) (s : State) : (signal fn vec s).dev.ncycle = s.dev.ncycle := rfl
@[simp] theorem signal_folios (fn vec : Nat) (s : State) : (signal fn vec s).dev.folios = s.dev.folios := rfl
@[simp] theorem signal_pages (fn vec : Nat) (s : State) : (signal fn vec s).dev.pages = s.dev.pages := rfl
@[simp] theorem signal_contexts (fn vec : Nat) (s : State) : (signal fn vec s).dev.contexts = s.dev.contexts := rfl
@[simp] theorem signal_saved (fn vec : Nat) (s : State) : (signal fn vec s).dev.saved = s.dev.saved := rfl
@[simp] theorem signal_store (fn vec : Nat) (s : State) : (signal fn vec s).dev.store = s.dev.store := rfl
@[simp] theorem signal_published (fn vec : Nat) (s : State) : (signal fn vec s).dev.published = s.dev.published := rfl

/-! ### Registers -/

@[simp] theorem getS_zero (s : State) : getS s 0 = 0 := rfl

@[simp] theorem getP_zero (s : State) : getP s 0 = BitVec.allOnes 256 := rfl

@[simp] theorem setS_zero (x : Word) (s : State) : setS 0 x s = s := rfl

@[simp] theorem setP_zero (x : PredWord) (s : State) : setP 0 x s = s := rfl

@[simp] theorem getPc_setPc (x : Word) (s : State) : getPc (setPc x s) = x := rfl

@[simp] theorem getS_setPc (x : Word) (r : SReg) (s : State) : getS (setPc x s) r = getS s r := rfl

@[simp] theorem getV_setPc (x : Word) (r : VReg) (s : State) : getV (setPc x s) r = getV s r := rfl

@[simp] theorem getP_setPc (x : Word) (r : PReg) (s : State) : getP (setPc x s) r = getP s r := rfl

@[simp] theorem getPc_retire (s : State) : getPc (retire s) = getPc s := rfl

@[simp] theorem getS_retire (r : SReg) (s : State) : getS (retire s) r = getS s r := rfl

@[simp] theorem getV_retire (r : VReg) (s : State) : getV (retire s) r = getV s r := rfl

@[simp] theorem getP_retire (r : PReg) (s : State) : getP (retire s) r = getP s r := rfl

@[simp] theorem getPc_advance (s : State) : getPc (advance s) = getPc s + 8 := rfl

@[simp] theorem getS_advance (r : SReg) (s : State) : getS (advance s) r = getS s r := rfl

@[simp] theorem getV_advance (r : VReg) (s : State) : getV (advance s) r = getV s r := rfl

@[simp] theorem getP_advance (r : PReg) (s : State) : getP (advance s) r = getP s r := rfl

@[simp] theorem retire_tileNo (s : State) : (retire s).tileNo = s.tileNo := rfl
@[simp] theorem setPc_tileNo (x : Word) (s : State) : (setPc x s).tileNo = s.tileNo := rfl
@[simp] theorem advance_tileNo (s : State) : (advance s).tileNo = s.tileNo := rfl
@[simp] theorem setV_tileNo (r : VReg) (x : VecWord) (s : State) : (setV r x s).tileNo = s.tileNo := rfl
@[simp] theorem setS_tileNo (r : SReg) (x : Word) (s : State) : (setS r x s).tileNo = s.tileNo := by unfold setS; split <;> rfl
@[simp] theorem setP_tileNo (r : PReg) (x : PredWord) (s : State) : (setP r x s).tileNo = s.tileNo := by unfold setP; split <;> rfl
@[simp] theorem retire_others (s : State) : (retire s).others = s.others := rfl
@[simp] theorem setPc_others (x : Word) (s : State) : (setPc x s).others = s.others := rfl
@[simp] theorem advance_others (s : State) : (advance s).others = s.others := rfl
@[simp] theorem setV_others (r : VReg) (x : VecWord) (s : State) : (setV r x s).others = s.others := rfl
@[simp] theorem setS_others (r : SReg) (x : Word) (s : State) : (setS r x s).others = s.others := by unfold setS; split <;> rfl
@[simp] theorem setP_others (r : PReg) (x : PredWord) (s : State) : (setP r x s).others = s.others := by unfold setP; split <;> rfl
@[simp] theorem retire_dev (s : State) : (retire s).dev = s.dev := rfl
@[simp] theorem setPc_dev (x : Word) (s : State) : (setPc x s).dev = s.dev := rfl
@[simp] theorem advance_dev (s : State) : (advance s).dev = s.dev := rfl
@[simp] theorem setV_dev (r : VReg) (x : VecWord) (s : State) : (setV r x s).dev = s.dev := rfl
@[simp] theorem setS_dev (r : SReg) (x : Word) (s : State) : (setS r x s).dev = s.dev := by unfold setS; split <;> rfl
@[simp] theorem setP_dev (r : PReg) (x : PredWord) (s : State) : (setP r x s).dev = s.dev := by unfold setP; split <;> rfl
@[simp] theorem retire_agenda (s : State) : (retire s).agenda = s.agenda := rfl
@[simp] theorem setPc_agenda (x : Word) (s : State) : (setPc x s).agenda = s.agenda := rfl
@[simp] theorem advance_agenda (s : State) : (advance s).agenda = s.agenda := rfl
@[simp] theorem setV_agenda (r : VReg) (x : VecWord) (s : State) : (setV r x s).agenda = s.agenda := rfl
@[simp] theorem setS_agenda (r : SReg) (x : Word) (s : State) : (setS r x s).agenda = s.agenda := by unfold setS; split <;> rfl
@[simp] theorem setP_agenda (r : PReg) (x : PredWord) (s : State) : (setP r x s).agenda = s.agenda := by unfold setP; split <;> rfl
@[simp] theorem retire_draws (s : State) : (retire s).draws = s.draws := rfl
@[simp] theorem setPc_draws (x : Word) (s : State) : (setPc x s).draws = s.draws := rfl
@[simp] theorem advance_draws (s : State) : (advance s).draws = s.draws := rfl
@[simp] theorem setV_draws (r : VReg) (x : VecWord) (s : State) : (setV r x s).draws = s.draws := rfl
@[simp] theorem setS_draws (r : SReg) (x : Word) (s : State) : (setS r x s).draws = s.draws := by unfold setS; split <;> rfl
@[simp] theorem setP_draws (r : PReg) (x : PredWord) (s : State) : (setP r x s).draws = s.draws := by unfold setP; split <;> rfl

/-- A write of a scalar register is read back, but of S0. -/
theorem getS_setS (d r : SReg) (x : Word) (s : State) : getS (setS d x s) r = if r = d ∧ d ≠ 0 then x else getS s r := by
  unfold setS
  by_cases hd : d = 0
  · simp [hd]
  · by_cases hr : r = d
    · subst r
      simp [getS, hd]
    · have hv : (d : Nat) ≠ r := fun e => hr (Fin.ext e.symm)
      simp [getS, hd, hr, hv]

/-- A write of a vector register is read back. -/
theorem getV_setV (d r : VReg) (x : VecWord) (s : State) : getV (setV d x s) r = if r = d then x else getV s r := by
  by_cases hr : r = d
  · subst r
    simp [getV, setV]
  · have hv : (d : Nat) ≠ r := fun e => hr (Fin.ext e.symm)
    simp [getV, setV, hr, hv]

/-- A write of a predicate register is read back, but of P0. -/
theorem getP_setP (d r : PReg) (x : PredWord) (s : State) : getP (setP d x s) r = if r = d ∧ d ≠ 0 then x else getP s r := by
  unfold setP
  by_cases hd : d = 0
  · simp [hd]
  · by_cases hr : r = d
    · subst r
      simp [getP, hd]
    · have hv : (d : Nat) ≠ r := fun e => hr (Fin.ext e.symm)
      simp [getP, hd, hr, hv]

@[simp] theorem getV_setS (d : SReg) (r : VReg) (x : Word) (s : State) : getV (setS d x s) r = getV s r := by
  unfold setS; split <;> rfl

@[simp] theorem getP_setS (d : SReg) (r : PReg) (x : Word) (s : State) : getP (setS d x s) r = getP s r := by
  unfold setS; split <;> rfl

@[simp] theorem getPc_setS (d : SReg) (x : Word) (s : State) : getPc (setS d x s) = getPc s := by
  unfold setS; split <;> rfl

@[simp] theorem getS_setV (d : VReg) (r : SReg) (x : VecWord) (s : State) : getS (setV d x s) r = getS s r := rfl

@[simp] theorem getP_setV (d : VReg) (r : PReg) (x : VecWord) (s : State) : getP (setV d x s) r = getP s r := rfl

@[simp] theorem getPc_setV (d : VReg) (x : VecWord) (s : State) : getPc (setV d x s) = getPc s := rfl

@[simp] theorem getS_setP (d : PReg) (r : SReg) (x : PredWord) (s : State) : getS (setP d x s) r = getS s r := by
  unfold setP; split <;> rfl

@[simp] theorem getV_setP (d : PReg) (r : VReg) (x : PredWord) (s : State) : getV (setP d x s) r = getV s r := by
  unfold setP; split <;> rfl

@[simp] theorem getPc_setP (d : PReg) (x : PredWord) (s : State) : getPc (setP d x s) = getPc s := by
  unfold setP; split <;> rfl

end Sys2Proof.Machine
end

