-- ==== Sys2Proof/Laws/Lanes.lean ====
section
/-!
SUPPORT. Lanes of vector registers: what is read after some lanes have been written, and which lanes are active.
-/

namespace Sys2Proof.Machine

open Sys2Proof

theorem testBit_elem (v : VecWord) (i : Nat) (t : Fmt) (b : Nat) :
    (elem v i t).testBit b = (decide (b < t.bits) && v.getLsbD (i * t.bits + b)) := by
  rw [elem, BitVec.testBit_toNat, BitVec.getLsbD_extractLsb']

theorem elem_lt (v : VecWord) (i : Nat) (t : Fmt) : elem v i t < 2 ^ t.bits := (v.extractLsb' (i * t.bits) t.bits).isLt

theorem bits_pos (t : Fmt) : 0 < t.bits := by cases t <;> decide

theorem vlmax_mul (t : Fmt) : vlmax t * t.bits = 2048 := by cases t <;> decide

theorem getLsbD_setElem (v : VecWord) (i : Nat) (t : Fmt) (x k : Nat) (hk : k < 2048) :
    (setElem v i t x).getLsbD k =
      if i * t.bits ≤ k ∧ k < i * t.bits + t.bits then x.testBit (k - i * t.bits) else v.getLsbD k := by
  simp only [setElem, BitVec.getLsbD_or, BitVec.getLsbD_and, BitVec.getLsbD_not, BitVec.getLsbD_ofNat, hk,
    decide_true, Bool.true_and, Nat.testBit_mul_two_pow, Nat.testBit_two_pow_sub_one, Nat.testBit_mod_two_pow]
  by_cases h1 : i * t.bits ≤ k
  · by_cases h2 : k - i * t.bits < t.bits
    · have h3 : k < i * t.bits + t.bits := by omega
      simp [h1, h2, h3]
    · have h3 : ¬ k < i * t.bits + t.bits := by omega
      simp [h1, h2, h3]
  · simp [h1]

/-- One lane written is read back; the others keep. -/
theorem elem_setElem (v : VecWord) (i j : Nat) (t : Fmt) (x : Nat) (hj : j < vlmax t) :
    elem (setElem v i t x) j t = if j = i then x % 2 ^ t.bits else elem v j t := by
  have hm := vlmax_mul t
  have hle : (j + 1) * t.bits ≤ vlmax t * t.bits := Nat.mul_le_mul_right _ hj
  have hb := bits_pos t
  apply Nat.eq_of_testBit_eq
  intro b
  rw [testBit_elem]
  by_cases hbt : b < t.bits
  · have hk : j * t.bits + b < 2048 := by rw [Nat.succ_mul] at hle; omega
    rw [getLsbD_setElem _ _ _ _ _ hk]
    by_cases hji : j = i
    · subst j
      simp [hbt, Nat.testBit_mod_two_pow]
    · have hn : ¬ (i * t.bits ≤ j * t.bits + b ∧ j * t.bits + b < i * t.bits + t.bits) := by
        rintro ⟨h1, h2⟩
        rcases Nat.lt_or_gt_of_ne hji with h | h
        · have := Nat.mul_le_mul_right t.bits (Nat.succ_le_of_lt h)
          rw [Nat.succ_mul] at this
          omega
        · have := Nat.mul_le_mul_right t.bits (Nat.succ_le_of_lt h)
          rw [Nat.succ_mul] at this
          omega
      simp [hn, hji, testBit_elem]
  · by_cases hji : j = i
    · subst j
      simp [hbt, Nat.testBit_mod_two_pow]
    · simp [hbt, hji, testBit_elem]

/-- A lane that is not among those written keeps its contents. -/
theorem elem_setElems_ne (t : Fmt) (xs : List (Nat × Nat)) (v : VecWord) (j : Nat) (hj : j < vlmax t)
    (h : ∀ x ∈ xs, x.1 ≠ j) : elem (setElems v t xs) j t = elem v j t := by
  induction xs generalizing v with
  | nil => rfl
  | cons x xs ih =>
    show elem (setElems (setElem v x.1 t x.2) t xs) j t = _
    rw [ih _ fun y hy => h y (List.mem_cons_of_mem _ hy), elem_setElem _ _ _ _ _ hj,
      if_neg fun e => h x List.mem_cons_self e.symm]

/-- Of lanes written once each, every one is read back. -/
theorem elem_setElems_mem (t : Fmt) (xs : List (Nat × Nat)) (v : VecWord) (x : Nat × Nat) (hx : x ∈ xs)
    (hj : x.1 < vlmax t) (hn : (xs.map (·.1)).Nodup) : elem (setElems v t xs) x.1 t = x.2 % 2 ^ t.bits := by
  induction xs generalizing v with
  | nil => cases hx
  | cons y ys ih =>
    show elem (setElems (setElem v y.1 t y.2) t ys) x.1 t = _
    rw [List.map_cons, List.nodup_cons] at hn
    rcases List.mem_cons.1 hx with rfl | h
    · rw [elem_setElems_ne _ _ _ _ hj, elem_setElem _ _ _ _ _ hj, if_pos rfl]
      intro z hz e
      exact hn.1 (e ▸ List.mem_map_of_mem hz)
    · exact ih _ h hn.2

/-- Which lanes are active. -/
theorem mem_activeLanes (s : State) (t : Fmt) (g : Guard) (j : Nat) :
    j ∈ activeLanes s t g ↔ j < vlmax t ∧ activeLane s t g j = true := by
  simp [activeLanes]

theorem nodup_activeLanes (s : State) (t : Fmt) (g : Guard) : (activeLanes s t g).Nodup :=
  List.nodup_range.filter _

end Sys2Proof.Machine
end

