-- ==== Sys2Proof/Laws/Memory.lean ====
section
/-!
SUPPORT. The laws of sparse memories: every operation keeps the canonical form, a read after a write of the same place
gives what was written, and a write leaves every other place alone.
-/

namespace Sys2Proof.Machine

open Sys2Proof

/-! ### The canonical form -/

theorem Memory.wfFrom_cons {a b : Nat} {x : Byte} {m : Memory} :
    Memory.wfFrom a ((b, x) :: m) = true ↔ a ≤ b ∧ x ≠ 0 ∧ Memory.wfFrom (b + 1) m = true := by
  simp [Memory.wfFrom, and_assoc]

theorem Memory.wfFrom_mono {a b : Nat} {m : Memory} (h : Memory.wfFrom b m = true) (hab : a ≤ b) :
    Memory.wfFrom a m = true := by
  cases m with
  | nil => rfl
  | cons c m =>
    obtain ⟨h1, h2, h3⟩ := Memory.wfFrom_cons.1 h
    exact Memory.wfFrom_cons.2 ⟨Nat.le_trans hab h1, h2, h3⟩

@[simp] theorem Memory.wf_nil : Memory.wf [] = true := rfl

/-- A byte below every listed address is unlisted. -/
theorem Memory.read_below {b a : Nat} {m : Memory} (h : Memory.wfFrom b m = true) (hab : a < b) : m.read a = 0 := by
  induction m generalizing b with
  | nil => rfl
  | cons c m ih =>
    obtain ⟨h1, -, h3⟩ := Memory.wfFrom_cons.1 h
    rw [Memory.read, if_neg (by omega)]
    exact ih h3 (by omega)

theorem Memory.write_wfFrom {k a : Nat} {m : Memory} (v : Byte) (h : Memory.wfFrom k m = true) (hk : k ≤ a) :
    Memory.wfFrom k (m.write a v) = true := by
  induction m generalizing k with
  | nil =>
    rw [Memory.write]
    split
    · rfl
    · exact Memory.wfFrom_cons.2 ⟨hk, ‹_›, rfl⟩
  | cons c m ih =>
    obtain ⟨b, x⟩ := c
    obtain ⟨h1, h2, h3⟩ := Memory.wfFrom_cons.1 h
    rw [Memory.write]
    split
    · split
      · exact h
      · exact Memory.wfFrom_cons.2 ⟨hk, ‹_›, Memory.wfFrom_cons.2 ⟨by omega, h2, h3⟩⟩
    · split
      · subst a
        split
        · exact Memory.wfFrom_mono h3 (by omega)
        · exact Memory.wfFrom_cons.2 ⟨hk, ‹_›, h3⟩
      · exact Memory.wfFrom_cons.2 ⟨h1, h2, ih h3 (by omega)⟩

/-- A write keeps the canonical form. -/
theorem Memory.write_wf {m : Memory} (a : Nat) (v : Byte) (h : m.wf = true) : (m.write a v).wf = true :=
  Memory.write_wfFrom v h (Nat.zero_le a)

/-- A write of bytes keeps the canonical form. -/
theorem Memory.writeBytes_wf {m : Memory} (a : Nat) (bs : List Byte) (h : m.wf = true) : (m.writeBytes a bs).wf = true := by
  induction bs generalizing m a with
  | nil => exact h
  | cons b bs ih => exact ih (a + 1) (Memory.write_wf a b h)

/-- A write of a number keeps the canonical form. -/
theorem Memory.writeNat_wf {m : Memory} (a n x : Nat) (h : m.wf = true) : (m.writeNat a n x).wf = true :=
  Memory.writeBytes_wf a _ h

/-! ### Reads after writes -/

theorem Memory.read_write_from {k a : Nat} {m : Memory} (v : Byte) (c : Nat) (h : Memory.wfFrom k m = true) :
    (m.write a v).read c = if c = a then v else m.read c := by
  induction m generalizing k with
  | nil =>
    rw [Memory.write]
    split
    · by_cases hc : c = a <;> simp_all [Memory.read]
    · simp only [Memory.read]
      by_cases hc : c = a
      · simp [hc]
      · rw [if_neg hc, if_neg (fun e => hc e.symm)]
  | cons d m ih =>
    obtain ⟨b, x⟩ := d
    obtain ⟨-, -, h3⟩ := Memory.wfFrom_cons.1 h
    rw [Memory.write]
    split
    · rename_i hab
      have hnone : ∀ w : Byte, w = 0 → Memory.read ((b, x) :: m) a = w := by
        rintro w rfl
        rw [Memory.read, if_neg (by omega)]
        exact Memory.read_below h3 (by omega)
      split
      · rename_i hv
        by_cases hc : c = a
        · rw [if_pos hc, hc, hnone v hv]
        · rw [if_neg hc]
      · by_cases hc : c = a
        · rw [if_pos hc, hc, Memory.read, if_pos rfl]
        · rw [if_neg hc, Memory.read, if_neg (fun e => hc e.symm)]
    · split
      · subst a
        have hb : Memory.read m b = 0 := Memory.read_below h3 (Nat.lt_succ_self b)
        by_cases hc : c = b
        · subst c
          split <;> simp_all [Memory.read]
        · have hc' : ¬ b = c := fun e => hc e.symm
          split <;> simp [Memory.read, hc']
      · rename_i hne
        rw [Memory.read, ih h3]
        by_cases hc : c = a
        · subst c
          rw [if_neg (fun e => hne e.symm), if_pos rfl, if_pos rfl]
        · rw [if_neg hc, if_neg hc, Memory.read]

/-- A read after a write gives what was written there, and what stood elsewhere. -/
theorem Memory.read_write {m : Memory} (a : Nat) (v : Byte) (c : Nat) (h : m.wf = true) :
    (m.write a v).read c = if c = a then v else m.read c := Memory.read_write_from v c h

/-- A read after a write of bytes. -/
theorem Memory.read_writeBytes {m : Memory} (a : Nat) (bs : List Byte) (c : Nat) (h : m.wf = true) :
    (m.writeBytes a bs).read c = if a ≤ c then bs.getD (c - a) (m.read c) else m.read c := by
  induction bs generalizing m a with
  | nil => simp [Memory.writeBytes]
  | cons b bs ih =>
    rw [Memory.writeBytes, ih (a + 1) (Memory.write_wf a b h), Memory.read_write a b c h]
    by_cases h1 : a ≤ c
    · by_cases h2 : c = a
      · subst c
        simp
      · obtain ⟨n, hn⟩ : ∃ n, c - a = n + 1 := ⟨c - a - 1, by omega⟩
        rw [if_pos (by omega), if_pos h1, hn, List.getD_cons_succ, if_neg h2, show c - (a + 1) = n by omega]
    · rw [if_neg (by omega), if_neg h1, if_neg (by omega)]

/-- A write of bytes leaves every byte outside them as it was. -/
theorem Memory.read_writeBytes_outside {m : Memory} {a : Nat} {bs : List Byte} {c : Nat} (h : m.wf = true)
    (hc : c < a ∨ a + bs.length ≤ c) : (m.writeBytes a bs).read c = m.read c := by
  rw [Memory.read_writeBytes a bs c h]
  split
  · exact List.getD_eq_default _ _ (by omega)
  · rfl

/-- Bytes read back after they were written. -/
theorem Memory.readBytes_writeBytes {m : Memory} (a : Nat) (bs : List Byte) (h : m.wf = true) :
    (m.writeBytes a bs).readBytes a bs.length = bs := by
  induction bs generalizing m a with
  | nil => rfl
  | cons b bs ih =>
    have hw := Memory.write_wf a b h
    rw [List.length_cons, Memory.readBytes]
    refine congrArg₂ _ ?_ ?_
    · rw [Memory.writeBytes, Memory.read_writeBytes_outside hw (Or.inl (by omega)), Memory.read_write a b a h, if_pos rfl]
    · exact ih (a + 1) hw

/-! ### Places -/

@[simp] theorem placeMem_setPlaceMem_same (s : State) (p : Place) (m : Memory) : placeMem (setPlaceMem s p m) p = m := by
  cases p with
  | dev => rfl
  | host => rfl
  | pad n =>
    simp only [setPlaceMem, onTile, setTile, placeMem, tileAt]
    split
    · simp [*]
    · rename_i hn
      simp only
      suffices hl : ∀ (l : List (Nat × Tile)) (t : Tile), look Tile.blank (keep l n t) n = t by rw [hl]
      intro l t
      induction l with
      | nil => simp [keep, look]
      | cons e l ih =>
        simp only [keep]
        split
        · simp [look, *]
        · simp [look, *]

end Sys2Proof.Machine
end

