-- ==== Sys2Proof/Tests/Slice0.lean ====
section
/-!
SUPPORT. Tests of the model on fixed values, each a named theorem: ill-formed terms that WellFormed refuses, words of each
family, single steps with the values of the spec's tables and examples, and for every statement with hypotheses a state and
operands that meet them (`meets_…`, one for each clause).
-/

namespace Sys2Proof.Tests

open Sys2Proof Sys2Proof.Machine Sys2Proof.Claims

set_option Elab.async false

/-! ### A small machine -/

/-- Device memory with one address space (R367, R368): one table, at 0, whose entry 0 points to itself, so that VA 200000H to
3FFFFFH, entry 1 at level 1, is a leaf at the same device addresses: readable, writable, accessed and written. -/
def tables : Memory := [⟨0, 0x01⟩, ⟨8, 0xCF⟩, ⟨9, 0x04⟩, ⟨11, 0x20⟩]

/-- A record for one gang of two members, one of them on tile 0. -/
def rec0 : TaskRec :=
  { TaskRec.blank with
    gw := 2, nbar := 2, trapBase := 0x210000, trapSlots := 4, completion := 0x208000, status := 0x208008
    quota := 1000, policy := 2, irq := true, irqvec := 3 }

/-- The task of the small machine, dispatched. -/
def task0 : Task := { Task.start 0 0 0 0 rec0 with ready := true, nextGang := 1 }

/-- Its gang: member 0 on tile 0, member 1 on tile 1. -/
def gang0 : Gang := ⟨0, 0, 0, [.on 0, .on 1], [], [[], []], [[], []], [Clock.none, Clock.none], [0, 1], 0, false⟩

/-- Its strands. -/
def key0 : StrandKey := ⟨0, 0, 0, 0⟩
def key1 : StrandKey := ⟨0, 0, 0, 1⟩

/-- The device of the small machine. -/
def dev0 : Dev :=
  { Dev.blank with
    mem := tables, stage := 3, mode := .normal
    fns := [(0, { FnRegs.blank 0 with en := true, root := 0 })]
    tasks := [task0], gangs := [gang0] }

/-- The sequencer of the small machine: S1 = 5, S2 = 7, and S3 to S7 as given. -/
def seq0 (s3 s4 s5 s6 s7 : Word) : Seq :=
  { Seq.blank with
    vpc := 0x1000, vl := 64
    s := (((((((Vector.replicate 64 (0 : Word)).set 1 5).set 2 7).set 3 s3).set 4 s4).set 5 s5).set 6 s6).set 7 s7 }

/-- The small machine: the strand of member 0 runs on tile 0, that of member 1 on tile 1. -/
def base (s3 s4 s5 s6 s7 : Word) : State :=
  { State.reset with
    tile := { Tile.blank with owner := some key0, run := .running, seq := seq0 s3 s4 s5 s6 s7 }
    others := [(1, { Tile.blank with owner := some key1, run := .running })]
    dev := dev0 }

/-- The small machine with plain registers. -/
def m0 : State := base 0 0 0 0 0

/-- What an instruction leaves, with the state before where it does not answer a next state. -/
def run (i : Instr) (s : State) : State := after i s

/-- A result that is an answer satisfying `p`. -/
def answersWith {α : Type} (x : Except Stop α) (p : α → Bool) : Bool := match x with | .ok a => p a | .error _ => false

/-- A result that stops with a cause. -/
def stopsWith {α : Type} (x : Except Stop α) (cause : Nat) : Bool := match x with | .ok _ => false | .error e => e.code == cause

theorem exists_answer {α : Type} {x : Except Stop α} {p : α → Bool} (h : answersWith x p = true) : ∃ a, x = .ok a ∧ p a = true := by
  cases x with
  | ok a => exact ⟨a, rfl, h⟩
  | error e => cases h

/-- A descriptor record (R77): base, space, format, rights, the extents and strides of its dimensions, and other bits. -/
def descBits (base space fmt rights : Nat) (dims : List (Nat × Nat)) (more : Nat) : Nat :=
  base + space * 2 ^ 64 + 2 ^ 66 + fmt * 2 ^ 67 + dims.length * 2 ^ 72 + rights * 2 ^ 81 + more +
    (dims.zipIdx.map fun d => d.1.1 * 2 ^ (128 + 24 * d.2) + d.1.2 * 2 ^ (248 + 40 * d.2)).sum

/-- The machine with a descriptor table at VA 220000H, which holds these records from index 0 on. -/
def withDescs (ds : List Nat) (s : State) : State :=
  onQueue 0 (fun q => { q with dtbase := 0x220000, dtsize := 0xFFC0 })
    (onDev (fun d => { d with mem := ds.zipIdx.foldl (fun m x => m.writeNat (0x220000 + 64 * x.2) 64 x.1) d.mem }) s)

/-- The machine with bytes at a virtual address of 200000H to 3FFFFFH. -/
def withBytes (va n x : Nat) (s : State) : State :=
  onDev (fun d => { d with mem := d.mem.writeNat va n x }) s

/-- The machine with an access of the strand of member 0 that has no acknowledgement yet: a reduction in the routers. -/
def owing (s : State) : State :=
  onDev (fun d => { d with router := [⟨0, .s32, 0, 0x209000, .dev, 0x209000, 1, [(key0, [])], false⟩] }) s

/-- A plain queued command of the strand of member 0. -/
def cmd0 (body : Cmd) : QCmd :=
  ⟨key0, 1, body, Clock.none, none, 0x1000, false, false, 0, 0, [], [], 0, 0, 0, 0, 0, false, none⟩

/-! ### Ill-formed terms: one for each operand rule, refused by WellFormed -/

/-- Modifiers without rounding or saturation, and a plain access. -/
def vm (t : Fmt) : VMod := ⟨t, .dyn, false, false⟩
def gAll : Guard := ⟨0, false⟩
def mo (t : Fmt) : MemOp := ⟨t, .glob, .plain, .tile, false, 0⟩

theorem test_wf_scalar : ([.bfx 1 2 60 4 false, .bfi 1 2 1 63, .fence .plain .sys, .rdid 1 0x0D, .rdid 1 0x7F, .rdid 1 0x84,
    .ctxsave 1 2 3 4 5 false 6, .ctxload 5 false 6] : List Instr).all (fun i => !i.wf) = true := by decide +kernel

theorem test_wf_vector : ([.vsetvl 1 2 .f32 true, .vadd 1 2 3 (vm .l16) gAll, .vadd 1 2 3 (vm .f32) ⟨0, true⟩,
    .vfma 1 2 3 4 ⟨.s32, .rne, false, false⟩ gAll, .vmul 1 2 3 (vm .f4) gAll, .vmin 1 2 3 ⟨.f32, .dyn, true, false⟩ gAll,
    .vabs 1 2 ⟨.f32, .dyn, true, false⟩ gAll, .vneg 1 2 (vm .z8) gAll, .vand 1 2 3 ⟨.f32, .rtz, false, false⟩ gAll,
    .vbcast 1 2 3 false (vm .s8) gAll, .vshl 1 2 3 true (vm .f32) gAll, .viota 1 true (vm .f16) gAll, .vcmp .eq 1 2 3 (vm .ds8) gAll,
    .vcmp .eq 0 2 3 (vm .s8) gAll, .vredsum 1 2 3 true ⟨.fa8, .dyn, false, true⟩ gAll, .vscan .sum 1 2 3 true (vm .l16) gAll,
    .vscan .max 1 2 3 true ⟨.s32, .dyn, true, false⟩ gAll] : List Instr).all (fun i => !i.wf) = true := by decide +kernel

theorem test_wf_convert : ([.vrecip 1 2 (vm .fa8) gAll, .vcvt 1 2 0 .f32 2 0 (vm .bf16) gAll, .vcvt 1 2 3 .ds8 0 0 (vm .ds8) gAll,
    .vcvt 1 2 3 .f32 0 0 (vm .bf16) gAll, .vcvt 1 2 0 .f32 0 0 ⟨.fa8, .dyn, true, true⟩ gAll, .vcvt 1 2 0 .f32 0 0 ⟨.f16, .dyn, false, true⟩ gAll,
    .vcvtds 1 2 3 .f32 0 0 (vm .f32) gAll, .vcvtds 1 2 3 .f16 0 0 (vm .ds8) gAll, .vcvtds 1 2 3 .f32 4 0 (vm .ds8) gAll,
    .vcvtds 1 2 1 .f32 0 0 (vm .ds8) gAll, .vladd 1 2 3 (vm .f32) gAll, .pand 0 1 2, .pnot 0 1] : List Instr).all (fun i => !i.wf) = true := by
  decide +kernel

theorem test_wf_memory : ([.ld 1 2 (mo .f4), .ld 1 2 ⟨.s8, .glob, .rel, .tile, false, 0⟩, .st 1 2 (mo .ds8), .st 1 2 ⟨.s8, .glob, .acq, .tile, false, 0⟩,
    .ldv 1 2 ⟨.s8, .glob, .ar, .tile, false, 0⟩ gAll, .stv 1 2 ⟨.s8, .glob, .acq, .tile, false, 0⟩ gAll, .ldvs 1 2 3 (mo .f4) gAll,
    .stvx 1 2 3 ⟨.s8, .glob, .rel, .tile, false, 0⟩ gAll, .cas 1 2 3 (mo .s8), .cas 1 2 3 ⟨.s32, .glob, .plain, .tile, true, 0⟩,
    .amoAdd 1 2 3 false (mo .f32), .amoFaddF32 1 2 3 false (mo .bf16), .amoFaddBf16 1 2 3 false (mo .f32)] : List Instr).all
    (fun i => !i.wf) = true := by decide +kernel

theorem test_wf_engines : ([.cpyf 1 2 3 4 true ⟨5, none, .tile⟩, .cpya 1 2 3 4 true .fa8 false none .tile, .cpya 1 2 3 4 true .f32 true none .tile,
    .cpya 1 2 3 4 false .s64 false none .tile, .coll 1 2 0 .reduce .add false 5 0 .tile, .coll 1 2 0 .allgather .min false 5 0 .gang,
    .coll 1 2 3 .allreduce .add false 5 0 .gang, .mma 1 2 3 4 ⟨8, false, false, false⟩ 5 none, .mmag 0 2 3 4 ⟨8, false, true, true⟩ 5 none,
    .mscale 1 2 false true 3, .fscan ⟨0, 0⟩ 1 2 .dense true false 5, .fscan ⟨0, 0⟩ 1 2 .comp false true 5, .freduce ⟨4, 0⟩ 1 2 .min .s32 true .dyn,
    .freduce ⟨4, 0⟩ 1 2 .add .s32 false .rne, .falu ⟨6, 0⟩ 1 2 0 .min .s32 false true .dyn 0, .falu ⟨6, 0⟩ 1 2 0 .add .s32 false false .rtz 0,
    .falu ⟨6, 0⟩ 1 2 3 .add .s32 true false .dyn 4, .falu ⟨6, 0⟩ 1 2 3 .add .s32 false false .dyn 4, .falu ⟨6, 0⟩ 1 2 0 .xor .f32 false false .dyn 4,
    .fwrite ⟨7, 0⟩ 1 .crd .f32 5] : List Instr).all (fun i => !i.wf) = true := by decide +kernel

/-! ### Words of every instruction (R125 to R134 and the encodings of chapters 07 to 13)

Each word is put together from the spec's form and opcode tables; the fields hold different values, so that no two can change
places unseen. -/

theorem test_words_scalar_arithmetic_1 : ([(0x001461C000000000, .add 5 6 7),
    (0x001461C000100000, .sub 5 6 7),
    (0x001461C000200000, .and 5 6 7),
    (0x001461C000300000, .or 5 6 7),
    (0x001461C000400000, .xor 5 6 7),
    (0x001461C000500000, .shl 5 6 7),
    (0x001461C000600000, .shr 5 6 7),
    (0x001461C000700000, .sra 5 6 7),
    (0x001461C000800000, .min 5 6 7),
    (0x001461C000900000, .max 5 6 7),
    (0x001461C000A00000, .minz 5 6 7),
    (0x001461C000B00000, .maxz 5 6 7)] : List (Nat × Instr)).all
    (fun e => decodeWord (BitVec.ofNat 64 e.1) == e.2) = true := by decide +kernel

theorem test_words_scalar_arithmetic_2 : ([(0x001461C000C00000, .setlt 5 6 7),
    (0x001461C000D00000, .setltz 5 6 7),
    (0x001461C000E00000, .seteq 5 6 7),
    (0x0014600001000000, .popc 5 6),
    (0x0014600001100000, .clz 5 6),
    (0x0014600001200000, .ctz 5 6),
    (0x011461C000000000, .mul 5 6 7),
    (0x011461C000100000, .mulh 5 6 7),
    (0x011461C000200000, .mulhz 5 6 7),
    (0x011461C000400000, .div 5 6 7),
    (0x011461C000500000, .divz 5 6 7),
    (0x011461C000600000, .rem 5 6 7)] : List (Nat × Instr)).all
    (fun e => decodeWord (BitVec.ofNat 64 e.1) == e.2) = true := by decide +kernel

theorem test_words_scalar_arithmetic_3 : ([(0x011461C000700000, .remz 5 6 7),
    (0x011461C800300000, .madd 5 6 7 8)] : List (Nat × Instr)).all
    (fun e => decodeWord (BitVec.ofNat 64 e.1) == e.2) = true := by decide +kernel

theorem test_words_selection_fields_and_immediates_1 : ([(0x021461C800000000, .sel 5 6 7 8),
    (0x0314630700000001, .bfx 5 6 12 7 true),
    (0x0414633300000000, .bfi 5 6 12 51),
    (0x081460000FFFFFFE, .addi 5 6 0xFFFFFFE),
    (0x091460000FFFFFFE, .andi 5 6 0xFFFFFFE),
    (0x0A1460000FFFFFFE, .ori 5 6 0xFFFFFFE),
    (0x0B1460000FFFFFFE, .xori 5 6 0xFFFFFFE),
    (0x0C14600000000029, .shlImm 5 6 41),
    (0x0D14600000000029, .shrImm 5 6 41),
    (0x0E14600000000029, .sraImm 5 6 41),
    (0x1014000008000001, .li 5 0x8000001),
    (0x1114600002CABCDE, .lui 5 6 0xABCDE 44)] : List (Nat × Instr)).all
    (fun e => decodeWord (BitVec.ofNat 64 e.1) == e.2) = true := by decide +kernel

theorem test_words_selection_fields_and_immediates_2 : ([(0x1214000000000123, .addpc 5 0x123),
    (0x1314000008600001, .liFactor 5 33 0x200001),
    (0x1414600000800007, .addiFactor 5 6 2 7)] : List (Nat × Instr)).all
    (fun e => decodeWord (BitVec.ofNat 64 e.1) == e.2) = true := by decide +kernel

theorem test_words_control_flow_1 : ([(0x2000518000FFFFF0, .bCond .eq 5 6 0xFFFFF0),
    (0x2000518001FFFFF1, .bCond .ne 5 6 0xFFFFF1),
    (0x2000518002FFFFF2, .bCond .lt 5 6 0xFFFFF2),
    (0x2000518003FFFFF3, .bCond .ge 5 6 0xFFFFF3),
    (0x2000518004FFFFF4, .bCond .ltz 5 6 0xFFFFF4),
    (0x2000518005FFFFF5, .bCond .gez 5 6 0xFFFFF5),
    (0x210000000FFFFFFD, .j 0xFFFFFFD),
    (0x2200000000000009, .jl 9),
    (0x2314600000000000, .jr 5 6),
    (0x2400000000000000, .nop),
    (0x25000000000001FF, .brk 511),
    (0x260051800000001F, .trap 31 5 6)] : List (Nat × Instr)).all
    (fun e => decodeWord (BitVec.ofNat 64 e.1) == e.2) = true := by decide +kernel

theorem test_words_control_flow_2 : ([(0x2714000000000000, .yieldTo 5),
    (0x2800000000000009, .endStrand 9),
    (0x291400000000FFFE, .feat 5 0xFFFE)] : List (Nat × Instr)).all
    (fun e => decodeWord (BitVec.ofNat 64 e.1) == e.2) = true := by decide +kernel

theorem test_words_synchronisation_and_system_1 : ([(0x3000000002C00000, .fence .rel .sys),
    (0x310000000000000D, .bar 13),
    (0x320000000000000E, .bara 14),
    (0x330000000000000F, .barw 15),
    (0x3400600000000004, .waitcR .acc 6),
    (0x3400600000000001, .waitcV .load 6),
    (0x351421C000000000, .waitr 5 2 7),
    (0x360000000000000A, .waite 10),
    (0x3714300000000000, .popq 5 3),
    (0x3714300000100000, .peekq 5 3),
    (0x381461C000000000, .launch 5 6 7),
    (0x391461C000000000, .siginc 5 6 7)] : List (Nat × Instr)).all
    (fun e => decodeWord (BitVec.ofNat 64 e.1) == e.2) = true := by decide +kernel

theorem test_words_synchronisation_and_system_2 : ([(0x3A14000000000083, .rdid 5 0x83),
    (0x3B14000000000013, .rdctl 5 .cwsv),
    (0x3C00600000000004, .wrctl .vbank 6),
    (0x3DA060000FEDC000, .tdnarrow 40 6 0xFEDC),
    (0x3E1461C800009000, .ctxsave 5 6 7 8 9 false 0),
    (0x3F00000000009043, .ctxload 9 true 33)] : List (Nat × Instr)).all
    (fun e => decodeWord (BitVec.ofNat 64 e.1) == e.2) = true := by decide +kernel

theorem test_words_vector_arithmetic_and_moves_1 : ([(0x4014000000060001, .vsetvl 5 0 .fb8 true),
    (0x41C861C030059600, .vadd 50 6 7 ⟨.fa8, .rne, false, true⟩ ⟨3, true⟩),
    (0x42C861C030010A00, .vsub 50 6 7 ⟨.s32, .dyn, true, false⟩ ⟨3, true⟩),
    (0x43C861C03007B200, .vmul 50 6 7 ⟨.l16, .rdn, false, false⟩ ⟨3, true⟩),
    (0x44C861C83004A200, .vfma 50 6 7 8 ⟨.f16, .rtz, false, false⟩ ⟨3, true⟩),
    (0x45C861C030028200, .vmin 50 6 7 ⟨.z16, .dyn, false, false⟩ ⟨3, true⟩),
    (0x46C861C030028200, .vmax 50 6 7 ⟨.z16, .dyn, false, false⟩ ⟨3, true⟩),
    (0x49C861C030028200, .vand 50 6 7 ⟨.z16, .dyn, false, false⟩ ⟨3, true⟩),
    (0x4AC861C030028200, .vor 50 6 7 ⟨.z16, .dyn, false, false⟩ ⟨3, true⟩),
    (0x4BC861C030028200, .vxor 50 6 7 ⟨.z16, .dyn, false, false⟩ ⟨3, true⟩),
    (0x54C861C030028200, .vperm 50 6 7 ⟨.z16, .dyn, false, false⟩ ⟨3, true⟩),
    (0x59C861C030028200, .vredmax 50 6 7 ⟨.z16, .dyn, false, false⟩ ⟨3, true⟩)] : List (Nat × Instr)).all
    (fun e => decodeWord (BitVec.ofNat 64 e.1) == e.2) = true := by decide +kernel

theorem test_words_vector_arithmetic_and_moves_2 : ([(0x5AC861C030028200, .vredmin 50 6 7 ⟨.z16, .dyn, false, false⟩ ⟨3, true⟩),
    (0x47C8600030018A00, .vabs 50 6 ⟨.s64, .dyn, true, false⟩ ⟨3, true⟩),
    (0x48C8600030018A00, .vneg 50 6 ⟨.s64, .dyn, true, false⟩ ⟨3, true⟩),
    (0x4CC861C030000201, .vshl 50 6 7 true ⟨.s8, .dyn, false, false⟩ ⟨3, true⟩),
    (0x4DC861C030000201, .vshr 50 6 7 true ⟨.s8, .dyn, false, false⟩ ⟨3, true⟩),
    (0x4EC861C030000201, .vsra 50 6 7 true ⟨.s8, .dyn, false, false⟩ ⟨3, true⟩),
    (0x4F3C61C020048000, .vcmp .eq 15 6 7 ⟨.f16, .dyn, false, false⟩ ⟨2, false⟩),
    (0x4F3C61C020148000, .vcmp .ne 15 6 7 ⟨.f16, .dyn, false, false⟩ ⟨2, false⟩),
    (0x4F3C61C020248000, .vcmp .lt 15 6 7 ⟨.f16, .dyn, false, false⟩ ⟨2, false⟩),
    (0x4F3C61C020348000, .vcmp .le 15 6 7 ⟨.f16, .dyn, false, false⟩ ⟨2, false⟩),
    (0x4F3C61C020448000, .vcmp .gt 15 6 7 ⟨.f16, .dyn, false, false⟩ ⟨2, false⟩),
    (0x4F3C61C020548000, .vcmp .ge 15 6 7 ⟨.f16, .dyn, false, false⟩ ⟨2, false⟩)] : List (Nat × Instr)).all
    (fun e => decodeWord (BitVec.ofNat 64 e.1) == e.2) = true := by decide +kernel

theorem test_words_vector_arithmetic_and_moves_3 : ([(0x4F3C61C020648000, .vcmp .un 15 6 7 ⟨.f16, .dyn, false, false⟩ ⟨2, false⟩),
    (0x50C861CF30068200, .vsel 50 6 7 15 ⟨.f4, .dyn, false, false⟩ ⟨3, true⟩),
    (0x51C861C030070201, .vbcast 50 6 7 true ⟨.ds8, .dyn, false, false⟩ ⟨3, true⟩),
    (0x52C861C030020200, .vext 50 6 7 ⟨.z8, .dyn, false, false⟩ ⟨3, true⟩),
    (0x53C8000030030201, .viota 50 true ⟨.z32, .dyn, false, false⟩ ⟨3, true⟩),
    (0x55C8600030008200, .vcompress 50 6 ⟨.s16, .dyn, false, false⟩ ⟨3, true⟩),
    (0x56C8600030008200, .vexpand 50 6 ⟨.s16, .dyn, false, false⟩ ⟨3, true⟩),
    (0x57C8600030008200, .vpopc 50 6 ⟨.s16, .dyn, false, false⟩ ⟨3, true⟩)] : List (Nat × Instr)).all
    (fun e => decodeWord (BitVec.ofNat 64 e.1) == e.2) = true := by decide +kernel

theorem test_words_vector_reductions_conversions_and_predicates_1 : ([(0x58C861C030054A01, .vredsum 50 6 7 true ⟨.bf16, .rup, true, false⟩ ⟨3, true⟩),
    (0x5BC861C030041202, .vscan .sum 50 6 7 true ⟨.f32, .rne, false, false⟩ ⟨3, true⟩),
    (0x5BC861C030141202, .vscan .max 50 6 7 true ⟨.f32, .rne, false, false⟩ ⟨3, true⟩),
    (0x5BC861C030241202, .vscan .min 50 6 7 true ⟨.f32, .rne, false, false⟩ ⟨3, true⟩),
    (0x5CC8604830070268, .vcvt 50 6 8 .f32 3 1 ⟨.ds8, .dyn, false, false⟩ ⟨3, true⟩),
    (0x5DC860C83007122A, .vcvtds 50 6 8 .bf16 1 3 ⟨.ds8, .rne, false, false⟩ ⟨3, true⟩),
    (0x5EC8600030050A00, .vrecip 50 6 ⟨.bf16, .dyn, true, false⟩ ⟨3, true⟩),
    (0x5FC8600030050A00, .vrsqrt 50 6 ⟨.bf16, .dyn, true, false⟩ ⟨3, true⟩),
    (0x60C8600030050A00, .vexp2 50 6 ⟨.bf16, .dyn, true, false⟩ ⟨3, true⟩),
    (0x61C8600030050A00, .vlog2 50 6 ⟨.bf16, .dyn, true, false⟩ ⟨3, true⟩),
    (0x62C861C030078200, .vladd 50 6 7 ⟨.l16, .dyn, false, false⟩ ⟨3, true⟩),
    (0x63C861C030078200, .vlsub 50 6 7 ⟨.l16, .dyn, false, false⟩ ⟨3, true⟩)] : List (Nat × Instr)).all
    (fun e => decodeWord (BitVec.ofNat 64 e.1) == e.2) = true := by decide +kernel

theorem test_words_vector_reductions_conversions_and_predicates_2 : ([(0x640000000FFC1000, .ldct 0xFFC1),
    (0x6400000000000001, .ldctReset),
    (0x651461C000000000, .pand 5 6 7),
    (0x661461C000000000, .por 5 6 7),
    (0x671461C000000000, .pxor 5 6 7),
    (0x6814600000000000, .pnot 5 6),
    (0x69C8600000038000, .pcnt 50 6 .z64),
    (0x6AC8600000008000, .pfirst 50 6 .s16)] : List (Nat × Instr)).all
    (fun e => decodeWord (BitVec.ofNat 64 e.1) == e.2) = true := by decide +kernel

theorem test_words_memory_1 : ([(0x80146004096FFFFF, .ld 5 6 ⟨.z8, .win, .acq, .gang, true, 0xFFFFF⟩),
    (0x8114600802C00008, .st 5 6 ⟨.f32, .glob, .rel, .sys, false, 0x8⟩),
    (0x82C8602D34000040, .ldv 50 6 ⟨.f4, .loc, .plain, .tile, false, 0x40⟩ ⟨3, true⟩),
    (0x83C8602E34000040, .stv 50 6 ⟨.ds8, .loc, .plain, .tile, false, 0x40⟩ ⟨3, true⟩),
    (0x84C861EF302FFFC0, .ldvs 50 6 7 ⟨.l16, .glob, .plain, .tile, true, 0xFFFC0⟩ ⟨3, true⟩),
    (0x85C861EF302FFFC0, .stvs 50 6 7 ⟨.l16, .glob, .plain, .tile, true, 0xFFFC0⟩ ⟨3, true⟩),
    (0x86C861EF302FFFC0, .ldvx 50 6 7 ⟨.l16, .glob, .plain, .tile, true, 0xFFFC0⟩ ⟨3, true⟩),
    (0x87C861EF302FFFC0, .stvx 50 6 7 ⟨.l16, .glob, .plain, .tile, true, 0xFFFC0⟩ ⟨3, true⟩),
    (0x881461C20380000C, .cas 5 6 7 ⟨.s32, .glob, .ar, .dev, false, 0xC⟩),
    (0x901461C701500008, .amoAdd 5 6 7 true ⟨.z64, .glob, .acq, .gang, false, 0x8⟩),
    (0x911461C701500008, .amoAnd 5 6 7 true ⟨.z64, .glob, .acq, .gang, false, 0x8⟩),
    (0x921461C701500008, .amoOr 5 6 7 true ⟨.z64, .glob, .acq, .gang, false, 0x8⟩)] : List (Nat × Instr)).all
    (fun e => decodeWord (BitVec.ofNat 64 e.1) == e.2) = true := by decide +kernel

theorem test_words_memory_2 : ([(0x931461C701500008, .amoXor 5 6 7 true ⟨.z64, .glob, .acq, .gang, false, 0x8⟩),
    (0x941461C701500008, .amoMin 5 6 7 true ⟨.z64, .glob, .acq, .gang, false, 0x8⟩),
    (0x951461C701500008, .amoMax 5 6 7 true ⟨.z64, .glob, .acq, .gang, false, 0x8⟩),
    (0x961461C701500008, .amoMinz 5 6 7 true ⟨.z64, .glob, .acq, .gang, false, 0x8⟩),
    (0x971461C701500008, .amoMaxz 5 6 7 true ⟨.z64, .glob, .acq, .gang, false, 0x8⟩),
    (0x981461C701500008, .amoSwap 5 6 7 true ⟨.z64, .glob, .acq, .gang, false, 0x8⟩),
    (0x991461C800100000, .amoFaddF32 5 6 7 true ⟨.f32, .glob, .plain, .tile, false, 0x0⟩),
    (0x9A1461CA00000000, .amoFaddBf16 5 6 7 false ⟨.bf16, .glob, .plain, .tile, false, 0x0⟩)] : List (Nat × Instr)).all
    (fun e => decodeWord (BitVec.ofNat 64 e.1) == e.2) = true := by decide +kernel

theorem test_words_copies_rings_and_collectives_1 : ([(0xA01461C001234E80, .cpyl 5 6 7 ⟨0x1234, some 3, .gang⟩),
    (0xA01401C00123418D, .cpylRing 5 6 7 ⟨0x1234, none, .sys⟩),
    (0xA11461C001234900, .cpys 5 6 7 ⟨0x1234, some 0, .dev⟩),
    (0xA31401C801234001, .cpyf 5 0 7 8 true ⟨0x1234, none, .tile⟩),
    (0xA21461C800000AC2, .cpya 5 6 7 8 false .s16 true (some 1) .gang),
    (0xA40061C800000007, .rsetup 7 6 7 8),
    (0xA514000000000006, .rpub 5 6),
    (0xA614000000000004, .rtake 5 4),
    (0xA700000000000003, .rfree 3),
    (0xA814600000077CC8, .coll 5 6 0 .allreduce .min true 0x77 2 .gang),
    (0xA814600000077D51, .coll 5 6 0 .reducescatter .max true 0x77 2 .dev),
    (0xA814600000077DC2, .coll 5 6 0 .allgather .add true 0x77 2 .sys)] : List (Nat × Instr)).all
    (fun e => decodeWord (BitVec.ofNat 64 e.1) == e.2) = true := by decide +kernel

theorem test_words_copies_rings_and_collectives_2 : ([(0xA81461C000077CC3, .coll 5 6 7 .bcast .add true 0x77 2 .gang),
    (0xA81461C000077D6C, .coll 5 6 7 .reduce .xor true 0x77 2 .dev)] : List (Nat × Instr)).all
    (fun e => decodeWord (BitVec.ofNat 64 e.1) == e.2) = true := by decide +kernel

theorem test_words_matrix : ([(0xB00061C800000A7F, .mma 0 6 7 8 ⟨15, true, true, true⟩ 0 (some 1)),
    (0xB11461C800099051, .mmag 5 6 7 8 ⟨10, false, false, true⟩ 0x99 none),
    (0xB200600000000000, .mzero 6),
    (0xB30061C00001083F, .mscale 6 7 true true 63)] : List (Nat × Instr)).all
    (fun e => decodeWord (BitVec.ofNat 64 e.1) == e.2) = true := by decide +kernel

theorem test_words_fibre_1 : ([(0xC0146000007B0077, .fscan ⟨0, 7⟩ 5 6 .clist false true 0x77),
    (0xC11461C901100000, .fisect ⟨1, 1⟩ 5 9 6 7),
    (0xC21461C902100000, .funion ⟨2, 1⟩ 5 9 6 7),
    (0xC91461C908100000, .fsteer ⟨8, 1⟩ 5 9 6 7),
    (0xCA1461C906000000, .fmerge ⟨6, 0⟩ 5 9 6 7),
    (0xC31461C003100000, .frepeat ⟨3, 1⟩ 5 6 7),
    (0xCB1461C008100000, .fcarry ⟨8, 1⟩ 5 6 7),
    (0xC414600004300005, .freduce ⟨4, 3⟩ 5 6 .min .z32 false .dyn),
    (0xC51460000520FFC0, .fval ⟨5, 2⟩ 5 6 0xFFC0),
    (0xC6146000061FF321, .falu ⟨6, 1⟩ 5 6 0 .sub .f32 false false .rdn 0x1FE),
    (0xC61461C006100059, .falu ⟨6, 1⟩ 5 6 7 .seteq .z32 true false .dyn 0),
    (0xC7006000073B0088, .fwrite ⟨7, 3⟩ 6 .add .f32 0x88)] : List (Nat × Instr)).all
    (fun e => decodeWord (BitVec.ofNat 64 e.1) == e.2) = true := by decide +kernel

theorem test_words_fibre_2 : ([(0xC814600008100000, .fgen ⟨8, 1⟩ 5 6),
    (0xCC7C0000000C0005, .fsrc 6 31 5),
    (0xCD006000000A0000, .fsinkPort 5 6),
    (0xCD006000001A0007, .fsinkQ 5 6 3 true),
    (0xCD006000002A9234, .fsinkL 5 6 .tok 0x1234),
    (0xCE14000000000003, .fgo 5 3),
    (0xCF00000000000000, .fkill),
    (0xCF00000000000001, .fkillClear)] : List (Nat × Instr)).all
    (fun e => decodeWord (BitVec.ofNat 64 e.1) == e.2) = true := by decide +kernel

theorem test_words_ports : ([(0xE00000000050004C, .portb 4 9 5),
    (0xE000000008000004, .portbU 4),
    (0xE103200000000014, .portw 4 50 true false),
    (0xE214003200000004, .portr 4 5 50),
    (0xE314000000000004, .portq 4 5)] : List (Nat × Instr)).all
    (fun e => decodeWord (BitVec.ofNat 64 e.1) == e.2) = true := by decide +kernel

/-! Reserved encodings (R126, R142): no opcode; FUNC without a meaning, R154; b of POPC, R154; pos + width above 64, R157; d of B, R131; COND, R131; mask of END, R167; FENCE without order, R169; channel 3, R172; Q4, R135; RDID selector, R178; control register, R136; key slot without SEAL, R126; F4 of VADD, R189; RND of an integer, R189; SAT and NSAT, R128; NSAT without FA8, R128; ?!P0, R140; P0 written, R135; condition 7, R196; c = d, R209; PART, R207; release load, R101; DET of LD, R130; host-direct, R68; ORDER of LDVS, R130; F32 of AMO.add, R220; RQ without RPY, R132; sat inward, R226; tile scope of COLL, R232; COLL without RPY, R232; d of MMA, R244; TDI with two register operands, R240; XMOD of MSCALE.f32, R249; F32, R133; CLASS 9, R133; IMM20 of FGO, R287; region port of PORTB.u, R297. -/

theorem test_reserved_words_1 : ([0xFFFC000000000000, 0x001461C000F00000, 0x001461C001000000, 0x0314633400000000, 0x2004518000000000, 0x2000518006000000, 0x2800000000000010, 0x3000000000400000, 0x3400600000000006, 0x351441C000000000, 0x3A1400000000000D, 0x3B14000000000008, 0x3E1461C800009002, 0x411461C010068000, 0x411461C000011000, 0x411461C000058C00, 0x411461C000048400, 0x411461C000010200, 0x4F0061C000010000, 0x4F1461C000710000] : List Nat).all
    (fun w => decodeWord (BitVec.ofNat 64 w) == .reservedEncoding (BitVec.ofNat 64 w)) = true := by decide +kernel

theorem test_reserved_words_2 : ([0x5D14600500070008, 0x5C1460000004004A, 0x8014600302000000, 0x8014600300100000, 0x801460030C000000, 0x841461C301000000, 0x901461C800000000, 0xA01461C000001280, 0xA21461C800000055, 0xA814600000001800, 0xA814600000001080, 0xB00461C800001000, 0xB00061C800001003, 0xB30061C000040001, 0xC18061C901000000, 0xC11461C909000000, 0xCE14000000000005, 0xE000000008100004] : List Nat).all
    (fun w => decodeWord (BitVec.ofNat 64 w) == .reservedEncoding (BitVec.ofNat 64 w)) = true := by decide +kernel
/-! ### Accesses to the mapped page, whatever the address -/

/-- The leaf of the small machine's page. -/
def leaf0 : Leaf := ⟨0x200004CF, 8, 0x200000, 0x200000⟩

/-- The address space `as` maps the page of the small machine, and no other translation is cached. -/
structure Plain (s : State) (as : AddrSpace) : Prop where
  root : as.root = 0
  top : s.dev.mem.readNat 0 8 = 1
  leaf : s.dev.mem.readNat 8 8 = 0x200004CF
  tlb : ∀ e ∈ s.dev.tlb, e.leaf = leaf0
  poison : s.dev.poison = []

theorem walk_plain {s : State} {as : AddrSpace} {va : Nat} (start : Nat) (h : Plain s as) (lo : 0x200000 ≤ va)
    (hi : va < 0x400000) : walkOf s as start va = .ok leaf0 := by
  have e4 : va / 281474976710656 = 0 := by omega
  have e3 : va / 549755813888 = 0 := by omega
  have e2 : va / 1073741824 = 0 := by omega
  have e1 : va / 2097152 = 1 := by omega
  simp [walkOf, walkFrom, entryAddr, h.root, h.top, h.leaf, e4, e3, e2, e1, pteV, pteLeaf, tableMalformed, fieldOf, pteAddr, judgeLeaf,
    leafMalformed, pteSize, sizeLevel, pageBytes, pteW, pteR, pteX, pteTyped, pteCow, pteGeom, pteFmt, pteHost, Nat.testBit,
    groupEntries, groupList, leaf0]

theorem locate_plain {s : State} {as : AddrSpace} {va : Nat} {u : Use} (start : Nat) (h : Plain s as) (lo : 0x200000 ≤ va)
    (hi : va < 0x400000) (hu : u ≠ .fetch) : locateIn s as u start va = .ok ⟨leaf0, .dev, va⟩ := by
  have hc : canonical va = true := by simp [canonical, fieldOf]; omega
  have ho : (cached s as va).filter (fun x => staleOk u x && !sameLeaf x leaf0) = [] := by
    simp only [cached, List.filter_eq_nil_iff, List.mem_map, List.mem_filter, forall_exists_index, and_imp]
    intro x e he _ hx
    subst hx
    rw [h.tlb e he]
    simp [sameLeaf]
  have hl : chooseLeaf s as u start va = .ok leaf0 := by
    simp [chooseLeaf, walk_plain start h lo hi, ho]
  have hw : walkSound s as va = true := by simp [walkSound, poisoned, h.poison]
  have hp : 0x200000 + va % 0x200000 = va := by omega
  have hv : checkUse as u leaf0 va = .ok () := by cases u <;> first | rfl | exact absurd rfl hu
  have hq : leafPlace s as leaf0 va = .ok (.dev, va) := by
    simp only [leafPlace]
    rw [if_neg (by decide)]
    exact congrArg (fun a => Except.ok (Place.dev, a)) hp
  simp [locateIn, hc, hw, hl, hv, hq]

theorem globalByte_plain {s : State} {w : Who} {u : Use} {va : Nat} (start : Nat) (h : Plain s (strandSpace s w.key))
    (lo : 0x200000 ≤ va) (hi : va < 0x400000) (hu : u ≠ .fetch) :
    globalByte s w u start va = .ok ⟨⟨.dev, va, 1, va⟩, some leaf0⟩ := by
  rw [globalByte, locate_plain start h lo hi hu]
  rfl

theorem devRead_plain {s : State} {as : AddrSpace} (start : Nat) (h : Plain s as) (n : Nat) (va : Nat) (lo : 0x200000 ≤ va)
    (hi : va + n ≤ 0x400000) : devReadIn s as start va n = .ok (s.dev.mem.readBytes va n) := by
  induction n generalizing va with
  | zero => rfl
  | succ n ih =>
    simp [devReadIn, locate_plain start h lo (by omega) (by decide : Use.read ≠ .fetch), ih (va + 1) (by omega) (by omega), bind,
      Except.bind, placeMem, Memory.readBytes, foundSound, poisoned, h.poison, need]

/-- Nothing but the strand in focus has touched memory, no reduction is under way, nothing is poisoned or constant. -/
structure Quiet (s : State) : Prop where
  plain : Plain s (strandSpace s (me s))
  router : s.dev.router = []
  consts : s.dev.consts = []
  own : ∀ m ∈ s.dev.marks, m.party = .strand (me s)

theorem lowestTouch_false (p : Touch → Bool) (h : ∀ t, p t = false) (ts : List Touch) : lowestTouch p ts = none := by
  unfold lowestTouch
  suffices hs : ∀ acc : Option Touch, ts.foldl (fun acc t => if p t then (match acc with | some b => if t.2 < b.2 then some t else acc | none => some t) else acc) acc = acc by
    exact hs none
  intro acc
  induction ts generalizing acc with
  | nil => rfl
  | cons t ts ih => simp [h t, ih]

theorem orderTrap_quiet {s : State} (h : Quiet s) (kind : AccKind) (w sync : Bool) (ts : List Touch) :
    orderTrap s (strandAccess s kind w sync) ts = none := by
  have hm : ∀ t : Touch, s.dev.marks.any (conflicts s.dev.marks (strandAccess s kind w sync) t.1) = false := by
    intro t
    rw [List.any_eq_false]
    intro m hm
    have : m.party = (strandAccess s kind w sync).party := h.own m hm
    simp [conflicts, this]
  have hc : ∀ t : Touch, (!(constHits s t.1).isEmpty) = false := by
    intro t
    simp [constHits, h.consts]
  unfold orderTrap
  rw [lowestTouch_false _ hc, lowestTouch_false _ hm]
  simp

theorem mem_addMark {l : List Mark} {m x : Mark} (h : x ∈ addMark l m) : x = m ∨ x ∈ l := by
  induction l with
  | nil => simpa [addMark] using h
  | cons n l ih =>
    simp only [addMark] at h
    split at h
    · rcases List.mem_cons.mp h with h | h
      · exact .inl h
      · exact .inr (List.mem_cons_of_mem _ h)
    · rcases List.mem_cons.mp h with h | h
      · exact .inr (h ▸ List.mem_cons_self)
      · exact (ih h).imp id (List.mem_cons_of_mem _)

theorem quiet_mark {s : State} (h : Quiet s) (kind : AccKind) (w sync : Bool) (ts : List Touch) :
    Quiet (mark (strandAccess s kind w sync) ts s) := by
  refine ⟨⟨h.plain.root, h.plain.top, h.plain.leaf, h.plain.tlb, h.plain.poison⟩, h.router, h.consts, ?_⟩
  show ∀ m ∈ ts.foldl (fun l t => addMark l ⟨t.1, .strand (me s), kind, w, sync, [⟨s.tile.ord.po, .sys⟩], 0, .sys⟩) s.dev.marks,
    m.party = .strand (me s)
  have : ∀ l : List Mark, (∀ m ∈ l, m.party = .strand (me s)) → ∀ m ∈ ts.foldl (fun l t => addMark l ⟨t.1, .strand (me s), kind, w, sync, [⟨s.tile.ord.po, .sys⟩], 0, .sys⟩) l,
      m.party = .strand (me s) := by
    induction ts with
    | nil => exact fun l hl => hl
    | cons t ts ih =>
      intro l hl
      refine ih _ fun m hm => ?_
      rcases mem_addMark hm with rfl | hm
      · rfl
      · exact hl m hm
  exact this _ h.own

/-- Using the page changes the cached translations at most. -/
theorem touch_plain {s : State} {as : AddrSpace} (u : Use) (p : Place) (a : Nat) (h : Plain s as) :
    ∃ l, touch as u ⟨leaf0, p, a⟩ s = onDev (fun d => { d with tlb := l }) s ∧ ∀ e ∈ l, e.leaf = leaf0 := by
  have hm : markUsed as u.writes leaf0 s = s := by
    have ha : pteA 0x200004CF = true := by decide
    have hd : pteD 0x200004CF = true := by decide
    simp [markUsed, show leaf0.eaddr = 8 from rfl, show leaf0.entry = 0x200004CF from rfl, h.leaf, ha, hd]
  simp only [touch, hm]
  unfold remember
  split
  · next e he =>
    have h0 : e.entry = 0x200004CF := congrArg Leaf.entry (h.tlb e (List.mem_of_find?_eq_some he))
    rw [if_pos (by rw [h0]; cases u.writes <;> decide)]
    exact ⟨s.dev.tlb, rfl, h.tlb⟩
  · refine ⟨_, rfl, fun e he => ?_⟩
    rcases List.mem_cons.mp he with rfl | he
    · cases u.writes <;> rfl
    · exact h.tlb e he

theorem plain_tlb {s : State} {as : AddrSpace} {l : List TlbEntry} (h : Plain s as) (hl : ∀ e ∈ l, e.leaf = leaf0) :
    Plain (onDev (fun d => { d with tlb := l }) s) as := ⟨h.root, h.top, h.leaf, hl, h.poison⟩

theorem quiet_tlb {s : State} {l : List TlbEntry} (h : Quiet s) (hl : ∀ e ∈ l, e.leaf = leaf0) :
    Quiet (onDev (fun d => { d with tlb := l }) s) := ⟨plain_tlb h.plain hl, h.router, h.consts, h.own⟩

theorem quiet_use {s : State} (h : Quiet s) (p : Piece) (u : Use) :
    Quiet (useSpot (self s) u ⟨p, some leaf0⟩ s) ∧
      ∃ l, useSpot (self s) u ⟨p, some leaf0⟩ s = onDev (fun d => { d with tlb := l }) s := by
  obtain ⟨l, hl, hle⟩ := touch_plain u p.place p.addr h.plain
  rw [show useSpot (self s) u ⟨p, some leaf0⟩ s = _ from hl]
  exact ⟨quiet_tlb h hle, l, rfl⟩

theorem onDev_onDev (f g : Dev → Dev) (s : State) : onDev f (onDev g s) = onDev (fun d => f (g d)) s := rfl

theorem mark_eq (a : Access) (ts : List Touch) (s : State) : ∃ ms, mark a ts s = onDev (fun d => { d with marks := ms }) s := ⟨_, rfl⟩

theorem onDev_mem (f : Dev → Dev) (s : State) : (onDev f s).dev.mem = (f s.dev).mem := rfl

/-- Bytes of the page can be read as coherent loads, which leave marks and a cached translation. -/
theorem coherentFrom_quiet (start n : Nat) {s : State} {va : Nat} (h : Quiet s) (lo : 0x200000 ≤ va) (hi : va + n ≤ 0x400000) :
    ∃ v l ms, coherentFrom s start va n = .ok (v, s.dev.mem.readBytes va n) ∧ Quiet v ∧
      v = onDev (fun d => { d with tlb := l, marks := ms }) s := by
  induction n generalizing s va with
  | zero => exact ⟨s, s.dev.tlb, s.dev.marks, rfl, h, rfl⟩
  | succ n ih =>
    have hs := globalByte_plain (w := self s) (u := .read) start h.plain lo (by omega) (by decide)
    have h1 := quiet_mark h .load false false (Piece.touches ⟨.dev, va, 1, va⟩)
    have hr : ownRouted s (Piece.touches ⟨.dev, va, 1, va⟩) = .ok () := by simp [ownRouted, h.router, need]
    obtain ⟨m1, e1⟩ := mark_eq (strandAccess s .load false false) (Piece.touches ⟨.dev, va, 1, va⟩) s
    have hp : poisonTrap (mark (strandAccess s .load false false) (Piece.touches ⟨.dev, va, 1, va⟩) s) ⟨.dev, va, 1, va⟩ = .ok () := by
      rw [e1]
      simp [poisonTrap, poisoned, h.plain.poison, need]
    obtain ⟨h2, l2, e2⟩ := quiet_use h1 ⟨.dev, va, 1, va⟩ .read
    obtain ⟨v, l, ms, hv, hq, hm⟩ := ih (va := va + 1) h2 (by omega) (by omega)
    have ho := orderTrap_quiet h .load false false (Piece.touches ⟨.dev, va, 1, va⟩)
    have es : self (mark (strandAccess s .load false false) (Piece.touches ⟨.dev, va, 1, va⟩) s) = self s := rfl
    rw [es] at e2 hv hm
    rw [e2, e1, onDev_onDev] at hv hm
    rw [onDev_onDev] at hm
    refine ⟨v, l, ms, ?_, hq, hm⟩
    simp only [coherentFrom, hs, bind, Except.bind, hp, hr, perform, ho, es]
    rw [e2, e1, onDev_onDev, hv, hm]
    simp only [placeMem, onDev_mem, Memory.readBytes]

theorem coherentBytes_quiet (n : Nat) {s : State} {va : Nat} (h : Quiet s) (lo : 0x200000 ≤ va) (hi : va + n ≤ 0x400000) :
    ∃ v l ms, coherentBytes s va n = .ok (v, s.dev.mem.readBytes va n) ∧ Quiet v ∧
      v = onDev (fun d => { d with tlb := l, marks := ms }) s := coherentFrom_quiet va n h lo hi

theorem mapM_answers {α β : Type} {f : α → Except Stop β} {g : α → β} (l : List α) (h : ∀ x ∈ l, f x = .ok (g x)) :
    l.mapM f = .ok (l.map g) := by
  induction l with
  | nil => rfl
  | cons x l ih =>
    rw [List.mapM_cons, h x List.mem_cons_self, ih fun y hy => h y (List.mem_cons_of_mem _ hy)]
    rfl

/-- Bytes of the page can be written as stores of the strand. -/
theorem imageWrite_quiet {s : State} {va : Nat} {bytes : List Byte} (h : Quiet s) (lo : 0x200000 ≤ va)
    (hi : va + bytes.length ≤ 0x400000) : ∃ u, imageWrite va bytes s = .ok u := by
  have hs : engSpots s (self s) .glob .write va bytes.length =
      .ok ((List.range bytes.length).map fun i => ⟨⟨.dev, va + i, 1, va + i⟩, some leaf0⟩) := by
    refine mapM_answers _ fun i hin => ?_
    have := List.mem_range.mp hin
    rw [Nat.mod_eq_of_lt (by omega : va + i < 2 ^ 64)]
    exact globalByte_plain va h.plain (by omega) (by omega) (by decide)
  have hf : ((List.range bytes.length).map fun i => (⟨⟨.dev, va + i, 1, va + i⟩, some leaf0⟩ : Spot)).find?
      (fun p => !storeFormatOk (pageFmt p.leaf) .z8) = none := by
    simp only [List.find?_eq_none, List.mem_map]
    rintro p ⟨i, _, rfl⟩
    show ¬ (!storeFormatOk (pageFmt (some leaf0)) .z8) = true
    decide
  simp only [imageWrite, engWrite, Datum.whole, hs, bind, Except.bind, hf, perform, orderTrap_quiet h]
  exact ⟨_, rfl⟩

theorem read_range {m : Memory} {a v : Nat} {b : Byte} (n : Nat) (h : m.wf = true) (hv : a + n ≤ v) :
    (m.write v b).readBytes a n = m.readBytes a n := by
  induction n generalizing a with
  | zero => rfl
  | succ n ih =>
    rw [Memory.readBytes, Memory.readBytes, ih (by omega), Memory.read_write v b a h, if_neg (by omega)]

/-- Bytes of the page can be written by the device. -/
theorem devWrite_plain {as : AddrSpace} (start : Nat) (bs : List Byte) {s : State} {va : Nat} (h : Plain s as)
    (hw : s.dev.mem.wf = true) (lo : 0x200000 ≤ va) (hi : va + bs.length ≤ 0x400000) : ∃ u, devWriteIn as start va bs s = .ok u := by
  induction bs generalizing s va with
  | nil => exact ⟨s, rfl⟩
  | cons b bs ih =>
    have hl : va + bs.length + 1 ≤ 0x400000 := by simpa [Nat.add_assoc] using hi
    obtain ⟨l, ht, hle⟩ := touch_plain .write .dev va h
    have h2 : Plain (onDev (fun d => { d with tlb := l, mem := d.mem.write va b }) s) as := by
      refine ⟨h.root, ?_, ?_, hle, h.poison⟩
      · exact (congrArg leNat (read_range 8 hw (by omega))).trans h.top
      · exact (congrArg leNat (read_range 8 hw (by omega))).trans h.leaf
    obtain ⟨u, hu⟩ := ih h2 (Memory.write_wf va b hw) (va := va + 1) (by omega) (by omega)
    refine ⟨u, ?_⟩
    simp only [devWriteIn, locate_plain start h lo (by omega) (by decide : Use.write ≠ .fetch), bind, Except.bind, ht]
    exact hu

/-- A ring slot in the page can be written. -/
theorem writeSlot_plain {q i : Nat} {bs : List Byte} {s : State} (hq : (queueAt s q).qhost = false)
    (h : Plain s (spaceOf s (queueAt s q).owner (queueAt s q).pasid)) (hw : s.dev.mem.wf = true)
    (lo : 0x200000 ≤ slotAddr (queueAt s q) i) (hi : slotAddr (queueAt s q) i + bs.length < 0x400000) :
    ∃ v, writeSlot q i bs s = some v := by
  obtain ⟨v, hv⟩ := devWrite_plain (slotAddr (queueAt s q) i) bs h hw lo (by omega)
  have hl : slotLocal s (queueAt s q) .write i = true := by
    simp [slotLocal, locate, locate_plain (slotAddr (queueAt s q) i) h lo (by omega) (by decide : Use.write ≠ .fetch)]
  exact ⟨v, by simp [writeSlot, hq, hl, devWrite, hv]⟩

/-- Reading a driver-table entry uses its page. -/
theorem useDesc_quiet {s : State} (h : Quiet s) {tdi a : Nat}
    (ha : ((queueAt s (me s).queue).dtbase.toNat + 64 * rootIndex s tdi) % 2 ^ 64 = a) (lo : 0x200000 ≤ a)
    (hi : a + 64 ≤ 0x400000) : Quiet (useDesc tdi s) := by
  have one : ∀ (v : State) (b : Nat), Plain v (strandSpace s (me s)) → 0x200000 ≤ b → b < 0x400000 →
      locate v (strandSpace s (me s)) .read b = .ok ⟨leaf0, .dev, b⟩ := fun v b hv lo hi =>
    locate_plain b hv lo hi (by decide)
  obtain ⟨l, hl, hle⟩ := touch_plain .read .dev a h.plain
  have h1 := quiet_tlb h hle
  obtain ⟨l2, hl2, hle2⟩ := touch_plain .read .dev (a + 64 - 1) (plain_tlb h.plain hle)
  simp only [useDesc, devUsed, ha, one s a h.plain lo (by omega), hl,
    one _ (a + 64 - 1) (plain_tlb h.plain hle) (by omega) (by omega), hl2]
  split
  · exact h1
  · exact quiet_tlb h1 hle2

/-- What makes a state quiet, as something that can be decided. -/
theorem quiet_of {s : State} (h : (strandSpace s (me s)).root = 0 ∧ s.dev.mem.readNat 0 8 = 1 ∧ s.dev.mem.readNat 8 8 = 0x200004CF ∧
    s.dev.tlb = [] ∧ s.dev.poison = [] ∧ s.dev.router = [] ∧ s.dev.consts = [] ∧ s.dev.marks = []) : Quiet s := by
  obtain ⟨h1, h2, h3, h4, h5, h6, h7, h8⟩ := h
  exact ⟨⟨h1, h2, h3, by simp [h4], h5⟩, h6, h7, by simp [h8]⟩

/-- A driver-table entry read from the memory of the page. -/
def quickDesc (s : State) (tdi : Nat) : Except Stop Desc := do
  let q := queueAt s (me s).queue
  need (decide (tdi < q.dtsize)) (.cause 0x050 tdi)
  let x := s.dev.mem.readNat (0x220000 + 64 * tdi) 64
  need (!descRefused x) (.cause 0x051 tdi)
  match descOf x with
  | some d => .ok { d with tdi := tdi }
  | none => .error (.cause 0x051 tdi)

theorem driverDesc_quiet {s : State} (h : Quiet s) {tdi a : Nat} (ha : ((queueAt s (me s).queue).dtbase.toNat + 64 * tdi) % 2 ^ 64 = a)
    (lo : 0x200000 ≤ a) (hi : a + 64 ≤ 0x400000) : driverDesc s (me s) tdi tdi = (do
      need (decide (tdi < (queueAt s (me s).queue).dtsize)) (.cause 0x050 tdi)
      need (!descRefused (s.dev.mem.readNat a 64)) (.cause 0x051 tdi)
      match descOf (s.dev.mem.readNat a 64) with
      | some d => .ok { d with tdi := tdi }
      | none => .error (.cause 0x051 tdi)) := by
  unfold driverDesc
  simp only [ha, devRead, devRead_plain _ h.plain 64 _ lo hi, bind, Except.bind, Memory.readNat]
  all_goals
    generalize need (decide (tdi < _)) _ = a
    cases a with
    | error _ => rfl
    | ok _ =>
      generalize leNat _ = x
      generalize need (!descRefused x) _ = b
      cases b with
      | error _ => rfl
      | ok _ => generalize descOf x = c; cases c <;> rfl

theorem getDesc_quiet {s : State} (h : Quiet s) {tdi : Nat} (ht : tdi < 64)
    (hb : (queueAt s (me s).queue).dtbase = 0x220000) : getDesc s tdi = quickDesc s tdi := by
  have e : ((queueAt s (me s).queue).dtbase.toNat + 64 * tdi) % 2 ^ 64 = 0x220000 + 64 * tdi := by
    rw [hb, show (0x220000 : Word).toNat = 0x220000 from rfl]
    omega
  have ht' : tdi < 0xFFC0 := by omega
  rw [getDesc, if_pos ht', driverDesc_quiet h e (by omega) (by omega), quickDesc]

/-- A descriptor that can be read and satisfies `p`. -/
theorem exists_desc {s : State} {tdi : Nat} {p : Desc → Bool} (h : Quiet s)
    (hb : (queueAt s (me s).queue).dtbase = 0x220000 ∧ tdi < 64 ∧ answersWith (quickDesc s tdi) p = true) :
    ∃ e, getDesc s tdi = .ok e ∧ p e = true := by
  obtain ⟨h1, h2, h3⟩ := hb
  rw [getDesc_quiet h h2 h1]
  exact exists_answer h3

/-- An image descriptor read from the memory of the page. -/
def quickImage (s : State) (tdi rights : Nat) : Except Stop Desc := do
  let d ← quickDesc s tdi
  needRights d tdi rights
  need (d.space == .glob && d.ndim == 1 && d.fmt == 0x04 && d.stride.getD 0 0 == 1) (.cause 0x053 tdi)
  .ok d

theorem exists_image {s : State} {tdi r : Nat} {p : Desc → Bool} (h : Quiet s)
    (hb : (queueAt s (me s).queue).dtbase = 0x220000 ∧ tdi < 64 ∧ answersWith (quickImage s tdi r) p = true) :
    ∃ e, imageDesc s tdi r = .ok e ∧ p e = true := by
  obtain ⟨h1, h2, h3⟩ := hb
  rw [imageDesc, getDesc_quiet h h2 h1]
  exact exists_answer h3
/-! ### Hypotheses of the statements: control flow, traps, ends -/

/-- A taken branch of the most negative offset, over address 0 to the top of the address space. -/
theorem meets_branch_taken :
    Taken .lt (getS m0 1) (getS m0 2) ∧ Canonical (getPc m0 + 8 * (0x800000 : BitVec 24).signExtend 64) := by
  unfold Taken Canonical; decide +kernel

theorem meets_branch_not_taken : ¬ Taken .ge (getS m0 1) (getS m0 2) := by unfold Taken; decide +kernel

theorem meets_jump : Canonical (getPc m0 + 8 * (0x7FFFFFF : BitVec 28).signExtend 64) := by unfold Canonical; decide +kernel

/-- S3 and S4: the last aligned and the first address beyond the low half; S5 is misaligned. -/
def edge : State := base 0xFFFFFFFFFFFFF8 0x100000000000000 0x1004 0 0

theorem meets_jr : Canonical (getS edge 3) ∧ (getS edge 3).toNat % 8 = 0 := by unfold Canonical; decide +kernel

theorem meets_branch_trap : let s := setPc 0xFFFFFFFFFFFFF8 m0
    Taken .eq (getS s 1) (getS s 1) ∧ ¬ Canonical (getPc s + 8 * (1 : BitVec 24).signExtend 64) := by
  unfold Taken Canonical; decide +kernel

theorem meets_jump_trap : ¬ Canonical (getPc (setPc 0xFFFFFFFFFFFFF8 m0) + 8 * (1 : BitVec 28).signExtend 64) := by
  unfold Canonical; decide +kernel

theorem meets_jr_misaligned : (getS edge 5).toNat % 8 ≠ 0 := by decide +kernel

theorem meets_jr_trap : (getS edge 4).toNat % 8 = 0 ∧ ¬ Canonical (getS edge 4) := by unfold Canonical; decide +kernel

theorem meets_brk : let s := onTask 0 0 (fun t => { t with debugger := true }) m0
    (taskOf m0 (me m0)).debugger = false ∧ (taskOf s (me s)).debugger = true := by
  decide +kernel

theorem meets_yield : m0.tile.yieldReq = none ∧ ({ m0 with tile := { m0.tile with yieldReq := some 3 } } : State).tile.yieldReq = some 3 := by
  decide +kernel

theorem meets_feature : ((0x0001 : BitVec 16).toNat, 0x00010000) ∈ featureTable ∧ ((0x000A : BitVec 16).toNat, 64) ∈ featureTable ∧
    ((0x0003 : BitVec 16).toNat, 0) ∈ featureTable ∧ 0x0113 ≤ (0x0113 : BitVec 16).toNat ∧ 0x0113 ≤ (0xFFFF : BitVec 16).toNat := by
  decide +kernel

theorem meets_identity : ((0x00 : BitVec 8).toNat, 0) ∈ identityTable (me m0) (taskOf m0 (me m0)).trec ∧
    ((0x03 : BitVec 8).toNat, 2) ∈ identityTable (me m0) (taskOf m0 (me m0)).trec ∧
    ((0x0C : BitVec 8).toNat, 0) ∈ identityTable (me m0) (taskOf m0 (me m0)).trec := by decide +kernel

theorem meets_identity_trap : 0x80 ≤ (0x80 : BitVec 8).toNat ∧ (0x83 : BitVec 8).toNat ≤ 0x83 := by decide

theorem meets_control : (CtlReg.vl, (64 : Word)) ∈ controlTable m0.tile ∧ CtlReg.cwav ∈ [CtlReg.quota, .cycle, .vl, .cwlr, .cwlv, .cwsr, .cwsv, .cwar, .cwav] := by
  decide +kernel

theorem meets_banks_trap : ∃ k < 4, bankCode ((getS (base 0xC0 0 0 0 0) 3).setWidth 8) k = 3 := by decide +kernel

theorem meets_banks : ∀ k < 4, bankCode ((getS (base 0x186 0 0 0 0) 3).setWidth 8) k ≠ 3 := by decide +kernel

theorem meets_layout : (0x1FF : Nat) < 2 ^ 9 ∧ 2 ^ 64 - 1 < 2 ^ 64 ∧ 2 ^ 32 - 1 < 2 ^ 32 ∧ 63 < 64 ∧
    (⟨0, false, none⟩ : Report).cmd = none ∧
    (⟨0, true, some (.fibre, 70000, 2 ^ 64 - 1, true)⟩ : Report).cmd = some (.fibre, 70000, 2 ^ 64 - 1, true) := by decide +kernel

theorem meets_record : Placed m0 0 key0 ∧ 0 < (taskOf m0 key0).trec.trapSlots ∧
    ∃ u, devWrite (strandSpace m0 key0) 0x210000
      (trapBytes (onTask 0 0 (fun x => { x with traps := 1 }) m0) 0 key0 1 ⟨0x1000, false, none⟩ ⟨3, 0, 0, []⟩)
      (onTask 0 0 (fun x => { x with traps := 1 }) m0) = .ok u := by
  refine ⟨by unfold Placed; decide +kernel, by decide +kernel, ?_⟩
  have hp : Plain (onTask 0 0 (fun x => { x with traps := 1 }) m0) (strandSpace m0 key0) :=
    ⟨by decide +kernel, by decide +kernel, by decide +kernel, fun _ he => absurd he List.not_mem_nil, by decide +kernel⟩
  have hl : (trapBytes (onTask 0 0 (fun x => { x with traps := 1 }) m0) 0 key0 1 ⟨0x1000, false, none⟩ ⟨3, 0, 0, []⟩).length = 128 := by
    decide +kernel
  exact devWrite_plain _ _ hp (by decide +kernel) (by omega) (by omega)

/-- The task of the small machine under another fault policy. -/
def policy (p : Nat) (s : State) : State := onTask 0 0 (fun t => { t with trec := { t.trec with policy := p } }) s

theorem meets_hold : Placed m0 0 key0 ∧ (taskOf m0 key0).trec.policy = 2 ∧ 0x140 ≠ 0x141 := by unfold Placed; decide +kernel

/-- Member 0 halted for debug. -/
def haltedHere (s : State) : State := { s with tile := { s.tile with run := .halted .running } }

theorem meets_hold_halted : Placed (haltedHere m0) 0 key0 ∧ (taskOf (haltedHere m0) key0).trec.policy = 2 ∧
    (tileAt (haltedHere m0) 0).run = .halted .running ∧ (tileAt m0 0).run = .running := by
  unfold Placed; decide +kernel

theorem meets_stop : Placed (policy 1 m0) 0 key0 ∧ (taskOf (policy 0 m0) key0).trec.policy = 0 ∧
    (taskOf (policy 1 m0) key0).trec.policy = 1 ∧ (gangOf (policy 1 m0) key0).members[key0.tile]? = some (.on 0) := by
  unfold Placed; decide +kernel

/-- A copy of the strand of member 0 stands in the load queue. -/
def copying (s : State) : State := { s with tile := { s.tile with qLoad := [cmd0 (.mzero 0 0 1 1)] } }

theorem meets_end : Placed m0 m0.tileNo (me m0) ∧ owedAcks (owing m0) (me (owing m0)) = true ∧
    owedAcks m0 (me m0) = false ∧ maskDrained (copying m0).tile (me (copying m0)) 1 = false ∧ owedAcks (copying m0) (me (copying m0)) = false ∧
    maskDrained m0.tile (me m0) 0xF = true ∧ (me m0).tile < (gangOf m0 (me m0)).members.length := by
  unfold Placed; decide +kernel

theorem meets_end_placed : Placed (owing m0) (owing m0).tileNo (me (owing m0)) ∧
    Placed (copying m0) (copying m0).tileNo (me (copying m0)) := by
  unfold Placed; decide +kernel

/-! ### Synchronisation -/

/-- Member 0 has arrived at barrier 1, the last of its task. -/
def arrived : State := onGang 0 0 0 (fun g => { g with pending := [[], [0]] }) m0

theorem meets_barrier : Placed m0 m0.tileNo (me m0) ∧ 1 < (taskOf m0 (me m0)).trec.nbar ∧ ¬ 2 < (taskOf m0 (me m0)).trec.nbar ∧
    isPending (gangOf m0 (me m0)) 1 (me m0).tile = false ∧ m0.tile.barStage ≠ some 1 ∧ owedAcks m0 (me m0) = false := by
  unfold Placed; decide +kernel

theorem meets_barrier_pending : Placed arrived arrived.tileNo (me arrived) ∧ 1 < (taskOf arrived (me arrived)).trec.nbar ∧
    isPending (gangOf arrived (me arrived)) 1 (me arrived).tile = true := by unfold Placed; decide +kernel

theorem meets_barrier_owing : let s := owing m0
    Placed s s.tileNo (me s) ∧ 1 < (taskOf s (me s)).trec.nbar ∧ isPending (gangOf s (me s)) 1 (me s).tile = false ∧
      owedAcks s (me s) = true := by unfold Placed; decide +kernel

theorem meets_barrier_second : let s : State := { m0 with tile := { m0.tile with barStage := some 1 } }
    Placed s s.tileNo (me s) ∧ 1 < (taskOf s (me s)).trec.nbar ∧ isPending (gangOf s (me s)) 1 (me s).tile = false ∧
      owedAcks s (me s) = false ∧ s.tile.barStage = some 1 := by unfold Placed; decide +kernel

/-- The load channel has issued 5 copies, 4 of them read, 3 visible; one of them has left a mark. -/
def waiting : State :=
  let s : State := { m0 with tile := { m0.tile with chLoad := ⟨5, 4, 3, [], []⟩ } }
  onDev (fun d => { d with
    marks := [⟨⟨.dev, 7⟩, .copy key0 .load 3, .copyRead, false, false, [], 3, .dev⟩] }) s

theorem meets_copy_wait : let s := waiting
    s.tile.chLoad.readMark < min (getS s 1).toNat s.tile.chLoad.last ∧
    s.tile.chLoad.visMark < min (getS s 2).toNat s.tile.chLoad.last := by decide +kernel

theorem meets_copy_done : let s := setS 1 3 waiting
    min (getS s 1).toNat s.tile.chLoad.last ≤ s.tile.chLoad.visMark ∧ min (getS s 1).toNat s.tile.chLoad.last ≤ s.tile.chLoad.readMark ∧
    owedAcks s (me s) = false ∧ owedAcks (owing s) (me (owing s)) = true ∧
    ∃ m ∈ s.dev.marks, m.party = .copy (me s) .load 3 ∧ m.kind = .copyRead := by decide +kernel

/-- Reply queue 1 with two entries, the older of a COLL, and one reservation. -/
def replied : State :=
  { m0 with tile := { m0.tile with replies := m0.tile.replies.set 1 ⟨[0xC000000000000001, 0x1000000000000002], 1⟩ } }

theorem meets_reply_wait : replied.tile.replies[(1 : QReg)].entries.length <
    min (min (getS replied 2).toNat (replied.tile.replies[(1 : QReg)].entries.length + replied.tile.replies[(1 : QReg)].reserved)) 16 := by
  decide +kernel

theorem meets_reply_there : min (min (getS (setS 3 2 replied) 3).toNat 3) 16 ≤ replied.tile.replies[(1 : QReg)].entries.length := by
  decide +kernel

theorem meets_waite : maskDrained (copying m0).tile (me (copying m0)) 1 = false ∧ maskDrained (copying m0).tile (me (copying m0)) 0 = true := by
  decide +kernel

theorem meets_pop : m0.tile.replies[(1 : QReg)].entries = [] ∧
    replied.tile.replies[(1 : QReg)].entries = 0xC000000000000001 :: [0x1000000000000002] ∧
    (0xC000000000000001 : Word).toNat / 2 ^ 60 = 0xC ∧ owedAcks (owing replied) (me (owing replied)) = true ∧
    owedAcks replied (me replied) = false := by decide +kernel

theorem meets_fence : owedAcks (owing m0) (me (owing m0)) = true ∧ owedAcks m0 (me m0) = false := by decide +kernel
/-! ### LAUNCH, SIGINC, TDNARROW -/

/-- Queues 0, 1 and 5 are open to device enqueue, of 4 slots; the ring of queue 0, at VA 240000H, has one more free, that of
queue 1 none; that of queue 5 is in host memory, which the translation agent does not know. The record to launch lies at VA
230000H (S3); S4, S5 and S1 are the queue numbers, 0, 1 and 5. -/
def launching : State :=
  let q : Queue := { Queue.blank with devenq := true, state := .running, qbase := 0x240000, qlog2 := 2, head := 1 }
  onQueue 5 (fun _ => { q with tail := 2, qhost := true }) <| onQueue 0 (fun _ => { q with tail := 2 }) (onQueue 1 (fun _ => { q with tail := 5 }) (base 0x230000 0 1 0x230080 4096))

theorem meets_launch_closed : ¬ (getS launching 7).toNat < 4096 := by decide +kernel

theorem meets_launch_open : let s := launching
    (getS s 4).toNat < 4096 ∧ (queueAt s 0).devenq = true ∧ (queueAt s 0).owner = (taskOf s (me s)).fn ∧
      (queueAt s 0).state ≠ .disabled ∧ (queueAt s 0).state ≠ .error ∧ (queueAt s 1).devenq = true ∧
      (queueAt s 1).owner = (taskOf s (me s)).fn ∧ (queueAt s 1).state ≠ .disabled ∧ (queueAt s 1).state ≠ .error := by
  decide +kernel

theorem meets_launch_traps : ¬ Canonical (getS (base 0x100000000000000 0 0 0 0) 3) ∧ Canonical (getS launching 6) ∧
    (getS launching 6).toNat % 256 ≠ 0 := by
  unfold Canonical; decide +kernel

theorem launching_quiet : Quiet launching := quiet_of (by decide +kernel)

theorem meets_launch : let s := launching
    Canonical (getS s 3) ∧ (getS s 3).toNat % 256 = 0 ∧
    ((queueAt s 0).tail + 2 ^ 32 - (queueAt s 0).head) % 2 ^ 32 ≠ 2 ^ (queueAt s 0).qlog2 ∧
    ((queueAt s 1).tail + 2 ^ 32 - (queueAt s 1).head) % 2 ^ 32 = 2 ^ (queueAt s 1).qlog2 ∧
    ∃ u v bytes, coherentBytes s 0x230000 256 = .ok (u, bytes) ∧ writeSlot 0 (queueAt s 0).tail bytes u = some v := by
  refine ⟨by unfold Canonical; decide +kernel, by decide +kernel, by decide +kernel, by decide +kernel, ?_⟩
  obtain ⟨u, l, ms, hu, hq, rfl⟩ := coherentBytes_quiet 256 launching_quiet (va := 0x230000) (by omega) (by omega)
  have hs : slotAddr (queueAt launching 0) (queueAt launching 0).tail = 0x240200 := by decide +kernel
  have hr : (spaceOf launching (queueAt launching 0).owner (queueAt launching 0).pasid).root = 0 := by decide +kernel
  have hp : Plain (onDev (fun d => { d with tlb := l, marks := ms }) launching)
      (spaceOf launching (queueAt launching 0).owner (queueAt launching 0).pasid) :=
    ⟨hr, hq.plain.top, hq.plain.leaf, hq.plain.tlb, hq.plain.poison⟩
  have hh : (queueAt launching 0).qhost = false := by decide +kernel
  obtain ⟨v, hv⟩ := writeSlot_plain (q := 0) (i := (queueAt launching 0).tail) (bs := launching.dev.mem.readBytes 0x230000 256)
    (s := onDev (fun d => { d with tlb := l, marks := ms }) launching) hh hp
    (by decide +kernel : launching.dev.mem.wf = true) (hs ▸ (by omega)) (hs ▸ (by rw [Memory.readBytes_length]; omega))
  exact ⟨_, v, _, hu, hv⟩

/-- The slot of queue 5 cannot be written. -/
theorem meets_launch_slot : let s := launching
    ((queueAt s 5).tail + 2 ^ 32 - (queueAt s 5).head) % 2 ^ 32 ≠ 2 ^ (queueAt s 5).qlog2 ∧ (queueAt s 5).state ≠ .aborting ∧
    ∃ u bytes, coherentBytes s 0x230000 256 = .ok (u, bytes) ∧ writeSlot 5 (queueAt s 5).tail bytes u = none := by
  refine ⟨by decide +kernel, by decide +kernel, ?_⟩
  obtain ⟨u, l, ms, hu, hq, rfl⟩ := coherentBytes_quiet 256 launching_quiet (va := 0x230000) (by omega) (by omega)
  refine ⟨_, _, hu, ?_⟩
  have hh : (queueAt launching 5).qhost = true := by decide +kernel
  have one : ∀ (bs : List Byte) (fn pasid addr : Nat), bs ≠ [] →
      pasidWrite fn pasid addr bs (onDev (fun d => { d with tlb := l, marks := ms }) launching) = none := by
    intro bs fn pasid addr hb
    cases bs with
    | nil => exact absurd rfl hb
    | cons b bs => rfl
  have h5 : (queueAt (onDev (fun d => { d with tlb := l, marks := ms }) launching) 5).qhost = true := hh
  have hw : ∀ i bs, bs ≠ [] → writeSlot 5 i bs (onDev (fun d => { d with tlb := l, marks := ms }) launching) = none := by
    intro i bs hb
    simp only [writeSlot, h5, if_true]
    exact one bs _ _ _ hb
  refine hw _ _ fun h => ?_
  have hl := congrArg List.length h
  rw [Memory.readBytes_length] at hl
  exact absurd hl (by decide)

/-- S3 is the address of a counter. -/
def counting : State := withBytes 0x208000 8 41 (base 0x208000 0 0 0 0)

theorem meets_siginc : memoriesWf counting = true ∧ ∃ x, findScalar counting .glob .update .s64 (getS counting 3).toNat = .ok x ∧
    decide (pageFmt x.spot.leaf = none ∧ amoServed counting x.spot.piece 0 = .ok () ∧ poisonTrap counting x.spot.piece = .ok () ∧
      owedAcks counting (me counting) = false ∧ ownRouted counting x.spot.piece.touches = .ok () ∧
      orderTrap counting { strandAccess counting .sync true true with claims := true } x.spot.piece.touches = none) = true := by
  refine ⟨by decide +kernel, exists_answer (by decide +kernel)⟩

/-- Descriptor 0: 64 x 32 elements S32 at VA 250000H with every right; the narrowing block at 100H of the scratchpad (S3)
takes 16 x 8 of them from (4, 2) on; S4 is the last place for a block, S5 one too far, S6 misaligned. -/
def narrowing : State :=
  let s := withDescs [descBits 0x250000 0 2 31 [(64, 1), (32, 64)] 0] (base 0x100 (0x200000 - 44) (0x200000 - 40) 0x102 0)
  { s with tile := { s.tile with
    pad := Memory.writeNat [] 0x100 44 (4 + 2 * 2 ^ 32 + 16 * 2 ^ 160 + 8 * 2 ^ 192 + 3 * 2 ^ 320) } }

theorem narrowing_quiet : Quiet narrowing := quiet_of (by decide +kernel)

/-- The block at S3 narrows descriptor 0; one that reaches out of it by one element, one that keeps a path it lacks, and one with a
reserved bit do not. -/
theorem meets_narrow : ∃ d, getDesc narrowing 0 = .ok d ∧
    (answersWith (narrow narrowing 0 d (narrowing.tile.pad.readNat (getS narrowing 3).toNat 44)) (fun p => p.rights == 3) &&
      stopsWith (narrow narrowing 0 d (49 + 16 * 2 ^ 160 + 8 * 2 ^ 192)) 0x053 &&
      stopsWith (narrow narrowing 0 d (16 * 2 ^ 160 + 8 * 2 ^ 192 + 32 * 2 ^ 320)) 0x052 &&
      stopsWith (narrow narrowing 0 d (16 * 2 ^ 160 + 8 * 2 ^ 192 + 64 * 2 ^ 320)) 0x051) = true :=
  exists_desc narrowing_quiet (by decide +kernel)

theorem meets_narrow_room : (getS narrowing 3).toNat + 44 ≤ 0x200000 ∧ (getS narrowing 3).toNat % 4 = 0 ∧
    orderTrap narrowing (strandAccess narrowing .load false false)
      (Piece.touches ⟨.pad narrowing.tileNo, 0x100, 44, padReport (me narrowing).tile 0x100⟩) = none := by decide +kernel

theorem meets_narrow_traps : 0x200000 < (getS narrowing 5).toNat + 44 ∧ (getS narrowing 4).toNat + 44 ≤ 0x200000 ∧
    (getS narrowing 6).toNat % 4 ≠ 0 ∧ (getS narrowing 6).toNat + 44 ≤ 0x200000 := by decide +kernel

/-! ### Contexts -/

/-- Descriptor 0: an image of 1 MiB at VA 280000H; descriptor 1: one of 400H bytes. S3, S4 and S5 are the extents 20H, 40H and
one row, S6 and S7 a base and a length beyond the scratchpad. -/
def saving : State :=
  withDescs [descBits 0x280000 0 4 31 [(0x100000, 1)] 0, descBits 0x280000 0 4 31 [(0x400, 1)] 0] (base 0x20 0x40 1 0x200000 0x30)

theorem saving_quiet : Quiet saving := quiet_of (by decide +kernel)

theorem meets_save_checks : 0x200000 < (getS saving 6).toNat + (getS saving 3).toNat ∧
    (getS saving 7).toNat + (getS saving 3).toNat ≤ 0x200000 ∧ (getS saving 7).toNat % 32 ≠ 0 ∧
    (getS saving 3).toNat + (getS saving 7).toNat ≤ 0x200000 ∧ (getS saving 3).toNat % 32 = 0 ∧
    (getS saving 3).toNat + (getS saving 4).toNat ≤ 0x200000 ∧ (getS saving 4).toNat % 32 = 0 ∧ 256 < (getS saving 6).toNat ∧
    (getS saving 5).toNat ≤ 256 := by decide +kernel

/-- The length of the image that `saving` writes: that of R379's layout with no engine commands. -/
theorem saving_length : recordLength (placeSections 0x400 (sectionsOf saving.tile (me saving) 8 0x20 0x40 1 [])) = 58192 := by
  have h := sectionsOf_lengths saving.tile (me saving) 8 0x20 0x40 1 []
  have he : engineLength (engineSection saving.tile (me saving)) = 128 := by decide +kernel
  have ht : saving.tile.seq.tables.length = 512 := by decide +kernel
  rw [he, ht] at h
  revert h
  generalize sectionsOf saving.tile (me saving) 8 0x20 0x40 1 [] = l
  intro h
  cases l with
  | nil => simp at h
  | cons b bs =>
    rw [List.map_cons] at h
    rw [recordLength_place, (List.cons.inj h).1, (List.cons.inj h).2]
    decide

theorem meets_save : atRest saving.tile (me saving) = true ∧ ∃ e u, imageDesc saving 0 rightWrite = .ok e ∧
    checkRegion saving e = .ok () ∧
    recordLength (placeSections 0x400 (sectionsOf (restTile saving.tile) (me saving) 8 0x20 0x40 1 [])) ≤ dimOf e 0 ∧
    recordLength (placeSections 0x400 (sectionsOf saving.tile (me saving) 8 0x20 0x40 1 [])) ≤ dimOf e 0 ∧
    imageWrite (elemAddr e 8 0) (recordBytes saving.tile (saveHead saving false 0 0x20 0x40 1) none
      (sectionsOf saving.tile (me saving) 8 0x20 0x40 1 [])) (useDesc 0 (countSave saving false 0)) = .ok u := by
  refine ⟨by decide +kernel, ?_⟩
  obtain ⟨e, he, hp⟩ := exists_image (p := fun e => decide (checkRegion saving e = .ok () ∧ 58192 ≤ dimOf e 0 ∧ elemAddr e 8 0 = 0x280000))
    (tdi := 0) (r := rightWrite) saving_quiet (by decide +kernel)
  obtain ⟨h1, h2, h3⟩ := of_decide_eq_true hp
  have hl : (recordBytes saving.tile (saveHead saving false 0 0x20 0x40 1) none
      (sectionsOf saving.tile (me saving) 8 0x20 0x40 1 [])).length = 58192 :=
    (recordBytes_length _ _ _ _).trans saving_length
  have hq : Quiet (useDesc 0 saving) := useDesc_quiet saving_quiet (a := 0x220000) (by decide +kernel) (by omega) (by omega)
  obtain ⟨u, hu⟩ := imageWrite_quiet hq (va := 0x280000)
    (bytes := recordBytes saving.tile (saveHead saving false 0 0x20 0x40 1) none (sectionsOf saving.tile (me saving) 8 0x20 0x40 1 []))
    (by omega) (by omega)
  have hr : restTile saving.tile = saving.tile := rfl
  exact ⟨e, u, he, h1, by rw [hr, saving_length]; exact h2, by rw [saving_length]; exact h2, by rw [h3]; exact hu⟩

/-- Descriptor 1 is too small for it. -/
theorem meets_save_small : ∃ e, imageDesc saving 1 rightWrite = .ok e ∧
    decide (dimOf e 0 < 58192 ∧ recordLength (placeSections 0x400 (sectionsOf (restTile saving.tile) (me saving) 8 0x20 0x40 1 [])) =
      recordLength (placeSections 0x400 (sectionsOf saving.tile (me saving) 8 0x20 0x40 1 []))) = true := by
  obtain ⟨e, he, hp⟩ := exists_image (p := fun e => decide (dimOf e 0 < 58192)) (tdi := 1) (r := rightWrite) saving_quiet
    (by decide +kernel)
  exact ⟨e, he, decide_eq_true ⟨of_decide_eq_true hp, rfl⟩⟩

theorem meets_save_no_key : keyOf saving (taskOf saving (me saving)).fn 63 = none ∧
    atRest (copying saving).tile (me (copying saving)) = false := by decide +kernel

/-- Offsets and lengths of the sections of that image. -/
def savedDirectory : List (Nat × Nat) :=
  [(0x400, 512), (0x600, 256), (0x700, 512), (0x900, 16384), (0x4900, 576), (0x4B40, 1024), (0x4F40, 4096), (0x5F40, 256),
   (0x6040, 13888), (0x9680, 128), (0x9700, 17920), (0xDD00, 0x40), (0xDD40, 1024), (0xE140, 512)]

/-- Fields of its header as R379 lays them out: offset, bytes, value. -/
def savedFields : List (Nat × Nat × Nat) :=
  [(0x000, 4, 0x58544353), (0x004, 2, 1), (0x008, 4, 0x00010000), (0x00C, 2, 256), (0x020, 8, 58192), (0x028, 8, 0x1008),
   (0x030, 4, 0x20), (0x034, 4, 0x40), (0x038, 2, 1), (0x040, 4, 0x0201)] ++
    (savedDirectory.zipIdx.flatMap fun e =>
      [(0x300 + 16 * e.2, 4, e.1.1), (0x304 + 16 * e.2, 4, e.1.2), (0x308 + 16 * e.2, 2, e.2 + 1)])

/-- The machine's memory with that header at VA 280000H. -/
def loadingMem : Memory := savedFields.foldl (fun m e => m.writeNat (0x280000 + e.1) e.2.1 e.2.2) saving.dev.mem

/-- The open parts of a strand that has used nothing of them. -/
def noParts : OpenParts :=
  ⟨List.replicate 64 none, List.replicate 8 none, List.replicate 8 ⟨none, [], [], []⟩,
    ⟨[[], [], [], []], [0, 0, 0, 0], [], [], []⟩, ⟨[], [], none⟩⟩

/-- The machine with that image at VA 280000H, all but the header zero: a CTXSAVE has written the sections 7 to 11 so. -/
def loading : State :=
  onDev (fun d => { d with
    mem := loadingMem
    contexts := [([7, 8, 9, 10, 11].flatMap (sectionAt (loadingMem.readBytes 0x280000 0x400)
      (loadingMem.readBytes 0x280000 58192)), noParts)] }) saving

theorem readBytes_drop (m : Memory) (a n k : Nat) : (m.readBytes a n).drop k = m.readBytes (a + k) (n - k) := by
  induction k generalizing a n with
  | zero => rfl
  | succ k ih =>
    cases n with
    | zero => simp [Memory.readBytes]
    | succ n => simpa [Memory.readBytes, Nat.add_assoc, Nat.add_comm 1 k] using ih (a + 1) n

theorem readBytes_take (m : Memory) (a n k : Nat) (h : k ≤ n) : (m.readBytes a n).take k = m.readBytes a k := by
  induction k generalizing a n with
  | zero => rfl
  | succ k ih =>
    cases n with
    | zero => omega
    | succ n => simpa [Memory.readBytes] using ih (a + 1) n (by omega)

theorem loading_quiet : Quiet loading := quiet_of (by decide +kernel)

theorem meets_load_desc : ∃ e, imageDesc loading 0 rightRead = .ok e ∧
    decide (checkRegion loading e = .ok () ∧ elemAddr e 8 0 = 0x280000 ∧ dimOf e 0 = 0x100000 ∧
      allDrained loading.tile (me loading) = true ∧ allDrained (copying loading).tile (me (copying loading)) = false) = true :=
  exists_image loading_quiet (by decide +kernel)

theorem meets_load_short : ∃ e, imageDesc loading 1 rightRead = .ok e ∧
    decide (checkRegion loading e = .ok () ∧ dimOf e 0 < 0x410) = true :=
  exists_image loading_quiet (by decide +kernel)

theorem loading_header : headerOk (loading.dev.mem.readBytes 0x280000 0x400) false 0x100000 = true ∧
    headLength (loading.dev.mem.readBytes 0x280000 0x400) = 58192 := by decide +kernel

/-- A header that is all zeros is refused. -/
theorem meets_load_refused : ∃ v h, coherentBytes saving 0x280000 0x400 = .ok (v, h) ∧ headerOk h false 0x100000 = false := by
  obtain ⟨v, l, ms, hv, -, -⟩ := coherentBytes_quiet 0x400 saving_quiet (va := 0x280000) (by omega) (by omega)
  exact ⟨v, _, hv, by decide +kernel⟩

theorem loading_mem : loading.dev.mem = loadingMem := by rw [loading, onDev_mem]

theorem loading_contexts : loading.dev.contexts =
    [([7, 8, 9, 10, 11].flatMap (sectionAt (loadingMem.readBytes 0x280000 0x400) (loadingMem.readBytes 0x280000 58192)), noParts)] :=
  rfl

theorem loading_parts : partsOf loading ([7, 8, 9, 10, 11].flatMap (sectionAt (loadingMem.readBytes 0x280000 0x400)
    (loadingMem.readBytes 0x280000 58192))) = some noParts := by
  rw [partsOf, loading_contexts]
  generalize [7, 8, 9, 10, 11].flatMap _ = x
  simp

theorem loading_replies :
    repliesOk (sectionAt (loadingMem.readBytes 0x280000 0x400) (loadingMem.readBytes 0x280000 58192) 5) = true := by
  have ho : dirOff (loadingMem.readBytes 0x280000 0x400) 5 = 0x4900 ∧ dirLen (loadingMem.readBytes 0x280000 0x400) 5 = 576 := by
    decide +kernel
  rw [sectionAt, ho.1, ho.2, readBytes_drop, readBytes_take _ _ _ _ (by omega)]
  decide +kernel

theorem loading_open : openParts loading (loadingMem.readBytes 0x280000 0x400) (loadingMem.readBytes 0x280000 58192) = .ok noParts := by
  have hl : layoutOk (loadingMem.readBytes 0x280000 0x400) = true := by decide +kernel
  have he : engineLength noParts.engines = dirLen (loadingMem.readBytes 0x280000 0x400) 10 := by decide +kernel
  have hv : partsValid (loadingMem.readBytes 0x280000 0x400) (loadingMem.readBytes 0x280000 58192) noParts = true := by
    rw [partsValid, loading_replies, decide_eq_true ⟨rfl, rfl, rfl, rfl, rfl, he⟩]
    decide
  rw [openParts, hl, loading_parts]
  exact if_pos hv

/-- The image is loaded. -/
theorem meets_load : ∃ v h u raw img o, coherentBytes loading 0x280000 0x400 = .ok (v, h) ∧ headerOk h false 0x100000 = true ∧
      coherentBytes loading 0x280000 (headLength h) = .ok (u, raw) ∧ (.ok raw : Except Stop (List Byte)) = .ok img ∧
      openParts loading h img = .ok o ∧ checkFeatures loading h img = .ok () ∧ checkBindings loading o.ports = .ok () := by
  obtain ⟨v, l, ms, hv, -, -⟩ := coherentBytes_quiet 0x400 loading_quiet (va := 0x280000) (by omega) (by omega)
  obtain ⟨u, l, ms, hu, -, -⟩ := coherentBytes_quiet 58192 loading_quiet (va := 0x280000) (by omega) (by omega)
  have hh := loading_header
  rw [loading_mem] at hv hu hh
  refine ⟨v, _, u, _, _, noParts, hv, hh.1, by rw [hh.2]; exact hu, rfl, loading_open, ?_, by decide +kernel⟩
  have h1 : headLive (loadingMem.readBytes 0x280000 0x400) = 0 := by decide +kernel
  have h2 : (headVlb (loadingMem.readBytes 0x280000 0x400) == vlb) = true := by decide +kernel
  have h3 : fieldAt (loadingMem.readBytes 0x280000 0x400) 8 4 = 0x10000 := by decide +kernel
  have h4 : (headFlags (loadingMem.readBytes 0x280000 0x400)).testBit 3 = false := by decide +kernel
  simp [checkFeatures, h1, h2, h3, h4, need, Config.sviVersion, bind, Except.bind]
/-! ### Vector instructions -/

/-- The small machine with two lanes, bank 1 gated and bank 2 in retention. -/
def banked : State := { m0 with tile := { m0.tile with seq := { m0.tile.seq with vl := 2, vbank := 0x18 } } }

theorem meets_bank_gated : namedVectors (.vadd 0 16 0 (plainMod .f32) ⟨0, false⟩) ≠ [] ∧
    ∃ r ∈ namedVectors (.vadd 0 16 0 (plainMod .f32) ⟨0, false⟩), bankCode banked.tile.seq.vbank (r / 16) = 2 := by decide +kernel

theorem meets_bank_retained : (∀ r ∈ namedVectors (.portw 0 32 false true), bankCode banked.tile.seq.vbank (r / 16) ≠ 2) ∧
    ∃ r ∈ namedVectors (.portw 0 32 false true), bankCode banked.tile.seq.vbank (r / 16) = 1 := by decide +kernel

theorem meets_lanes : BanksOn banked [0, 15, 48, 63] ∧ BanksOn m0 [0, 16, 32, 63] ∧ (plainMod .l16).ty = .l16 ∧
    (plainMod .f4).ty ≠ .l16 ∧ (plainMod .s8).ty.isInt = true ∧ (plainMod .s64).ty.isS = true ∧ (plainMod .f4).ty.isInt = false ∧
    (plainMod .l16).ty ≠ .ds8 := by unfold BanksOn; decide +kernel

theorem meets_extract : 1 ∈ activeLanes banked .f32 ⟨0, false⟩ ∧ 2 ∉ activeLanes banked .f32 ⟨0, false⟩ ∧
    1 ∉ activeLanes banked .f32 ⟨0, true⟩ := by decide +kernel

theorem meets_convert : BanksOn m0 (if (plainMod .ds8).ty = .ds8 ∨ Fmt.f32 = .ds8 then [0, 1, 2] else [0, 1]) ∧
    BanksOn banked (if (plainMod .f32).ty = .ds8 ∨ Fmt.bf16 = .ds8 then [0, 1, 2] else [0, 1]) := by
  unfold BanksOn; decide +kernel

theorem meets_scale : BanksOn m0 [0, 1, 2] ∧ (0 : VReg) ≠ 2 ∧ (plainMod .ds8).ty = .ds8 ∧ 3 * vlmax .f32 < 256 ∧
    1 * vlmax .bf16 < 256 := by unfold BanksOn; decide +kernel

theorem meets_predicates : (1 : PReg) ≠ 0 ∧ BanksOn m0 [0, 63] ∧ 8 ≤ (plainMod .s8).ty.bits := by unfold BanksOn; decide +kernel

/-- Descriptor 0: 512 elements S16 of the own scratchpad from address 400H; 1: one element too few; 2: at an odd address. -/
def tabled : State :=
  withDescs [descBits 0x400 1 1 1 [(512, 1)] 0, descBits 0x400 1 1 1 [(511, 1)] 0, descBits 0x401 1 1 1 [(512, 1)] 0] m0

theorem tabled_quiet : Quiet tabled := quiet_of (by decide +kernel)

theorem meets_tables : ∃ d, getDesc tabled 0 = .ok d ∧
    (let x := (elemByte d 16 (elemOffset d [])).1
     decide (needRights d 0 rightRead = .ok () ∧ checkRegion tabled d = .ok () ∧ d.ndim = 1 ∧ d.fmt = 0x01 ∧
       d.stride.getD 0 0 = 1 ∧ 512 ≤ d.ext.getD 0 0 ∧ x % 2 = 0) &&
     answersWith (checkAccess tabled d.space .read .s16 (some x) (runElems (fmtAt tabled d.space .read x) .s16 x (List.range 512))
        (fun p => loadFormatOk p .s16 false)) fun xs =>
      decide (servedPeers tabled xs = .ok () ∧ poisonFree tabled xs = .ok () ∧ ownRouted tabled (touchesOf xs) = .ok () ∧
        orderTrap tabled (strandAccess tabled .load false false) (touchesOf xs) = none ∧
        orderTrap (mark (strandAccess tabled .load false false) (touchesOf xs) tabled) (strandAccess tabled .load false false)
          (xs.flatMap fun x => match x.expo with | some e => e.piece.touches | none => []) = none)) = true :=
  exists_desc tabled_quiet (by decide +kernel)

theorem meets_tables_short : ∃ d, getDesc tabled 1 = .ok d ∧ decide (needRights d 1 rightRead = .ok () ∧
    checkRegion tabled d = .ok () ∧ ¬ (d.ndim = 1 ∧ d.fmt = 0x01 ∧ d.stride.getD 0 0 = 1 ∧ 512 ≤ d.ext.getD 0 0)) = true :=
  exists_desc tabled_quiet (by decide +kernel)

theorem meets_tables_odd : ∃ d, getDesc tabled 2 = .ok d ∧ decide (needRights d 2 rightRead = .ok () ∧
    checkRegion tabled d = .ok () ∧ d.ndim = 1 ∧ d.fmt = 0x01 ∧ d.stride.getD 0 0 = 1 ∧ 512 ≤ d.ext.getD 0 0 ∧
    (elemByte d 16 (elemOffset d [])).1 % 2 ≠ 0) = true :=
  exists_desc tabled_quiet (by decide +kernel)

/-! ### Loads, stores and atomics -/

/-- S3 and S4 are the last word of the scratchpad and the one after it, S5 and S6 an aligned and a misaligned global address,
S7 the same offset in the window of member 1. -/
def storing : State := base 0x1FFFF8 0x200000 0x208000 0x208004 0x3FFFF8

/-- A plain access of type S64 to a space. -/
def op (sp : Space) : MemOp := ⟨.s64, sp, .plain, .tile, false, 0⟩

theorem meets_own : (op .loc).space = .loc ∧ (op .loc).ty ≠ .f4 ∧ memoriesWf storing = true ∧
    0x200000 < (getS storing 4 + (op .loc).off.signExtend 64).toNat + 8 ∧
    (getS storing 3 + (op .loc).off.signExtend 64).toNat + 8 ≤ 0x200000 ∧ (getS storing 3).toNat % 8 = 0 ∧
    (getS storing 1 + (op .loc).off.signExtend 64).toNat + 8 ≤ 0x200000 ∧ (getS storing 1).toNat % 8 ≠ 0 ∧
    MayLoad storing (op .loc) [ownElem storing 0x1FFFF8 8] ∧ MayStore storing (op .loc) [ownElem storing 0x1FFFF8 8] := by
  unfold MayLoad MayStore; decide +kernel

theorem meets_load_scalar : ∃ x, findScalar storing .glob .read .s64 (effAddr storing 5 0) = .ok x ∧
    decide (loadFormatOk (pageFmt x.spot.leaf) .s64 false = true ∧ servedPeers storing [x] = .ok () ∧ poisonFree storing [x] = .ok () ∧
      ownRouted storing (touchesOf [x]) = .ok () ∧ owedAcks storing (me storing) = false ∧
      orderTrap storing (strandAccess storing .load false false) (touchesOf [x]) = none ∧ x.expo = none) = true :=
  exists_answer (by decide +kernel)

theorem meets_store_scalar : memoriesWf storing = true ∧ (op .glob).ty ≠ .f4 ∧
    ∃ x, findScalar storing .glob .write .s64 (effAddr storing 5 0) = .ok x ∧
    decide (storeFormatOk (pageFmt x.spot.leaf) .s64 = true ∧ x.spot.piece.place = .dev ∧ ownRouted storing (touchesOf [x]) = .ok () ∧
      owedAcks storing (me storing) = false ∧
      orderTrap storing (strandAccess storing .store true false) (touchesOf [x]) = none) = true :=
  ⟨by decide +kernel, by decide, exists_answer (by decide +kernel)⟩

/-- The strand of member 1 is halted for debug. -/
def peerHalted : State := onTile 1 (fun t => { t with run := .halted .running }) storing

theorem meets_store_peer : memoriesWf peerHalted = true ∧
    ∃ x, findScalar peerHalted .win .write .s64 (effAddr peerHalted 7 0) = .ok x ∧
    decide (storeFormatOk (pageFmt x.spot.leaf) .s64 = true ∧ x.spot.piece.place = .pad 1 ∧ 1 ≠ peerHalted.tileNo ∧
      unserved (tileAt peerHalted 1) = true ∧ ownRouted peerHalted (touchesOf [x]) = .ok () ∧
      orderTrap peerHalted (strandAccess peerHalted .store true false) (touchesOf [x]) = none) = true :=
  ⟨by decide +kernel, exists_answer (by decide +kernel)⟩

/-- Lanes 0 and 1 of a run of S64 from S5. -/
def lanes2 : State := { storing with tile := { storing.tile with seq := { storing.tile.seq with vl := 2 } } }

theorem meets_addresses : (0x208000 : Nat) < 2 ^ 64 ∧ (runElems none .f4 0x208000 [0, 1, 2]).map (·.lane) = [0, 1, 2] ∧
    (runElems (some 13) .f32 0x208000 [0, 1, 255]).map (·.addr) = [0x208000, 0x208000, 0x20807F] ∧
    strideElems 0x208000 (2 ^ 64 - 8) [0, 1] = [⟨0, 0x208000, false, false⟩, ⟨1, 0x207FF8, false, false⟩] ∧
    0 ∈ indexLanes lanes2 .s64 ⟨0, false⟩ := by decide +kernel

theorem meets_vector_load :
    vectorAccess lanes2 .read (.ldv 3 5 (op .glob) ⟨0, false⟩) = some (op .glob, some 0x208000, [3],
      runElems none .s64 0x208000 [0, 1]) ∧ BanksOn lanes2 [3] ∧
    codecFmt (fmtAt lanes2 .glob .read 0x208000) = none ∧
    ∃ xs, found lanes2 .read (op .glob) (some 0x208000) (runElems none .s64 0x208000 [0, 1]) (fun p => loadFormatOk p .s64 false) = .ok xs ∧
      decide (xs.length = 2 ∧ servedPeers lanes2 xs = .ok () ∧ poisonFree lanes2 xs = .ok () ∧ ownRouted lanes2 (touchesOf xs) = .ok () ∧
        orderTrap lanes2 (strandAccess lanes2 .load false false) (touchesOf xs) = none) = true :=
  ⟨by decide +kernel, by unfold BanksOn; decide +kernel, by decide +kernel, exists_answer (by decide +kernel)⟩

theorem meets_vector_store : memoriesWf lanes2 = true ∧
    vectorAccess lanes2 .write (.stvs 3 5 1 (op .glob) ⟨0, false⟩) =
      some (op .glob, none, [3], strideElems 0x208000 5 [0, 1]) ∧
    vectorAccess lanes2 .write (.stvx 3 5 4 (op .glob) ⟨0, false⟩) =
      some (op .glob, none, [3, 4], [⟨0, 0x208000, false, true⟩, ⟨1, 0x208000, false, true⟩]) ∧ BanksOn lanes2 [3, 4] ∧
    ∃ xs, found lanes2 .write (op .glob) none (strideElems 0x208000 8 [0, 1]) (fun p => storeFormatOk p .s64) = .ok xs ∧
      decide (xs.length = 2 ∧ ownRouted lanes2 (touchesOf xs) = .ok () ∧ (∀ x ∈ xs, x.spot.piece.place = .dev) ∧
        orderTrap lanes2 (strandAccess lanes2 .store true false) (touchesOf xs) = none) = true :=
  ⟨by decide +kernel, by decide +kernel, by decide +kernel, by unfold BanksOn; decide +kernel, exists_answer (by decide +kernel)⟩

/-- An indexed lane of eight bytes that runs into the next page, and a run of two that keeps apart. -/
theorem meets_vector_store_parts :
    (∃ xs, found lanes2 .write (op .glob) none [⟨0, 0x208FFC, false, true⟩] (fun p => storeFormatOk p .s64) = .ok xs ∧
      decide ((∀ x ∈ xs, x.tail.isSome = true) ∧ xs.length = 1 ∧ ownRouted lanes2 (touchesOf xs) = .ok () ∧
        orderTrap lanes2 (strandAccess lanes2 .store true false) (touchesOf xs) = none) = true) ∧
    ∃ xs, found lanes2 .write (op .glob) none (strideElems 0x208000 8 [0, 1]) (fun p => storeFormatOk p .s64) = .ok xs ∧
      decide (((xs.flatMap ElemSpot.spots).map (·.piece)).Pairwise fun x y =>
        x.place = y.place → x.addr + x.n ≤ y.addr ∨ y.addr + y.n ≤ x.addr) = true :=
  ⟨exists_answer (by decide +kernel), exists_answer (by decide +kernel)⟩

/-- Region 5, bound to the gang, has a codec port for format 10H, a tile port, and ports for copies in and out, each taking and
giving bytes. -/
def manifest0 : Manifest where
  clkMin := 4
  clkMax := 64
  sites := 1
  codecs := 1
  ports := [⟨4, 16, 4, 8, 8, 1, 1, 16⟩, ⟨1, 4, 4, 8, 8, 1, 1, 16⟩, ⟨2, 4, 4, 8, 8, 1, 1, 16⟩, ⟨3, 4, 4, 8, 8, 1, 1, 16⟩]
  states := []

/-- The machine whose gang has that region. -/
def fabric (s : State) : State :=
  onGang 0 0 0 (fun g => { g with regions := [5] })
    (onRegion 5 (fun r => { r with state := .bound, manifest := some manifest0, boundTo := some (0, 0, 0, 0) }) s)

/-- The machine whose page has codec format 10H, without and with the region. -/
def coded : State := onDev (fun d => { d with mem := [⟨0, 0x01⟩, ⟨8, 0xCF⟩, ⟨9, 0x04⟩, ⟨10, 0x09⟩, ⟨11, 0x20⟩] }) lanes2

theorem meets_codec_ds8 : codecFmt (fmtAt coded .glob .read (effAddr coded 5 0)) = some 16 ∧
    activeLanes coded .ds8 ⟨0, false⟩ = [0, 1] ∧ effAddr coded 5 0 + 256 ≤ 2 ^ 64 ∧
    ∃ xs, findElems coded .glob .read .ds8 (runElems (some 16) .ds8 0x208000 [0, 1]) = .ok xs ∧ decide (xs.length = 2) = true :=
  ⟨by decide +kernel, by decide +kernel, by decide +kernel, exists_answer (by decide +kernel)⟩

theorem meets_codec_unbound : activeLanes coded .s32 ⟨0, false⟩ = [0, 1] ∧ codecPort coded (me coded) 16 = none ∧
    ∃ xs, findCodec coded 8 (codecElems true 8 0x208000 0 [0, 1]) = .ok xs ∧
      decide ((∀ y ∈ xs, ∀ p ∈ y.spots, pageFmt p.leaf = some 16) ∧ servedPeers coded xs = .ok () ∧ poisonFree coded xs = .ok () ∧
        ownRouted coded (touchesOf xs) = .ok () ∧ orderTrap coded (strandAccess coded .load false false) (touchesOf xs) = none) = true :=
  ⟨by decide +kernel, by decide +kernel, exists_answer (by decide +kernel)⟩

theorem meets_codec : let s := fabric coded
    codecFmt (fmtAt s .glob .read (effAddr s 5 0)) = some 16 ∧ BanksOn s [3] ∧ s.tile.codec = none ∧
    codecPort s (me s) 16 = some (0, 0, ⟨4, 16, 4, 8, 8, 1, 1, 16⟩) ∧ regionNo s (me s) 0 = some 5 ∧ (regionAt s 5).serving = [] ∧
    ∃ xs, findCodec s 8 (codecElems true 8 0x208000 0 [0, 1]) = .ok xs ∧
      decide ((∀ y ∈ xs, ∀ p ∈ y.spots, pageFmt p.leaf = some 16) ∧ servedPeers s xs = .ok () ∧ poisonFree s xs = .ok () ∧
        ownRouted s (touchesOf xs) = .ok () ∧ orderTrap s (strandAccess s .load false false) (touchesOf xs) = none ∧
        [mkBeat 0 [1, 2, 0, 0, 0, 0, 0, 0], endBeat].any beatEnds = true) = true :=
  ⟨by decide +kernel, by unfold BanksOn; decide +kernel, by decide +kernel, by decide +kernel, by decide +kernel,
    by decide +kernel, exists_answer (by decide +kernel)⟩

/-- What the operator of an eight-element message returned. -/
theorem meets_codec_back : ∃ ys, codecResult 0 0 8 ⟨4, 16, 4, 8, 8, 1, 1, 16⟩ [mkBeat 0 [1, 2, 3, 4, 5, 6, 7, 8], endBeat] =
    .ok ys ∧ decide (ys = [1, 2, 3, 4, 5, 6, 7, 8]) = true := exists_answer (by decide +kernel)

theorem meets_cas : memoriesWf storing = true ∧ 8 ≤ (op .glob).ty.bits ∧
    ∃ x, findScalar storing .glob .update .s64 (effAddr storing 5 0) = .ok x ∧
    decide (storeFormatOk (pageFmt x.spot.leaf) .s64 = true ∧ amoServed storing x.spot.piece 0 = .ok () ∧ poisonTrap storing x.spot.piece = .ok () ∧
      ownRouted storing x.spot.piece.touches = .ok () ∧ valueAt storing x.spot.piece = (getS storing 0).toNat % 2 ^ 64 ∧
      valueAt storing x.spot.piece ≠ (getS storing 1).toNat % 2 ^ 64 ∧
      orderTrap storing { strandAccess storing .sync true true with claims := true } x.spot.piece.touches = none ∧
      orderTrap storing { strandAccess storing .sync false true with claims := true } x.spot.piece.touches = none) = true :=
  ⟨by decide +kernel, by decide, exists_answer (by decide +kernel)⟩

theorem meets_amo : amoOf (.amoFaddBf16 4 5 1 false ⟨.bf16, .glob, .plain, .tile, false, 0⟩) =
      some (.faddBf16, 4, 5, 1, false, ⟨.bf16, .glob, .plain, .tile, false, 0⟩) ∧
    amoOf (.amoMaxz 0 5 1 true (op .glob)) = some (.maxz, 0, 5, 1, true, op .glob) ∧ (op .glob).order = .plain ∧
    ¬ ((op .glob).order = .plain ∧ (4 : SReg) = 0 ∧ (op .glob).space = .glob) ∧ ¬ ((op .win).order = .plain ∧ (0 : SReg) = 0 ∧ (op .win).space = .glob) :=
  ⟨rfl, rfl, by decide, by decide, by decide⟩

/-- The leaf of the page with neither its A nor its D bit set. -/
def unusedPage : State := onDev (fun d => { d with mem := [⟨0, 0x01⟩, ⟨8, 0x0F⟩, ⟨9, 0x04⟩, ⟨11, 0x20⟩] }) m0

/-- The same with the translation cached, D clear and set there. -/
def cachedPage (entry : Nat) : State := onDev (fun d => { d with tlb := [⟨0, 0x200000, 0x200000, entry, 8⟩] }) unusedPage

theorem meets_page : memoriesWf unusedPage = true ∧ ∃ x, spotAt unusedPage (self unusedPage) .glob .write 0x208000 1 = .ok x ∧
    (match x.leaf with
     | some l => decide (pteCore (unusedPage.dev.mem.readNat l.eaddr 8) = pteCore l.entry ∧ pteCore (coded.dev.mem.readNat l.eaddr 8) ≠ pteCore l.entry ∧
        cachedAs unusedPage (strandSpace unusedPage (me unusedPage)) l = none ∧
        cachedAs (cachedPage 0x2000044F) (strandSpace unusedPage (me unusedPage)) l = some ⟨0, 0x200000, 0x200000, 0x2000044F, 8⟩ ∧
        pteD 0x2000044F = false ∧
        cachedAs (cachedPage 0x200004CF) (strandSpace unusedPage (me unusedPage)) l = some ⟨0, 0x200000, 0x200000, 0x200004CF, 8⟩ ∧
        pteD 0x200004CF = true)
     | none => false) = true := ⟨by decide +kernel, exists_answer (by decide +kernel)⟩
/-! ### Commands at their issue -/

/-- Descriptor 0: 64 by 32 elements S32; 1: the same without rights; 2: four Z32 elements, 3: the same as 2, for scans; 4: sixty-four
Z8; 5: DS8 values; 6: four S32 of which two lie beyond the canonical addresses. S3 is the last place in the scratchpad for the 8 KiB of descriptor 0, S4 one row too far, S5 a last place for
a fingerprint, S6 a pitch that is too short, S7 misaligned. -/
def issuing : State :=
  withDescs [descBits 0x250000 0 2 31 [(64, 1), (32, 64)] 0, descBits 0x250000 0 2 0 [(64, 1), (32, 64)] 0,
    descBits 0x260000 0 6 31 [(4, 1)] 0, descBits 0x260000 0 6 31 [(4, 1)] 0, descBits 0x260000 0 4 31 [(64, 1)] 0,
    descBits 0x270000 0 7 31 [(4, 1)] 0, descBits (0x100000000000000 - 8) 0 2 31 [(4, 1)] 0] (base 0x1FE000 0x1FE020 0x1FFFE0 32 0x1FE001)

theorem issuing_quiet : Quiet issuing := quiet_of (by decide +kernel)

theorem meets_issue_reply : ¬ ReplyRoom { m0 with tile := { m0.tile with replies := m0.tile.replies.set 2 ⟨List.replicate 10 0, 6⟩ } } (some 2) ∧
    ReplyRoom { m0 with tile := { m0.tile with replies := m0.tile.replies.set 2 ⟨List.replicate 10 0, 5⟩ } } (some 2) ∧
    ReplyRoom m0 none := by
  refine ⟨fun h => absurd (h 2 rfl) (by decide +kernel), fun q h => ?_, fun q h => by cases h⟩
  cases h
  decide +kernel

theorem meets_issue_room : queueRoom .matrix ≤
      (engQueue { m0.tile with qMatrix := List.replicate 16 (cmd0 (.mzero 0 0 1 1)) } .matrix).length ∧
    (engQueue { m0.tile with qLoad := List.replicate 31 (cmd0 (.mzero 0 0 1 1)) } .load).length < queueRoom .load ∧
    (engQueue m0.tile .store).length < queueRoom .store ∧ (engQueue m0.tile .fibre).length < queueRoom .fibre := by decide +kernel

theorem meets_copy : ∃ e, getDesc issuing 0 = .ok e ∧
    decide (Nat.land e.rights 1 = 1 ∧ Nat.land e.rights 2 = 2 ∧ checkPath issuing e roleCopyIn = .ok () ∧
      checkPath issuing e roleCopyOut = .ok () ∧ copyBits issuing e true = .ok (32, 32) ∧ copyBits issuing e false = .ok (32, 32) ∧
      (dimOf e 0 * 32 + 7) / 8 = 256 ∧ dimOf e 1 * dimOf e 2 * dimOf e 3 * dimOf e 4 = 32 ∧ checkCanonical e 32 = .ok () ∧
      checkOverlap e 0 32 (layoutGran 0x1FE000 256 32 256) = .ok () ∧
      checkOverlap e 0 32 (fun i => decide (0x1000 / 32 ≤ i ∧ i < (0x1000 + 0x2000 * 2) / 32)) = .ok ()) = true :=
  exists_desc issuing_quiet (by decide +kernel)

theorem meets_copy_rights : ∃ e, getDesc issuing 1 = .ok e ∧ decide (Nat.land e.rights 1 ≠ 1 ∧ Nat.land e.rights 2 ≠ 2) = true :=
  exists_desc issuing_quiet (by decide +kernel)

theorem meets_copy_layout : LayoutOk (getS issuing 3).toNat 0 32 256 ∧ PitchOk 256 256 ∧
    0x200000 < (getS issuing 4).toNat + 31 * pitchInForce 0 256 + 256 ∧ (getS issuing 4).toNat % 32 = 0 ∧
    ¬ PitchOk (getS issuing 6).toNat 256 ∧ (getS issuing 7).toNat % 32 ≠ 0 ∧ (getS issuing 5).toNat % 32 = 0 ∧
    (getS issuing 5).toNat + 16 ≤ 0x200000 ∧ (getS issuing 1).toNat % 32 ≠ 0 := by
  unfold LayoutOk PitchOk pitchInForce; decide +kernel

/-- Ring 0 of two slots of 8 KiB at 1000H, slot 0 held, slot 1 free. -/
def ring0 : Ring := ⟨0x1000, 0x2000, 2, 1, 0, 1, 1, 1, [.held, .free], [0, 0], [0, 0]⟩

/-- The machine with that ring as given. -/
def ringed (r : Ring) : State := { issuing with tile := { issuing.tile with rings := issuing.tile.rings.set 0 (some r) } }

theorem meets_ring_copy : issuing.tile.rings[(0 : Fin 8)] = none ∧ (ringed ring0).tile.rings[(0 : Fin 8)] = some ring0 ∧
    256 * 32 ≤ ring0.slotSize ∧ ({ ring0 with slotSize := 0x1FE0 } : Ring).slotSize < 256 * 32 := by decide +kernel

theorem meets_acc_copy : let w := (getS (base 0xFFFF 0x1FFFC0 0x100000000 0x100FF 0x1FFFE0) 3).toNat
    (w < 2 ^ 32 ∧ w % 256 + (w / 2 ^ 16 % 256 + 1) ≤ 256 ∧ w / 2 ^ 8 % 256 + (w / 2 ^ 24 % 256 + 1) ≤ 256) ∧
    LayoutOk 0x1FFFE0 0 1 4 ∧ ¬ (getS (base 0xFFFF 0x1FFFC0 0x100000000 0x100FF 0x1FFFE0) 5).toNat < 2 ^ 32 ∧
    ¬ 0x100FF % 256 + (0x100FF / 2 ^ 16 % 256 + 1) ≤ 256 := by
  unfold LayoutOk PitchOk pitchInForce; decide +kernel

theorem meets_ring_setup : RingAllowed m0 7 0x1FF800 32 64 ∧ ¬ RingAllowed m0 7 0x1FF820 32 64 ∧ ¬ RingAllowed m0 7 0 32 0 := by
  refine ⟨⟨by decide, by decide, by decide, by decide, by decide, by decide, by decide, ?_, ?_, ?_⟩, fun h => ?_, fun h => ?_⟩
  · intro j y _ h
    simp [m0, base, Tile.blank] at h
  · intro y h
    simp [m0, base, Tile.blank] at h
  · intro c h
    simp [m0, base, Tile.blank] at h
  · exact absurd h.2.2.2.2.2.2.1 (by decide)
  · exact absurd h.2.2.2.2.1 (by decide)

theorem meets_ring_ops : ring0.filled = 0 ∧ 0 < ring0.free ∧ ({ ring0 with free := 0 } : Ring).free = 0 ∧
    0 < ({ ring0 with filled := 1, slots := [.held, .filled] } : Ring).filled ∧
    (∀ k < ring0.count, ([SlotState.free, .filled] : List SlotState).getD k .free ≠ .held) ∧ 1 < ring0.count ∧
    ring0.slots.getD ((ring0.takeIx + 1) % ring0.count) .free = .held ∧
    (∀ i < 1, ring0.slots.getD ((ring0.takeIx + i) % ring0.count) .free ≠ .held) ∧ ring0.pubIx = ring0.fillIx ∧
    ring0.fillIx < ring0.count ∧ ring0.slots.length = ring0.count ∧
    ring0.slots.getD ((ring0.fillIx + 1) % ring0.count) .free ≠ .landed := by decide +kernel

theorem meets_coll : ∃ e, getDesc issuing 0 = .ok e ∧
    decide (Nat.land e.rights 19 = 19 ∧ checkRegion issuing e = .ok () ∧ checkCanonical e (collBits issuing (me issuing) e) = .ok () ∧ e.fmt ∈ [0x02, 0x03, 0x06, 0x07] ∧
      (3 : Nat).testBit (me issuing).tile = true ∧ 3 < 2 ^ gangSize issuing (me issuing) ∧ ¬ 4 < 2 ^ gangSize issuing (me issuing)) = true :=
  exists_desc issuing_quiet (by decide +kernel)

/-- A buffer that ends beyond the canonical addresses. -/
theorem meets_coll_noncanonical : ∃ e, getDesc issuing 6 = .ok e ∧ decide (Nat.land e.rights 19 = 19 ∧ checkRegion issuing e = .ok () ∧
    checkCanonical e (collBits issuing (me issuing) e) = .error (.cause 0x040 0x100000000000000)) = true :=
  exists_desc issuing_quiet (by decide +kernel)

theorem meets_coll_refused : ∃ e, getDesc issuing 1 = .ok e ∧ decide (Nat.land e.rights 3 ≠ 3 ∧ (2 : Nat).testBit (me issuing).tile = false) = true :=
  exists_desc issuing_quiet (by decide +kernel)

theorem meets_coll_type : ∃ e, getDesc issuing 4 = .ok e ∧ decide (Nat.land e.rights 19 = 19 ∧ checkRegion issuing e = .ok () ∧
    ¬ (e.fmt ∈ [0x02, 0x03, 0x06, 0x07] ∨ e.fmt ∈ [0x08, 0x0A])) = true :=
  exists_desc issuing_quiet (by decide +kernel)

/-- Group 5 of this device's function has this strand's gang tile alone. -/
def grouped : State := onDev (fun d => { d with pkg := 2, groups := [⟨5, 0, [(2, 0, 0)]⟩] }) issuing

theorem meets_coll_group : groupOk grouped .sys 5 = true ∧ groupOk grouped .sys 6 = false := by decide +kernel

/-- S3 is an operand in the scratchpad, S4 a shape word of one element at the last row and column, S5 one row too far, S6 a
specifier with reserved bits and S7 one that is misaligned. -/
def multiplying : State := base 0x400 0xFFFF00000000 0xFF00000001 0x4000000000000000 0x401

theorem meets_multiply : (10 : Nat) < (11 : Fin 16).val ∧ pairFmts 0 ≠ none ∧ pairFmts 10 ≠ none ∧
    (let w := (getS multiplying 4).toNat
     w < 2 ^ 48 ∧ w / 2 ^ 32 % 256 + (w % 256 + 1) ≤ 256 ∧ w / 2 ^ 40 % 256 + (w / 2 ^ 8 % 256 + 1) ≤ 256) ∧
    (let w := (getS multiplying 5).toNat; ¬ w / 2 ^ 32 % 256 + (w % 256 + 1) ≤ 256) ∧
    2 ^ 62 ≤ (getS multiplying 6).toNat ∧ (getS multiplying 7).toNat % 32 ≠ 0 ∧ (getS multiplying 7).toNat < 2 ^ 62 ∧
    64 ≤ (getS multiplying 3).toNat ∧
    checkSpecBits false 0x400 = .ok () ∧ checkSpecBits true 63 = .ok () := by decide +kernel

theorem meets_multiply_group : groupTiles issuing 0 = true ∧ groupTiles issuing (2 ^ 48) = false := by decide +kernel

/-- Descriptor 0: the whole own scratchpad as elements Z8. -/
def windowed : State := withDescs [descBits 0 1 4 1 [(0x200000, 1)] 0] multiplying

theorem windowed_quiet : Quiet windowed := quiet_of (by decide +kernel)

/-- An operand window with the descriptor read from the memory of the page. -/
def quickWindow (s : State) (tdi : Nat) (ps : List (Nat × Nat)) : Except Stop Unit := do
  let d ← quickDesc s tdi
  needRights d tdi rightRead
  need (d.space == .loc && d.ndim == 1 && d.fmt == 0x04 && d.stride.getD 0 0 == 1) (.cause 0x053 tdi)
  match lowestBeyond (windowEnd s false) ps with
  | some b => .error (.cause 0x048 b)
  | none =>
    let lo := d.base + d.origin.getD 0 0
    need (ps.all fun p => decide (lo ≤ p.1 ∧ p.1 + p.2 ≤ lo + d.ext.getD 0 0)) (.cause 0x053 tdi)
    checkRegion s d

theorem window_quick {s : State} (h : Quiet s) {tdi : Nat} {ps : List (Nat × Nat)} (ht : tdi < 64)
    (hb : (queueAt s (me s).queue).dtbase = 0x220000) : checkWindow s false tdi ps = quickWindow s tdi ps := by
  rw [checkWindow, getDesc_quiet h ht hb]
  rfl

/-- The same with every bank gated. -/
def gatedBanks (s : State) : State := { s with tile := { s.tile with seq := { s.tile.seq with vbank := 0xAA } } }

theorem meets_multiply_queue : pairFmts 0 = some (.bf16, .bf16) ∧ checkSpecPitch false 0x400 .bf16 = .ok () ∧
    checkSpecRegs false 0x400 .bf16 1 1 = .ok () ∧ checkSpecRegs true 0 .bf16 1 1 = .ok () ∧
    BanksOn windowed (specNamed 0 .bf16 1) ∧
    (∃ r ∈ specNamed 0 .bf16 1, bankCode (gatedBanks windowed).tile.seq.vbank (r / 16) = 2) ∧
    checkWindow windowed false 0 (operandPieces (captureOperand windowed false 0x400 .bf16 1) .bf16 1 1 ++
      operandPieces (captureOperand windowed true 0 .bf16 1) .bf16 1 1 ++ []) = .ok () ∧
    decide (2 ^ 29 / 2 ^ 29 % 2 = 1) = true ∧ (2 : Nat) ^ 38 - 1 < 2 ^ 38 := by
  rw [window_quick windowed_quiet (by decide) (by decide +kernel)]
  unfold BanksOn
  decide +kernel

theorem meets_window : (0xFFFF < 2 ^ 32 ∧ 0xFFFF % 256 + (0xFFFF / 2 ^ 16 % 256 + 1) ≤ 256 ∧
    0xFFFF / 2 ^ 8 % 256 + (0xFFFF / 2 ^ 24 % 256 + 1) ≤ 256) ∧
    ¬ (0x100FF < 2 ^ 32 ∧ 0x100FF % 256 + (0x100FF / 2 ^ 16 % 256 + 1) ≤ 256) := by decide
/-! ### Fibre commands and stream ports -/

/-- A configuration of the strand of member 0 for the slot given. -/
def merge0 : UnitCfg := ⟨.merge, [3], [0, 1, 2]⟩

/-- A machine whose strand has an unfinished FGO 7. -/
def going : State :=
  { m0 with tile := { m0.tile with qFibre := [cmd0 (.go 7 [])], fibre := ⟨[], [], none⟩ } }

/-- An empty stream port. -/
def port0 : Port := ⟨none, [], [], []⟩

/-- A run at its start. -/
def run0 (plan : List (Nat × UnitCfg)) : Run := ⟨1, List.replicate 32 ⟨[], 0, 0, false, none⟩, plan.map fun u => (u.1, UnitState.blank), 0#3, 0, false, false⟩

theorem meets_fibre_busy : oldestGo going.tile (me going) = some 7 ∧ oldestGo m0.tile (me m0) = none := by decide +kernel

theorem meets_unit : graphUnit m0 (.fisect ⟨1, 3⟩ 0 1 2 3) = some (⟨1, 3⟩, ⟨.isect, [0, 1], [2, 3]⟩) ∧
    UnitAllowed .isect ⟨1, 3⟩ ∧ ¬ UnitAllowed .isect ⟨1, 4⟩ ∧ ¬ UnitAllowed .isect ⟨0, 3⟩ ∧ UnitAllowed .carry ⟨6, 0⟩ ∧
    ¬ UnitAllowed .carry ⟨6, 1⟩ ∧ UnitAllowed .carry ⟨8, 1⟩ ∧ UnitAllowed (.scan .dense true false 0 none none 0) ⟨0, 7⟩ ∧
    ¬ UnitAllowed (.scan .dense true false 0 none none 0) ⟨0, 8⟩ := by
  unfold UnitAllowed; decide +kernel

/-- The graph has a producer of endpoint 3. -/
def planned : State := { m0 with tile := { m0.tile with fibre := ⟨[], [(43, ⟨.src 1 0, [3], []⟩)], none⟩ } }

theorem meets_unit_fair : let plan := planned.tile.fibre.plan.filter (fun e => e.1 != 40) ++ [(40, merge0)]
    ¬ (∀ f < 32, (plan.map fun u => u.2.outs.count f).sum ≤ 1 ∧ (plan.map fun u => u.2.ins.count f).sum ≤ 4) ∧
    (let old := planned.tile.fibre.plan.filter (fun e => e.1 != 43) ++ [(43, merge0)]
     ∀ f < 32, (old.map fun u => u.2.outs.count f).sum ≤ 1 ∧ (old.map fun u => u.2.ins.count f).sum ≤ 4) := by decide +kernel

/-- Port 1 is bound, port 2 is not. -/
def ported (x : Port) : State :=
  fabric { m0 with tile := { m0.tile with ports := m0.tile.ports.set 1 { x with binding := some (0, 1) } } }

theorem meets_adapters : (ported port0).tile.ports[(1 : Fin 8)].binding.isSome = true ∧
    (ported port0).tile.ports[(2 : Fin 8)].binding = none ∧ oldestGo (ported port0).tile (me (ported port0)) = none := by
  decide +kernel

/-- Descriptors for scans: 0 a one-dimensional array of 64 values S16, 1 of Z32, 2 of DS8 (format 7 is Z64), 3 of Z32, and 4 of two
dimensions without rights; 5 of S32. -/
def scanned : State :=
  withDescs [descBits 0x250000 0 1 27 [(64, 1)] 0, descBits 0x250400 0 6 27 [(65, 1)] 0, descBits 0x250000 0 1 27 [(64, 1)] 0,
    descBits 0x250800 0 7 27 [(4, 1)] 0, descBits 0x250C00 0 6 27 [(65, 1)] 0, descBits 0x250000 0 3 0 [(4, 1), (4, 4)] 0,
    descBits 0x250000 0 2 31 [(4, 1)] 0] m0

theorem scanned_quiet : Quiet scanned := quiet_of (by decide +kernel)

theorem meets_scan_dense : ∃ x, getDesc scanned 0 = .ok x ∧ decide (Nat.land x.rights 8 = 8 ∧ x.ndim = 1) = true :=
  exists_desc scanned_quiet (by decide +kernel)

/-- The array of a compressed level, and its second: `ScanArray` for arrays 0 and 1 of TDI 1 would have formats 6 and 1, so the arrays of
TDI 4 are taken alone; a bitmap has its dense array at 2, its words at 3 and its ranks at 4. -/
theorem meets_scan_list : ∃ x, getDesc scanned 1 = .ok x ∧ decide (Nat.land x.rights 8 = 8 ∧ x.ndim = 1 ∧ x.fmt = 6) = true :=
  exists_desc scanned_quiet (by decide +kernel)

theorem meets_scan_bitmap : (∃ x, getDesc scanned 2 = .ok x ∧ decide (Nat.land x.rights 8 = 8 ∧ x.ndim = 1) = true) ∧
    (∃ x, getDesc scanned (2 + 1) = .ok x ∧ decide (Nat.land x.rights 8 = 8 ∧ x.ndim = 1 ∧ x.fmt = 7) = true) ∧
    (∃ x, getDesc scanned (2 + 2) = .ok x ∧ decide (Nat.land x.rights 8 = 8 ∧ x.ndim = 1 ∧ x.fmt = 6) = true) ∧
    (2 + 2 ≤ 0xFFFF ∧ ¬ (2 ≤ 0xFFBF ∧ 0xFFBF < 2 + 2)) :=
  ⟨exists_desc scanned_quiet (by decide +kernel), exists_desc scanned_quiet (by decide +kernel),
    exists_desc scanned_quiet (by decide +kernel), by decide⟩

theorem meets_scan_edge : (0xFFBF : Nat) ≤ 0xFFBF ∧ 0xFFBF < 0xFFBF + 1 := by decide

theorem meets_value : ∃ x, getDesc scanned 6 = .ok x ∧ decide (Nat.land x.rights 9 = 9 ∧ x.ndim = 1 ∧
    x.fmt ∈ [0, 1, 2, 4, 5, 6, 8, 9, 10, 11, 12, 13] ∧ checkRegion scanned x = .ok () ∧ Nat.land x.rights 18 = 18 ∧ x.fmt = 2) = true :=
  exists_desc scanned_quiet (by decide +kernel)

theorem meets_value_refused : (∃ x, getDesc scanned 5 = .ok x ∧ decide (Nat.land x.rights 9 ≠ 9 ∧ Nat.land x.rights 2 ≠ 2) = true) ∧
    (∃ x, getDesc scanned 3 = .ok x ∧ decide (Nat.land x.rights 9 = 9 ∧
      ¬ (x.ndim = 1 ∧ x.fmt ∈ [0, 1, 2, 4, 5, 6, 8, 9, 10, 11, 12, 13]) ∧ Nat.land x.rights 18 = 18 ∧ x.fmt ≠ 2) = true) :=
  ⟨exists_desc scanned_quiet (by decide +kernel), exists_desc scanned_quiet (by decide +kernel)⟩

/-- A source to a sink, without a level. -/
def plan0 : List (Nat × UnitCfg) := [(43, ⟨.src 1 0, [3], []⟩), (52, ⟨.sinkQ 2 1 false, [], [3]⟩)]

/-- The machine whose strand has that graph, with reply queue 1 as given. -/
def graphed (q : ReplyQ) : State :=
  { m0 with tile := { m0.tile with fibre := ⟨plan0, plan0, none⟩, replies := m0.tile.replies.set 1 q } }

theorem meets_graph : graphFailures plan0 = [] ∧ graphFailures [(43, ⟨.src 1 0, [3], []⟩)] = [(43, some 3), (0, none)] := by decide +kernel

theorem meets_graph_room : ¬ (15 + 0 + 2 ≤ 16) ∧ sinksTo plan0 1 = 1 ∧ sinksTo plan0 0 = 0 ∧
    32 ≤ (List.replicate 32 (cmd0 (.mzero 0 0 1 1))).length := by decide +kernel

/-- A graph that runs. -/
def running : State :=
  { m0 with tile := { m0.tile with
      fibre := ⟨plan0, plan0, some (run0 plan0)⟩, qFibre := [{ cmd0 (.go 1 plan0) with reply := some 2 }] } }

theorem meets_kill : m0.tile.fibre.run = none ∧ running.tile.qFibre = { cmd0 (.go 1 plan0) with reply := some 2 } :: [] ∧
    fibreRuns running.tile = true ∧ running.tile.owner = some (me running) ∧ running.tile.fibre.run = some (run0 plan0) ∧
    (∀ u ∈ plan0, (unitAt (run0 plan0) u.1).sends = []) := by decide +kernel

theorem meets_bind : let s := ported port0
    ¬ 1 < (gangOf s (me s)).regions.length ∧ 0 < (gangOf s (me s)).regions.length ∧
    (manPort s (me s) 0 0).map (·.role) ≠ some 1 ∧ (manPort s (me s) 0 1).map (·.role) = some 1 ∧
    boundElsewhere s 0 (0, 1) = true ∧ boundElsewhere s 1 (0, 1) = false ∧ s.tile.ports[(1 : Fin 8)].tx = [] ∧
    (ported { port0 with tx := [endBeat] }).tile.ports[(1 : Fin 8)].tx ≠ [] := by decide +kernel

/-- Data waits at port 1, four beats and END, with room for three beats more outward. -/
def streaming : State :=
  ported { port0 with rx := mkBeats 0 4 (List.replicate 256 7) ++ [endBeat], tx := List.replicate 5 endBeat }

/-- A beat of the reserved kind 3. -/
def badBeat : Beat := { endBeat with side := 3 }

theorem meets_port : let s := streaming
    let s2 := { planned with tile := { planned.tile with fibre := ⟨[], [(51, ⟨.sinkPort 1, [], [3]⟩), (43, ⟨.src 1 0, [4], []⟩)], none⟩ } }
    BanksOn s [3] ∧ (find? s2.tile.fibre.plan (50 + 1)).isSome = true ∧ (find? s2.tile.fibre.plan (42 + 1)).isSome = true ∧
    (find? s.tile.fibre.plan (50 + 1)).isSome = false ∧ (find? s.tile.fibre.plan (42 + 1)).isSome = false ∧
    s.tile.ports[(1 : Fin 8)].binding.isSome = true ∧ s.tile.ports[(2 : Fin 8)].binding = none := by unfold BanksOn; decide +kernel

theorem meets_port_write : let s := streaming
    let beats := mkBeats 1 4 (vecBytes (getV s 3))
    (∀ b ∈ beats, beatOk b = true) ∧ (∀ b ∈ beats ++ [endBeat], beatOk b = true) ∧
    8 < s.tile.ports[(1 : Fin 8)].tx.length + beats.length ∧
    (ported port0).tile.ports[(1 : Fin 8)].tx.length + (beats ++ [endBeat]).length ≤ 8 := by decide +kernel

theorem meets_port_read : beatOk badBeat = false ∧
    streaming.tile.ports[(1 : Fin 8)].rx = mkBeats 0 4 (List.replicate 256 7) ++ (if true then [endBeat] else []) ++ [] ∧
    (mkBeats 0 4 (List.replicate 256 7)).length ≤ 4 ∧ (∀ b ∈ mkBeats 0 4 (List.replicate 256 7), isData b = true) ∧
    (∀ b ∈ mkBeats 0 4 (List.replicate 256 7), beatOk b = true) ∧ streaming.tile.ports[(1 : Fin 8)].broken.head?.bind id = none := by
  decide +kernel

/-- A data beat before a beat of tokens: the run stops without END. -/
theorem meets_port_run : let run := [mkBeat 0 [1, 2]]; let rest := [mkBeat 1 (List.replicate 16 0)]
    (∀ b ∈ run, isData b = true) ∧ (∀ b, rest.head? = some b → run ≠ [] ∧ isEnd b = false ∧ isData b = false) := by
  refine ⟨by decide, fun b h => ?_⟩
  cases h
  decide
/-! ### Steps of the engines -/

/-- The small machine, its strand blocked. -/
def blockedOn (w : WaitFor) (s : State) : State := { s with tile := { s.tile with run := .blocked w } }

theorem meets_wakes : (tileAt (blockedOn (.reply 1) m0) 0).owner = some key0 ∧ (tileAt (blockedOn (.reply 1) m0) 0).run = .blocked (.reply 1) ∧
    ¬ Arrived (blockedOn (.reply 1) m0) 0 key0 (.reply 1) ∧ Arrived m0 0 key0 (.replies 1 0) ∧ Arrived m0 0 key0 (.mark .load true 0) ∧
    Arrived m0 0 key0 (.drained 15) ∧ Arrived m0 0 key0 .allDrained ∧ Arrived m0 0 key0 (.portRoom 2 8) ∧ ¬ Arrived m0 0 key0 (.portRoom 2 9) ∧
    Arrived m0 0 key0 .acks ∧ ¬ Arrived (owing m0) 0 key0 .acks ∧ ¬ Arrived m0 0 key0 .folio ∧
    (tileAt (blockedOn (.retention 5) banked) 0).run = .blocked (.retention 5) := by
  unfold Arrived; decide +kernel

theorem meets_running : ∀ v, (tileAt m0 0).run ≠ .blocked v := by
  intro v h
  have h : RunState.running = .blocked v := h
  cases h

/-- A descriptor of the own scratchpad: four elements S16 from 100H. -/
def desc0 : Desc := ⟨0x100, .loc, 1, 1, 0, 0, false, 31, 0, 0, false, 0, [4, 0, 0, 0, 0], [1, 0, 0, 0, 0], 0, [0, 0, 0, 0, 0], [4, 0, 0, 0, 0], 0⟩

/-- Copy 1 of its elements to 200H. -/
def copy0 : CopyCmd := ⟨1, true, desc0, 0x200, 8, none, none, none, false, .tile, 0, none, 16, 16⟩

/-- The command, not yet started. -/
def cmdCopy (x : CopyCmd) : QCmd := cmd0 (.copy x)

/-- The machine with commands in an engine's queue. -/
def eng (e : Eng) (q : List QCmd) (s : State) : State := onTile 0 (setEngQueue e q) s

theorem meets_copy_start : Head (eng .load [cmdCopy copy0] m0) 0 .load (cmdCopy copy0) [] ∧ inFlight m0.tile < 64 ∧
    64 ≤ inFlight { m0.tile with flight := List.replicate 64 (cmdCopy copy0) } ∧ copy0.ring = none ∧ (cmdCopy copy0).started = false := by
  unfold Head; decide +kernel

theorem meets_copy_ring : let s := ringed ring0
    Head (eng .load [cmdCopy { copy0 with ring := some 0 }] s) 0 .load (cmdCopy { copy0 with ring := some 0 }) [] ∧
    (tileAt s 0).rings[(0 : Fin 8)] = some ring0 ∧ 0 < ring0.free ∧ ({ ring0 with free := 0 } : Ring).free = 0 ∧
    (tileAt s 0).owner = some (cmdCopy copy0).owner ∧ (cmdCopy copy0).owner = key0 := by
  unfold Head; decide +kernel

/-- A copy that its strand has left behind, without a strand on the tile and with the next one. -/
theorem meets_copy_left : let s := eng .load [{ cmdCopy { copy0 with ring := some 0 } with owner := ⟨9, 9, 9, 9⟩ }] (ringed ring0)
    let c := { cmdCopy { copy0 with ring := some 0 } with owner := ⟨9, 9, 9, 9⟩ }
    Head s 0 .load c [] ∧ (tileAt s 0).owner = some key0 ∧ key0 ≠ c.owner ∧
    (tileAt (onTile 0 (fun t => { t with owner := none }) s) 0).owner = none ∧
    Head (onTile 0 (fun t => { t with owner := none }) s) 0 .load c [] := by
  unfold Head; decide +kernel

/-- The command with its accesses performed, and in part. -/
def cmdDone : QCmd := { cmdCopy copy0 with started := true, rd := 15, wr := 15, buf := [(0, 0), (1, 0), (2, 0), (3, 0)] }
def cmdHalf : QCmd := { cmdDone with rd := 3, wr := 1, buf := [(0, 0), (1, 7)] }

/-- A copy to a descriptor finishes only when its elements have come. -/
def cmdOut : QCmd := { cmdHalf with body := .copy { copy0 with toLocal := false } }

theorem meets_copy_finish : let s := eng .load [cmdHalf] m0
    Head s 0 .load cmdHalf [] ∧ requestsIssued s 0 cmdHalf copy0 = true ∧ cmdHalf.finished = false ∧
    Head (eng .store [cmdOut] m0) 0 .store cmdOut [] ∧
    requestsIssued (eng .store [cmdOut] m0) 0 cmdOut { copy0 with toLocal := false } = false := by
  unfold Head; decide +kernel

theorem meets_copy_marks : let s := { m0 with tile := { m0.tile with flight := [cmdDone] } }
    (activeCopy s 0 .load 1 fun d => sourceRead d && (tileAt s 0).owner == some d.owner).isSome = true ∧
    readNoted (chanState (tileAt s 0) .load) 1 = false ∧ readNoted (chanState waiting.tile .load) 4 = true ∧
    ((tileAt s 0).flight.find? fun d => isCopy .load 1 d && d.held.isNone && accessesDone s 0 d) = some cmdDone ∧
    ((tileAt s 0).flight.find? fun d => isCopy .load 2 d && d.held.isNone && accessesDone s 0 d) = none ∧
    enginesRun (tileAt s 0) = true ∧ (tileAt s 0).owner = some cmdDone.owner ∧
    copyWritesWait s cmdDone.owner .load 1 = false := by decide +kernel

/-- A store of its strand, and an element of its store copy 1. -/
def flit0 : Flit := ⟨1, key0, false, 0x100, [1], none, none⟩
def flit1 : Flit := ⟨1, key0, false, 0x100, [1], none, some (.store, 1, 0)⟩

/-- A write of the strand that waits to be sent. -/
def sending (f : Flit) : State :=
  { m0 with tile := { m0.tile with net := { m0.tile.net with outbound := [(1, f)] } } }

theorem meets_copy_waits : copyWritesWait (sending flit1) key0 .store 1 = true ∧ owedAcks (sending flit0) key0 = true ∧
    owedAcks (sending flit1) key0 = false := by decide +kernel

/-- The half-done copy as the head of its engine. -/
def midway : State := eng .load [cmdHalf] m0

/-- A copy that has not been answered conflicts with nothing, and no earlier copy bears its number. -/
theorem meets_access_active : (∀ d ∈ (tileAt midway 0).flight, isCopy .load 1 d = false) ∧ returnWaits midway 0 1 1 = false ∧
    copy0.toLocal = true ∧ cmdHalf.started = true := by decide +kernel

theorem meets_access_read : Head midway 0 .load cmdHalf [] ∧ 2 < descCount copy0.desc ∧ cmdHalf.rd.testBit 2 = false ∧
    ∃ p, copySource 0 cmdHalf copy0 2 midway = .ok p ∧ true = true :=
  ⟨by unfold Head; decide +kernel, by decide +kernel, by decide +kernel, exists_answer (by decide +kernel)⟩

/-- The same copy from beyond the end of the scratchpad. -/
def copyBeyond : CopyCmd := { copy0 with desc := { desc0 with base := 0x200000 } }

theorem meets_access_read_trap : (match copySource 0 cmdHalf copyBeyond 2 midway with
      | .error (.trap f) => decide (f.cause = 0x048 ∧ wholeReport midway 0 cmdHalf false (.error (.trap f)) = .error (.trap f))
      | _ => false) = true ∧
    (match localWrite (cmdAccess cmdHalf .copyWrite true false) (cmdWho 0 cmdHalf) (0x200000, 0) 16 7 midway with
      | .error (.trap f) => decide (f.cause = 0x048 ∧ wholeReport midway 0 cmdHalf true (.error (.trap f)) = .error (.trap f))
      | _ => false) = true := by decide +kernel

theorem meets_access_write : readyElem midway 0 cmdHalf copy0 = true ∧ cmdHalf.wr.testBit 1 = false ∧ find? cmdHalf.buf 1 = some 7 ∧
    copy0.noData = false ∧
    ∃ u, localWrite (cmdAccess cmdHalf .copyWrite true false) (cmdWho 0 cmdHalf) (copyLocal copy0 1) 16 7 midway = .ok u ∧ true = true :=
  ⟨by decide +kernel, by decide +kernel, by decide +kernel, rfl, exists_answer (by decide +kernel)⟩

/-- CPYF with its elements read, its fingerprint to 300H. -/
def copyPrinted : CopyCmd := { copy0 with print := some 0x300 }
def cmdPrinted : QCmd := { cmdDone with body := .copy copyPrinted }

theorem meets_access_print : let s := eng .load [cmdPrinted] m0
    Head s 0 .load cmdPrinted [] ∧ allReady s 0 cmdPrinted copyPrinted = true ∧ cmdPrinted.wr.testBit (descCount copyPrinted.desc) = false ∧
    ∃ u, engWrite (cmdAccess cmdPrinted .copyWrite true false) (cmdWho 0 cmdPrinted) .loc (fun _ => true) 0x300
      ⟨shake256 (packBytes 16 ((List.range (descCount copyPrinted.desc)).map (look 0 cmdPrinted.buf))) 16, none, none⟩ s = .ok u ∧ true = true :=
  ⟨by unfold Head; decide +kernel, by decide +kernel, by decide +kernel, exists_answer (by decide +kernel)⟩

/-- A local sink that has sent a value to address 400H. -/
def sinkPlan : List (Nat × UnitCfg) := [(43, ⟨.src 1 0, [3], []⟩), (52, ⟨.sinkL 2 .val 0x400, [], [3]⟩)]
def sinkRun : Run := { run0 sinkPlan with units := [(43, UnitState.blank), (52, { UnitState.blank with sends := [(0x400, 9)] })] }
def sinking : State :=
  { m0 with tile := { m0.tile with fibre := ⟨sinkPlan, sinkPlan, some sinkRun⟩, qFibre := [cmd0 (.go 1 sinkPlan)] } }

theorem meets_access_fibre : runningGo sinking 0 = some (cmd0 (.go 1 sinkPlan), 1, sinkPlan, sinkRun) ∧
    find? sinkPlan 52 = some ⟨.sinkL 2 .val 0x400, [], [3]⟩ ∧ (unitAt sinkRun 52).sends = (0x400, 9) :: [] ∧
    (unitAt sinkRun 52).held = none ∧ owedAcks sinking key0 = false ∧
    ∃ p, performSend 0 (cmd0 (.go 1 sinkPlan)) (.sinkL 2 .val 0x400) 0x400 9 sinking = .ok p ∧ true = true :=
  ⟨by decide +kernel, by decide +kernel, by decide +kernel, by decide +kernel, by decide +kernel, exists_answer (by decide +kernel)⟩

/-- Reductions in the routers: two that merge and one of another place. -/
def routed : State :=
  onDev (fun d => { d with router := [⟨0, .s32, 0, 0x209000, .dev, 0x209000, 1, [(key0, [])], false⟩,
    ⟨0, .s32, 0, 0x209000, .dev, 0x209000, 2, [(key1, [])], false⟩, ⟨0, .s32, 0, 0x209004, .dev, 0x209004, 2, [], false⟩] }) m0

theorem meets_access_router : memoriesWf routed = true ∧
    routed.dev.router[0]? = some ⟨0, .s32, 0, 0x209000, .dev, 0x209000, 1, [(key0, [])], false⟩ ∧
    routed.dev.router[1]? = some ⟨0, .s32, 0, 0x209000, .dev, 0x209000, 2, [(key1, [])], false⟩ ∧
    amoFirst routed.dev.router 0 none ⟨0, .s32, 0, 0x209000, .dev, 0x209000, 1, [(key0, [])], false⟩ = true ∧
    amoFirst routed.dev.router 1 (some 0) ⟨0, .s32, 0, 0x209000, .dev, 0x209000, 2, [(key1, [])], false⟩ = true ∧
    amoFirst [⟨1, .s32, 0, 0x209000, .dev, 0x209000, 1, [(key1, [])], false⟩] 1 none
      ⟨0, .s32, 0, 0x209000, .dev, 0x209000, 2, [(key1, [])], false⟩ = false ∧
    routed.dev.router[2]? = some ⟨0, .s32, 0, 0x209004, .dev, 0x209004, 2, [], false⟩ := by decide +kernel

/-! ### Matrix passes -/

/-- Matrix commands: MZERO, CPYA with its accesses performed, and MMA of one element, from the operands at 400H. -/
def cmdZero : QCmd := cmd0 (.mzero 255 255 1 1)
def cmdScale : QCmd := cmd0 (.mscale 0 0 1 2 true false 3 0)
def acc0 : AccCmd := ⟨1, true, 0, 0, 1, 2, 0x400, 8, .s32, false, .tile, 0⟩
def cmdAcc : QCmd := { cmd0 (.acc acc0) with started := true, wr := 3 }
def mma0 : MmaCmd := ⟨false, 8, false, .pad 0x400 0 0 0, .pad 0x400 0 0 0, 1, 1, 1, 0, 0, 0, 0, false, 127⟩
def cmdMma : QCmd := cmd0 (.mma mma0)

theorem meets_matrix : memoriesWf m0 = true ∧ Head (eng .matrix [cmdZero] m0) 0 .matrix cmdZero [] ∧
    Head (eng .matrix [cmdScale] m0) 0 .matrix cmdScale [] ∧ Head (eng .matrix [cmdAcc] m0) 0 .matrix cmdAcc [] ∧
    cmdAcc.wr = 2 ^ (acc0.rows * acc0.cols) - 1 ∧ memoriesWf (eng .matrix [cmdMma] m0) = true ∧
    Head (eng .matrix [cmdMma] m0) 0 .matrix cmdMma [] ∧ (255 + 1 ≤ 256) := by
  unfold Head; decide +kernel

theorem meets_matrix_multiply : cmdMma.droop = false ∧ ({ cmdMma with droop := true } : QCmd).droop = true ∧ pairFmts 8 = some (.s8, .s8) ∧ (∃ p, operandRows cmdMma 0 mma0 mma0.a .s8 (passRows mma0 0)
    (eng .matrix [cmdMma] m0) = .ok p ∧ true = true) ∧ (mma0.m + 63) / 64 * ((mma0.n + 31) / 32) ≤ 0 + 1 ∧
    (({ mma0 with m := 65 } : MmaCmd).m + 63) / 64 * ((mma0.n + 31) / 32) = 2 :=
  ⟨rfl, rfl, by decide +kernel, exists_answer (by decide +kernel), by decide +kernel, by decide +kernel⟩
/-! ### Graph and collective steps -/

/-- An intersection, two sources and a sink of its left output; endpoint 3 has no edge of its own consumers but the counter sink. -/
def isect0 : UnitCfg := ⟨.isect, [2, 3], [0, 1]⟩
def pairPlan : List (Nat × UnitCfg) :=
  [(8, isect0), (42, ⟨.src 0 0, [0], []⟩), (43, ⟨.src 1 0, [1], []⟩), (52, ⟨.sinkL 2 .count 0x400, [], [2]⟩), (53, ⟨.sinkL 3 .count 0x440, [], [3]⟩)]

/-- A run of that graph with these tokens before the intersection, and `k` tokens behind it. -/
def pairRun (a b : List Tok) (k : Nat) : Run :=
  { run0 pairPlan with
    edges := [⟨a.map (⟨·, []⟩), 0, 0, false, none⟩, ⟨b.map (⟨·, []⟩), 0, 0, false, none⟩,
      ⟨List.replicate k ⟨.elem 0 0 none, []⟩, 0, 0, false, none⟩] ++ List.replicate 29 ⟨[], 0, 0, false, none⟩ }

/-- The machine in which it runs. -/
def pairing (r : Run) : State :=
  { m0 with tile := { m0.tile with fibre := ⟨pairPlan, pairPlan, some r⟩, qFibre := [{ cmd0 (.go 1 pairPlan) with reply := some 2 }] } }

theorem meets_graph_queue : let s := eng .fibre [cmd0 (.config 8 isect0)] m0
    let g := eng .fibre [cmd0 (.go 1 pairPlan)] m0
    fibreRuns (tileAt s 0) = true ∧ Head s 0 .fibre (cmd0 (.config 8 isect0)) [] ∧ (tileAt s 0).owner = some key0 ∧
    Head g 0 .fibre (cmd0 (.go 1 pairPlan)) [] ∧ (tileAt g 0).fibre.run = none := by
  unfold Head; decide +kernel

/-- Equal coordinates before the intersection, unequal ones with the lower to the left, and a coordinate out of order. -/
def runEqual (k : Nat) : Run := pairRun [.elem 5 1 none] [.elem 5 2 none] k
def runLower : Run := pairRun [.elem 4 1 none] [.elem 5 2 none] 0
def runWrong : Run := { runLower with units := [(8, { UnitState.blank with lastA := some 9 })] }

theorem meets_graph_unit : Running (pairing (runEqual 0)) 0 { cmd0 (.go 1 pairPlan) with reply := some 2 } [] 1 pairPlan (runEqual 0) ∧
    find? pairPlan 8 = some isect0 ∧ adapterPort isect0.fn = none ∧
    (match slotStep (pairing (runEqual 0)) 0 pairPlan (runEqual 0) (8, isect0) with
     | .move takes writes _ 0 [] => decide (takes = [0, 1] ∧ (∀ w ∈ writes, ((runEqual 0).edges.getD (isect0.outs.getD w.1 32) (Edge.start 0)).toks.length < 8)) &&
         (match writeTokens isect0 writes (runEqual 0) with | .ok _ => true | .error _ => false)
     | _ => false) = true := by
  unfold Running; decide +kernel

theorem meets_graph_full : (match slotStep (pairing (runEqual 8)) 0 pairPlan (runEqual 8) (8, isect0) with
     | .move _ writes _ _ _ => decide (∃ w ∈ writes, 8 ≤ ((runEqual 8).edges.getD (isect0.outs.getD w.1 32) (Edge.start 0)).toks.length)
     | _ => false) = true ∧
    (match slotStep (pairing runWrong) 0 pairPlan runWrong (8, isect0) with | .breach _ _ _ _ => true | _ => false) = true ∧
    (match slotStep (pairing (run0 pairPlan)) 0 pairPlan (run0 pairPlan) (8, isect0) with | .idle => true | _ => false) = true := by decide +kernel

/-- A value unit with a reference to read. -/
def value0 : UnitCfg := ⟨.value { desc0 with fmt := 2, stride := [1, 0, 0, 0, 0] } 0, [2], [0]⟩
def valuePlan : List (Nat × UnitCfg) := [(24, value0), (42, ⟨.src 0 0, [0], []⟩), (52, ⟨.sinkL 2 .count 0x400, [], [2]⟩)]
def valueRun : Run := { pairRun [.elem 5 1 none] [] 0 with units := [] }
def reading : State :=
  { m0 with tile := { m0.tile with fibre := ⟨valuePlan, valuePlan, some valueRun⟩, qFibre := [cmd0 (.go 1 valuePlan)] } }

theorem meets_graph_read : Running reading 0 (cmd0 (.go 1 valuePlan)) [] 1 valuePlan valueRun ∧
    (match graphStep (freeAt reading (2 ^ 68)) valuePlan valueRun value0 24 [] (unitAt valueRun 24) with
     | .read which ix => decide (owedAcks reading key0 = false) &&
         answersWith (readFor 0 (cmd0 (.go 1 valuePlan)) value0.fn which ix reading) fun _ => true
     | _ => false) = true := by
  unfold Running; decide +kernel

theorem meets_graph_stall : let s := pairing (run0 pairPlan)
    (∀ g ∈ pairPlan, (unitAt (run0 pairPlan) g.1).held = none ∧ waitsStopped s key0 (tileAt s 0) g.2.fn = false) ∧
    (∃ g ∈ pairPlan, isSink g.2.fn = true ∧ (unitAt (run0 pairPlan) g.1).ended = false) ∧
    (∀ g ∈ pairPlan, unitMoves s 0 pairPlan { run0 pairPlan with still := 2 ^ 20 } g = false) ∧
    (∃ g ∈ pairPlan, unitMoves s 0 pairPlan (runEqual 0) g = true) ∧ (run0 pairPlan).still < 2 ^ 20 ∧
    (run0 pairPlan).killed = false := by decide +kernel

/-- The run whose sinks have taken D. -/
def runOver : Run := { run0 pairPlan with units := pairPlan.map fun u => (u.1, { UnitState.blank with ended := true }) }

theorem meets_graph_finish : Running (pairing runOver) 0 { cmd0 (.go 1 pairPlan) with reply := some 2 } [] 1 pairPlan runOver ∧
    (∀ g ∈ pairPlan, (isSink g.2.fn = true → (unitAt runOver g.1).ended = true) ∧ (unitAt runOver g.1).sends = []) ∧
    sinkQueues pairPlan = [] ∧ (tileAt (pairing runOver) 0).owner = some key0 := by
  unfold Running; decide +kernel

theorem meets_stream_pair : inputHead (runEqual 0) isect0 8 0 = some (.elem 5 1 none) ∧ inputHead (runEqual 0) isect0 8 1 = some (.elem 5 2 none) ∧
    inputHead runLower isect0 8 0 = some (.elem 4 1 none) ∧ UnitState.blank.lastA = none ∧ UnitState.blank.lastB = none ∧
    (4 : BitVec 32).toNat < (5 : BitVec 32).toNat ∧
    inputHead (pairRun [.elem 4 1 (some 6)] [.elem 4 2 (some 7)] 0) isect0 28 0 = some (.elem 4 1 (some 6)) ∧
    inputHead (pairRun [.elem 4 0xFFFFFFFF none] [] 0) value0 24 0 = some (.elem 4 0xFFFFFFFF none) := by decide +kernel

/-- The collective of both members: the sums of two elements S32 at 100H of each. -/
def desc2 : Desc := { desc0 with fmt := 2, ext := [2, 0, 0, 0, 0], rootExt := [2, 0, 0, 0, 0] }
def coll0 : CollCmd := ⟨1, .gang, 3, 0, .allreduce, .add, false, 0, desc2⟩
def cmdColl (k : StrandKey) (x : CollCmd) : QCmd := { cmd0 (.coll x) with owner := k, started := true }

/-- The machine with a collective of each member, as given. -/
def colling (x y : CollCmd) : State :=
  onTile 1 (setEngQueue .store [cmdColl key1 y]) (onTile 0 (setEngQueue .store [cmdColl key0 x]) m0)

/-- The members of the collective. -/
def both (x y : CollCmd) : List (Nat × Nat × QCmd) := [(0, 0, cmdColl key0 x), (1, 1, cmdColl key1 y)]

theorem meets_coll_complete : let s := colling coll0 coll0
    Head s 0 .store (cmdColl key0 coll0) [] ∧ readyMembers s coll0 0 (collMembers s key0 coll0) = some (both coll0 coll0) ∧
    ((both coll0 coll0).map (·.2.1)).Nodup ∧ CollMember.away ∉ collMembers s key0 coll0 ∧
    agree coll0 2 ((both coll0 coll0).filterMap fun m => collOf m.2.2) = true ∧ collStopper s 2 (both coll0 coll0) = none := by
  unfold Head; decide +kernel

theorem meets_coll_disagree : let y := { coll0 with kind := .bcast }
    let s := colling coll0 y
    readyMembers s coll0 0 (collMembers s key0 coll0) = some (both coll0 y) ∧
    agree coll0 2 ((both coll0 y).filterMap fun m => collOf m.2.2) = false ∧
    readyMembers (eng .store [cmdColl key0 coll0] m0) coll0 0 (collMembers m0 key0 coll0) = none ∧
    (m0.dev.lost.contains (lostKey key0 coll0) || (collMembers m0 key0 coll0).any (memberLost m0 coll0)) = false := by decide +kernel

/-- Member 1 has ended without its COLL. -/
def widowed : State := onGang 0 0 0 (fun g => { g with members := [.on 0, .ended] }) (eng .store [cmdColl key0 coll0] m0)

theorem meets_coll_lost : Head widowed 0 .store (cmdColl key0 coll0) [] ∧
    (widowed.dev.lost.contains (lostKey key0 coll0) || (collMembers widowed key0 coll0).any (memberLost widowed coll0)) = true := by
  unfold Head; decide +kernel

/-- Barrier 0 with the arrivals given. -/
def barred (as : List Nat) (g : Member) : State := onGang 0 0 0 (fun x => { x with pending := [as, []], members := [.on 0, g] }) m0

theorem meets_barrier_instance : (barred [0] .ended).dev.gangs.any (Gang.is 0 0 0) = true ∧
    ((gangAt (barred [0] .ended) 0 0 0).pending.getD 0 [] ≠ [] ∧ ∀ i < 2, Reached (gangAt (barred [0] .ended) 0 0 0) 0 i) ∧
    ¬ (∀ i < 2, Reached (gangAt (barred [0] (.on 1)) 0 0 0) 0 i) := by
  unfold Reached; decide +kernel
/-! ### Beats and flits -/

/-- The strand of member 0 streams at port 1, with a beat to send; region 5's edge buffer of that port is empty. -/
def dataBeat : Beat := mkBeat 0 [1, 2, 3, 4, 5, 6, 7, 8]
def outbound : State := ported { port0 with tx := [dataBeat] }

theorem meets_beat_region : (tileAt outbound 0).owner = some key0 ∧ (tileAt outbound 0).ports[(1 : Fin 8)].binding = some (0, 1) ∧
    (gangOf outbound key0).regions[0]? = some 5 ∧ manPort outbound key0 0 1 = some ⟨1, 4, 4, 8, 8, 1, 1, 16⟩ ∧
    (tileAt outbound 0).ports[(1 : Fin 8)].tx = dataBeat :: [] ∧ (tileAt outbound 0).net.frozen = false ∧ clockStopped (tileAt outbound 0) = false ∧
    (regionAt outbound 5).state = .bound ∧ ((regionAt outbound 5).edges.getD 1 []).length < 4 ∧
    (tileAt outbound 0).ports[(1 : Fin 8)].rx.length < 16 ∧ isEnd dataBeat = false ∧ isEnd endBeat = true ∧
    (regionAt (onRegion 5 (fun r => { r with state := .stopped }) outbound) 5).state ≠ .bound := by decide +kernel

/-- Region 5, which serves a message at port 2. -/
def served (m : PortMsg) (s : State) : State := onRegion 5 (fun r => { r with serving := [m] }) s

/-- A load of a codec page waits for its result; its message has gone out. -/
def awaiting : State :=
  served ⟨2, .load 0, []⟩ (fabric { m0 with tile := { m0.tile with run := .blocked .codec, codec := some ([1], [dataBeat]) } })

theorem meets_beat_load : (tileAt awaiting 0).owner = some key0 ∧ (tileAt awaiting 0).run = .blocked .codec ∧
    (tileAt awaiting 0).codec = some ([1], [dataBeat]) ∧ [dataBeat].any beatEnds = false ∧
    servedFor awaiting (.load 0) = some ⟨2, .load 0, []⟩ ∧ servedFor outbound (.load 0) = none ∧
    servedFor (served ⟨2, .load 0, [endBeat]⟩ awaiting) (.load 0) = some ⟨2, .load 0, [endBeat]⟩ ∧
    (tileAt awaiting 0).net.frozen = false ∧ clockStopped (tileAt awaiting 0) = false := by decide +kernel

theorem meets_beat_port : let s := served ⟨2, .load 0, [dataBeat, endBeat]⟩ awaiting
    servedMsg (regionAt s 5) 2 = some ⟨2, .load 0, dataBeat :: [endBeat]⟩ ∧
    (regionAt s 5).manifest.bind (fun m => m.ports[2]?) = some ⟨2, 4, 4, 8, 8, 1, 1, 16⟩ ∧
    (s.dev.regions.any fun r => r.1 == 5) = true ∧ (tileAt s 0).net.frozen = false ∧ clockStopped (tileAt s 0) = false ∧
    (regionAt s 5).state = .bound ∧ ((regionAt s 5).edges.getD 2 []).length < 4 := by decide +kernel

/-- A copy of eight bytes whose elements come back from port 2 of region 0. -/
def copyPath : CopyCmd := { copy0 with path := some (0, 2), tbits := 8, lbits := 8, desc := { desc0 with fmt := 4, ext := [8, 0, 0, 0, 0], rootExt := [8, 0, 0, 0, 0], fpath := true, fport := 2 } }
def cmdPath : QCmd := { cmdCopy copyPath with started := true, rd := 255, pass := 2, beats := [dataBeat] }
def pathing : State := served ⟨2, .copy 0 .load 1, []⟩ (eng .load [cmdPath] (fabric m0))

theorem meets_beat_copy : (tileAt pathing 0).owner = some key0 ∧ Head pathing 0 .load cmdPath [] ∧
    (∀ d ∈ (tileAt pathing 0).flight, isCopy .load 1 d = false) ∧
    stagePort pathing 0 cmdPath copyPath = some (0, 2, ⟨2, 4, 4, 8, 8, 1, 1, 16⟩) ∧
    mayServe pathing key0 0 2 (.copy 0 .load 1) = true ∧ messageSent pathing key0 0 2 (.copy 0 .load 1) = true ∧
    mayServe (eng .load [cmdPath] (fabric m0)) key0 0 2 (.copy 0 .load 1) = false ∧
    messageSent (served ⟨2, .copy 0 .load 1, [endBeat]⟩ pathing) key0 0 2 (.copy 0 .load 1) = false ∧
    (beatOk badBeat = false ∨ isTokens badBeat = true) ∧ beatOk dataBeat = true ∧ isData dataBeat = true ∧ beatOk endBeat = true := by
  unfold Head; decide +kernel

theorem meets_beat_end : (∃ ys, codecResult 0 2 (descCount copyPath.desc) ⟨2, 4, 4, 8, 8, 1, 1, 16⟩ ([dataBeat] ++ [endBeat]) = .ok ys ∧
      decide (ys = [1, 2, 3, 4, 5, 6, 7, 8]) = true) ∧
    stopsWith (codecResult 0 2 (descCount copyPath.desc) ⟨2, 4, 4, 8, 8, 1, 1, 16⟩ [endBeat]) 0x103 = true :=
  ⟨exists_answer (by decide +kernel), by decide +kernel⟩

/-- The tile of member 0 with its interface as given, its strand in state `r`. -/
def wired (r : RunState) (x : NetIf) : State := { m0 with tile := { m0.tile with run := r, net := x } }

/-- An interface with these flits in its receive buffer, frozen or not, and these acknowledgements. -/
def iface (rx : List Flit) (frozen : Bool) (acks : List Nat) : NetIf := { Tile.blank.net with rx := rx, frozen := frozen, acks := acks }

theorem meets_flits : memoriesWf (wired .running (iface [flit0] false [])) = true ∧
    (tileAt (wired .running (iface [flit0] false [])) 0).owner = some key0 ∧
    (tileAt (wired .running (iface [flit0] false [])) 0).net.rx = flit0 :: [] ∧
    (tileAt (wired .running (iface [flit0] false [])) 0).net.frozen = false ∧ flit0.kind = 1 ∧ flit0.nibble = none ∧
    amoWaits (onTile 1 (fun t => { t with run := .blocked (.peer 0 (some (0, [])) ) })
      (wired .running (iface [⟨2, key1, false, 0x100, [1], none, none⟩] false []))) ⟨2, key1, false, 0x100, [1], none, none⟩ = true ∧
    (tileAt (wired .running (iface [⟨4, key0, false, 3, [9], none, none⟩] false [])) 0).net.rx = ⟨4, key0, false, 3, [9], none, none⟩ :: [] := by
  decide +kernel

theorem meets_freeze : (tileAt (wired (.frozen .deadline) (iface [] false [])) 0).run = .frozen .deadline ∧
    (tileAt (wired (.frozen .deadline) (iface [] true [1])) 0).net.frozen = true ∧
    64 ∉ (tileAt (wired (.frozen .deadline) (iface [] true [1])) 0).net.acks ∧
    1 ∉ (tileAt (wired (.frozen .deadline) (iface [] true [])) 0).net.acks ∧
    1 ∈ (tileAt (wired (.frozen .deadline) (iface [] true [1])) 0).net.acks ∧ 1 < gangSize m0 key0 ∧ (0 : Nat) < 1024 ∧
    (tileAt (wired .running (iface [] true [])) 0).net.frozen = true := by decide +kernel

theorem meets_flits_served : ¬ ((∃ w, (tileAt (wired .running (iface [flit0] false [])) 0).run = .frozen w) ∨
    ∃ w, (tileAt (wired .running (iface [flit0] false [])) 0).run = .halted w) := by
  rintro (⟨w, h⟩ | ⟨w, h⟩)
  · exact absurd (show RunState.running = .frozen w from h) (by intro h; cases h)
  · exact absurd (show RunState.running = .halted w from h) (by intro h; cases h)

/-! ### Stops and delivery -/

/-- The strand of member 0 in state `r`, asked to yield with deadline `d`, `n` clocks after. -/
def asked (r : RunState) (d : Option Nat) (n : Nat) : State := { m0 with tile := { m0.tile with run := r, yieldReq := d, sincePost := n } }

/-- The same strand between the two parts of a BAR, its arrival made. -/
def askedAtBar : State :=
  onGang 0 0 0 (fun g => { g with pending := [[], [0]] })
    { asked (.blocked (.barrier 1)) (some 5) 5 with tile := { (asked (.blocked (.barrier 1)) (some 5) 5).tile with barStage := some 1 } }

theorem meets_stops : Placed m0 0 key0 ∧ Placed (asked .running (some 5) 4) 0 key0 ∧ (tileAt (asked .running (some 5) 4) 0).sincePost < 5 ∧
    5 ≤ (tileAt (asked .running (some 5) 5) 0).sincePost ∧ (tileAt (asked .running (some 5) 5) 0).barStage = none ∧
    Placed askedAtBar 0 key0 ∧ (tileAt askedAtBar 0).yieldReq = some 5 ∧ (tileAt askedAtBar 0).run = .blocked (.barrier 1) ∧
    5 ≤ (tileAt askedAtBar 0).sincePost ∧ (tileAt askedAtBar 0).barStage = some 1 := by
  unfold Placed; decide +kernel

/-- A strand that comes to rest for its quota, with deadline `d` in its record, and its engine still at work or not. -/
def coming (d : Nat) (q : List QCmd) : State :=
  onTask 0 0 (fun t => { t with trec := { t.trec with deadline := d } }) (eng .load q (asked (.resting .quota) none 8))

theorem meets_stops_late : Placed (coming 9 [cmdHalf]) 0 key0 ∧ StopWhy.quota ≠ .yield ∧
    (tileAt (coming 9 [cmdHalf]) 0).run = .resting .quota ∧ (tileAt (coming 9 [cmdHalf]) 0).yieldReq = none ∧
    (tileAt (coming 9 [cmdHalf]) 0).sincePost < (taskOf (coming 9 [cmdHalf]) key0).trec.deadline ∧
    (taskOf (coming 8 [cmdHalf]) key0).trec.deadline ≤ (tileAt (coming 8 [cmdHalf]) 0).sincePost ∧
    atRest (tileAt (coming 8 [cmdHalf]) 0) key0 = false ∧ atRest (tileAt (coming 8 []) 0) key0 = true ∧
    readyToSave (tileAt (coming 8 [cmdHalf]) 0) key0 = false ∧
    (tileAt (asked (.resting .yield) none 0) 0).run = .resting .yield ∧
    readyToSave (tileAt (asked (.resting .yield) none 0) 0) key0 = true ∧ savedOf (asked (.resting .yield) none 0) key0 = none := by
  unfold Placed; decide +kernel

theorem meets_scan_out : let s := wired (.frozen .deadline) (iface [] true [64, 1])
    Placed s 0 key0 ∧ (tileAt s 0).run = .frozen .deadline ∧ (0 : Nat) < 1024 ∧ savedOf s key0 = none ∧
    freezeDone s (tileAt s 0) key0 = true ∧
    freezeDone (wired (.frozen .deadline) (iface [] true [1])) (tileAt (wired (.frozen .deadline) (iface [] true [1])) 0) key0 = false ∧
    (taskOf s key0).trec.policy = 2 := by
  unfold Placed; decide +kernel

/-- A fault that waits, its command held with it. -/
def fault0 : TrapInfo := ⟨0x048, 0x200000, 0, []⟩
def cmdFault : QCmd := { cmdHalf with held := some (.fault fault0) }
def faulting : State := eng .load [cmdFault] m0

theorem meets_delivery : Placed faulting 0 key0 ∧ (tileAt faulting 0).barStage = none ∧
    lowestFault (fun c => c.owner == key0) (tileAt faulting 0) = some (.load, cmdFault, fault0) ∧
    lowestFault (fun c => c.owner == key0) (tileAt m0 0) = none ∧
    lowestFault (fun c => some c.owner != (tileAt (eng .load [{ cmdFault with owner := ⟨0, 0, 1, 0⟩ }] m0) 0).owner)
      (tileAt (eng .load [{ cmdFault with owner := ⟨0, 0, 1, 0⟩ }] m0) 0) = some (.load, { cmdFault with owner := ⟨0, 0, 1, 0⟩ }, fault0) := by
  unfold Placed; decide +kernel

theorem meets_boundary : AtBoundary (tileAt faulting 0) ∧ ¬ AtBoundary (tileAt awaiting 0) := by
  refine ⟨.inl rfl, ?_⟩
  rintro (h | ⟨w, h, -, -, hw, -⟩)
  · exact absurd (show RunState.blocked .codec = .running from h) (by intro h; cases h)
  · have h : RunState.blocked .codec = .blocked w := h
    cases h
    exact hw rfl

/-- The strand with an asynchronous cause, a notice, and a charge that takes its task's balance to zero; the notice is owed
to the strand of member 1. -/
def charged : State :=
  onTask 0 0 (fun t => { t with balance := 45, owed := [key1] })
    { m0 with tile := { m0.tile with async := [fault0], notice := true, unreported := [(key0, 45)] } }

theorem meets_charges : Placed charged 0 key0 ∧ (tileAt charged 0).async = fault0 :: [] ∧ (tileAt charged 0).barStage = none ∧
    (tileAt m0 0).async = [] ∧ (tileAt charged 0).unreported = [(key0, 45)] ∧ 0 < (taskOf charged key0).balance ∧
    (taskOf charged key0).balance - 45 ≤ 0 ∧ (0 : Nat) < 1024 ∧ key1 ∈ (taskOf charged key1).owed ∧ key0 ∉ (taskOf charged key0).owed ∧
    Placed charged 1 key1 ∧ (tileAt charged 0).run = .running ∧ (tileAt charged 0).notice = true := by
  unfold Placed; decide +kernel

/-! ### Requests, copy-on-write, folios -/

/-- The machine with VA 2000H a copy-on-write page at 300000H and VA 3000H a code page at 301000H, a frame in the pool, and a
service ring. -/
def serviced : State :=
  onDev (fun d => { d with
    mem := [⟨0, 0x01⟩, ⟨8, 0xCF⟩, ⟨9, 0x04⟩, ⟨11, 0x20⟩, ⟨16, 0x67⟩, ⟨19, 0x30⟩, ⟨24, 0x53⟩, ⟨26, 0x10⟩, ⟨27, 0x30⟩]
    requests := [⟨7, 0, 3, 0x2000, 0, false, none, 0⟩]
    fns := [(0, { FnRegs.blank 0 with en := true, root := 0, fring := 0x303, ftail := 63, fhead := 1, pool := [(0x302000, 0)] })] }) m0

/-- A request that may be recorded, as the ring has room; and one that may not. -/
def request0 : Request := ⟨6, 0, 1, 0x200000, 2, false, none, 0⟩

theorem meets_request : memoriesWf serviced = true ∧
    (let s := onDev (fun d => { d with requests := [request0] }) serviced
     s.dev.requests[0]? = some request0 ∧ (request0.recorded = false ∧ request0.answered = none ∧
       ∀ x ∈ (fnRegs s 0).pool, ¬ (request0.kind = 3 ∧ x.2 = request0.size)) ∧
     ((fnRegs s 0).fring ≠ 0 ∧ ((fnRegs s 0).ftail + 1) % 64 ≠ (fnRegs s 0).fhead)) ∧
    ¬ (∀ x ∈ (fnRegs serviced 0).pool, ¬ ((3 : Nat) = 3 ∧ x.2 = 0)) := by decide +kernel

theorem meets_cow : serviced.dev.requests[0]? = some ⟨7, 0, 3, 0x2000, 0, false, none, 0⟩ ∧
    (fnRegs serviced 0).pool.find? (fun x => x.2 == 0) = some (0x302000, 0) ∧
    pageEntries serviced 0 0x2000 = some (16, 1, 0x30000067) ∧ pteCow 0x30000067 = true ∧
    (16 + 8 * 1 ≤ 0x302000 ∨ 0x302000 + pageBytes 0 ≤ 16) ∧ 0x302000 % 4096 = 0 ∧ 0x302000 < 2 ^ 56 := by decide +kernel

theorem meets_cow_bytes : ∀ a < pageBytes 0, (pageByte serviced 0 0x30000067 a).isSome = true := by
  intro a _
  rw [pageByte, if_neg (by decide +kernel)]
  rfl

/-- A KIND 4 record to write, its waiter blocked. -/
theorem meets_request_done : let s := onDev (fun d => { d with requests := [{ request0 with kind := 4 }] }) (blockedOn (.service 6 ⟨0x047, 0, 0, []⟩) serviced)
    s.dev.requests[0]? = some { request0 with kind := 4 } ∧ (tileAt s 0).run = .blocked (.service 6 ⟨0x047, 0, 0, []⟩) ∧
    (fnRegs s 0).fring ≠ 0 ∧ (fnRegs m0 0).fring = 0 := by decide +kernel

/-- The strand of member 0 waits for the folio at `vpc`. -/
def waitingAt (vpc : Word) : State :=
  { serviced with tile := { serviced.tile with run := .blocked .folio, seq := { serviced.tile.seq with vpc := vpc } } }

theorem meets_folio : (tileAt (waitingAt 0x3008) 0).run = .blocked .folio ∧ (tileAt (waitingAt 0x3008) 0).owner = some key0 ∧
    (tileAt (waitingAt 0x3008) 0).seq.vpc.toNat % 8 = 0 ∧ folioAt (waitingAt 0x3008) (taskOf (waitingAt 0x3008) key0) 0x3008 = none ∧
    ∃ p, formFolio (waitingAt 0x3008) (taskOf (waitingAt 0x3008) key0) (strandSpace (waitingAt 0x3008) key0) 0x3008 = .ok p ∧ true = true :=
  ⟨by decide +kernel, by decide +kernel, by decide +kernel, by decide +kernel, exists_answer (by decide +kernel)⟩

theorem meets_folio_trap : (match formFolio (waitingAt 0x5000) (taskOf (waitingAt 0x5000) key0) (strandSpace (waitingAt 0x5000) key0) 0x5000 with
    | .error (.trap x) => x.cause | _ => 0) = 0x044 := by decide +kernel

/-- A folio of the strand's task, and one of another tenant. -/
def folio0 : Folio := ⟨0, [], [], 0x3000, 0x3008, 0x3008, [0x2800000000000006], true⟩
def folio1 : Folio := { folio0 with tenant := 1 }

theorem meets_folio_cached : let s := onDev (fun d => { d with folios := [folio0] }) (waitingAt 0x3008)
    folioAt s (taskOf s key0) 0x3008 = some folio0 := by decide +kernel

/-- A folio takes at least one byte, and at most 128 + 24 for each instruction. -/
theorem folioSize_bounds (s : State) (f : Folio) : 1 ≤ folioSize s f ∧ folioSize s f ≤ 128 + 24 * f.words.length := by
  have := Nat.mod_lt (Config.folioBytes f.tenant f.root (Config.tver s.dev.fwGen) f.binding f.first f.words)
    (show 0 < 128 + 24 * f.words.length by omega)
  simp only [folioSize]
  omega

theorem folios_empty {s : State} {f : Folio} (h : s.dev.folios = []) (hf : f.words.length = 1) :
    ∃ w, keepFolio f s = some w := by
  have hb := (folioSize_bounds s f).2
  have hm : makeRoom f s.dev.folios.length s = s := by rw [h]; rfl
  have hs : folioFits s f = true := by
    simp only [folioFits, foliosBytes, h, List.map_nil, List.sum_nil, decide_eq_true_eq]
    omega
  exact ⟨_, by simp only [keepFolio, hm]; exact if_pos hs⟩

theorem meets_folio_kept : ∃ w, keepFolio folio0 m0 = some w := folios_empty rfl rfl

/-- The partition full of one folio of another tenant, which the strand of member 0 executes. -/
def fullOf (n : Nat) : State :=
  onDev (fun d => { d with folios := List.replicate n folio1 }) { m0 with tile := { m0.tile with folio := some folio1 } }

theorem foliosBytes_least (s : State) (f : Folio) (n : Nat) (h : s.dev.folios = List.replicate n f) :
    n ≤ foliosBytes s (fun _ => true) := by
  have := (folioSize_bounds s f).1
  simp only [foliosBytes, h, if_true, List.map_replicate, List.sum_replicate, smul_eq_mul]
  exact Nat.le_mul_of_pos_right n this

/-- A pinned folio makes no room. -/
theorem makeRoom_pinned (f g : Folio) (s : State) (n m : Nat) (h : s.dev.folios = List.replicate m g) (hp : pinned s g = true) :
    makeRoom f n s = s := by
  cases n with
  | zero => rfl
  | succ n =>
    have hn : s.dev.folios.reverse.find? (evictable s f.tenant) = none := by
      rw [List.find?_eq_none, h, List.reverse_replicate]
      intro x hx
      rw [List.eq_of_mem_replicate hx]
      simp [evictable, hp]
    simp only [makeRoom, hn]
    split <;> rfl

theorem folios_full (n : Nat) (hn : 2 ^ 27 ≤ n) : keepFolio folio0 (fullOf n) = none := by
  have h : (fullOf n).dev.folios = List.replicate n folio1 := rfl
  have hp : pinned (fullOf n) folio1 = true := List.any_eq_true.mpr ⟨(0, (fullOf n).tile), List.mem_cons_self, by
    simp [executing, fullOf, m0, base, Config.tiles]⟩
  have hb := foliosBytes_least _ _ _ h
  have h2 := (folioSize_bounds (fullOf n) folio0).1
  have hf : folioFits (fullOf n) folio0 = false := by
    simp only [folioFits, decide_eq_false_iff_not]
    omega
  simp only [keepFolio, makeRoom_pinned folio0 folio1 _ _ n h hp, hf, Bool.false_eq_true, if_false]

theorem meets_folio_full : ∃ s, keepFolio folio0 s = none := ⟨_, folios_full _ (le_refl _)⟩

/-! ### The dispatcher -/

/-- A task record in ring slot 0 of queue 0 (R353): object 1, one gang of one tile, level 5, the words of the small machine. -/
def recordWords : List Nat :=
  [7, 1, 1 + 2 ^ 16 + 2 ^ 32, 5 + 2 * 2 ^ 6, 0x208000, 0x208008, 0x210000, 4, 0, 1000]

/-- The bytes of words of 64 bits as a number. -/
def wordsNat (ws : List Nat) : Nat := (ws.zipIdx.map fun w => w.1 * 2 ^ (64 * w.2)).sum

/-- An object with one entry at offset 0. -/
def obj0 : Obj := ⟨1, 0, [], false, false, 1, 0x3000, [(0, 0, 0)], [], [], [], [], []⟩

/-- A running queue with that record in its ring. -/
def queued : State :=
  withBytes 0x240000 256 (wordsNat recordWords)
    (onQueue 0 (fun q => { q with state := .running, qbase := 0x240000, qlog2 := 2, head := 0, tail := 1 })
      (onDev (fun d => { d with tasks := [], gangs := [], objs := [obj0] }) m0))

theorem plain_of {s : State} {as : AddrSpace}
    (h : as.root = 0 ∧ s.dev.mem.readNat 0 8 = 1 ∧ s.dev.mem.readNat 8 8 = 0x200004CF ∧ s.dev.tlb = [] ∧ s.dev.poison = []) :
    Plain s as := ⟨h.1, h.2.1, h.2.2.1, by simp [h.2.2.2.1], h.2.2.2.2⟩

theorem readSlot_plain {s : State} {q i a : Nat} (h : Plain s (spaceOf s (queueAt s q).owner (queueAt s q).pasid))
    (hb : (queueAt s q).qhost = false ∧ slotAddr (queueAt s q) i = a ∧ 0x200000 ≤ a ∧ a + 256 ≤ 0x400000) :
    readSlot s q i = some (s.dev.mem.readBytes a 256) := by
  obtain ⟨h1, h2, h3, h4⟩ := hb
  simp [readSlot, h1, h2, devRead, locate, devRead_plain a h 256 a h3 h4, locate_plain a h h3 (by omega) (by decide : Use.read ≠ .fetch)]

theorem meets_doorbell : let r := queueAt queued 0
    (r.state ≠ .disabled ∧ r.state ≠ .error ∧ ¬ (r.state = .aborting ∧ r.err ≠ 0) ∧ r.resetting = false ∧ r.devenq = false) ∧
    queueSeen queued 0 0 = some 0 ∧ queueSeen queued 0 4096 = none ∧ (4 : Nat) % 4096 ≠ 0 ∧
    2 ^ r.qlog2 < (5 + 2 ^ 32 - r.head) % 2 ^ 32 ∧ (4 + 2 ^ 32 - r.head) % 2 ^ 32 ≤ 2 ^ r.qlog2 ∧
    (r.tail + 2 ^ 32 - r.head) % 2 ^ 32 ≤ (4 + 2 ^ 32 - r.head) % 2 ^ 32 ∧ (0 + 2 ^ 32 - r.head) % 2 ^ 32 < (r.tail + 2 ^ 32 - r.head) % 2 ^ 32 := by
  decide +kernel

theorem meets_doorbell_owned : queueSeen (onQueue 7 (fun q => { q with owner := 3 }) (onQueue 2 (fun q => { q with owner := 3 }) m0)) 3 1 = some 7 := by
  decide +kernel

/-- The record as its slot holds it. -/
def recordBytes : List Byte := leBytes 256 (wordsNat recordWords)

theorem meets_intake : (queueAt queued 0).state = .running ∧ (queueAt queued 0).head ≠ (queueAt queued 0).tail ∧ headTask queued 0 = none ∧
    readSlot queued 0 (queueAt queued 0).head = some recordBytes := by
  refine ⟨by decide +kernel, by decide +kernel, by decide +kernel, ?_⟩
  rw [readSlot_plain (a := 0x240000) (plain_of (by decide +kernel)) (by decide +kernel)]
  decide +kernel

theorem meets_intake_record : let as := spaceOf queued 0 0
    let u := slotUsed 0 0 queued
    publishable u as (parseRecord recordBytes) = true ∧ publishable u as { parseRecord recordBytes with status := 0x208004 } = false ∧
    refusal (onQueue 0 (fun x => { x with head := ((queueAt queued 0).head + 1) % 2 ^ 32 }) (factorsUsed as (parseRecord recordBytes) u)) 0 0 as
      (parseRecord recordBytes) = none ∧
    queued.dev.objs.find? (fun o => o.handle == (parseRecord recordBytes).object && o.fn == 0) = some obj0 := by decide +kernel

/-- A ring that cannot be read. -/
theorem meets_intake_unread : readSlot (onQueue 0 (fun q => { q with qbase := 0x600000 }) queued) 0 0 = none := by decide +kernel

/-- The machine with a waiting head: its waits as given, the counter at 20A000H being 5, and that at 20A008H 3 and FAILED. -/
def heading (ws : List WaitCond) : State :=
  withBytes 0x20A000 16 (5 + (3 + 2 ^ 63) * 2 ^ 64)
    (onQueue 0 (fun q => { q with state := .running, head := 1, tail := 1 })
      (onDev (fun d => { d with gangs := [], tasks := [{ Task.start 0 0 0 0 { rec0 with waits := ws } with nextGang := 0 }] }) m0))

theorem meets_wait : let s := heading [⟨0x20A000, 5, false⟩, ⟨0x20A000, 6, false⟩, ⟨0x20A008, 3, false⟩]
    ∃ x, headTask s 0 = some x ∧ (queueAt s 0).state = .running ∧ x.published = .no ∧ x.stopping = false ∧ x.nextGang = 0 ∧
      quarantined s x = false ∧ x.ready = false ∧ x.trec.handover = false ∧
      x.trec.waits = [⟨0x20A000, 5, false⟩, ⟨0x20A000, 6, false⟩, ⟨0x20A008, 3, false⟩] ∧ headTask s 1 = none :=
  ⟨{ Task.start 0 0 0 0 { rec0 with waits := [⟨0x20A000, 5, false⟩, ⟨0x20A000, 6, false⟩, ⟨0x20A008, 3, false⟩] } with nextGang := 0 },
    by decide +kernel⟩

theorem answers_iff {α : Type} {x : Except Stop α} {p : α → Bool} : answersWith x p = true ↔ ∃ a, x = .ok a ∧ p a = true :=
  ⟨exists_answer, fun ⟨_, h, hp⟩ => by rw [h]; exact hp⟩

theorem waitMet_iff {s : State} {x : Task} {w : WaitCond} :
    answersWith (devRead s (spaceOf s x.fn x.pasid) w.addr.toNat 8) (fun b => decide (w.thresh ≤ leNat b % 2 ^ 63)) = true ↔ WaitMet s x w := by
  simp [answers_iff, WaitMet]

theorem waitFails_iff {s : State} {x : Task} {w : WaitCond} : (!w.proceed &&
    answersWith (devRead s (spaceOf s x.fn x.pasid) w.addr.toNat 8) (fun b => (leNat b).testBit 63)) = true ↔ WaitFails s x w := by
  simp [answers_iff, WaitFails]

/-- Waits met and not met; and, once all have been read, one that fails after one that does not. -/
theorem meets_wait_counter : let s := heading [⟨0x20A000, 5, false⟩, ⟨0x20A008, 3, false⟩]
    let x := taskAt s 0 0
    let v := waitsUsed x s
    WaitMet s x ⟨0x20A000, 5, false⟩ ∧ ¬ WaitMet s x ⟨0x20A000, 6, false⟩ ∧ WaitMet s x ⟨0x20A008, 3, false⟩ ∧
      WaitFails v x ⟨0x20A008, 3, false⟩ ∧ ¬ WaitFails v x ⟨0x20A000, 5, false⟩ ∧ ¬ WaitFails v x ⟨0x20A008, 3, true⟩ :=
  ⟨waitMet_iff.mp (by decide +kernel), mt waitMet_iff.mpr (by decide +kernel), waitMet_iff.mp (by decide +kernel),
    waitFails_iff.mp (by decide +kernel), mt waitFails_iff.mpr (by decide +kernel), mt waitFails_iff.mpr (by decide +kernel)⟩

/-- The four accesses of a publication (R356). -/
def publication (s : State) (q r code detail cause : Nat) : Except Stop State :=
  let x := taskAt s q r
  let as := spaceOf s x.fn x.pasid
  let at_ := x.trec.completion.toNat
  match devWrite as x.trec.status.toNat
      (leBytes 8 (code + detail * 2 ^ 8 + cause * 2 ^ 16 + min x.traps (2 ^ 32 - 1) * 2 ^ 32)) s with
  | .error e => .error e
  | .ok u1 =>
    match devRead u1 as at_ 8, locate u1 as .update at_ with
    | .ok b, .ok _ => devWrite as at_ (leBytes 8 ((leNat b + 1) % 2 ^ 63 + if code ≠ 1 ∨ (leNat b).testBit 63 = true then 2 ^ 63 else 0)) u1
    | _, _ => .error (.wait .rest)

theorem exists_publishes {s : State} {q r code detail cause : Nat} (h : answersWith (publication s q r code detail cause) (fun _ => true) = true) :
    ∃ u, Publishes s q r code detail cause u := by
  obtain ⟨u, hu, -⟩ := exists_answer h
  dsimp only [publication] at hu
  split at hu
  · cases hu
  · rename_i u1 h1
    split at hu
    · rename_i b f hb hf
      exact ⟨u, u1, b, f, h1, hb, hf, hu⟩
    · cases hu

theorem meets_cancelled : ∃ u, Publishes (waitsUsed (taskAt (heading []) 0 0) (heading [])) 0 0 4 2 0 u := exists_publishes (by decide +kernel)

theorem meets_aging : m0.dev.ageInt ≠ 0 ∧ (onDev (fun d => { d with ageInt := 0 }) m0).dev.ageInt = 0 ∧ task0.level < 4 ∧
    4 ≤ ({ task0 with level := 5 } : Task).level := by decide +kernel

/-- The machine with one task to dispatch. -/
def dispatching (x : Task) : State :=
  onQueue 0 (fun q => { q with state := .running, head := 1, tail := 1 }) { m0 with tile := Tile.blank, others := [], dev := { m0.dev with gangs := [], tasks := [x], objs := [obj0] } }

/-- A task of one gang of two tiles, and one that lists more regions than a chiplet has. -/
def task1 : Task := { Task.start 0 0 0 0 { rec0 with object := 1 } with ready := true }
def task2 : Task := { task1 with trec := { rec0 with object := 1, nregion := 33 } }

theorem meets_dispatch : nextTask (reap (dispatching task1)) = some task1 ∧ preemptedGang (reap (dispatching task1)) task1 = none ∧
    roomFor (reap (dispatching task1)) task1 0 = some ([0, 1], []) ∧ allLoaded (reap (dispatching task1)) task1 0 0 [] = true ∧ [0, 1].Nodup ∧
    nextTask (reap (dispatching { task1 with ready := false })) = none := by decide +kernel

/-- A task whose gang needs a region, which has still to be loaded. -/
def task3 : Task := { task1 with trec := { rec0 with object := 1, nregion := 1 } }

theorem meets_dispatch_loading : nextTask (reap (dispatching task3)) = some task3 ∧ preemptedGang (reap (dispatching task3)) task3 = none ∧
    roomFor (reap (dispatching task3)) task3 0 = some ([0, 1], [0]) ∧ allLoaded (reap (dispatching task3)) task3 0 0 [0] = false ∧
    task1.trec.handover = false ∧ (telemetryAt (reap (dispatching task1)) 0).lastFn ≠ some task1.fn := by decide +kernel

theorem meets_dispatch_full : nextTask (reap (dispatching task2)) = some task2 ∧ preemptedGang (reap (dispatching task2)) task2 = none ∧
    roomFor (reap (dispatching task2)) task2 0 = none ∧ task2.immediate = false := by decide +kernel

/-- The machine whose task's strands have ended, with the first cause given. -/
def ended (c : Option (Nat × Nat × Nat × Nat)) : State :=
  { m0 with tile := Tile.blank, others := [], dev := { m0.dev with
      tasks := [{ task0 with firstCause := c }], gangs := [{ gang0 with members := [.ended, .ended] }] } }

theorem meets_completion : (ended none).dev.tasks.find? (Task.is 0 0) = some { task0 with firstCause := none } ∧
    (task0.published = .no ∧ task0.aborted = false ∧ 0 < task0.nextGang) ∧
    gangsOver (ended none) { task0 with firstCause := none } = true ∧ taskQuiet (ended none) 0 0 = true ∧ taskQuiet m0 0 0 = false := by
  decide +kernel

theorem meets_completion_published : (∃ u, Publishes (ended none) 0 0 1 0 0 u) ∧ ∃ u, Publishes (ended (some (0x048, 0, 0, 0))) 0 0 2 0 0x048 u :=
  ⟨exists_publishes (by decide +kernel), exists_publishes (by decide +kernel)⟩
/-! ### Queue commands and the mailbox -/

theorem meets_queue_commands : Commands queued 0 0 ∧ Commands (onQueue 1 (fun q => { q with owner := 3 }) m0) 3 1 ∧ ¬ Commands queued 0 4096 ∧
    ¬ Commands queued 3 0 ∧ (queueAt m0 0).state = .disabled ∧ m0.dev.mode ≠ .minimal ∧ (queueAt queued 0).state = .running ∧
    (queueAt queued 0).state ≠ .aborting ∧ (queueAt (heading []) 0).state = .running ∧ (queueAt queued 1).state ≠ .running := by
  unfold Commands; decide +kernel

theorem meets_queue_enable : let r := { queueAt queued 0 with state := .drained, dtbase := 0x220000, dtsize := 65472 }
    (1 ≤ r.qlog2 ∧ r.qlog2 ≤ 16 ∧ Canonical r.qbase ∧ r.qbase.toNat % 256 = 0 ∧ Canonical r.dtbase ∧ r.dtbase.toNat % 64 = 0 ∧
      r.dtsize ≤ 65472 ∧ r.owner ≤ 64 ∧ (fnRegs queued r.owner).en = true) ∧ ¬ 1 ≤ (queueAt m0 0).qlog2 := by
  unfold Canonical; decide +kernel

/-- Queue 0 with an ABORT under way, its task stopped and at rest. -/
def aborting (reset : Bool) : State :=
  onQueue 0 (fun q => { q with state := .aborting, head := 1, tail := 1, abortTail := 1, resetting := reset })
    (onDev (fun d => { d with tasks := [{ task0 with aborted := true, stopping := true }] }) (ended none))

theorem meets_abort : (queueAt (aborting true) 0).state = .aborting ∧ (queueAt (aborting false) 0).head = (queueAt (aborting false) 0).abortTail ∧
    (aborting true).dev.tasks.filter (fun x => x.queue == 1 && x.published == .no) = [] ∧
    (aborting true).dev.tasks.filter (fun x => x.queue == 0 && x.published == .no) = [{ task0 with aborted := true, stopping := true }] ∧
    taskQuiet (aborting true) 0 0 = true := by decide +kernel

theorem meets_abort_busy : let s := onTile 0 (fun t => { t with qLoad := [cmd0 (.mzero 0 0 1 1)] }) (aborting false)
    (queueAt s 0).state = .aborting ∧ taskQuiet s 0 0 = false ∧
    ({ task0 with aborted := true, stopping := true } : Task).published = .no := by decide +kernel

theorem meets_abort_published : ∃ u, Publishes (aborting false) 0 0 3 0 0x182 u := exists_publishes (by decide +kernel)

/-- A function's mailbox with a command word and an operand. -/
def mbox (fn : Nat) (w a : Word) (s : State) : State := onFn fn (fun r => { r with mbBusy := true, mbCmd := w, mbOperand := a }) s

/-- The machine whose host memory at 0 holds bytes, which functions 0 and 3 reach at I/O address 0, two pages of it. -/
def hosted (bytes : List Byte) (s : State) : State :=
  onDev (fun d => { d with
    host := Memory.writeBytes [] 0 bytes, ats := [⟨0, none, 0, 0⟩, ⟨0, none, 1, 1⟩, ⟨3, none, 0, 0⟩, ⟨3, none, 1, 1⟩] }) s

theorem dmaRead_pages {s : State} {fn addr n : Nat} (h : ∀ a, addr ≤ a → a < addr + n → hostPage s.dev fn none a = some a) :
    dmaRead s fn addr n = some (s.dev.host.readBytes addr n) := by
  induction n generalizing addr with
  | zero => rfl
  | succ n ih =>
    rw [dmaRead, h addr (le_refl _) (by omega), ih (addr := addr + 1) fun a lo hi => h a (by omega) (by omega)]
    rfl

theorem hostPage_hosted {s : State} {a : Nat} (h : s.dev.ats = [⟨0, none, 0, 0⟩, ⟨0, none, 1, 1⟩, ⟨3, none, 0, 0⟩, ⟨3, none, 1, 1⟩]) (ha : a < 0x2000) :
    hostPage s.dev 0 none a = some a := by
  by_cases p : a < 4096
  · have e : a / 4096 = 0 := by omega
    have m : a % 4096 = a := by omega
    simp [hostPage, h, e, m]
  · have e : a / 4096 = 1 := by omega
    have m : 4096 + a % 4096 = a := by omega
    simp [hostPage, h, e, m]

/-- What function 0 reads in host memory that holds `bytes`. -/
theorem dmaRead_hosted {s : State} {bytes : List Byte} {n : Nat} (h : s.dev.ats = [⟨0, none, 0, 0⟩, ⟨0, none, 1, 1⟩, ⟨3, none, 0, 0⟩, ⟨3, none, 1, 1⟩])
    (hb : s.dev.host = Memory.writeBytes [] 0 bytes) (hl : bytes.length ≤ 0x2000) (hn : n ≤ bytes.length) : dmaRead s 0 0 n = some (bytes.take n) := by
  rw [dmaRead_pages fun a _ hi => hostPage_hosted h (by omega), hb]
  rw [← readBytes_take _ 0 bytes.length n hn, Memory.readBytes_writeBytes 0 bytes Memory.wf_nil]

/-- An object (R330): one page of text, its leaf and root all zeros, one entry, no other section; with its digest. -/
def objectDigest : List Byte := leBytes 64 0x17c010995258ce5be4d67db7c6de985bd14835c10ae0af58546dbbf9407e4cb61e5e2dbabe25283c2291bdf4f4f25d88bdf4edf1b3ab47ec76ff1f28ad389324
def objectBytes : List Byte :=
  leBytes 0x80 (0x414B4C53 + 1 * 2 ^ 32 + 3 * 2 ^ 96 + 1 * 2 ^ 128 + 0x1234 * 2 ^ 256 + 0x2000 * 2 ^ 320) ++ objectDigest ++
    List.replicate 0x80 0 ++
    leBytes 32 (2 + 1 * 2 ^ 32 + 0x1C0 * 2 ^ 64 + 64 * 2 ^ 128) ++ leBytes 32 (4 + 1 * 2 ^ 32 + 0x200 * 2 ^ 64 + 32 * 2 ^ 128) ++
    leBytes 32 (1 + 1 * 2 ^ 32 + 0x1000 * 2 ^ 64 + 4096 * 2 ^ 128) ++ List.replicate 0x1E60 0


/-- The machine whose function 0 asks for that object to be loaded. -/
def objecting : State := mbox 0 1 0 (hosted objectBytes m0)

/-- LOAD's checks pass where the tenant has enrolled key 1234H and its signature over the header is good, which the
configuration leaves open (log 15). -/
theorem meets_object (hk : Config.keyEnrolled 0 0x1234#64 = true)
    (hv : Config.ed448Verify 0 0x1234#64 (bytesAt objectBytes 0 0xC0) (bytesAt objectBytes 0xC0 114) = true) :
    objectFailure objecting 0 objectBytes = none := by
  have t : (fnRegs objecting 0).tenant = 0 := by decide +kernel
  have k : word (fieldAt objectBytes 0x20 8) = 0x1234#64 := by decide +kernel
  have a : objectShape objectBytes = true := by decide +kernel
  have b : fieldAt objectBytes 4 2 = 1 := by decide +kernel
  have b2 : fieldAt objectBytes 6 2 = 0 := by decide +kernel
  have c : shake256 (digestBytes objectBytes) 64 = bytesAt objectBytes 0x80 64 := by decide +kernel
  have d : merkleOk (fieldAt objectBytes 0x10 4) (chunks 64 (sectCount objectBytes 2) (sectBytes objectBytes 2)) (bytesAt objectBytes 0x40 64) = true := by
    decide +kernel
  have e : (fieldAt objectBytes 8 4).testBit 0 = false := by decide +kernel
  have f : featureList objectBytes = [] := by decide +kernel
  have g : splitImages (sectCount objectBytes 6) (sectBytes objectBytes 6) = [] := by decide +kernel
  have h : factorList objectBytes = [] := by decide +kernel
  have q : objecting.dev.quarantine = [] := by decide +kernel
  simp [objectFailure, t, k, hk, hv, a, b, b2, c, d, e, f, g, h, q, badImage, distinctSlots]

theorem meets_object_read : Command objecting 0 1 ∧ CmdBelow objecting 0 8 ∧ readObject objecting 0 = some objectBytes ∧
    objecting.dev.mode ≠ .minimal := by
  refine ⟨by unfold Command; decide +kernel, by unfold CmdBelow; decide +kernel, ?_, by decide +kernel⟩
  have l : objectBytes.length = 0x2000 := by decide +kernel
  have a : mbAddr objecting 0 = 0 := by decide +kernel
  have h : headerShape (objectBytes.take 0x140) = true := by decide +kernel
  have z : fieldAt (objectBytes.take 0x140) 0x28 8 = 0x2000 := by decide +kernel
  have r : ∀ n ≤ 0x2000, dmaRead objecting 0 0 n = some (objectBytes.take n) := fun n hn =>
    dmaRead_hosted (by simp only [objecting, mbox, hosted, onFn, onDev]) (by simp only [objecting, mbox, hosted, onFn, onDev]) (by omega) (by omega)
  simp only [readObject, a, r 0x140 (by omega), h, if_true, z, r 0x2000 (by omega)]
  rw [← l, List.take_length]

/-- The machine with a command of function 0, and one of function 3. -/
def commanded (w : Word) : State := mbox 3 w 0 (mbox 0 w 0 (hosted [] m0))

/-- An object that is all zeros is read as its header alone. -/
theorem meets_object_refused : Command (commanded 1) 0 1 ∧ readObject (commanded 1) 0 = some (List.replicate 0x140 0) ∧
    objectFailure (commanded 1) 0 (List.replicate 0x140 0) = some (1, 0) ∧ ¬ Command m0 0 1 := by
  unfold Command; decide +kernel

/-- Function 0 unloads object 1, whose image 0 region 5 holds, with a task of it, or none. -/
def unloading (busy : Bool) : State :=
  mbox 0 0x102 0 (onRegion 5 (fun r => { r with image := some (0, 1, 0), state := .idle })
    (onDev (fun d => { d with objs := [obj0], tasks := if busy then [task1] else [] }) m0))

theorem meets_unload : Command (unloading true) 0 2 ∧ cmdBits (unloading true) 0 8 32 = 1 ∧ objBusy (unloading true) 0 1 = true ∧
    objBusy (unloading false) 0 1 = false ∧ objByHandle (unloading false) 0 1 ≠ none ∧ objByHandle (commanded 2) 0 0 = none ∧
    objBusy (commanded 2) 0 1 = false ∧ CmdBelow (unloading false) 0 40 ∧ (regionAt (unloading false) 5).image = some (0, 1, 0) := by
  unfold Command CmdBelow; decide +kernel

/-- Folios of functions 0 and 1 and one in hand. -/
def cachedFolios (w : Word) : State :=
  { mbox 0 w 0 (hosted [] (onDev (fun d => { d with folios := [folio0, folio1], quarantine := [(0, [])] }) m0)) with
    tile := { m0.tile with folio := some folio0, folioStale := true } }

theorem meets_tcinv : Command (cachedFolios 0x003) 0 3 ∧ CmdBelow (cachedFolios 0x203) 0 10 ∧ cmdBits (cachedFolios 0x003) 0 8 2 = 0 ∧
    cmdBits (cachedFolios 0x103) 0 8 2 = 1 ∧ cmdBits (cachedFolios 0x203) 0 8 2 = 2 ∧ Invalidates (cachedFolios 0x003) 0 0 [] folio0 ∧
    ¬ Invalidates (cachedFolios 0x003) 0 0 [] folio1 ∧ Invalidates (cachedFolios 0x203) 0 2 [] folio1 ∧
    (tileAt (cachedFolios 0x003) 0).folio = some folio0 := by
  unfold Command CmdBelow Invalidates; decide +kernel

theorem meets_tcinv_root : Block (cachedFolios 0x103) 0 64 (List.replicate 64 0) := by unfold Block; decide +kernel

/-- A page-check result of the object's only text page. -/
def checked : PageCheck := ⟨0, [], 0x3000, .dev, 0x301000, true⟩

theorem meets_tcinv_pages : let s := onDev (fun d => { d with pages := [checked] }) (cachedFolios 0x003)
    checked ∈ s.dev.pages ∧ checked.tenant = (fnRegs s 0).tenant := by decide +kernel

theorem meets_tcinv_idle : (∀ e ∈ allTiles (commanded 3), executing e.1 e.2 = true → e.2.folioStale = true → ∀ f, e.2.folio = some f →
      ¬ Invalidates (commanded 3) 0 0 [] f) ∧
    ∃ e ∈ allTiles (cachedFolios 0x003), executing e.1 e.2 = true ∧ e.2.folioStale = true ∧ e.2.folio = some folio0 ∧
      Invalidates (cachedFolios 0x003) 0 0 [] folio0 := by
  have a : (allTiles (commanded 3)).all (fun e => !e.2.folioStale) = true := by decide +kernel
  refine ⟨fun e he _ hs => absurd (List.all_eq_true.mp a e he) (by rw [hs]; decide),
    (0, (cachedFolios 0x003).tile), List.mem_cons_self, ?_⟩
  unfold Invalidates; decide +kernel

theorem meets_undefined : (fnRegs (commanded 0x1B) 0).mbBusy = true ∧ 0x1A < (fnRegs (commanded 0x1B) 0).mbCmd.toNat % 256 ∧
    (fnRegs m0 0).mbBusy = false := by decide +kernel
/-! ### Groups, firmware, translations, keys -/

/-- Host memory of `n` pages, each at its own I/O address, for function 0. -/
def paged (n : Nat) (s : State) : State := onDev (fun d => { d with host := [], ats := (List.range n).map fun p => ⟨0, none, p, p⟩ }) s

theorem hostPage_paged {d : Dev} {n a : Nat} (h : d.ats = (List.range n).map fun p => ⟨0, none, p, p⟩) (ha : a < 4096 * n) :
    hostPage d 0 none a = some a := by
  have hp : a / 4096 < n := by omega
  have hf : ∀ e, (d.ats.find? fun e => e.fn == 0 && e.pasid == none && e.page == a / 4096) = some e → e.target = a / 4096 := by
    intro e he
    have hm := List.mem_of_find?_eq_some he
    have hq := List.find?_some he
    rw [h] at hm
    obtain ⟨p, -, rfl⟩ := List.mem_map.mp hm
    simpa using hq
  cases he : d.ats.find? fun e => e.fn == 0 && e.pasid == none && e.page == a / 4096 with
  | none =>
    rw [List.find?_eq_none] at he
    exact absurd (he ⟨0, none, a / 4096, a / 4096⟩ (by rw [h]; exact List.mem_map.mpr ⟨_, List.mem_range.mpr hp, rfl⟩)) (by simp)
  | some e =>
    rw [hostPage, he, Option.map_some, hf e he]
    congr 1
    omega

theorem dmaRead_paged {s : State} {n k : Nat} (h : s.dev.ats = (List.range n).map fun p => ⟨0, none, p, p⟩) (hk : k ≤ 4096 * n) :
    dmaRead s 0 0 k = some (s.dev.host.readBytes 0 k) := dmaRead_pages fun a _ ha => hostPage_paged h (by omega)

theorem dmaWrite_paged {n : Nat} (bs : List Byte) {s : State} {addr : Nat} (h : s.dev.ats = (List.range n).map fun p => ⟨0, none, p, p⟩)
    (hk : addr + bs.length ≤ 4096 * n) : ∃ u, dmaWrite 0 addr bs s = some u := by
  induction bs generalizing s addr with
  | nil => exact ⟨s, rfl⟩
  | cons b bs ih =>
    have hl : addr + 1 + bs.length ≤ 4096 * n := by simpa [Nat.add_assoc, Nat.add_comm, Nat.add_left_comm] using hk
    obtain ⟨u, hu⟩ := ih (s := onDev (fun d => { d with host := d.host.write addr b }) s) h hl
    refine ⟨u, ?_⟩
    rw [dmaWrite, hostPage_paged h (by omega)]
    exact hu

/-- A list of a group, of the length that its header says (log 20), is read. -/
theorem meets_group (w : Word) : let s := mbox 0 w 0 (paged (Config.groupSpan (List.replicate 16 0) + 1) m0)
    ∃ l, readGroup s 0 = some l := by
  intro s
  have a : mbAddr s 0 = 0 := by
    show ((look (FnRegs.blank 0) (keep _ 0 _) 0).mbOperand).toNat = 0
    rfl
  have z : s.dev.host.readBytes 0 16 = List.replicate 16 0 := rfl
  have h : s.dev.ats = (List.range (Config.groupSpan (List.replicate 16 0) + 1)).map fun p => ⟨0, none, p, p⟩ := rfl
  refine ⟨Config.groupTriples (s.dev.host.readBytes 0 (Config.groupSpan (List.replicate 16 0))), ?_⟩
  rw [readGroup, a, dmaRead_paged h (by omega)]
  dsimp only
  rw [z, dmaRead_paged h (by omega)]
  rfl

theorem meets_group_command : (Command (commanded 0x004) 0 4 ∧ CmdBelow (commanded 0x004) 0 8) ∧
    (Command (commanded 0x518) 0 0x18 ∧ CmdBelow (commanded 0x518) 0 40 ∧ cmdBits (commanded 0x518) 0 8 32 = 5) ∧
    (Command (commanded 0x505) 0 5 ∧ hasGroup (commanded 0x505) 0 5 = false ∧ hasGroup grouped 0 5 = true) ∧
    packagesClash (commanded 0x004) [] = false := by
  unfold Command CmdBelow; decide +kernel

/-- A list clashes where another package behind a link holds its number. -/
theorem meets_group_clash : packagesClash (onDev (fun d => { d with links := [(0, { Link.blank with state := 2, peer := d.pkg })] }) m0)
    [(m0.dev.pkg, 0, 0)] = true := by decide +kernel

theorem meets_fwstage : Command (commanded 0x4015) 0 0x15 ∧ CmdBelow (commanded 0x4015) 0 40 ∧ cmdBits (commanded 0x4015) 0 8 32 = 64 ∧
    Block (commanded 0x4015) 0 64 (List.replicate 64 0) ∧
    ((∀ j, j = 1 ∨ j = 2 → StageGood (List.replicate 64 0) j) ∨ ∃ j, (j = 1 ∨ j = 2) ∧ ¬ StageGood (List.replicate 64 0) j) := by
  refine ⟨by unfold Command; decide +kernel, by unfold CmdBelow; decide +kernel, by decide +kernel, by unfold Block; decide +kernel, ?_⟩
  rw [or_iff_not_imp_left]
  intro h
  push Not at h
  exact h

theorem meets_restart : Command (commanded 0x116) 0 0x16 ∧ CmdBelow (commanded 0x116) 0 9 ∧ (∀ e ∈ (commanded 0x116).dev.queues, e.2.state = .disabled) ∧
    (∃ e ∈ queued.dev.queues, e.2.state ≠ .disabled) := by
  unfold Command CmdBelow; decide +kernel

/-- A request for a report: the block, and room for the report. -/
theorem meets_attest : let s := mbox 0 0x17 0 (paged 2 m0)
    Command s 0 0x17 ∧ CmdBelow s 0 8 ∧ Block s 0 120 (List.replicate 120 0) ∧
      ∃ u, dmaWrite 0 (fnRegs s 0).mbOperand.toNat (reportBytes s 0 (List.replicate 64 0)) s = some u := by
  intro s
  have a : (fnRegs s 0).mbOperand.toNat = 0 := rfl
  have h : s.dev.ats = (List.range 2).map fun p => ⟨0, none, p, p⟩ := rfl
  have hl : (reportBytes s 0 (List.replicate 64 0)).length = 384 := by simp only [reportBytes, padTo, List.length_append, List.length_take, List.length_replicate]; omega
  refine ⟨⟨rfl, rfl⟩, by unfold CmdBelow; decide, ?_, ?_⟩
  · unfold Block
    rw [a, dmaRead_paged h (by omega)]
    rfl
  · rw [a]
    exact dmaWrite_paged _ h (by omega)

/-- Cached translations and folios of function 0. -/
def cached (w a : Word) : State :=
  mbox 0 w a (onDev (fun d => { d with folios := [folio0], tlb := [⟨0, 0x200000, 0x200000, 0x200004CF, 8⟩], requests := [request0] }) m0)

theorem meets_tlbinv : Command (cached 0x10006 0x200000) 0 6 ∧ CmdBelow (cached 0x10006 0x200000) 0 48 ∧ cmdBits (cached 0x10006 0x200000) 0 10 6 = 0 ∧
    cmdBits (cached 0x10006 0x200000) 0 8 2 < 2 ∧ cmdBits (cached 0x10006 0x200000) 0 8 2 ≠ 1 ∧ cmdBits (cached 0x106 0) 0 8 2 = 1 ∧
    CmdBelow (cached 0x106 0) 0 10 ∧ (∀ e ∈ allTiles (cached 0x106 0), executing e.1 e.2 = true → e.2.folioStale = false) ∧
    (∀ r ∈ (cached 0x106 0).dev.router, r.fn = 0 → ¬ (cmdBits (cached 0x106 0) 0 8 2 = 1 ∨ r.va.toNat = 0)) := by
  unfold Command CmdBelow; decide +kernel

theorem meets_tlbinv_waits : ∃ r ∈ (owing (cached 0x106 0)).dev.router, r.fn = 0 ∧ cmdBits (owing (cached 0x106 0)) 0 8 2 = 1 := by
  decide +kernel

theorem meets_frames : Command (commanded 0x10207) 0 7 ∧ CmdBelow (commanded 0x10207) 0 19 ∧ cmdBits (commanded 0x10207) 0 8 8 = 2 ∧
    cmdBits (commanded 0x10207) 0 16 3 = 1 ∧ Block (commanded 0x10207) 0 (8 * 2) (List.replicate 16 0) ∧
    (∀ i < 2, leNat (((List.replicate 16 (0 : Byte)).drop (8 * i)).take 8) % pageBytes 1 = 0) := by
  unfold Command CmdBelow Block; decide +kernel

/-- RESOLVE of request 6, which the strand waits for, and of request 7, which does not exist. -/
def resolving (w : Word) : State := blockedOn (.service 6 fault0) (cached w 0)

theorem meets_resolve : Command (resolving 0x1000608) 0 8 ∧ CmdBelow (resolving 0x1000608) 0 25 ∧ cmdBits (resolving 0x1000608) 0 8 16 = 6 ∧
    cmdBits (resolving 0x1000608) 0 24 1 = 1 ∧ cmdBits (resolving 0x0000608) 0 24 1 = 0 ∧
    (∃ r ∈ (resolving 0x1000608).dev.requests, r.id = 6 ∧ r.fn = 0 ∧ r.kind ≠ 4) ∧
    ¬ (∃ r ∈ (resolving 0x1000608).dev.requests, r.id = 7 ∧ r.fn = 0 ∧ r.kind ≠ 4) := by
  unfold Command CmdBelow; decide +kernel

/-- A transport key, and a key wrapped under it: the vector of RFC 3394, section 4.6. -/
def transportKey : List Byte := (List.range 32).map (BitVec.ofNat 8)
def wrappedKey : List Byte :=
  (leBytes 40 0x28C9F404C4B810F4CBCCB35CFB87F8263F5786E2D80ED326CBC7F0E71A99F43BFB988B9B7A02DD21).reverse
def plainKey : List Byte :=
  (leBytes 32 0x00112233445566778899AABBCCDDEEFF000102030405060708090A0B0C0D0E0F).reverse

/-- KEYSET of slot 1 with that block. -/
def keying (t : Option (List Byte)) : State := onFn 0 (fun r => { r with transport := t }) (mbox 0 0x109 0 (hosted (List.replicate 8 0 ++ wrappedKey) m0))

theorem meets_keyset : Command (keying (some transportKey)) 0 9 ∧ CmdBelow (keying (some transportKey)) 0 14 ∧
    cmdBits (keying (some transportKey)) 0 8 6 = 1 ∧ Block (keying (some transportKey)) 0 48 (List.replicate 8 0 ++ wrappedKey) ∧
    ZeroBytes (List.replicate 8 0 ++ wrappedKey) 4 4 ∧ (find? (fnRegs (keying (some transportKey)) 0).keys 1).isSome = false ∧
    unwrapKey (keying none) 0 (List.replicate 8 0 ++ wrappedKey) = none ∧
    (find? (fnRegs (onFn 0 (fun r => { r with keys := [(1, plainKey, 0)] }) m0) 0).keys 1).isSome = true := by
  unfold Command CmdBelow Block ZeroBytes; decide +kernel

/-- The vector of RFC 3394, section 4.6. -/
theorem test_key_unwrap : keyUnwrap transportKey wrappedKey = some plainKey := by decide +kernel

theorem meets_keyset_key : unwrapKey (keying (some transportKey)) 0 (List.replicate 8 0 ++ wrappedKey) = some plainKey := test_key_unwrap

theorem meets_keyclr : Command (commanded 0x10A) 0 0x0A ∧ CmdBelow (commanded 0x10A) 0 14 ∧ Command (commanded 0x3F0B) 0 0x0B ∧
    CmdBelow (commanded 0x3F0B) 0 14 := by
  unfold Command CmdBelow; decide +kernel

/-! ### Debug and held strands -/

theorem debugGang_one {s : State} {fn : Nat} {p : Gang → Bool} {g : Gang} (h : s.dev.gangs.filter (fun g => g.gang == mbArg s fn 8 32 && p g) = [g]) :
    debugGang s fn p = some g := by
  have e : freeAt s (2 ^ 78 + 1) % max 1 ([g] : List Gang).length = 0 := Nat.mod_one _
  simp only [debugGang, h, e, List.getElem?_cons_zero]

theorem debugNamed_one {s : State} {fn : Nat} {p : Tile → Bool} {g : Gang}
    (h : s.dev.gangs.filter (fun g => g.gang == mbArg s fn 8 32 && (debugTiles s fn g).any fun n => p (tileAt s n)) = [g]) :
    debugNamed s fn p = (debugTiles s fn g).filter fun n => p (tileAt s n) := by
  rw [debugNamed, debugGang_one h]

/-- The strand of member 0 halted as given, with a store in its receive buffer. -/
def halted (w : Word) (was : Halted) : State :=
  mbox 0 w 0 { m0 with tile := { m0.tile with run := .halted was, net := iface [flit0] false [] } }

theorem meets_halt : Command (commanded 0x00C) 0 0x0C ∧ CmdBelow (commanded 0x00C) 0 47 ∧ debugNamed (commanded 0x00C) 0 canHalt = [0] ∧
    Command (commanded 0x00C) 3 0x0C ∧ debugNamed (commanded 0x00C) 3 canHalt ≠ [] := by
  refine ⟨by unfold Command; decide +kernel, by unfold CmdBelow; decide +kernel, ?_, by unfold Command; decide +kernel, ?_⟩
  · rw [debugNamed_one (g := gang0) (by decide +kernel)]
    decide +kernel
  · rw [debugNamed_one (g := gang0) (by decide +kernel)]
    decide +kernel

/-- Strands that wait, come to rest, and are held are halted too. -/
theorem meets_halt_states : canHalt (blockedOn .folio m0).tile = true ∧ canHalt (asked (.resting .yield) none 0).tile = true ∧
    canHalt (asked (.parked (.hold 0x048 false true)) none 0).tile = true ∧ canHalt (haltedHere m0).tile = false ∧
    Placed (commanded 0x00C) 0 key0 := by unfold Placed; decide +kernel

/-- No gang has index 1. -/
theorem meets_halt_none : debugNamed (commanded 0x10C) 0 canHalt = [] := by
  have h : (commanded 0x10C).dev.gangs.filter (fun g => g.gang == mbArg (commanded 0x10C) 0 8 32 &&
      (debugTiles (commanded 0x10C) 0 g).any fun n => canHalt (tileAt (commanded 0x10C) n)) = [] := by decide +kernel
  simp only [debugNamed, debugGang, h, List.getElem?_nil]

theorem meets_halted (w : Word) (hw : w = 0x0D ∨ w = 0x0E ∨ w = 0x0F) : CmdBelow (halted w .running) 0 47 ∧ Command (halted w .running) 0 w.toNat ∧
    debugNamed (halted w .running) 0 isHalted = [0] ∧ (tileAt (halted w .running) 0).run = .halted .running ∧
    (∀ f ∈ (tileAt (halted w .running) 0).net.rx, f.kind = 1) ∧ (∀ e ∈ allTiles (halted w .running), e.2.net.outbound = []) := by
  rcases hw with rfl | rfl | rfl <;>
  · refine ⟨by unfold CmdBelow; decide +kernel, by unfold Command; decide +kernel, ?_, by decide +kernel⟩
    rw [debugNamed_one (g := gang0) (by decide +kernel)]
    decide +kernel

/-- Room for what DBGPEND and DBGVIEW write. -/
theorem meets_debug_room (w : Word) (bs : List Byte) : let s := paged bs.length (halted w .running)
    ∃ u, dmaWrite 0 (fnRegs s 0).mbOperand.toNat bs s = some u := by
  intro s
  have a : (fnRegs s 0).mbOperand.toNat = 0 := rfl
  have h : s.dev.ats = (List.range bs.length).map fun p => ⟨0, none, p, p⟩ := rfl
  rw [a]
  exact dmaWrite_paged _ h (by omega)

/-- The strand of member 0 parked as given; the block names it. -/
def parked (why : StopWhy) (w : Word) (bytes : List Byte) : State :=
  mbox 0 w 0 (hosted bytes { m0 with tile := { m0.tile with run := .parked why } })

theorem meets_held : let s := parked (.hold 0x048 false true) 0x19 (List.replicate 32 0)
    Command s 0 0x19 ∧ CmdBelow s 0 8 ∧ Block s 0 32 (List.replicate 32 0) ∧
    namedHeld s 0 (List.replicate 32 0) = some (key0, .hold 0x048 false true) ∧ ZeroBytes (List.replicate 32 0) 0x0C 20 ∧
    ((List.replicate 32 (0 : Byte)).getD 3 0).toNat < 2 ∧ (gangOf s key0).members[key0.tile]? = some (.on 0) ∧
    Command (parked (.hold 0x048 false true) 0x1A (List.replicate 32 0)) 0 0x1A ∧ (s.dev.tasks.any (Task.is 0 0)) = true := by
  unfold Command CmdBelow Block ZeroBytes; decide +kernel

theorem meets_held_halted : let s := mbox 0 0x19 0 { m0 with tile := { m0.tile with run := .halted (.parked (.hold 0x048 false true)) } }
    namedHeld s 0 (List.replicate 32 0) = some (key0, .hold 0x048 false true) ∧
    (tileAt s 0).run = .halted (.parked (.hold 0x048 false true)) ∧ (tileAt s 0).qFibre = [] := by decide +kernel

/-- The strand of member 0 held at a COLL of group 5, whose package is lost. -/
def regrouping : State :=
  onTile 0 (fun t => { t with qStore := [{ cmdColl key0 { coll0 with scope := .sys, group := 5 } with held := some (.delivered fault0) }] })
    (parked (.hold 0x0D1 true true) 0x518 [])

theorem meets_regroup_held : key0.tile < 1024 ∧ (tileAt regrouping 0).owner = some key0 ∧
    (tileAt regrouping 0).run = .parked (.hold 0x0D1 true true) ∧ namesHandle 5 (tileAt regrouping 0) = true := by decide +kernel

theorem meets_held_skip : let b : List Byte := [0, 0, 0, 1] ++ List.replicate 28 0
    let s := parked (.hold 0x048 true true) 0x19 b
    Block s 0 32 b ∧ namedHeld s 0 b = some (key0, .hold 0x048 true true) ∧ ZeroBytes b 0x0C 20 ∧ (b.getD 3 0).toNat = 1 := by
  unfold Block ZeroBytes; decide +kernel

theorem meets_quota : let b : List Byte := List.replicate 16 0 ++ [1] ++ List.replicate 15 0
    let s := mbox 0 0x14 0 (hosted b m0)
    Command s 0 0x14 ∧ CmdBelow s 0 8 ∧ Block s 0 32 b ∧ ZeroBytes b 0x0C 4 ∧ ZeroBytes b 0x18 8 ∧ namedTask s 0 b = some task0 ∧
    s.dev.tasks.find? (Task.is task0.queue task0.record) = some task0 ∧ 0 < task0.balance + 1 * 1000 := by
  unfold Command CmdBelow Block ZeroBytes; decide +kernel
/-! ### Operator regions -/

/-- A port entry (R302): role, input format, and what all of them share. -/
def portBytes (role ifmt : Nat) : List Byte := leBytes 16 (role + ifmt * 2 ^ 8 + 4 * 2 ^ 16 + 8 * 2 ^ 24 + 8 * 2 ^ 32 + 1 * 2 ^ 40 + 1 * 2 ^ 56 + 16 * 2 ^ 72)

/-- The bytes of a manifest like `manifest0`. -/
def manifestBytes : List Byte :=
  leBytes 64 (1 + 4 * 2 ^ 32 + 64 * 2 ^ 48 + 1 * 2 ^ 96 + 1 * 2 ^ 112) ++ portBytes 4 16 ++ portBytes 1 4 ++ portBytes 2 4 ++ portBytes 3 4 ++
    List.replicate 64 0

/-- An operator image (R398) with that manifest and an empty netlist, under key 77H; its digest is that of the manifest. -/
def imageBytes : List Byte :=
  leBytes 64 (0x52504F46 + 1 * 2 ^ 32 + 0x77 * 2 ^ 64 + 0x100 * 2 ^ 128 + 0xC0 * 2 ^ 160 + 0x1C0 * 2 ^ 192 + 0x1C0 * 2 ^ 256) ++
    leBytes 64 0x68c8e903cad6d2e9d6d42a8f0115a4e529e4722014ee37da832c486340e3009e378295b3161140dee705545e072c3307be2a4c008a2efe156b0661a3489dbccb ++ List.replicate 128 0 ++ manifestBytes

/-- Its manifest. -/
def manifest1 : Manifest := parseManifest manifestBytes

/-- The checks of R399 pass where the tenant has enrolled key 77H, its signature over the header is good, and the netlist is
accepted, which the configuration leaves open (logs 15, 16). -/
theorem meets_image (hk : Config.keyEnrolled 0 0x77#64 = true)
    (hv : Config.ed448Verify 0 0x77#64 (bytesAt imageBytes 0 0x80) (bytesAt imageBytes 0x80 114) = true) (hn : Config.netlistOk imageBytes = true) :
    checkImage 0 imageBytes = .ok manifest1 := by
  have k : word (fieldAt imageBytes 8 8) = 0x77#64 := by decide +kernel
  have a : imageShape imageBytes = true := by decide +kernel
  have c : shake256 (imageBytes.drop 0x100) 64 = bytesAt imageBytes 0x40 64 := by decide +kernel
  have m : imageManifest imageBytes = manifestBytes := by decide +kernel
  have o : manifestOk manifestBytes = true := by decide +kernel
  simp [checkImage, k, a, hk, hv, c, m, o, hn, manifest1]

theorem meets_image_refused : (match checkImage 0 [] with | .error c => c | .ok _ => 0) = 1 := by decide +kernel

/-- The machine whose task has the object with that image, and whose gang has region 5 with it. -/
def imaged (w : Word) (b : List Byte) : State :=
  mbox 0 w 0 (onRegion 5 (fun r => { r with divider := 63 })
    (fabric (hosted b (onTask 0 0 (fun t => { t with trec := { t.trec with object := 1 } })
      (onDev (fun d => { d with objs := [{ obj0 with images := [imageBytes] }] }) m0)))))

theorem meets_imghold : let s := imaged (0x10 + 1 * 2 ^ 8 + 2 * 2 ^ 44) []
    Command s 0 0x10 ∧ CmdBelow s 0 50 ∧ cmdBits s 0 8 32 = 1 ∧ cmdBits s 0 40 4 = 0 ∧ cmdBits s 0 44 6 = 2 ∧
    Command (imaged (0x11 + 1 * 2 ^ 8 + 32 * 2 ^ 44) []) 0 0x11 ∧ cmdBits (imaged (0x11 + 1 * 2 ^ 8 + 32 * 2 ^ 44) []) 0 44 6 = 32 := by
  unfold Command CmdBelow; decide +kernel

/-- Its image is known, and there is a region to hold. -/
theorem meets_imghold_some : let s := imaged (0x10 + 1 * 2 ^ 8 + 2 * 2 ^ 44) []
    objByHandle s 0 1 = some { obj0 with images := [imageBytes] } ∧ (holdOrder s 0 1 0).take 2 ≠ [] := by
  intro s
  have m : 0 ∈ holdOrder s 0 1 0 := List.mem_flatMap.mpr ⟨0, by simp, List.mem_filterMap.mpr ⟨0, by simp, by decide +kernel⟩⟩
  refine ⟨rfl, fun h => ?_⟩
  rcases List.take_eq_nil_iff.mp h with h | h
  · exact absurd h (by decide)
  · rw [h] at m
    exact absurd m (by simp)

/-- Where every region is bound there is none to hold. -/
theorem holdOrder_none {s : State} (h : ∀ r < 256, (regionAt s r).state = .bound) (fn ha ix : Nat) : holdOrder s fn ha ix = [] := by
  have hc : ∀ c < 8, holdable s fn ha ix c = [] := by
    intro c hc
    have hr : ∀ r ∈ chipletRegions c, (regionAt s r).state = .bound := by
      intro r hr
      obtain ⟨i, hi, rfl⟩ := List.mem_map.mp hr
      exact h _ (by have := List.mem_range.mp hi; omega)
    simp only [holdable, List.append_eq_nil_iff, List.filter_eq_nil_iff]
    exact ⟨fun r hm => (by rw [hr r hm]; simp), fun r hm => (by rw [hr r hm]; decide)⟩
  simp only [holdOrder, List.flatMap_eq_nil_iff, List.filterMap_eq_nil_iff, List.mem_range]
  intro i _ c hm
  rw [hc c hm]
  rfl

/-- A machine all of whose regions are bound. -/
def allBound : State := onDev (fun d => { d with regions := (List.range 256).map fun r => (r, { Region.blank with state := .bound }) }) (imaged 0x10 [])

theorem meets_imghold_none : holdOrder allBound 0 1 0 = [] := by
  refine holdOrder_none (fun r hr => ?_) 0 1 0
  show (look Region.blank ((List.range 256).map fun r => (r, { Region.blank with state := .bound })) r).state = .bound
  revert r
  decide +kernel

/-- The block of SWAP and RCLOCK: the gang's region 0, image 0, and a frequency. -/
def swapBlock : List Byte := List.replicate 32 0
def clockBlock (mhz : Byte) : List Byte := List.replicate 12 0 ++ [mhz] ++ List.replicate 19 0

theorem meets_swap : let s := imaged 0x12 swapBlock
    Command s 0 0x12 ∧ CmdBelow s 0 8 ∧ Block s 0 32 swapBlock ∧ ZeroBytes swapBlock 0x0C 20 ∧
    namedRegion s 0 swapBlock = some (key0, 0, 5) ∧ imageAt s (taskOf s key0) 0 = some imageBytes ∧ compatible (regionAt s 5) manifest1 = true ∧
    (regionAt s 5).swapTo = none ∧ spareRegion s 5 = some 0 ∧ compatible (regionAt (fabric m0) 5) manifest1 = false := by
  unfold Command CmdBelow Block ZeroBytes; decide +kernel

/-- Every region of the chiplet is bound. -/
def crowded : State := onDev (fun d => { d with regions := (List.range 32).map fun r => (r, { Region.blank with state := .bound }) }) m0

theorem meets_swap_busy : spareRegion crowded 5 = none := by decide +kernel

/-- A swap of region 5 with its image loaded in region 0, the operator quiet or not. -/
def swapping (quiet : Bool) : State :=
  onRegion 0 (fun r => { r with state := .standby, manifest := some manifest1 })
    (onRegion 5 (fun r => { r with swapTo := some 0, atBoundary := [quiet] }) (fabric m0))

theorem meets_swap_quiesce (q : Bool) : (regionAt (swapping q) 5).swapTo = some 0 ∧ (regionAt (swapping q) 5).manifest = some manifest0 ∧
    (regionAt (swapping q) 0).manifest = some manifest1 ∧ (regionAt (swapping q) 5).state = .bound ∧ (regionAt (swapping q) 0).state = .standby ∧
    (regionAt (swapping q) 5).boundTo = some (0, 0, 0, 0) ∧ ((swapping q).dev.gangs.any (Gang.is 0 0 0)) = true ∧
    quiesced (swapping q) 5 manifest0 manifest1 (regionAt (swapping q) 5) = q := by
  cases q <;> decide +kernel

theorem meets_rclock : let s := imaged 0x13 (clockBlock 63)
    Command s 0 0x13 ∧ CmdBelow s 0 8 ∧ Block s 0 32 (clockBlock 63) ∧ ZeroBytes (clockBlock 63) 3 1 ∧ ZeroBytes (clockBlock 63) 0x0E 18 ∧
    namedRegion s 0 (clockBlock 63) = some (key0, 0, 5) ∧ (regionAt s 5).manifest = some manifest0 ∧
    (0 < 63 ∧ 4 * ((4000 + 63 - 1) / 63) ≤ 4000 ∧ 4000 ≤ 64 * ((4000 + 63 - 1) / 63)) ∧
    ¬ (0 < 65 ∧ 4 * ((4000 + 65 - 1) / 65) ≤ 4000 ∧ 4000 ≤ 64 * ((4000 + 65 - 1) / 65)) := by
  unfold Command CmdBelow Block ZeroBytes; decide +kernel

/-- Region 7 loads an image: for IMGHOLD, for a gang, or for the swap of region 5, that of object `h`. -/
def regionLoading (h : Nat) (b : Option (Nat × Nat × Nat × Nat)) (swap : Bool) : State :=
  onRegion 7 (fun r => { r with state := .loading, hold := true, boundTo := b, image := some (0, h, 0) })
    (onRegion 5 (fun r => { r with swapTo := if swap then some 7 else none }) (imaged 0 []))

theorem meets_load_complete : (regionAt (regionLoading 1 none false) 7).state = .loading ∧ loadedFor (regionLoading 1 none false) 7 = none ∧
    (regionAt (regionLoading 2 none false) 7).boundTo = none ∧ checkRegionImage (regionLoading 2 none false) (regionAt (regionLoading 2 none false) 7) = none ∧
    (regionAt (regionLoading 2 (some (0, 0, 0, 0)) false) 7).boundTo = some (0, 0, 0, 0) ∧
    loadedFor (regionLoading 1 none true) 7 = some (5, regionAt (regionLoading 1 none true) 5) ∧
    (regionAt (regionLoading 1 none true) 5).state ≠ .stopped := by decide +kernel

theorem meets_load_image (h : checkImage 0 imageBytes = .ok manifest1) :
    checkRegionImage (regionLoading 1 none false) (regionAt (regionLoading 1 none false) 7) = some manifest1 := by
  have a : (regionAt (regionLoading 1 none false) 7).image = some (0, 1, 0) := by decide +kernel
  have b : (objByHandle (regionLoading 1 none false) 0 1).bind (fun o => o.images[0]?) = some imageBytes := by decide +kernel
  have t : (fnRegs (regionLoading 1 none false) 0).tenant = 0 := by decide +kernel
  simp [checkRegionImage, a, b, t, h]

/-- The gang has been stopped: its members are saved. -/
def stoppedGang : State := onGang 0 0 0 (fun g => { g with members := [.saved, .saved] }) (fabric m0)

theorem meets_region_stop : regionGangStopped stoppedGang (regionAt stoppedGang 5) = true ∧ (regionAt stoppedGang 5).state = .bound ∧
    (regionAt stoppedGang 5).swapTo = none ∧ regionGangStopped (fabric m0) (regionAt (fabric m0) 5) = false := by decide +kernel

/-- Region 5 stopped and given a place, its own or another region. -/
def relinking (n : Nat) : State :=
  onRegion 5 (fun r => { r with state := .stopped, swapTo := some n, image := some (0, 1, 0) }) (imaged 0 [])

theorem meets_relink (n : Nat) (h : checkImage 0 imageBytes = .ok manifest1) : (regionAt (relinking n) 5).state = .stopped ∧
    (regionAt (relinking n) 5).swapTo = some n ∧ checkRegionImage (relinking n) (regionAt (relinking n) 5) = some manifest1 ∧
    (regionAt (relinking n) 5).boundTo = some (0, 0, 0, 0) ∧ ((relinking n).dev.gangs.any (Gang.is 0 0 0)) = true := by
  have a : (regionAt (relinking n) 5).image = some (0, 1, 0) := rfl
  have b : (objByHandle (relinking n) 0 1).bind (fun o => o.images[0]?) = some imageBytes := rfl
  have t : (fnRegs (relinking n) 0).tenant = 0 := rfl
  refine ⟨rfl, rfl, ?_, rfl, rfl⟩
  simp [checkRegionImage, a, b, t, h]

theorem meets_depth : (regionAt (fabric m0) 5).state = .bound ∧ (regionAt (fabric m0) 5).manifest = some manifest0 ∧
    (regionAt (fabric m0) 5).edges.getD 2 [] = [] ∧ (2 ≤ 1024 ∧ 1024 ≤ 1024 ∧ bufferBytes (withDepth manifest0 2 1024) ≤ 96 * 1024) ∧
    ¬ (2 ≤ 1 ∧ 1 ≤ 1024) ∧ 2 < manifest0.ports.length := by decide +kernel

/-- Region 5 at 110 degrees. -/
def hot : State := onRegion 5 (fun r => { r with temp := 110 }) (fabric m0)

theorem meets_machine_check : 110 ≤ (regionAt hot 5).temp ∧ (regionAt hot 5).state = .bound ∧ (regionAt hot 5).swapTo = none ∧
    (regionAt hot 5).boundTo = some (0, 0, 0, 0) ∧ (regionAt (fabric m0) 5).temp < 110 ∧ (tileAt hot 0).owner = some key0 := by decide +kernel

/-! ### Clocks, links, boot -/

/-- A chiplet whose divider changes from 4, with a throttled tile. -/
def retimed : State := onTelemetry 3 (fun y => { y with tdiv := 9 }) (onClock 0 (fun y => { y with req := 6, pending := some 4 }) m0)

theorem meets_clocks : (clockAt retimed 0).pending = some 4 ∧ (clockAt m0 0).pending = none ∧ m0.dev.mode ≠ .minimal ∧
    4 ≤ (64 : Word).toNat % 2 ^ 7 ∧ (64 : Word).toNat % 2 ^ 7 ≤ 64 ∧ 64 < (65 : Word).toNat % 2 ^ 7 ∧ (3 : Word).toNat % 2 ^ 7 < 4 ∧
    (regionAt (onRegion 5 (fun y => { y with newDivider := some 64 }) m0) 5).newDivider = some 64 ∧
    (clockAt retimed (3 / 128)).pending.getD (clockAt retimed (3 / 128)).req ≤ 64 ∧
    3 < (clockAt retimed (3 / 128)).pending.getD (clockAt retimed (3 / 128)).req ∧ liveHead m0 5 .matrix = none ∧
    (tileAt m0 1).owner ≠ none ∧ (tileAt m0 2).owner = none ∧
    (∃ j, j < 128 ∧ (telemetryAt (onTelemetry 3 (fun y => { y with newTdiv := some 12 }) m0) (128 * 0 + j)).newTdiv ≠ none) ∧
    liveHead (eng .matrix [cmdMma] m0) 0 .matrix = some cmdMma := ⟨by decide +kernel, by decide +kernel, by decide +kernel, by decide +kernel,
      by decide +kernel, by decide +kernel, by decide +kernel, by decide +kernel, by decide +kernel, by decide +kernel, by decide +kernel,
      by decide +kernel, by decide +kernel, ⟨3, by decide +kernel⟩, by decide +kernel⟩

/-- Link 2 as given. -/
def linked (x : Link) : State := onDev (fun d => { d with links := [(2, x)] }) m0

theorem meets_links : (linkAt (linked { Link.blank with state := 1 }) 2).state = 1 ∧ (linkAt (linked { Link.blank with state := 2 }) 2).state = 2 ∧
    (linkAt m0 2).state ≠ 1 ∧ (linkAt m0 2).state ≠ 2 ∧ 16 ≤ (linkAt (linked { Link.blank with state := 2, tries := 16 }) 2).tries ∧
    (linkAt (linked { Link.blank with state := 2, tries := 15 }) 2).tries < 16 ∧
    (linkAt (linked { Link.blank with state := 1, retraining := true }) 2).retraining = true ∧ (∀ e ∈ m0.dev.queues, e.2.state = .disabled) ∧
    (∃ e ∈ queued.dev.queues, e.2.state ≠ .disabled) := by decide +kernel

theorem meets_other_link : let s := onDev (fun d => { d with links := [(2, { Link.blank with state := 1 }), (3, { Link.blank with state := 2 })] }) m0
    ∃ m, m ≠ 2 ∧ (linkAt s m).state = 2 ∧ (linkAt s m).peer = (linkAt s 2).peer := ⟨3, by decide +kernel⟩

theorem meets_registers : (fnRegs m0 64).mbBusy = false ∧ (fnRegs (commanded 1) 0).mbBusy = true ∧ (queueAt m0 4095).state = .disabled ∧
    (queueAt queued 0).state ≠ .disabled ∧ (7 : Nat) % 8 ≠ 0 ∧ memoriesWf m0 = true := by decide +kernel

theorem meets_tenant : (∃ g, g ≤ 64 ∧ g ≠ 1 ∧ (fnRegs m0 g).tenant = 5) ∧ ∀ g, g ≤ 64 → g ≠ 1 → (fnRegs m0 g).tenant ≠ 1000 :=
  ⟨⟨5, by decide +kernel⟩, by decide +kernel⟩

/-- The device as it starts, its start good, failed, and the last of three. -/
def starting (fails : Nat) (bad : Bool) : State := onDev (fun d => { d with mode := .booting, stage := 1, fails := fails, startFailed := bad }) m0

theorem meets_boot : (starting 0 false).dev.mode = .booting ∧ (starting 0 false).dev.startFailed = false ∧ (starting 0 true).dev.startFailed = true ∧
    (starting 0 false).dev.stage = 1 ∧ (onDev (fun d => { d with stage := 2 }) (starting 0 false)).dev.stage = 2 ∧
    (starting 3 false).dev.fails = 3 ∧ (starting 2 false).dev.fails ≠ 3 := by decide +kernel

/-- Whether an image verifies is the configuration's (log 13): a start meets one of the two. -/
theorem meets_boot_image (image : List Byte) (k : Nat) : StageGood image k ∨ ¬ StageGood image k := Classical.em _

/-- The host's window of device memory, of the size that the configuration leaves open, takes an access that ends in it and no
other. -/
theorem meets_aperture : (0 + ([] : List Byte).length ≤ Config.bar4Bytes ∧ m0.dev.mode ≠ .minimal) ∧
    Config.bar4Bytes < Config.bar4Bytes + ([1] : List Byte).length := ⟨⟨Nat.zero_le _, by decide +kernel⟩, Nat.lt_succ_self _⟩

/-- An image of the strand of member 0 that stopped at its deadline, of translator version `tver`. -/
def savedAt (tver : Nat) : Saved :=
  { key := key0, vellum := true, tver := tver, why := .deadline, home := 1024, spilled := false
    head := ⟨0, 0, 0, 0, 0, 0, 0, 0x3008, 0x3008, 0, 0, [], [], []⟩ }

/-- An image of the strand of member 0 of the firmware given, set aside for tile 0. -/
def imageOf (gen : Nat) (f : Option Folio) : State :=
  onTile 1024 (fun _ => { Tile.blank with owner := some key0, run := .frozen .deadline, seq := seq0 0 0 0 0 0, folio := f })
    (onDev (fun d => { d with saved := [savedAt (Config.tver gen)] })
      { waitingAt 0x3008 with tile := { Tile.blank with owner := some key0 } })

theorem meets_restore (gen : Nat) (f : Option Folio) : (tileAt (imageOf gen f) 0).owner = some key0 ∧
    savedOf (imageOf gen f) key0 = some (savedAt (Config.tver gen)) ∧ (savedAt (Config.tver gen)).vellum = true ∧
    1024 ≤ (savedAt (Config.tver gen)).home ∧ (tileAt (imageOf gen f) 1024).folio = f ∧
    ((imageOf gen f).dev.tasks.any (Task.is 0 0)) = true ∧ (taskOf (imageOf gen f) key0).firstCause = none ∧ (imageOf gen f).dev.fwGen = 0 ∧
    quarantined (imageOf gen f) (taskOf (imageOf gen f) key0) = false :=
  ⟨rfl, rfl, rfl, Nat.le_refl _, rfl, rfl, rfl, rfl, rfl⟩

/-- The image of the running firmware, and one whose task's root is quarantined. -/
theorem meets_restore_same : Config.tver 0 = Config.tver (imageOf 0 none).dev.fwGen := rfl

theorem meets_restore_quarantined : let s := onDev (fun d => { d with quarantine := [(0, rootOf m0 task0)] }) (imageOf 0 none)
    quarantined s (taskOf s key0) = true := by decide +kernel

/-- An image of another firmware: any other number stands for one. -/
theorem meets_restore_other (n : Nat) (h : n ≠ Config.tver 0) :
    savedOf (onDev (fun d => { d with saved := [savedAt n] }) (imageOf 0 none)) key0 = some (savedAt n) ∧
      n ≠ Config.tver (imageOf 0 none).dev.fwGen := ⟨rfl, h⟩

theorem meets_restore_number : ∃ n, n ≠ Config.tver 0 := ⟨Config.tver 0 + 1, by omega⟩

/-- The folio that the image was in is still held; its page is not mapped now; or it is formed again from a page that fails its
check. -/
theorem meets_restore_folio : (restoreFolio (onDev (fun d => { d with folios := [folio0] }) (imageOf 0 (some folio0))) key0 folio0).2 = some folio0 ∧
    (restoreFolio (imageOf 0 (some folio0)) key0 { folio0 with first := 0x5000 }).2 = none ∧
    (restoreFolio (imageOf 0 (some folio0)) key0 folio0).2.any (fun g => !g.intact) = true := by
  refine ⟨by decide +kernel, by decide +kernel, by decide +kernel⟩
/-! ### Steps -/

/-- The small machine with its sequencer free. -/
def idle : State := { m0 with tile := { m0.tile with run := .free } }

theorem meets_step_canonical : memoriesWf idle = true ∧ ∃ t, step idle = .next t := ⟨by decide +kernel, tick idle, rfl⟩

/-- The folio of folio0 in hand, entered at its first word. -/
def inFolio (f : Option Folio) : State :=
  onDev (fun d => { d with folios := [folio0] })
    { m0 with tile := { m0.tile with folio := f, seq := { m0.tile.seq with vpc := 0x3008 } } }

theorem meets_step_fetch (f : Option Folio) : (inFolio f).agenda = [] ∧ (inFolio f).tile.run = .running ∧ NothingOwed (inFolio f) ∧
    folio0.intact = true ∧ (inFolio f).tile.folio = f ∧ folio0.first.toNat ≤ (inFolio f).tile.seq.vpc.toNat ∧
    (inFolio f).tile.seq.vpc.toNat ≤ folio0.last.toNat ∧ Canonical (inFolio f).tile.seq.vpc ∧
    folioAt (inFolio f) (taskOf (inFolio f) (me (inFolio f))) (inFolio f).tile.seq.vpc = some folio0 := by
  refine ⟨rfl, rfl, ?_, rfl, rfl, ?_, ?_, ?_, rfl⟩
  rotate_left
  · show (0x3008 : Word).toNat ≤ (0x3008 : Word).toNat
    decide
  · show (0x3008 : Word).toNat ≤ (0x3008 : Word).toNat
    decide
  · show Canonical (0x3008 : Word)
    unfold Canonical
    decide +kernel
  refine ⟨rfl, fun e c hc => ?_, fun c hc => absurd hc List.not_mem_nil, rfl, rfl⟩
  cases e <;> exact absurd hc List.not_mem_nil

theorem meets_step_agenda : ({ m0 with agenda := [.event .waitPollTimer] } : State).agenda = .event .waitPollTimer :: [] ∧
    isEvent .waitPollTimer = true ∧ ({ m0 with agenda := [.strand 0] } : State).agenda = [.strand m0.tileNo] ∧
    m0.agenda = [] ∧ idle.tile.run = .free ∧ m0.tileNo < 1024 ∧
    (∀ w, m0.tile.run ≠ .frozen w) := by
  refine ⟨rfl, rfl, rfl, rfl, rfl, by decide +kernel, fun w h => ?_⟩
  cases h

/-- The interface serves; and a strand past its deadline. -/
theorem meets_step_serves : ((inFolio none).tile.net.frozen = false ∧ (inFolio none).tile.net.landing = false) ∧
    (asked .running (some 5) 5).agenda = [] ∧ (asked .running (some 5) 5).tile.run = .running ∧
    (asked .running (some 5) 5).tileNo < 1024 ∧ (asked .running (some 5) 5).tile.yieldReq = some 5 ∧
    5 ≤ (asked .running (some 5) 5).tile.sincePost ∧
    ¬ ((wired .running (iface [] true [])).tile.net.frozen = false ∧ (wired .running (iface [] true [])).tile.net.landing = false) ∧
    m0.tile.fibre.run = none := by decide +kernel

/-- A word placed where the next step fetches is fetched: NOP, then the pc has advanced by 8. -/
theorem test_step_nop : ∃ t, step (State.reset.withFetchWord 64 0x2400000000000000) = .next t ∧
    getPc t = getPc (State.reset.withFetchWord 64 0x2400000000000000) + 8 := ⟨_, rfl, rfl⟩

/-! ### Instructions on the values that the spec gives -/

/-- S8 and S9 as given. -/
def two (x y : Word) : State :=
  { m0 with tile := { m0.tile with seq := { m0.tile.seq with s := (m0.tile.seq.s.set 8 x).set 9 y } } }

/-- The table of R155. -/
theorem test_divide : ([(-7, 2, -3, -1, 0x7FFFFFFFFFFFFFFC, 1), (7, 0, 0xFFFFFFFFFFFFFFFF, 7, 0xFFFFFFFFFFFFFFFF, 7),
    (0x8000000000000000, -1, 0x8000000000000000, 0, 0, 0x8000000000000000)] : List (Word × Word × Word × Word × Word × Word)).all
    (fun e => let s := two e.1 e.2.1
      getS (run (.div 7 8 9) s) 7 == e.2.2.1 && getS (run (.rem 7 8 9) s) 7 == e.2.2.2.1 && getS (run (.divz 7 8 9) s) 7 == e.2.2.2.2.1 &&
      getS (run (.remz 7 8 9) s) 7 == e.2.2.2.2.2) = true := by decide +kernel

/-- The BFX of chapter 07's listing: bits 19:12 of 000AB000H, sign-extended. -/
theorem test_bfx : getS (run (.bfx 4 8 12 7 true) (two 0xAB000 0)) 4 = 0xFFFFFFFFFFFFFFAB := by decide +kernel

/-- S0 discards writes, and a copy of its own source works. -/
theorem test_zero_register : getS (run (.add 0 1 2) m0) 0 = 0 ∧ getS (run (.sub 1 1 2) m0) 1 = -2 := by decide +kernel

/-- Branches count words from the branch itself (R131); LR is S63 (R161). -/
theorem test_branch : getPc (run (.bCond .lt 1 2 0xFFFFFE) m0) = 0xFF0 ∧ getPc (run (.bCond .ge 1 2 0xFFFFFE) m0) = 0x1008 ∧
    getS (run (.jl 4) m0) 63 = 0x1008 ∧ getPc (run (.jl 4) m0) = 0x1020 := by decide +kernel

/-- The lanes of the selection run of chapter 08, and its predicate after the VCMP. -/
def packLanes (xs : List Nat) : VecWord := BitVec.ofNat 2048 (xs.reverse.foldl (fun acc x => acc * 2 ^ 32 + x % 2 ^ 32) 0)
def selecting : State :=
  { m0 with tile := { m0.tile with seq := { m0.tile.seq with
      vl := 8
      p := m0.tile.seq.p.set 2 0xF0FF0F0F
      v := (m0.tile.seq.v.set 1 (packLanes [5, 0xFFFFFFFD, 7, 0, 2, 9, 0xFFFFFFFC, 1])).set 6 (packLanes [100]) } } }

theorem test_vcmp : (getP (run (.vcmp .gt 2 1 0 (vm .s32) gAll) selecting) 2).toNat % 2 ^ 32 = 0xF0FF0F0F := by decide +kernel

theorem test_count_first : getS (run (.pcnt 4 2 .s32) selecting) 4 = 5 ∧ getS (run (.pfirst 5 2 .s32) selecting) 5 = 0 := by decide +kernel

theorem test_vcompress : getV (run (.vcompress 3 1 (vm .s32) ⟨2, false⟩) selecting) 3 = packLanes [5, 7, 2, 9, 1] := by decide +kernel

theorem test_vscan : getV (run (.vscan .sum 5 1 6 false (vm .s32) ⟨2, false⟩) selecting) 5 = packLanes [105, 0, 112, 0, 114, 123, 0, 124] := by
  decide +kernel

theorem test_vredsum : getV (run (.vredsum 7 1 6 false (vm .s32) ⟨2, false⟩) selecting) 7 = packLanes [124] := by decide +kernel

/-- R206's example: VRECIP.f32 of 3.0. -/
theorem test_vrecip : elem (getV (run (.vrecip 3 1 (vm .f32) gAll)
    { selecting with tile := { selecting.tile with seq := { selecting.tile.seq with v := selecting.tile.seq.v.set 1 0x40400000 } } }) 3) 0 .f32 = 0x3EAAA800 := by
  decide +kernel

/-! ### Operands of the scalar and encoding statements -/

/-- The small machine with factor slot 3 bound to 21 and slot 4 not. -/
def factored : State := onTask 0 0 (fun t => { t with factors := [none, none, none, some 21] }) m0

theorem meets_factor : (taskOf factored (me factored)).factors.getD 3 none = some 21 ∧
    (taskOf factored (me factored)).factors.getD 4 none = none := by decide +kernel

theorem meets_fields : (63 : Fin 64).val + ((0 : Fin 64).val + 1) ≤ 64 ∧ ¬ (63 : Fin 64).val + ((1 : Fin 64).val + 1) ≤ 64 ∧
    scalarDest (.bfx 4 8 63 0 true) = some 4 ∧ scalarDest (.rdctl 4 .cycle) = some 4 ∧ (1 : SReg) ≠ 0 ∧
    64 ≤ (64 : BitVec 28).toNat ∧ (63 : BitVec 8).toNat < 64 ∧ ¬ (64 : BitVec 8).toNat < 64 := by decide +kernel

theorem meets_round_trip : (Instr.vmul 50 6 7 ⟨.l16, .rdn, true, false⟩ ⟨15, true⟩).isSvi = true ∧
    (Instr.vmul 50 6 7 ⟨.l16, .rdn, true, false⟩ ⟨15, true⟩).wf = true ∧
    ∀ w, Instr.vmul 50 6 7 ⟨.l16, .rdn, true, false⟩ ⟨15, true⟩ ≠ .reservedEncoding w :=
  ⟨by decide +kernel, by decide +kernel, fun _ => Instr.noConfusion⟩

end Sys2Proof.Tests
end

section
/-!
PROOFS. The host's registers and its accesses to memory (R6, R7, R109, R345 to R350, R373, R410): which register block a
write reaches, what that block takes, and that no register write touches a tile or a memory.
-/

namespace Sys2Proof.Machine

open Sys2Proof Sys2Proof.Claims

/-! ### Keyed lists -/

/-- A kept value is read back under its key; the others keep. -/
theorem look_keep {α : Type} (d : α) (l : List (Nat × α)) (k j : Nat) (x : α) :
    look d (keep l k x) j = if j = k then x else look d l j := by
  induction l with
  | nil =>
    by_cases h : j = k
    · simp [keep, look, h]
    · simp [keep, look, h, Ne.symm h]
  | cons e l ih =>
    obtain ⟨i, y⟩ := e
    by_cases hik : i = k
    · subst i
      by_cases h : j = k
      · simp [keep, look, h]
      · simp [keep, look, h, Ne.symm h]
    · by_cases hij : i = j
      · subst i
        simp [keep, look, hik]
      · simp [keep, look, hik, hij, ih]

theorem fnRegs_onFn (f h : Nat) (g : FnRegs → FnRegs) (s : State) :
    fnRegs (onFn f g s) h = if h = f then g (fnRegs s f) else fnRegs s h := by
  by_cases hf : h = f
  · simp [fnRegs, onFn, look_keep, hf]
  · simp [fnRegs, onFn, look_keep, hf]

/-- Only what a change makes of the registers as they stand matters. -/
theorem onFn_congr {f : Nat} {g g' : FnRegs → FnRegs} {s : State} (h : g (fnRegs s f) = g' (fnRegs s f)) :
    onFn f g s = onFn f g' s := by
  rw [fnRegs] at h
  rw [onFn, onFn, onDev, onDev, h]

/-! ### Places -/

theorem tileAt_onTile (n m : Nat) (f : Tile → Tile) (s : State) :
    tileAt (onTile n f s) m = if m = n then f (tileAt s n) else tileAt s m := by
  by_cases hn : n = s.tileNo
  · by_cases hm : m = n
    · simp [onTile, setTile, tileAt, hn, hm]
    · simp [onTile, setTile, tileAt, hn, hn ▸ hm]
  · by_cases hm : m = n
    · subst m
      simp [onTile, setTile, tileAt, hn, look_keep]
    · by_cases hs : m = s.tileNo
      · simp [onTile, setTile, tileAt, hn, hs, Ne.symm hn]
      · simp [onTile, setTile, tileAt, hn, hm, hs, look_keep]

/-- A memory put at one place leaves the others. -/
theorem placeMem_setPlaceMem_ne {p q : Place} (s : State) (m : Memory) (h : q ≠ p) :
    placeMem (setPlaceMem s p m) q = placeMem s q := by
  cases p with
  | dev =>
    cases q with
    | dev => exact absurd rfl h
    | host => rfl
    | pad n => rfl
  | host =>
    cases q with
    | dev => rfl
    | host => exact absurd rfl h
    | pad n => rfl
  | pad n =>
    cases q with
    | dev => simp only [setPlaceMem, onTile, setTile]; split <;> rfl
    | host => simp only [setPlaceMem, onTile, setTile]; split <;> rfl
    | pad j =>
      have hj : j ≠ n := fun e => h (congrArg Place.pad e)
      simp only [setPlaceMem, placeMem, tileAt_onTile, if_neg hj]

/-! ### Steps of registers only -/

/-- No tile and no memory changed. -/
def RegistersOnly (s t : State) : Prop :=
  t.tile = s.tile ∧ t.tileNo = s.tileNo ∧ t.others = s.others ∧ t.dev.mem = s.dev.mem ∧ t.dev.host = s.dev.host

theorem RegistersOnly.refl (s : State) : RegistersOnly s s := ⟨rfl, rfl, rfl, rfl, rfl⟩

theorem RegistersOnly.sameBytes {s t : State} (h : RegistersOnly s t) : SameBytes s t := by
  obtain ⟨htile, hno, hothers, hmem, hhost⟩ := h
  intro p a
  cases p with
  | dev => rw [placeMem, placeMem, hmem]
  | host => rw [placeMem, placeMem, hhost]
  | pad n => rw [placeMem, placeMem, tileAt, tileAt, htile, hno, hothers]

/-- The frame in the words of the statements. -/
theorem RegistersOnly.kept {s t : State} (h : RegistersOnly s t) :
    t.tile = s.tile ∧ t.others = s.others ∧ SameBytes s t := by
  have hbytes := h.sameBytes
  obtain ⟨htile, -, hothers, -, -⟩ := h
  exact ⟨htile, hothers, hbytes⟩

theorem registersOnly_onFn (f : Nat) (g : FnRegs → FnRegs) (s : State) : RegistersOnly s (onFn f g s) :=
  ⟨rfl, rfl, rfl, rfl, rfl⟩

theorem registersOnly_onQueue (q : Nat) (g : Queue → Queue) (s : State) : RegistersOnly s (onQueue q g s) :=
  ⟨rfl, rfl, rfl, rfl, rfl⟩

theorem registersOnly_onRegion (r : Nat) (g : Region → Region) (s : State) : RegistersOnly s (onRegion r g s) :=
  ⟨rfl, rfl, rfl, rfl, rfl⟩

theorem registersOnly_writeMailbox (fn off v : Nat) (s : State) : RegistersOnly s (writeMailbox fn off v s) := by
  unfold writeMailbox
  split
  · exact registersOnly_onFn _ _ s
  · exact registersOnly_onFn _ _ s
  · exact .refl s

theorem registersOnly_writeFn (f off v : Nat) (s : State) : RegistersOnly s (writeFn f off v s) := by
  unfold writeFn
  split <;> exact registersOnly_onFn _ _ s

theorem registersOnly_writeQueue (fn q off v : Nat) (s : State) : RegistersOnly s (writeQueue fn q off v s) := by
  unfold writeQueue
  split
  · exact .refl s
  · split
    · exact registersOnly_onQueue _ _ s
    · exact registersOnly_onQueue _ _ s
    · exact registersOnly_onQueue _ _ s
    · exact registersOnly_onQueue _ _ s
    · exact .refl s

theorem registersOnly_writeTenant (f v : Nat) (s : State) : RegistersOnly s (writeTenant f v s) :=
  registersOnly_onFn _ _ s

theorem registersOnly_writeGlobal (off v : Nat) (s : State) : RegistersOnly s (writeGlobal off v s) := by
  unfold writeGlobal
  split_ifs
  · exact ⟨rfl, rfl, rfl, rfl, rfl⟩
  · exact ⟨rfl, rfl, rfl, rfl, rfl⟩
  · exact ⟨rfl, rfl, rfl, rfl, rfl⟩
  · exact registersOnly_writeTenant _ _ s
  · exact .refl s
  · exact registersOnly_writeFn _ _ _ s
  · exact registersOnly_onRegion _ _ s
  · exact .refl s

/-- No register write touches a tile or a memory. -/
theorem registerWrite_registersOnly (fn off : Nat) (v : Word) (s : State) :
    Gives (.registerWrite fn off v) s (RegistersOnly s) := by
  refine ⟨_, rfl, ?_⟩
  split_ifs
  · exact .refl s
  · exact registersOnly_writeMailbox _ _ _ s
  · split
    · exact .refl s
    · exact .refl s
  · split
    · exact registersOnly_writeQueue _ _ _ _ s
    · exact .refl s
  · exact registersOnly_writeGlobal _ _ s
  · exact .refl s

/-! ### The block that an offset reaches -/

theorem exec_registerWrite (fn off : Nat) (v : Word) (s : State) :
    exec (.registerWrite fn off v) s = execRegisterWrite fn off v s := rfl

/-- Registers are written by whole aligned words. -/
theorem registerWrite_unaligned {off : Nat} (fn : Nat) (v : Word) (s : State) (h : off % 8 ≠ 0) :
    Unchanged (.registerWrite fn off v) s := by
  rw [Unchanged, exec_registerWrite, execRegisterWrite, if_pos (Or.inl h)]

/-- A VF has no global registers. -/
theorem registerWrite_vf_global {fn off : Nat} (v : Word) (s : State) (hf : fn ≠ 0)
    (h : off < 0x1000 ∨ (0x1020 ≤ off ∧ off < 0x100000)) : Unchanged (.registerWrite fn off v) s := by
  rw [Unchanged, exec_registerWrite, execRegisterWrite, if_neg (c := 0x1000 ≤ off ∧ _) (by omega),
    if_neg (c := 0x100000 ≤ off ∧ _) (by omega), if_neg hf, ite_self]

theorem registerWrite_global {off : Nat} (v : Word) (s : State) (ha : off % 8 = 0)
    (h : off < 0x1000 ∨ (0x1020 ≤ off ∧ off < 0x100000)) :
    exec (.registerWrite 0 off v) s = .next (writeGlobal off v.toNat s) := by
  rw [exec_registerWrite, execRegisterWrite, if_neg (by simp [ha]), if_neg (by omega), if_neg (by omega), if_pos rfl]

theorem registerWrite_mailbox {fn r : Nat} (v : Word) (s : State) (hm : s.dev.mode ≠ .minimal) (hf : fn ≤ 64) (hr : r < 4) :
    exec (.registerWrite fn (0x1000 + 8 * r) v) s = .next (writeMailbox fn (8 * r) v.toNat s) := by
  rw [exec_registerWrite, execRegisterWrite, if_neg (by simp [hm]; omega), if_pos (by omega), Nat.add_sub_cancel_left]

theorem registerWrite_queue {fn k q j : Nat} (v : Word) (s : State) (hm : s.dev.mode ≠ .minimal) (hf : fn ≤ 64)
    (hk : k < 4096) (hq : queueSeen s fn k = some q) (hj : j < 8) :
    exec (.registerWrite fn (0x100000 + 64 * k + 8 * j) v) s = .next (writeQueue fn q (8 * j) v.toNat s) := by
  have hblock : (0x100000 + 64 * k + 8 * j - 0x100000) / 64 = k := by omega
  have hword : (0x100000 + 64 * k + 8 * j) % 64 = 8 * j := by omega
  rw [exec_registerWrite, execRegisterWrite, if_neg (by simp [hm]; omega), if_neg (by omega), if_pos (by omega), hblock, hq,
    hword]
  simp only [if_neg hm]

/-! ### What a block takes -/

@[simp] theorem word_of_toNat (v : Word) : word v.toNat = v := by simp [word]

/-- A write of the PF's global registers past the tenants is of a register with a row of its own, or of none (R347, R348). -/
theorem writeGlobal_none {off : Nat} (v : Nat) (s : State) (hlo : 0x300 ≤ off) (hhi : off < 0x1000) :
    writeGlobal off v s = s := by
  rw [writeGlobal, if_neg (by omega), if_neg (by omega), if_neg (by omega), if_neg (by omega),
    if_neg (c := 0x2000 ≤ off ∧ _) (by omega), if_neg (c := 0x3800 ≤ off ∧ _) (by omega), ite_self]

theorem writeGlobal_translation {f r : Nat} (v : Nat) (s : State) (hm : s.dev.mode ≠ .minimal) (hf : f ≤ 64) (hr : r < 4) :
    writeGlobal (0x2000 + 32 * f + 8 * r) v s = writeFn f (8 * r) v s := by
  have hblock : (0x2000 + 32 * f + 8 * r - 0x2000) / 32 = f := by omega
  have hword : (0x2000 + 32 * f + 8 * r) % 32 = 8 * r := by omega
  rw [writeGlobal, if_neg (by omega), if_neg (by omega), if_neg (by omega), if_neg (by omega), if_neg hm,
    if_pos (by omega), hblock, hword]

theorem writeGlobal_region {r : Nat} (v : Nat) (s : State) (hm : s.dev.mode ≠ .minimal) (hr : r < 256) :
    writeGlobal (0x3800 + 8 * r) v s = onRegion r (fun x => { x with dlyMax := fieldOf v 8 8 }) s := by
  have hblock : (0x3800 + 8 * r - 0x3800) / 8 = r := by omega
  rw [writeGlobal, if_neg (by omega), if_neg (by omega), if_neg (by omega), if_neg (by omega), if_neg hm,
    if_neg (by omega), if_pos (by omega), hblock]

theorem registerWrite_translation {f r : Nat} (v : Word) (s : State) (hm : s.dev.mode ≠ .minimal) (hf : f ≤ 64) (hr : r < 4) :
    exec (.registerWrite 0 (0x2000 + 32 * f + 8 * r) v) s = .next (writeFn f (8 * r) v.toNat s) := by
  rw [registerWrite_global v s (by omega) (by omega), writeGlobal_translation _ s hm hf hr]

/-- A mailbox that is not BUSY takes a command, and is BUSY (R349). -/
theorem writeMailbox_command {fn : Nat} {s : State} (v : Word) (h : (fnRegs s fn).mbBusy = false) :
    writeMailbox fn 0 v.toNat s = onFn fn (fun x => { x with mbCmd := v, mbBusy := true }) s :=
  onFn_congr (g := fun r => if r.mbBusy then r else { r with mbCmd := word v.toNat, mbBusy := true }) (by simp [h])

/-- A BUSY mailbox ignores a command (R349). -/
theorem fnRegs_writeMailbox_busy {fn : Nat} {s : State} (v : Nat) (h : (fnRegs s fn).mbBusy = true) :
    fnRegs (writeMailbox fn 0 v s) fn = fnRegs s fn := by
  simp [writeMailbox, fnRegs_onFn, h]

/-- A queue that is not DISABLED keeps its block (R350). -/
theorem writeQueue_enabled {q : Nat} {s : State} (fn off v : Nat) (h : (queueAt s q).state ≠ .disabled) :
    writeQueue fn q off v s = s := if_pos h

theorem writeQueue_base {q : Nat} {s : State} (fn : Nat) (v : Word) (h : (queueAt s q).state = .disabled) :
    writeQueue fn q 0 v.toNat s = onQueue q (fun x => { x with qbase := v }) s := by
  rw [writeQueue, if_neg (not_not.2 h), word_of_toNat]

theorem writeQueue_config {q : Nat} {s : State} (fn : Nat) (v : Word) (h : (queueAt s q).state = .disabled) :
    writeQueue fn q 8 v.toNat s = onQueue q (fun x => { x with
      qlog2 := fieldOf v.toNat 0 5, qhost := v.getLsbD 5, devenq := v.getLsbD 6, pasid := fieldOf v.toNat 7 20
      owner := if fn = 0 then fieldOf v.toNat 27 7 else x.owner }) s := by
  rw [writeQueue, if_neg (not_not.2 h)]
  simp only [BitVec.testBit_toNat]

theorem writeQueue_table {q : Nat} {s : State} (fn : Nat) (v : Word) (h : (queueAt s q).state = .disabled) :
    writeQueue fn q 16 v.toNat s = onQueue q (fun x => { x with dtbase := v }) s := by
  rw [writeQueue, if_neg (not_not.2 h), word_of_toNat]

theorem writeQueue_tableSize {q : Nat} {s : State} (fn v : Nat) (h : (queueAt s q).state = .disabled) :
    writeQueue fn q 24 v s = onQueue q (fun x => { x with dtsize := fieldOf v 0 17 }) s := by
  rw [writeQueue, if_neg (not_not.2 h)]

/-! ### Tenants (R347) -/

/-- Another function holds the tenant number. -/
def TenantTaken (s : State) (f t : Nat) : Prop := ∃ g, g ≤ 64 ∧ g ≠ f ∧ (fnRegs s g).tenant = t

/-- What a write leaves in a function's tenant registers: the share always, the number unless another function holds it. -/
theorem fnRegs_writeTenant (f v : Nat) (s : State) :
    (fnRegs (writeTenant f v s) f).tcshare = fieldOf v 16 16 ∧
    (TenantTaken s f (fieldOf v 0 16) → (fnRegs (writeTenant f v s) f).tenant = (fnRegs s f).tenant) ∧
    (¬ TenantTaken s f (fieldOf v 0 16) → (fnRegs (writeTenant f v s) f).tenant = fieldOf v 0 16) ∧
    ∀ g, g ≠ f → fnRegs (writeTenant f v s) g = fnRegs s g := by
  have htaken : ((List.range 65).any fun g => g != f && (fnRegs s g).tenant == fieldOf v 0 16) = true ↔
      TenantTaken s f (fieldOf v 0 16) := by
    simp [TenantTaken, Nat.lt_succ_iff]
  refine ⟨?_, fun h => ?_, fun h => ?_, fun g hg => ?_⟩
  · simp only [writeTenant, fnRegs_onFn, if_true]
  · simp only [writeTenant, fnRegs_onFn, if_true, if_pos (htaken.2 h)]
  · simp only [writeTenant, fnRegs_onFn, if_true, if_neg (mt htaken.1 h)]
  · simp only [writeTenant, fnRegs_onFn, if_neg hg]

/-! ### Host accesses to memory (R109, R346) -/

theorem placeMem_hostWrite (p q : Place) (a : Nat) (bytes : List Byte) (s : State) :
    placeMem (hostWrite p a bytes s) q = if q = p then (placeMem s p).writeBytes a bytes else placeMem s q := by
  by_cases h : q = p
  · rw [if_pos h, h, hostWrite, placeMem_setPlaceMem_same]
  · rw [if_neg h, hostWrite, placeMem_setPlaceMem_ne _ _ h]
    cases q <;> rfl

theorem hostMemoryAccess_read (aperture : Bool) (a : Nat) (s : State) : Unchanged (.hostMemoryAccess aperture a []) s := rfl

/-- Past the end of BAR4 the host writes nothing. -/
theorem hostMemoryAccess_past_bar4 {a : Nat} {bytes : List Byte} (s : State) (h : Config.bar4Bytes < a + bytes.length) :
    Unchanged (.hostMemoryAccess true a bytes) s := by
  show execHostMemoryAccess true a bytes s = _
  have hno : ¬ (a + bytes.length ≤ Config.bar4Bytes ∧ s.dev.mode ≠ .minimal) := fun hin => Nat.not_le.2 h hin.1
  rw [execHostMemoryAccess, if_pos (c := true = true) rfl, if_neg hno, ite_self]

/-- The place that a host access reaches. -/
def hostPlace (aperture : Bool) : Place := if aperture then .dev else .host

theorem wf_hostPlace {s : State} (h : memoriesWf s = true) (aperture : Bool) : (placeMem s (hostPlace aperture)).wf = true := by
  simp only [memoriesWf, Bool.and_eq_true] at h
  obtain ⟨⟨⟨hmem, hhost⟩, -⟩, -⟩ := h
  cases aperture
  · exact hhost
  · exact hmem

/-- An access that BAR4 admits is a write of the place, also of no bytes as far as the memories tell. -/
theorem hostMemoryAccess_writes {aperture : Bool} {a : Nat} {bytes : List Byte} (s : State)
    (h : aperture = true → a + bytes.length ≤ Config.bar4Bytes ∧ s.dev.mode ≠ .minimal) :
    Gives (.hostMemoryAccess aperture a bytes) s fun t => ∀ p, placeMem t p =
      if p = hostPlace aperture then (placeMem s (hostPlace aperture)).writeBytes a bytes else placeMem s p := by
  cases bytes with
  | nil =>
    refine ⟨s, hostMemoryAccess_read aperture a s, fun p => ?_⟩
    by_cases hp : p = hostPlace aperture
    · rw [if_pos hp, hp, Memory.writeBytes]
    · rw [if_neg hp]
  | cons b bs =>
    refine ⟨hostWrite (hostPlace aperture) a (b :: bs) s, ?_, fun p => placeMem_hostWrite _ p a _ s⟩
    show execHostMemoryAccess aperture a (b :: bs) s = _
    cases aperture with
    | false => rfl
    | true => exact congrArg _ (if_pos (h rfl))

/-- What the bytes of every place read after a host access: those written, and elsewhere those before (R109). -/
theorem hostMemoryAccess_bytes {aperture : Bool} {a : Nat} {bytes : List Byte} {s : State} (hwf : memoriesWf s = true)
    (h : aperture = true → a + bytes.length ≤ Config.bar4Bytes ∧ s.dev.mode ≠ .minimal) :
    Gives (.hostMemoryAccess aperture a bytes) s fun t => ∀ p b, (placeMem t p).read b =
      if p = hostPlace aperture ∧ a ≤ b ∧ b < a + bytes.length then bytes.getD (b - a) 0 else (placeMem s p).read b := by
  obtain ⟨t, ht, hmem⟩ := hostMemoryAccess_writes s h
  refine ⟨t, ht, fun p b => ?_⟩
  rw [hmem]
  by_cases hp : p = hostPlace aperture
  · subst p
    rw [if_pos rfl]
    by_cases hin : a ≤ b ∧ b < a + bytes.length
    · have hb : b - a < bytes.length := by omega
      rw [if_pos ⟨rfl, hin⟩, Memory.read_writeBytes a bytes b (wf_hostPlace hwf _), if_pos hin.1,
        List.getD_eq_getElem _ _ hb, List.getD_eq_getElem _ _ hb]
    · rw [if_neg fun hall => hin hall.2, Memory.read_writeBytes_outside (wf_hostPlace hwf _) (by omega)]
  · rw [if_neg hp, if_neg fun hall => hp hall.1]

/-! ### Whole blocks, and the statement -/

/-- The host's writes of a translation block (R373). -/
theorem registerWrite_translationBlock (s : State) (f : Nat) (v : Word) (hm : s.dev.mode ≠ .minimal) (hf : f ≤ 64) :
    exec (.registerWrite 0 (0x2000 + 32 * f) v) s =
      .next (onFn f (fun x => { x with en := v.getLsbD 0, root := fieldOf v.toNat 12 44 }) s) ∧
    exec (.registerWrite 0 (0x2008 + 32 * f) v) s = .next (onFn f (fun x => { x with etbase := v }) s) ∧
    exec (.registerWrite 0 (0x2010 + 32 * f) v) s =
      .next (onFn f (fun x => { x with fvec := fieldOf v.toNat 0 11, fring := fieldOf v.toNat 12 44 }) s) ∧
    exec (.registerWrite 0 (0x2018 + 32 * f) v) s = .next (onFn f (fun x => { x with fhead := fieldOf v.toNat 8 6 }) s) := by
  have hat : ∀ r < 4, exec (.registerWrite 0 (0x2000 + 8 * r + 32 * f) v) s = .next (writeFn f (8 * r) v.toNat s) :=
    fun r hr => Nat.add_right_comm 0x2000 (32 * f) (8 * r) ▸ registerWrite_translation v s hm hf hr
  refine ⟨(hat 0 (by decide)).trans ?_, (hat 1 (by decide)).trans ?_, (hat 2 (by decide)).trans ?_, hat 3 (by decide)⟩
  · simp only [writeFn, BitVec.testBit_toNat]
  · simp only [writeFn, word_of_toNat]
  · simp only [writeFn]

/-- The host's writes of a queue's block (R350). -/
theorem registerWrite_queueBlock {s : State} {fn k q : Nat} (v : Word) (hm : s.dev.mode ≠ .minimal) (hf : fn ≤ 64)
    (hk : k < 4096) (hq : queueSeen s fn k = some q) :
    ((queueAt s q).state ≠ .disabled → ∀ j < 8, Unchanged (.registerWrite fn (0x100000 + 64 * k + 8 * j) v) s) ∧
    ((queueAt s q).state = .disabled →
      exec (.registerWrite fn (0x100000 + 64 * k) v) s = .next (onQueue q (fun x => { x with qbase := v }) s) ∧
      exec (.registerWrite fn (0x100000 + 64 * k + 0x08) v) s = .next (onQueue q (fun x => { x with
        qlog2 := fieldOf v.toNat 0 5, qhost := v.getLsbD 5, devenq := v.getLsbD 6, pasid := fieldOf v.toNat 7 20
        owner := if fn = 0 then fieldOf v.toNat 27 7 else x.owner }) s) ∧
      exec (.registerWrite fn (0x100000 + 64 * k + 0x10) v) s = .next (onQueue q (fun x => { x with dtbase := v }) s) ∧
      exec (.registerWrite fn (0x100000 + 64 * k + 0x18) v) s =
        .next (onQueue q (fun x => { x with dtsize := fieldOf v.toNat 0 17 }) s)) := by
  have hat : ∀ j < 8, exec (.registerWrite fn (0x100000 + 64 * k + 8 * j) v) s = .next (writeQueue fn q (8 * j) v.toNat s) :=
    fun j hj => registerWrite_queue v s hm hf hk hq hj
  refine ⟨fun hen j hj => ?_, fun hd => ⟨?_, ?_, ?_, ?_⟩⟩
  · rw [Unchanged, hat j hj, writeQueue_enabled _ _ _ hen]
  · exact (hat 0 (by decide)).trans (congrArg _ (writeQueue_base fn v hd))
  · exact (hat 1 (by decide)).trans (congrArg _ (writeQueue_config fn v hd))
  · exact (hat 2 (by decide)).trans (congrArg _ (writeQueue_table fn v hd))
  · exact (hat 3 (by decide)).trans (congrArg _ (writeQueue_tableSize fn v.toNat hd))

/-- The host's writes of a mailbox (R349). -/
theorem registerWrite_mailboxBlock (s : State) (fn : Nat) (v : Word) (hm : s.dev.mode ≠ .minimal) (hf : fn ≤ 64) :
    ((fnRegs s fn).mbBusy = false → exec (.registerWrite fn 0x1000 v) s =
      .next (onFn fn (fun x => { x with mbCmd := v, mbBusy := true }) s)) ∧
    ((fnRegs s fn).mbBusy = true → Gives (.registerWrite fn 0x1000 v) s fun t => fnRegs t fn = fnRegs s fn) ∧
    exec (.registerWrite fn 0x1008 v) s = .next (onFn fn (fun x => { x with mbOperand := v }) s) ∧
    Unchanged (.registerWrite fn 0x1010 v) s ∧ Unchanged (.registerWrite fn 0x1018 v) s := by
  have hat : ∀ r < 4, exec (.registerWrite fn (0x1000 + 8 * r) v) s = .next (writeMailbox fn (8 * r) v.toNat s) :=
    fun r hr => registerWrite_mailbox v s hm hf hr
  refine ⟨fun hidle => ?_, fun hbusy => ⟨_, hat 0 (by decide), fnRegs_writeMailbox_busy _ hbusy⟩, ?_, hat 2 (by decide),
    hat 3 (by decide)⟩
  · exact (hat 0 (by decide)).trans (congrArg _ (writeMailbox_command v hidle))
  · exact (hat 1 (by decide)).trans (by simp only [writeMailbox, word_of_toNat])

/-- The host's writes of a tenant (R347). -/
theorem tenantWrite_gives {s : State} {f : Nat} (v : Word) (hf : f ≤ 64) :
    Gives (.tenantWrite f v) s fun t => (fnRegs t f).tcshare = fieldOf v.toNat 16 16 ∧ t.tile = s.tile ∧ t.others = s.others ∧
      SameBytes s t ∧ (TenantTaken s f (fieldOf v.toNat 0 16) → (fnRegs t f).tenant = (fnRegs s f).tenant) ∧
      ((∀ g, g ≤ 64 → g ≠ f → (fnRegs s g).tenant ≠ fieldOf v.toNat 0 16) →
        (fnRegs t f).tenant = fieldOf v.toNat 0 16) ∧
      ∀ g, g ≠ f → fnRegs t g = fnRegs s g := by
  obtain ⟨hshare, htaken, hfree, hrest⟩ := fnRegs_writeTenant f v.toNat s
  obtain ⟨htile, hothers, hbytes⟩ := (registersOnly_writeTenant f v.toNat s).kept
  refine ⟨writeTenant f v.toNat s, congrArg _ (if_pos hf), hshare, htile, hothers, hbytes, htaken, fun h => ?_, hrest⟩
  exact hfree fun ⟨g, hg, hne, ht⟩ => h g hg hne ht

/-- Settles O52: every clause by the block that the write reaches. -/
theorem registerWrites : Obligations.RegisterWrites := by
  unfold Obligations.RegisterWrites
  intro s fn f q v
  refine ⟨fun off => ?_, fun off => registerWrite_unaligned fn v s, fun off => registerWrite_vf_global v s,
    registerWrite_global v s rfl (by decide), registerWrite_global v s rfl (by decide),
    registerWrite_global v s rfl (by decide), fun off hlo hhi => ?_, tenantWrite_gives v,
    fun hf => congrArg _ (if_neg (Nat.not_le.2 hf)), fun hwf _ _ _ => hostMemoryAccess_bytes hwf,
    fun _ _ => hostMemoryAccess_past_bar4 s, fun aperture a => hostMemoryAccess_read aperture a s,
    registerWrite_mailboxBlock s fn v, registerWrite_translationBlock s f v,
    fun hm hf _ => registerWrite_queueBlock v hm hf, fun hm hf => ?_⟩
  · obtain ⟨t, ht, hkept⟩ := registerWrite_registersOnly fn off v s
    exact ⟨t, ht, hkept.kept⟩
  · by_cases ha : off % 8 = 0
    · rw [Unchanged, registerWrite_global v s ha (Or.inl hhi), writeGlobal_none _ s hlo hhi]
    · exact registerWrite_unaligned 0 v s ha
  · rw [registerWrite_global v s (by omega) (by omega), writeGlobal_region _ s hm hf]
    rfl

end Sys2Proof.Machine
end

section
/-!
PROOFS. The host's reads of its registers (R6, R7, R347, R348, R350, R373, R410, R413, R437), block by block, and what they
show of the reset state.
-/

namespace Sys2Proof.Machine

open Sys2Proof Sys2Proof.Claims

/-! ### What a block shows -/

theorem readRegister_global {off : Nat} (s : State) (h : off < 0x1000 ∨ (0x1020 ≤ off ∧ off < 0x100000)) :
    readRegister s 0 off = word (globalWord s off) := by
  rw [readRegister, if_neg (by omega), if_neg (by omega), if_pos rfl]

/-- The words of a function's tenant (R347). -/
theorem readRegister_tenant {f : Nat} (s : State) (hf : f ≤ 64) :
    readRegister s 0 (0x18 + 8 * f) = word ((fnRegs s f).tenant + at_ (fnRegs s f).tcshare 16) := by
  have hblock : (0x18 + 8 * f - 0x18) / 8 = f := by omega
  rw [readRegister_global s (by omega), globalWord]
  repeat rw [if_neg (by omega)]
  rw [if_pos (by omega), hblock]

/-- The words of a function's translation block (R373). -/
theorem readRegister_translation {f j : Nat} (s : State) (hf : f ≤ 64) (hj : j < 4) :
    readRegister s 0 (0x2000 + 32 * f + 8 * j) = word (fnWord (fnRegs s f) (8 * j)) := by
  have hblock : (0x2000 + 32 * f + 8 * j - 0x2000) / 32 = f := by omega
  have hword : (0x2000 + 32 * f + 8 * j) % 32 = 8 * j := by omega
  rw [readRegister_global s (by omega), globalWord]
  repeat rw [if_neg (by omega)]
  rw [if_pos (by omega), hblock, hword]

/-- The block of a region (R410). -/
theorem readRegister_region {r : Nat} (s : State) (hr : r < 256) :
    readRegister s 0 (0x3800 + 8 * r) = word (regionWord (regionAt s r)) := by
  have hblock : (0x3800 + 8 * r - 0x3800) / 8 = r := by omega
  rw [readRegister_global s (by omega), globalWord]
  repeat rw [if_neg (by omega)]
  rw [if_pos (by omega), hblock]

/-- The words of a tile's telemetry block (R413). -/
theorem readRegister_telemetry {n j : Nat} (s : State) (hn : n < 1024) (hj : j < 8) :
    readRegister s 0 (0x40000 + 64 * n + 8 * j) = word (telemetryWord (telemetryAt s n) (8 * j)) := by
  have hblock : (0x40000 + 64 * n + 8 * j - 0x40000) / 64 = n := by omega
  have hword : (0x40000 + 64 * n + 8 * j) % 64 = 8 * j := by omega
  rw [readRegister_global s (by omega), globalWord]
  repeat rw [if_neg (by omega)]
  rw [if_pos (by omega), hblock, hword]

/-- The words of a link's block (R437). -/
theorem readRegister_link {l j : Nat} (s : State) (hl : l < 16) (hj : j < 8) :
    readRegister s 0 (0x50000 + 64 * l + 8 * j) = word (linkWord (linkAt s l) (8 * j)) := by
  have hblock : (0x50000 + 64 * l + 8 * j - 0x50000) / 64 = l := by omega
  have hword : (0x50000 + 64 * l + 8 * j) % 64 = 8 * j := by omega
  rw [readRegister_global s (by omega), globalWord]
  repeat rw [if_neg (by omega)]
  rw [if_pos (by omega), hblock, hword]

/-- The words of a queue's block, as the PF, which sees every queue, reads them (R350). -/
theorem readRegister_queue {q j : Nat} (s : State) (hq : q < 4096) (hj : j < 8) :
    readRegister s 0 (0x100000 + 64 * q + 8 * j) = word (queueWord (queueAt s q) (8 * j)) := by
  have hblock : (0x100000 + 64 * q + 8 * j - 0x100000) / 64 = q := by omega
  have hword : (0x100000 + 64 * q + 8 * j) % 64 = 8 * j := by omega
  have hseen : queueSeen s 0 q = some q := by simp [queueSeen, Config.queues, hq]
  rw [readRegister, if_neg (by omega), if_pos (by omega), hblock, hword, hseen]

/-! ### The reset state -/

@[simp] theorem tileAt_reset (n : Nat) : tileAt State.reset n = Tile.blank := ite_self _

/-- A queue's block reads zero at reset (R350). -/
@[simp] theorem queueWord_blank (off : Nat) : queueWord Queue.blank off = 0 := by
  unfold queueWord
  split <;> simp [Queue.blank, qstateCode, flagAt, at_]

/-- A translation block reads zero at reset (R373). -/
@[simp] theorem fnWord_blank (f off : Nat) : fnWord (FnRegs.blank f) off = 0 := by
  unfold fnWord
  split <;> simp [FnRegs.blank, flagAt, at_]

/-- A function's tenant is its own number at reset (R347). -/
theorem tenantWord_blank (f : Nat) : (FnRegs.blank f).tenant + at_ (FnRegs.blank f).tcshare 16 = f := by
  simp [FnRegs.blank, at_]

/-- A region's block shows its initial slow-down threshold at reset (R410). -/
theorem regionWord_blank : word (regionWord Region.blank) = 64 * 2 ^ 8 := by decide

theorem telemetryWord_blank : ∀ j < 7, telemetryWord Telemetry.blank (8 * j) = 0 := by decide

theorem linkWord_blank : ∀ j < 4, linkWord Link.blank (8 * j) = 0 := by decide

/-- How long the power-on correction tables are, and entries at which TADD and TSUB begin and end (R64). -/
theorem tablesPowerOn_entries : tablesPowerOn.take 4 = [1020, 1012, 1004, 996] ∧ tablesPowerOn.length = 512 ∧
    tablesPowerOn.getD 255 1 = 0 ∧ tablesPowerOn.getD 256 0 = BitVec.ofInt 16 (-7713) := by decide +kernel

/-- Settles O54: every block of registers as the host reads it, and every tile blank. -/
theorem resetState : Obligations.ResetState := by
  unfold Obligations.ResetState
  obtain ⟨hfirst, hlength, hlast, hsub⟩ := tablesPowerOn_entries
  simp only [tileAt_reset]
  refine ⟨fun _ => ⟨rfl, rfl⟩, rfl, rfl, rfl, fun f hf => ⟨?_, fun j hj => ?_⟩, fun q hq => ⟨rfl, fun j hj => ?_⟩,
    fun _ _ => ⟨rfl, rfl⟩, fun r hr => ⟨rfl, ?_⟩, fun n hn => ⟨?_, fun j hj => ?_⟩,
    fun l hl => ⟨?_, fun j hj => ?_⟩, rfl, rfl, rfl, fun _ => hfirst, fun _ => ⟨hlength, hlast, hsub⟩⟩
  · exact (readRegister_tenant _ hf).trans (congrArg word (tenantWord_blank f))
  · exact (readRegister_translation _ hf hj).trans (congrArg word (fnWord_blank f _))
  · exact (readRegister_queue _ hq hj).trans (congrArg word (queueWord_blank _))
  · exact (readRegister_region _ hr).trans regionWord_blank
  · exact Nat.add_right_comm 0x40000 (64 * n) 0x38 ▸ readRegister_telemetry (j := 7) _ hn (by decide)
  · exact (readRegister_telemetry _ hn (by omega)).trans (congrArg word (telemetryWord_blank j hj))
  · exact Nat.add_right_comm 0x50000 (64 * l) 0x20 ▸ readRegister_link (j := 4) _ hl (by decide)
  · exact (readRegister_link _ hl (by omega)).trans (congrArg word (linkWord_blank j hj))

end Sys2Proof.Machine
end

section
/-!
PROOFS. Writing lanes of vector registers, and the conversions (R121, R187, R207 to R209): what an instruction that gives
lanes their results leaves, VCVT, lanes of different types that do not overlap, and the choice of scales by VCVTDS.
-/

namespace Sys2Proof.Machine

open Sys2Proof Sys2Proof.Claims

/-! ### Banks -/

theorem bankState_eq_bankCode (vb : BitVec 8) (k : Nat) : bankState vb k = bankCode vb k := by
  simp [bankState, bankCode, fieldOf, Nat.shiftRight_eq_div_pow]

/-- Registers in banks that are on may be used. -/
theorem useBanks_on {s : State} {rs : List VReg} (h : BanksOn s rs) : useBanks s rs = .ok () := by
  have hne : ∀ c : Nat, c ≠ 0 → ¬ (rs.any fun r => bankState s.tile.seq.vbank (bankOf r) == c) = true := by
    intro c hc
    simp only [List.any_eq_true, not_exists, not_and, beq_iff_eq, bankState_eq_bankCode, bankOf]
    exact fun r hr => (h r hr).symm ▸ hc.symm
  rw [useBanks, if_neg (hne 2 (by decide)), if_neg (hne 1 (by decide))]

/-! ### Lanes given results -/

@[simp] theorem getV_writeLanes (d r : VReg) (t : Fmt) (rs : List (Nat × Rep)) (s : State) :
    getV (writeLanes d t rs s) r =
      if r = d then setElems (getV s d) t (rs.map fun r => (r.1, r.2.1)) else getV s r := by
  rw [writeLanes, getV_setV]
  rfl

theorem elem_writeLanes_mem {t : Fmt} {rs : List (Nat × Rep)} (v : VecWord) {r : Nat × Rep} (hr : r ∈ rs)
    (hj : r.1 < vlmax t) (hn : (rs.map (·.1)).Nodup) :
    elem (setElems v t (rs.map fun r => (r.1, r.2.1))) r.1 t = r.2.1 % 2 ^ t.bits :=
  elem_setElems_mem t _ v (r.1, r.2.1) (List.mem_map.2 ⟨r, hr, rfl⟩) hj (by rwa [List.map_map])

theorem elem_writeLanes_ne {t : Fmt} {rs : List (Nat × Rep)} (v : VecWord) {j : Nat} (hj : j < vlmax t)
    (h : ∀ r ∈ rs, r.1 ≠ j) : elem (setElems v t (rs.map fun r => (r.1, r.2.1))) j t = elem v j t :=
  elem_setElems_ne t _ v j hj (List.forall_mem_map.2 h)

/-- An instruction that gives lanes their results, each lane once, and goes on. -/
theorem lanes_of_writeLanes {i : Instr} {s : State} {d : VReg} {t : Fmt} {rs : List (Nat × Rep)}
    (h : exec i s = .next (advance (writeLanes d t rs s))) (hn : (rs.map (·.1)).Nodup) : Lanes i s d t rs := by
  have hv : getV (advance (writeLanes d t rs s)) d = setElems (getV s d) t (rs.map fun r => (r.1, r.2.1)) := by simp
  refine ⟨_, h, fun r hr hj => ?_, fun j hj hne => ?_, ?_⟩
  · rw [hv, elem_writeLanes_mem _ hr hj hn]
  · rw [hv, elem_writeLanes_ne _ hj hne]
  · rw [hv]
    rfl

/-! ### VCVT (R207, R208) -/

/-- VCVT's destination lanes are different (R207). -/
theorem convLanes_dest_injective (td ts : Fmt) (part : Nat) : Function.Injective fun i => (convLanes td ts part i).2 := by
  intro i j h
  simp only [convLanes] at h
  split at h <;> omega

/-- R207, R208: VCVT's lanes, at every type and part. -/
theorem vcvt_conversions : Conversions := by
  intro s d a c ts part blk m g hon
  have hbanks : useBanks s (if (m.ty == .ds8 || ts == .ds8) = true then [d, a, c] else [d, a]) = .ok () := by
    simpa using useBanks_on hon
  refine lanes_of_writeLanes (s := s) (d := d) ?_ ?_
  · show execVcvt d a c ts part blk m g s = _
    simp only [execVcvt, hbanks]
    rfl
  · rw [List.map_map]
    exact (nodup_activeLanes s _ g).map (convLanes_dest_injective m.ty ts part)

/-! ### Lanes of different types -/

/-- A lane written leaves every lane of any type that it does not overlap. -/
theorem elem_setElem_apart (v : VecWord) {i j : Nat} {t u : Fmt} (x : Nat)
    (h : i * t.bits + t.bits ≤ j * u.bits ∨ j * u.bits + u.bits ≤ i * t.bits) :
    elem (setElem v i t x) j u = elem v j u := by
  apply Nat.eq_of_testBit_eq
  intro b
  simp only [testBit_elem]
  by_cases hb : b < u.bits
  · by_cases hk : j * u.bits + b < 2048
    · rw [getLsbD_setElem _ _ _ _ _ hk, if_neg (by omega)]
    · rw [BitVec.getLsbD_of_ge _ _ (by omega), BitVec.getLsbD_of_ge _ _ (by omega)]
  · simp only [hb, decide_false, Bool.false_and]

theorem elem_setElems_apart {t u : Fmt} (xs : List (Nat × Nat)) (v : VecWord) {j : Nat}
    (h : ∀ x ∈ xs, x.1 * t.bits + t.bits ≤ j * u.bits ∨ j * u.bits + u.bits ≤ x.1 * t.bits) :
    elem (setElems v t xs) j u = elem v j u := by
  induction xs generalizing v with
  | nil => rfl
  | cons x xs ih =>
    obtain ⟨hx, hxs⟩ := List.forall_mem_cons.1 h
    exact (ih (setElem v x.1 t x.2) hxs).trans (elem_setElem_apart v x.2 hx)

/-! ### Scale vectors (R208, R209) -/

/-- What VCVTDS makes of a block: its exponent, its lanes' encodings, its new count. -/
abbrev Scaled := Nat × List (Nat × Rep) × Nat

/-- A scale vector with the new counts and exponents of the blocks of a list. -/
def putScales (v : VecWord) (ks : List Nat) (r : Nat → Scaled) : VecWord :=
  setElems (setElems v .z16 (ks.map fun k => (k, (r k).2.2))) .z8 (ks.map fun k => (128 + k, (r k).1))

/-- Exponents lie above the counts. -/
theorem count_putScales (v : VecWord) (ks : List Nat) (r : Nat → Scaled) {k : Nat} (hk : k < 16) :
    elem (putScales v ks r) k .z16 = elem (setElems v .z16 (ks.map fun k => (k, (r k).2.2))) k .z16 := by
  refine elem_setElems_apart _ _ (List.forall_mem_map.2 fun i _ => Or.inr ?_)
  show k * 16 + 16 ≤ (128 + i) * 8
  omega

theorem count_putScales_mem (v : VecWord) {ks : List Nat} (r : Nat → Scaled) {k : Nat} (hk : k < 16) (hmem : k ∈ ks)
    (hn : ks.Nodup) : elem (putScales v ks r) k .z16 = (r k).2.2 % 2 ^ 16 := by
  rw [count_putScales v ks r hk]
  refine elem_setElems_mem .z16 _ v (k, (r k).2.2) (List.mem_map.2 ⟨k, hmem, rfl⟩) (Nat.lt_of_lt_of_le hk (by decide)) ?_
  rw [List.map_map]
  exact hn.map Function.injective_id

theorem count_putScales_ne (v : VecWord) {ks : List Nat} (r : Nat → Scaled) {k : Nat} (hk : k < 16) (hmem : k ∉ ks) :
    elem (putScales v ks r) k .z16 = elem v k .z16 := by
  rw [count_putScales v ks r hk]
  refine elem_setElems_ne .z16 _ v k (Nat.lt_of_lt_of_le hk (by decide)) (List.forall_mem_map.2 ?_)
  rintro i hi rfl
  exact hmem hi

theorem exponent_putScales_mem (v : VecWord) {ks : List Nat} (r : Nat → Scaled) {k : Nat} (hk : k < 16) (hmem : k ∈ ks)
    (hn : ks.Nodup) : elem (putScales v ks r) (128 + k) .z8 = (r k).1 % 2 ^ 8 := by
  refine elem_setElems_mem .z8 _ _ (128 + k, (r k).1) (List.mem_map.2 ⟨k, hmem, rfl⟩) ?_ ?_
  · exact Nat.lt_of_lt_of_le (Nat.add_lt_add_left hk 128) (by decide)
  · rw [List.map_map]
    exact hn.map (add_right_injective 128)

theorem exponent_putScales_ne (v : VecWord) {ks : List Nat} (r : Nat → Scaled) {k : Nat} (hk : k < 16) (hmem : k ∉ ks)
    (hks : ∀ i ∈ ks, i < 16) : elem (putScales v ks r) (128 + k) .z8 = elem v (128 + k) .z8 := by
  have hlane : 128 + k < vlmax .z8 := Nat.lt_of_lt_of_le (Nat.add_lt_add_left hk 128) (by decide)
  have hexp : ∀ x ∈ ks.map fun k => (128 + k, (r k).1), x.1 ≠ 128 + k :=
    List.forall_mem_map.2 fun i hi e => hmem (Nat.add_left_cancel e ▸ hi)
  rw [putScales, elem_setElems_ne .z8 _ _ _ hlane hexp]
  refine elem_setElems_apart _ _ (List.forall_mem_map.2 fun i hi => Or.inl ?_)
  have := hks i hi
  show i * 16 + 16 ≤ (128 + k) * 8
  omega

/-! ### The blocks of VCVTDS (R66, R67, R209) -/

/-- The source and destination lanes of VCVTDS from type `ts`. -/
def dsLanes (s : State) (ts : Fmt) (part : Nat) (g : Guard) : List (Nat × Nat) :=
  (activeLanes s ts g).map fun i => (i, i + part * vlmax ts)

/-- The active destination lanes of block `k` with their exact inputs. -/
def dsBlock (s : State) (a : VReg) (ts : Fmt) (part size : Nat) (g : Guard) (k : Nat) : List (Nat × Num) :=
  ((dsLanes s ts part g).filter fun j => j.2 / size == k).map fun j => (j.2, decodeNum ts 127 (elem (getV s a) j.1 ts))

/-- The blocks that hold an input. -/
def liveBlocks (f : Nat → List (Nat × Num)) : List Nat := (List.range 16).filter fun k => !(f k).isEmpty

theorem mem_liveBlocks {f : Nat → List (Nat × Num)} {k : Nat} : k ∈ liveBlocks f ↔ k < 16 ∧ f k ≠ [] := by
  simp [liveBlocks]

theorem nodup_liveBlocks (f : Nat → List (Nat × Num)) : (liveBlocks f).Nodup := List.nodup_range.filter _

/-- The model's list of blocks is that of the blocks that hold an input. -/
theorem filterMap_liveBlocks (f : Nat → List (Nat × Num)) (r : Nat → Scaled) :
    ((List.range 16).filterMap fun k => if (f k).isEmpty then none else some (k, r k)) =
      (liveBlocks f).map fun k => (k, r k) := by
  rw [liveBlocks, ← List.filterMap_eq_map, List.filterMap_filter]
  refine List.filterMap_congr fun k _ => ?_
  cases (f k).isEmpty <;> rfl

/-- A block keeps its lanes. -/
theorem scaleBlock_lanes (mode : RMode) (thr prev : Nat) (xs : List (Nat × Num)) :
    (scaleBlock mode thr prev xs).2.1.map (·.1) = xs.map (·.1) := by
  simp [scaleBlock]

theorem scaleBlock_count_lt (mode : RMode) (thr prev : Nat) (xs : List (Nat × Num)) :
    (scaleBlock mode thr prev xs).2.2 < 2 ^ 16 := Nat.lt_succ_of_le (Nat.min_le_right _ _)

/-- The lanes of a block are those destination lanes that lie in it. -/
theorem dsBlock_lanes (s : State) (a : VReg) (ts : Fmt) (part size : Nat) (g : Guard) (k : Nat) :
    (dsBlock s a ts part size g k).map (·.1) = ((dsLanes s ts part g).map (·.2)).filter fun j => j / size == k := by
  rw [dsBlock, List.map_map, List.filter_map]
  rfl

theorem nodup_dsLanes (s : State) (ts : Fmt) (part : Nat) (g : Guard) : ((dsLanes s ts part g).map (·.2)).Nodup := by
  rw [dsLanes, List.map_map]
  exact (nodup_activeLanes s ts g).map (add_left_injective _)

/-- Lanes listed block by block are listed once. -/
theorem nodup_flatMap_blocks {ls ks : List Nat} (b : Nat → Nat) (hl : ls.Nodup) (hk : ks.Nodup) :
    (ks.flatMap fun k => ls.filter fun j => b j == k).Nodup := by
  refine List.nodup_flatMap.2 ⟨fun k _ => hl.filter _, hk.imp fun {k i} hne => ?_⟩
  intro j hj hi
  exact hne ((beq_iff_eq.1 (List.mem_filter.1 hj).2).symm.trans (beq_iff_eq.1 (List.mem_filter.1 hi).2))

/-- What VCVTDS makes of block `k`. -/
def dsScaled (s : State) (a c : VReg) (ts : Fmt) (part size : Nat) (m : VMod) (g : Guard) (k : Nat) : Scaled :=
  scaleBlock (roundMode s m.rnd) s.tile.seq.ufthr.toNat (elem (getV s c) k .z16) (dsBlock s a ts part size g k)

/-- The state with blocks of V[d] and their entries of the scale vector V[c] written (R209). -/
def putBlocks (d c : VReg) (bs : List (Nat × Scaled)) (s : State) : State :=
  let counts := bs.map fun b => (b.1, b.2.2.2)
  addUf (counts.foldl (fun n x => n + x.2) 0)
    (setV c (setElems (setElems (getV s c) .z16 counts) .z8 (bs.map fun b => (128 + b.1, b.2.1)))
      (writeLanes d .ds8 (bs.flatMap fun b => b.2.2.1) s))

/-- Blocks that are listed by number, with `r` of each. -/
theorem putBlocks_map (d c : VReg) (ks : List Nat) (r : Nat → Scaled) (s : State) :
    putBlocks d c (ks.map fun k => (k, r k)) s = addUf (ks.map fun k => (r k).2.2).sum
      (setV c (putScales (getV s c) ks r) (writeLanes d .ds8 (ks.flatMap fun k => (r k).2.1) s)) := by
  simp only [putBlocks, putScales, List.map_map, List.flatMap_map, List.sum_eq_foldl, List.foldl_map]
  rfl

/-- VCVTDS writes the blocks that have an active lane. -/
theorem exec_vcvtds {s : State} {d a c : VReg} {ts : Fmt} {part : Fin 16} {blk : Fin 4} {m : VMod} {g : Guard}
    (hon : BanksOn s [d, a, c]) (hts : ts = .f32 ∨ ts = .bf16) :
    exec (.vcvtds d a c ts part blk m g) s = .next (advance (putBlocks d c
      ((liveBlocks (dsBlock s a ts part (16 * 2 ^ blk.val) g)).map fun k =>
        (k, dsScaled s a c ts part (16 * 2 ^ blk.val) m g k)) s)) := by
  have hlanes : ((activeLanes s (widerOf .ds8 ts) g).map fun i => convLanes .ds8 ts part.val i) = dsLanes s ts part g := by
    rcases hts with rfl | rfl <;> rfl
  rw [← filterMap_liveBlocks]
  show execVcvtds d a c ts part blk m g s = _
  simp only [execVcvtds, useBanks_on hon, hlanes]
  rfl

theorem ufcount_addUf (n : Nat) (s : State) :
    (addUf n s).tile.seq.ufcount.toNat = min (s.tile.seq.ufcount.toNat + n) (2 ^ 64 - 1) :=
  (BitVec.toNat_ofNat _ _).trans (Nat.mod_eq_of_lt (by omega))

@[simp] theorem getV_addUf (n : Nat) (s : State) (r : VReg) : getV (addUf n s) r = getV s r := rfl

@[simp] theorem ufcount_advance (s : State) : (advance s).tile.seq.ufcount = s.tile.seq.ufcount := rfl

@[simp] theorem ufcount_setV (r : VReg) (x : VecWord) (s : State) :
    (setV r x s).tile.seq.ufcount = s.tile.seq.ufcount := rfl

@[simp] theorem ufcount_writeLanes (d : VReg) (t : Fmt) (rs : List (Nat × Rep)) (s : State) :
    (writeLanes d t rs s).tile.seq.ufcount = s.tile.seq.ufcount := rfl

/-- The lanes that blocks of a list write are the destination lanes in them. -/
theorem dsScaled_lanes (s : State) (a c : VReg) (ts : Fmt) (part size : Nat) (m : VMod) (g : Guard) (ks : List Nat) :
    (ks.flatMap fun k => (dsScaled s a c ts part size m g k).2.1).map (·.1) =
      ks.flatMap fun k => ((dsLanes s ts part g).map (·.2)).filter fun j => j / size == k := by
  rw [List.map_flatMap]
  exact List.flatMap_congr fun k _ => (scaleBlock_lanes _ _ _ _).trans (dsBlock_lanes s a ts part size g k)

theorem nodup_dsScaled (s : State) (a c : VReg) (ts : Fmt) (part size : Nat) (m : VMod) (g : Guard) {ks : List Nat}
    (hk : ks.Nodup) : ((ks.flatMap fun k => (dsScaled s a c ts part size m g k).2.1).map (·.1)).Nodup :=
  dsScaled_lanes s a c ts part size m g ks ▸ nodup_flatMap_blocks (· / size) (nodup_dsLanes s ts part g) hk

theorem mem_dsLanes_of_mem_dsScaled {s : State} {a c : VReg} {ts : Fmt} {part size : Nat} {m : VMod} {g : Guard}
    {ks : List Nat} {r : Nat × Rep} (hr : r ∈ ks.flatMap fun k => (dsScaled s a c ts part size m g k).2.1) :
    r.1 ∈ (dsLanes s ts part g).map (·.2) := by
  have hmem : r.1 ∈ (ks.flatMap fun k => (dsScaled s a c ts part size m g k).2.1).map (·.1) := List.mem_map_of_mem hr
  rw [dsScaled_lanes] at hmem
  obtain ⟨k, -, hj⟩ := List.mem_flatMap.1 hmem
  exact (List.mem_filter.1 hj).1

/-- Every destination lane of VCVTDS lies in the register (R207). -/
theorem dsLanes_lt {s : State} {ts : Fmt} {part : Nat} {g : Guard} (hts : ts = .f32 ∨ ts = .bf16)
    (hpart : part * vlmax ts < 256) {j : Nat} (hj : j ∈ (dsLanes s ts part g).map (·.2)) : j < vlmax .ds8 := by
  obtain ⟨_, hl, rfl⟩ := List.mem_map.1 hj
  obtain ⟨i, hi, rfl⟩ := List.mem_map.1 hl
  have hlane := ((mem_activeLanes s ts g i).1 hi).1
  rcases hts with rfl | rfl
  all_goals
    simp only [vlmax, Fmt.bits] at hpart hlane ⊢
    omega

/-- R66, R67, R209: VCVTDS block by block. -/
theorem vcvtds_scaleSelection : ScaleSelection := by
  intro s d a c ts part blk m g hon hdc _ hts hpart size lanes blockOf result
  let ks := liveBlocks blockOf
  have hks : ∀ k ∈ ks, k < 16 := fun k hk => (mem_liveBlocks.1 hk).1
  have hnodup : ks.Nodup := nodup_liveBlocks blockOf
  refine ⟨_, exec_vcvtds hon hts, ?_⟩
  rw [putBlocks_map]
  refine ⟨rfl, rfl, fun _ => rfl, fun r hrd hrc => ?_, fun k hk hempty => ?_, fun k hk hlive => ?_, fun j hj hout => ?_, ?_⟩
  · rw [getV_advance, getV_addUf, getV_setV, if_neg hrc, getV_writeLanes, if_neg hrd]
  · rw [getV_advance, getV_addUf, getV_setV, if_pos rfl]
    have hnot : k ∉ ks := fun h => (mem_liveBlocks.1 h).2 hempty
    exact ⟨count_putScales_ne _ _ hk hnot, exponent_putScales_ne _ _ hk hnot hks⟩
  · have hmem : k ∈ ks := mem_liveBlocks.2 ⟨hk, hlive⟩
    simp only [getV_advance, getV_addUf, getV_setV, if_true, if_neg hdc, getV_writeLanes]
    refine ⟨?_, exponent_putScales_mem _ _ hk hmem hnodup, fun r hr => ?_⟩
    · exact (count_putScales_mem _ _ hk hmem hnodup).trans (Nat.mod_eq_of_lt (scaleBlock_count_lt _ _ _ _))
    · have hr' : r ∈ ks.flatMap fun k => (dsScaled s a c ts part size m g k).2.1 := List.mem_flatMap.2 ⟨k, hmem, hr⟩
      exact elem_writeLanes_mem _ hr' (dsLanes_lt hts hpart (mem_dsLanes_of_mem_dsScaled hr'))
        (nodup_dsScaled s a c ts part size m g hnodup)
  · rw [getV_advance, getV_addUf, getV_setV, if_neg hdc, getV_writeLanes, if_pos rfl]
    refine elem_writeLanes_ne _ hj fun r hr e => ?_
    obtain ⟨i, hi, hij⟩ := List.mem_map.1 (mem_dsLanes_of_mem_dsScaled hr)
    exact hout i hi (hij.trans e)
  · rw [ufcount_advance, ufcount_addUf, ufcount_setV, ufcount_writeLanes]
    rfl

end Sys2Proof.Machine
end

section
/-!
PROOFS. Plain loads of a strand (R88, R95, R105, R217, R218, R372), which keep accesses and use pages and change no register,
and the correction tables (R64, R211).
-/

namespace Sys2Proof.Machine

open Sys2Proof Sys2Proof.Claims

/-! ### What a plain load leaves (R95, R105, R217, R218, R372) -/

theorem markUsed_tile (as : AddrSpace) (w : Bool) (x : Leaf) (s : State) : (markUsed as w x s).tile = s.tile := by
  unfold markUsed
  extract_lets
  split <;> rfl

theorem remember_tile (as : AddrSpace) (w : Bool) (x : Leaf) (s : State) : (remember as w x s).tile = s.tile := by
  unfold remember
  split
  · split <;> rfl
  · rfl

theorem useSpot_tile (w : Who) (u : Use) (p : Spot) (s : State) : (useSpot w u p s).tile = s.tile := by
  unfold useSpot
  split
  · rw [touch, remember_tile, markUsed_tile]
  · rfl

theorem foldl_useSpot_tile (u : Use) (ps : List Spot) (s : State) :
    (ps.foldl (fun s p => useSpot (self s) u p s) s).tile = s.tile := by
  induction ps generalizing s with
  | nil => rfl
  | cons p ps ih => exact (ih _).trans (useSpot_tile (self s) u p s)

/-- The use of pages leaves the tile alone (R372). -/
theorem useSpots_tile (u : Use) (xs : List ElemSpot) (s : State) : (useSpots u xs s).tile = s.tile := by
  induction xs generalizing s with
  | nil => rfl
  | cons x xs ih =>
    refine (ih _).trans ?_
    dsimp only
    split
    · exact (useSpot_tile _ _ _ _).trans (foldl_useSpot_tile u x.spots s)
    · exact foldl_useSpot_tile u x.spots s

/-- Nothing changed but the accesses kept for the conflict check (R105). -/
def MarksOnly (s u : State) : Prop := ∃ ms, u = onDev (fun d => { d with marks := ms }) s

theorem marksOnly_mark (a : Access) (ts : List Touch) (s : State) : MarksOnly s (mark a ts s) := ⟨_, rfl⟩

theorem MarksOnly.trans {s t u : State} (h : MarksOnly s t) (h' : MarksOnly t u) : MarksOnly s u := by
  obtain ⟨_, rfl⟩ := h
  obtain ⟨ms, rfl⟩ := h'
  exact ⟨ms, rfl⟩

theorem MarksOnly.tile {s u : State} (h : MarksOnly s u) : u.tile = s.tile := by
  obtain ⟨_, rfl⟩ := h
  rfl

theorem MarksOnly.placeMem {s u : State} (h : MarksOnly s u) (p : Place) : placeMem u p = placeMem s p := by
  obtain ⟨_, rfl⟩ := h
  cases p <;> rfl

theorem MarksOnly.poisonFree {s u : State} (h : MarksOnly s u) (xs : List ElemSpot) : poisonFree u xs = poisonFree s xs := by
  obtain ⟨_, rfl⟩ := h
  unfold Machine.poisonFree
  induction xs.flatMap fun x => x.spots ++ x.expo.toList with
  | nil => rfl
  | cons p ps ih => exact congrArg (poisonTrap s p.piece >>= fun _ => ·) ih

/-- What a non-constant load reads of a piece depends on the bytes alone. -/
theorem pieceBytes_congr {s u : State} (h : ∀ p, placeMem u p = placeMem s p) (p : Piece) :
    pieceBytes u false p = pieceBytes s false p := by
  simp only [pieceBytes, h, Bool.false_eq_true, if_false]

/-- The value of a non-constant load's element depends on the bytes and on ROUND.MODE alone (R88). -/
theorem elemValue_congr {s u : State} (h : ∀ p, placeMem u p = placeMem s p) (htile : u.tile = s.tile) (t : Fmt)
    (x : ElemSpot) : elemValue u false t x = elemValue s false t x := by
  simp only [elemValue, rawElem, elemBytes, pieceBytes_congr h, htile]

theorem perform_ok {s : State} {a : Access} {ts : List Touch} (h : orderTrap s a ts = none) :
    perform a ts s = .ok (mark a ts s) := by
  rw [perform, h]

/-- The reads of a checked plain load are performed (R105). -/
theorem performReads_plain {s : State} {m : MemOp} {xs : List ElemSpot} (h : MayLoad s m xs) (hplain : m.order = .plain) :
    ∃ u, performReads s m xs = .ok u ∧ MarksOnly s u := by
  let a := strandAccess s .load false false
  obtain ⟨hpeers, -, hown, -, htrap, hexpo⟩ := h
  simp only [hplain, bne_self_eq_false, if_true] at htrap hexpo
  refine ⟨mark a (expoTouches xs) (mark a (touchesOf xs) s), ?_, (marksOnly_mark _ _ s).trans (marksOnly_mark _ _ _)⟩
  simp only [performReads, hplain, bne_self_eq_false, Bool.false_eq_true, if_false, hpeers, hown]
  show (perform a (touchesOf xs) s >>= fun u => perform (strandAccess u .load false false) (expoTouches xs) u) = _
  rw [perform_ok htrap]
  exact perform_ok hexpo

/-- A load that is neither constant nor synchronising gives each lane its element, and leaves the tile alone. -/
theorem performLoad_plain {s : State} {m : MemOp} {xs : List ElemSpot} (h : MayLoad s m xs) (hplain : m.order = .plain)
    (hconst : constLoad m = false) :
    ∃ u, performLoad s m xs = .ok (u, xs.map fun x => (x.elem.lane, elemValue s false m.ty x)) ∧ u.tile = s.tile := by
  obtain ⟨u, hreads, hu⟩ := performReads_plain h hplain
  obtain ⟨-, hsound, -⟩ := h
  refine ⟨noteLoad m xs u, ?_, ?_⟩
  · simp only [performLoad, hreads, hconst]
    show (poisonFree u xs >>= fun _ => _) = _
    rw [hu.poisonFree, hsound]
    refine congrArg (fun vs => Except.ok (noteLoad m xs u, vs)) (List.map_congr_left fun x _ => ?_)
    rw [elemValue_congr hu.placeMem hu.tile]
  · simp only [noteLoad, hconst, hplain]
    exact (useSpots_tile _ _ _).trans hu.tile

/-! ### The correction tables (R64, R211) -/

/-- A descriptor that LDCT takes: one dimension of at least 512 S16 elements, each beside the next (R211). -/
def TableShape (d : Desc) : Prop := d.ndim = 1 ∧ d.fmt = 0x01 ∧ d.stride.getD 0 0 = 1 ∧ 512 ≤ d.ext.getD 0 0

/-- The byte address of the first entry. -/
def tableStart (d : Desc) : Nat := (elemByte d 16 (elemOffset d [])).1

/-- The coherent plain loads of LDCT (R211). -/
def tableOp (d : Desc) : MemOp := ⟨.s16, d.space, .plain, .tile, true, 0⟩

theorem tableShape_iff {d : Desc} :
    (d.ndim == 1 && d.fmt == Fmt.s16.code && d.stride.getD 0 0 == 1 && decide (512 ≤ d.ext.getD 0 0)) = true ↔
      TableShape d := by
  simp [TableShape, Fmt.code, and_assoc]

theorem ok_bind {α β : Type} (x : α) (f : α → Except Stop β) : (Except.ok x >>= f) = f x := rfl

theorem need_true (e : Stop) : need true e = .ok () := rfl

/-- The checks of LDCT that follow its descriptor's, and its effect (R211). -/
def loadTables (s : State) (tdi : BitVec 16) (d : Desc) : Except Stop State := do
  need (d.ndim == 1 && d.fmt == Fmt.s16.code && d.stride.getD 0 0 == 1 && decide (512 ≤ d.ext.getD 0 0))
    (.cause 0x053 tdi.toNat)
  need (tableStart d % 2 == 0) (.cause 0x04A (tableStart d))
  let xs ← checkAccess s d.space .read .s16 (some (tableStart d))
    (runElems (fmtAt s d.space .read (tableStart d)) .s16 (tableStart d) (List.range 512)) fun p => loadFormatOk p .s16 false
  let (t, vals) ← performLoad s (tableOp d) xs
  .ok (setSubst (substOf (vals.map (·.2)))
    (onFocus (Tile.onSeq fun q => { q with tables := vals.map fun v => BitVec.ofNat 16 v.2.1 }) t))

theorem exec_ldct {s : State} {tdi : BitVec 16} {d : Desc} (hd : getDesc s tdi.toNat = .ok d)
    (hr : needRights d tdi.toNat rightRead = .ok ()) (hc : checkRegion s d = .ok ()) :
    exec (.ldct tdi) s = finish s (loadTables s tdi d) := by
  show execLdct tdi s = _
  simp only [execLdct, hd, ok_bind, hr, hc]
  rfl

theorem loadTables_misshapen {s : State} {tdi : BitVec 16} {d : Desc} (h : ¬ TableShape d) :
    loadTables s tdi d = .error (.cause 0x053 tdi.toNat) := by
  rw [loadTables, Bool.eq_false_iff.2 (mt tableShape_iff.1 h)]
  rfl

theorem loadTables_misaligned {s : State} {tdi : BitVec 16} {d : Desc} (h : TableShape d) (hodd : tableStart d % 2 ≠ 0) :
    loadTables s tdi d = .error (.cause 0x04A (tableStart d)) := by
  rw [loadTables, tableShape_iff.2 h, beq_eq_false_iff_ne.2 hodd]
  rfl

/-- LDCT replaces the tables by what it loads, and changes no other register but SUBST (R211). -/
theorem loadTables_ok {s : State} {tdi : BitVec 16} {d : Desc} {xs : List ElemSpot} (h : TableShape d)
    (heven : tableStart d % 2 = 0)
    (hxs : checkAccess s d.space .read .s16 (some (tableStart d))
      (runElems (fmtAt s d.space .read (tableStart d)) .s16 (tableStart d) (List.range 512))
      (fun p => loadFormatOk p .s16 false) = .ok xs)
    (hmay : MayLoad s (tableOp d) xs) :
    ∃ t, loadTables s tdi d = .ok t ∧ getPc t = getPc s ∧ (∀ r, getS t r = getS s r) ∧
      t.tile.seq.tables = xs.map fun y => BitVec.ofNat 16 (elemValue s false .s16 y).1 := by
  have hconst : constLoad (tableOp d) = false := Bool.and_false _
  obtain ⟨u, hu, htile⟩ := performLoad_plain hmay rfl hconst
  have hpc : getPc u = getPc s := by simp only [getPc, htile]
  have hs : ∀ r, getS u r = getS s r := fun r => by simp only [getS, htile]
  simp only [loadTables, tableShape_iff.2 h, beq_iff_eq.2 heven, need_true, ok_bind, hxs, hu, List.map_map]
  exact ⟨_, rfl, hpc, hs, rfl⟩

/-- R64, R211: LDCT.reset and LDCT. -/
theorem ldct_correctionTables : CorrectionTables := by
  intro s tdi
  refine ⟨rfl, fun d hd hr hc => ⟨fun hshape => ?_, fun h1 h2 h3 h4 hodd => ?_, fun h1 h2 h3 h4 heven xs hxs hmay => ?_⟩⟩
  · rw [Traps, exec_ldct hd hr hc, loadTables_misshapen hshape]
    rfl
  · rw [Traps, exec_ldct hd hr hc, loadTables_misaligned ⟨h1, h2, h3, h4⟩ hodd]
    rfl
  · obtain ⟨t, ht, hpc, hs, htables⟩ := loadTables_ok (tdi := tdi) ⟨h1, h2, h3, h4⟩ heven hxs hmay
    refine ⟨_, (exec_ldct hd hr hc).trans (congrArg (finish s) ht), ?_, hs, htables⟩
    rw [getPc_advance, hpc]

/-- Settles O18: conversions, the choice of scales, and the correction tables. -/
theorem conversionsAndTables : Obligations.ConversionsAndTables :=
  ⟨vcvt_conversions, vcvtds_scaleSelection, ldct_correctionTables⟩

end Sys2Proof.Machine
end

section
/-!
PROOFS. The canonical form of every memory (R68, R69) as an invariant: `MemWf`, what tiles, the device and the plainest
operations keep of it, and what it says of the results of computations that can stop. Every lemma of the sections below says
of one function of the model that it keeps `MemWf`; its proof follows the function's branches.
-/

namespace Sys2Proof.Machine

open Sys2Proof

set_option Elab.async false

/-- The memories of a tile are in canonical form. -/
def TileWf (t : Tile) : Prop := t.pad.wf = true ∧ t.accum.wf = true

/-- The two memories of the device outside its tiles are in canonical form. -/
def DevWf (d : Dev) : Prop := d.mem.wf = true ∧ d.host.wf = true

/-- Every memory of the machine is in canonical form. -/
def MemWf (s : State) : Prop := DevWf s.dev ∧ TileWf s.tile ∧ ∀ e ∈ s.others, TileWf e.2

theorem memWf_iff {s : State} : MemWf s ↔ memoriesWf s = true := by
  simp [MemWf, DevWf, TileWf, memoriesWf, tileWf, and_assoc]

theorem tileWf_blank : TileWf Tile.blank := ⟨rfl, rfl⟩

theorem tileWf_look {l : List (Nat × Tile)} (h : ∀ e ∈ l, TileWf e.2) (n : Nat) : TileWf (look Tile.blank l n) := by
  induction l with
  | nil => exact tileWf_blank
  | cons e l ih =>
    rw [look]
    split
    · exact h e List.mem_cons_self
    · exact ih fun x hx => h x (List.mem_cons_of_mem e hx)

theorem tileWf_keep {l : List (Nat × Tile)} (h : ∀ e ∈ l, TileWf e.2) (n : Nat) {t : Tile} (ht : TileWf t) :
    ∀ e ∈ keep l n t, TileWf e.2 := by
  induction l with
  | nil => simpa [keep] using ht
  | cons x l ih =>
    have hl := ih fun y hy => h y (List.mem_cons_of_mem x hy)
    rw [keep]
    split
    · exact List.forall_mem_cons.2 ⟨ht, fun y hy => h y (List.mem_cons_of_mem x hy)⟩
    · exact List.forall_mem_cons.2 ⟨h x List.mem_cons_self, hl⟩

section
variable {s : State} (h : MemWf s)
include h

theorem tileWf_tileAt (n : Nat) : TileWf (tileAt s n) := by
  rw [tileAt]
  split
  · exact h.2.1
  · exact tileWf_look h.2.2 n

theorem memWf_setTile {n : Nat} {t : Tile} (ht : TileWf t) : MemWf (setTile s n t) := by
  rw [setTile]
  split
  · exact ⟨h.1, ht, h.2.2⟩
  · exact ⟨h.1, h.2.1, tileWf_keep h.2.2 n ht⟩

theorem memWf_onTile {n : Nat} {f : Tile → Tile} (hf : ∀ t, TileWf t → TileWf (f t) := by exact fun _ ht => ht) :
    MemWf (onTile n f s) := memWf_setTile h (hf _ (tileWf_tileAt h n))

theorem memWf_onFocus {f : Tile → Tile} (hf : ∀ t, TileWf t → TileWf (f t) := by exact fun _ ht => ht) :
    MemWf (onFocus f s) := ⟨h.1, hf _ h.2.1, h.2.2⟩

theorem memWf_onDev {f : Dev → Dev} (hf : ∀ d, DevWf d → DevWf (f d) := by exact fun _ hd => hd) :
    MemWf (onDev f s) := ⟨hf _ h.1, h.2⟩

theorem memWf_onSeq {f : Seq → Seq} : MemWf (onFocus (Tile.onSeq f) s) := h

theorem memWf_onTiles {f : Nat → Tile → Tile} (hf : ∀ n t, TileWf t → TileWf (f n t) := by exact fun _ _ ht => ht) :
    MemWf (onTiles f s) := ⟨h.1, hf _ _ h.2.1, List.forall_mem_map.2 fun e he => hf _ _ (h.2.2 e he)⟩

theorem memWf_agenda {l : List Turn} : MemWf { s with agenda := l } := h

theorem wf_placeMem {p : Place} : (placeMem s p).wf = true := by
  cases p with
  | dev => exact h.1.1
  | host => exact h.1.2
  | pad n => exact (tileWf_tileAt h n).1

theorem memWf_setPlaceMem {p : Place} {m : Memory} (hm : m.wf = true) : MemWf (setPlaceMem s p m) := by
  cases p with
  | dev => exact memWf_onDev h fun _ hd => ⟨hm, hd.2⟩
  | host => exact memWf_onDev h fun _ hd => ⟨hd.1, hm⟩
  | pad n => exact memWf_onTile h fun _ ht => ⟨hm, ht.2⟩

theorem memWf_forgetTile {n : Nat} : MemWf (forgetTile n s) := by
  unfold forgetTile
  split
  · exact ⟨h.1, tileWf_blank, h.2.2⟩
  · exact ⟨h.1, h.2.1, fun e he => h.2.2 e (List.mem_filter.1 he).1⟩

theorem memWf_focusOn {n : Nat} : MemWf (focusOn n s) := by
  unfold focusOn
  split
  · exact h
  · exact ⟨h.1, tileWf_look h.2.2 n, tileWf_keep (fun e he => h.2.2 e (List.mem_filter.1 he).1) _ h.2.1⟩

end
/-! ### What changes a tile or the device alone -/

/-- Canonical memories of the tile carried through a fold. -/
theorem tileWf_foldl {α β : Type} {f : Tile × β → α → Tile × β} {l : List α} {x : Tile × β} (hx : TileWf x.1)
    (hf : ∀ y a, TileWf y.1 → TileWf (f y a).1) : TileWf (l.foldl f x).1 := by
  induction l generalizing x with
  | nil => exact hx
  | cons a l ih => exact ih (hf x a hx)

section
variable {t : Tile} (ht : TileWf t)
include ht

theorem tileWf_unreserve {k} : TileWf (unreserve k t) := by
  unfold unreserve
  split
  · exact ht
  · exact ht

theorem tileWf_setEngQueue {e q} : TileWf (setEngQueue e q t) := by cases e <;> exact ht

theorem tileWf_onChan {ch f} : TileWf (onChan ch f t) := by cases ch <;> exact ht

theorem tileWf_accWrite {r c v} : TileWf (accWrite r c v t) := ⟨ht.1, Memory.writeNat_wf _ _ _ ht.2⟩

theorem tileWf_imageTile {h rec o k} : TileWf (imageTile h rec o k t) :=
  ⟨Memory.writeBytes_wf _ _ ht.1, Memory.writeBytes_wf _ _ ht.2⟩

theorem tileWf_startTile {k task o c clear} : TileWf (startTile k task o c clear t) := by
  cases clear
  · exact ht
  · exact tileWf_blank

theorem tileWf_passTime {k n} : TileWf (passTime k n t) := by
  rw [passTime]
  cases decide (Config.tiles ≤ n) || _ <;> exact ht

theorem tileWf_foldl_accWrite {v} {cells : List (Nat × Nat)} :
    TileWf (cells.foldl (fun t rc => accWrite rc.1 rc.2 v t) t) := by
  induction cells generalizing t with
  | nil => exact ht
  | cons c cells ih => exact ih (tileWf_accWrite ht)

theorem tileWf_mapWindow {f cells} : TileWf (mapWindow f cells t).1 :=
  tileWf_foldl ht fun _ _ hx => tileWf_accWrite hx

theorem tileWf_writeBack {c rows cols a b} : TileWf (writeBack c rows cols a b t).1 :=
  tileWf_foldl ht fun _ _ hx => tileWf_foldl hx fun _ _ hy => tileWf_accWrite hy

theorem tileWf_answerFibre {id ok} : TileWf (answerFibre id ok t) := by
  unfold answerFibre
  split
  · exact ht
  · exact ht

theorem tileWf_countStill {s k} : TileWf (countStill s k t) := by
  unfold countStill
  split
  · split
    · split
      · exact ht
      · exact ht
    · exact ht
  · exact ht

end

theorem tileWf_tickTile {s n t} (ht : TileWf t) : TileWf (tickTile s n t) := tileWf_countStill (tileWf_passTime ht)

theorem devWf_enterStage {k d} (hd : DevWf d) : DevWf (enterStage k d) := by
  unfold enterStage
  split
  · exact hd
  · exact hd

theorem devWf_enterRom {d} (hd : DevWf d) : DevWf (enterRom d) := by
  unfold enterRom
  split
  · exact hd
  · exact devWf_enterStage hd

theorem devWf_enterSupervisor {d} (hd : DevWf d) : DevWf (enterSupervisor d) := by
  unfold enterSupervisor
  split
  · exact devWf_enterStage hd
  · exact hd

theorem wf_landBytes {m a nib bytes} (hm : Memory.wf m = true) : (landBytes m a nib bytes).wf = true := by
  cases nib with
  | none => exact Memory.writeBytes_wf _ _ hm
  | some high => exact Memory.write_wf _ _ hm

theorem wf_remapGroup {frame m first n} (hm : Memory.wf m = true) : (remapGroup frame m first n).wf = true := by
  induction n generalizing m first with
  | zero => exact hm
  | succ n ih => exact ih (Memory.writeNat_wf _ _ _ hm)


/-- Every value that a stoppable computation can give has a machine whose memories are in canonical form. -/
def OkWf {α : Type} (p : α → State) (x : Except Stop α) : Prop := ∀ a, x = .ok a → MemWf (p a)

/-- The value that an optional computation gives, if any, has a machine whose memories are in canonical form. -/
def SomeWf {α : Type} (p : α → State) (x : Option α) : Prop := ∀ a, x = some a → MemWf (p a)

/-- The next state, if there is one, has its memories in canonical form. -/
def NextWf (o : Host.Outcome State Fault Refusal) : Prop := ∀ t, o = .next t → MemWf t

section
variable {α β : Type} {p : α → State} {q : β → State}

theorem okWf_error {e : Stop} : OkWf p (.error e) := fun _ h => nomatch h

theorem okWf_ok {a : α} (h : MemWf (p a)) : OkWf p (.ok a) := fun _ e => by cases e; exact h

theorem okWf_bind {x : Except Stop β} {f : β → Except Stop α} (hx : OkWf q x) (hf : ∀ b, MemWf (q b) → OkWf p (f b)) :
    OkWf p (x >>= f) := by
  cases x with
  | error e => exact okWf_error
  | ok b => exact hf b (hx b rfl)

theorem okWf_skip {x : Except Stop β} {f : β → Except Stop α} (hf : ∀ b, OkWf p (f b)) : OkWf p (x >>= f) := by
  cases x with
  | error e => exact okWf_error
  | ok b => exact hf b

theorem someWf_none : SomeWf p none := fun _ h => nomatch h

theorem someWf_some {a : α} (h : MemWf (p a)) : SomeWf p (some a) := fun _ e => by cases e; exact h

theorem someWf_bind {x : Option β} {f : β → Option α} (hx : SomeWf q x) (hf : ∀ b, MemWf (q b) → SomeWf p (f b)) :
    SomeWf p (x >>= f) := by
  cases x with
  | none => exact someWf_none
  | some b => exact hf b (hx b rfl)

theorem someWf_skip {x : Option β} {f : β → Option α} (hf : ∀ b, SomeWf p (f b)) : SomeWf p (x >>= f) := by
  cases x with
  | none => exact someWf_none
  | some b => exact hf b

theorem nextWf_next {s : State} (h : MemWf s) : NextWf (.next s) := fun _ e => by cases e; exact h

theorem okWf_map {x : Except Stop β} {f : β → α} (hx : OkWf q x) (hf : ∀ b, MemWf (q b) → MemWf (p (f b))) :
    OkWf p (x.map f) := by
  cases x with
  | error e => exact okWf_error
  | ok b => exact okWf_ok (hf b (hx b rfl))

theorem someWf_map {x : Option β} {f : β → α} (hx : SomeWf q x) (hf : ∀ b, MemWf (q b) → MemWf (p (f b))) :
    SomeWf p (x.map f) := by
  cases x with
  | none => exact someWf_none
  | some b => exact someWf_some (hf b (hx b rfl))

theorem someWf_findSome {l : List β} {f : β → Option α} (hf : ∀ b, SomeWf p (f b)) : SomeWf p (l.findSome? f) := fun a ha =>
  have ⟨b, _, hb⟩ := List.exists_of_findSome?_eq_some ha
  hf b a hb

theorem memWf_getD {x : Option State} {s : State} (h : MemWf s) (hx : SomeWf id x) : MemWf (x.getD s) := by
  cases x with
  | none => exact h
  | some t => exact hx t rfl

theorem someWf_ite {c : Prop} [Decidable c] {x y : Option α} (hx : SomeWf p x) (hy : SomeWf p y) :
    SomeWf p (if c then x else y) := by
  split
  · exact hx
  · exact hy

theorem memWf_ite {c : Prop} [Decidable c] {s t : State} (hs : MemWf s) (ht : MemWf t) : MemWf (if c then s else t) := by
  split
  · exact hs
  · exact ht

theorem nextWf_ite {c : Prop} [Decidable c] {x y : Host.Outcome State Fault Refusal} (hx : NextWf x) (hy : NextWf y) :
    NextWf (if c then x else y) := by
  split
  · exact hx
  · exact hy

theorem okWf_ite {c : Prop} [Decidable c] {x y : Except Stop α} (hx : OkWf p x) (hy : OkWf p y) :
    OkWf p (if c then x else y) := by
  split
  · exact hx
  · exact hy

theorem memWf_foldl {f : State → α → State} {l : List α} {s : State} (h : MemWf s) (hf : ∀ s a, MemWf s → MemWf (f s a)) :
    MemWf (l.foldl f s) := by
  induction l generalizing s with
  | nil => exact h
  | cons a l ih => exact ih (hf s a h)

end

end Sys2Proof.Machine
end

section
/-!
PROOFS. Canonical memories (R68, R69): translation, the named operations, and what the instructions of a strand are built
from.
-/

namespace Sys2Proof.Machine

open Sys2Proof

set_option Elab.async false

/-! ### Machine/Base.lean -/

section
variable {s : State} (h : MemWf s)
include h

theorem memWf_onFn {f g} : MemWf (onFn f g s) := memWf_onDev h

theorem memWf_onQueue {q g} : MemWf (onQueue q g s) := memWf_onDev h

theorem memWf_onRegion {r g} : MemWf (onRegion r g s) := memWf_onDev h

theorem memWf_onTelemetry {n g} : MemWf (onTelemetry n g s) := memWf_onDev h

theorem memWf_onClock {c g} : MemWf (onClock c g s) := memWf_onDev h

theorem memWf_signal {fn vec} : MemWf (signal fn vec s) := memWf_onDev h

theorem memWf_onTask {q r f} : MemWf (onTask q r f s) := memWf_onDev h

theorem memWf_onGang {q r g f} : MemWf (onGang q r g f s) := memWf_onDev h

end

/-! ### Machine/Translate.lean -/

section
variable {s : State} (h : MemWf s)
include h

theorem memWf_remember {as write x} : MemWf (remember as write x s) := by
  unfold remember
  split
  · exact memWf_ite h (memWf_onDev h)
  · exact memWf_onDev h

theorem memWf_markUsed {as write x} : MemWf (markUsed as write x s) :=
  memWf_ite h (memWf_onDev h fun _ hd => ⟨Memory.writeNat_wf _ _ _ hd.1, hd.2⟩)

theorem memWf_touch {as u f} : MemWf (touch as u f s) := memWf_remember (memWf_markUsed h)

theorem memWf_devUsed {as va n} : MemWf (devUsed as va n s) := by
  have one : ∀ a t, MemWf t → MemWf (match locate t as .read a with | .ok f => touch as .read f t | .error _ => t) := by
    intro a t ht
    split
    · exact memWf_touch ht
    · exact ht
  unfold devUsed
  dsimp only
  split
  · exact one _ _ h
  · exact one _ _ (one _ _ h)

theorem okWf_devWriteIn {as start va bs} : OkWf id (devWriteIn as start va bs s) := by
  induction bs generalizing va s with
  | nil => exact okWf_ok h
  | cons b bs ih =>
    refine okWf_skip fun _ => ih (memWf_setPlaceMem (memWf_touch h) ?_)
    exact Memory.write_wf _ _ (wf_placeMem (memWf_touch h))

theorem okWf_devWrite {as va bs} : OkWf id (devWrite as va bs s) := okWf_devWriteIn h

theorem someWf_dmaWrite {fn addr bs} : SomeWf id (dmaWrite fn addr bs s) := by
  induction bs generalizing addr s with
  | nil => exact someWf_some h
  | cons b bs ih =>
    refine someWf_skip fun _ => ih ?_
    exact memWf_onDev h fun _ hd => ⟨hd.1, Memory.write_wf _ _ hd.2⟩

end

/-! ### Machine/Ops.lean -/

section
variable {s : State} (h : MemWf s)
include h

theorem memWf_setS {r x} : MemWf (setS r x s) := memWf_ite h (memWf_onFocus h)

theorem memWf_setV {r x} : MemWf (setV r x s) := memWf_onFocus h

theorem memWf_setP {r x} : MemWf (setP r x s) := memWf_ite h (memWf_onFocus h)

theorem memWf_setPc {x} : MemWf (setPc x s) := memWf_onFocus h

theorem memWf_retire : MemWf (retire s) := memWf_onFocus h

theorem memWf_advance : MemWf (advance s) := memWf_retire (memWf_setPc h)

theorem memWf_onNet {n f} : MemWf (onNet n f s) := memWf_onTile h

theorem memWf_receive {m f} : MemWf (receive m f s) := memWf_onNet h

theorem memWf_postFlit {src m f} : MemWf (postFlit src m f s) := memWf_ite (memWf_onNet h) (memWf_receive h)

theorem memWf_postPort {n f} : MemWf (postPort n f s) := memWf_ite (memWf_onNet h) (memWf_receive h)

theorem memWf_releasePort {n} : MemWf (releasePort n s) := by
  unfold releasePort
  dsimp only
  split
  · exact h
  · exact memWf_ite h (memWf_receive (memWf_onNet h))

theorem memWf_releaseOne {src m i} : MemWf (releaseOne src m i s) := by
  unfold releaseOne
  dsimp only
  split
  · exact h
  · exact memWf_ite h (memWf_receive (memWf_onNet h))

theorem memWf_releaseCredits {n} : MemWf (releaseCredits n s) :=
  memWf_releasePort (memWf_foldl h fun _ _ hs => memWf_releaseOne hs)

theorem memWf_injectHeld {n} : MemWf (injectHeld n s) := memWf_foldl h fun _ _ hs => memWf_releaseOne hs

theorem memWf_postAmo {n i off bytes} : MemWf (postAmo n i off bytes s) := by
  unfold postAmo
  dsimp only
  split
  · exact h
  · exact memWf_ite h (memWf_postFlit h)

theorem memWf_dropAmo {k m} : MemWf (dropAmo k m s) := by
  unfold dropAmo
  split
  · exact memWf_ite (memWf_releaseCredits (memWf_onNet h)) h
  · exact h

theorem memWf_dropServing {p} : MemWf (dropServing p s) := memWf_onDev h

theorem memWf_reapServing {n} : MemWf (reapServing n s) := memWf_dropServing h

theorem memWf_setMember {k m} : MemWf (setMember k m s) := memWf_onGang h

theorem memWf_closeVisible {n k po} : MemWf (closeVisible n k po s) := memWf_onDev h

theorem memWf_endStrand {n} : MemWf (endStrand n s) := by
  unfold endStrand
  split
  · exact h
  · exact memWf_onTask (memWf_onGang (memWf_setMember (memWf_onTile (memWf_closeVisible (memWf_dropServing h)))))

theorem memWf_dropSaved {k} : MemWf (dropSaved k s) := by
  unfold dropSaved
  split
  · exact h
  · exact memWf_onDev (memWf_onTiles (f := fun _ => unreserve k) (memWf_forgetTile (memWf_endStrand h)) fun _ _ ht =>
      tileWf_unreserve ht)

theorem memWf_haltNet {n} : MemWf (haltNet n s) := memWf_onNet h

theorem memWf_endMembers {q r g i ms} : MemWf (endMembers q r g i ms s) := by
  induction ms generalizing i s with
  | nil => exact h
  | cons m ms ih =>
    refine ih ?_
    split
    · split
      · exact memWf_reapServing (memWf_onTile (memWf_haltNet (memWf_endStrand h)))
      · exact h
    · exact memWf_dropSaved h
    · exact h

theorem memWf_stopGang {q r g} : MemWf (stopGang q r g s) := memWf_endMembers (memWf_onGang h)

theorem memWf_stopGangs {q r gs} : MemWf (stopGangs q r gs s) := by
  induction gs generalizing s with
  | nil => exact h
  | cons g gs ih =>
    refine ih ?_
    split
    · exact memWf_stopGang h
    · exact h

theorem memWf_stopTask {q r} : MemWf (stopTask q r s) := memWf_stopGangs (memWf_onTask h)

theorem memWf_writeRecord {n k rep t} : MemWf (writeRecord n k rep t s) := by
  unfold writeRecord
  dsimp only
  split
  · exact okWf_devWrite (memWf_onTask h) _ ‹_›
  · exact memWf_onTask h

theorem memWf_noteCause {k cause} : MemWf (noteCause k cause s) := memWf_onTask h

theorem memWf_applyPolicy {n k rep cause} : MemWf (applyPolicy n k rep cause s) := by
  unfold applyPolicy
  dsimp only
  split
  · exact memWf_stopTask h
  · exact memWf_ite (memWf_stopGang h) (memWf_ite (memWf_signal (memWf_onTile h)) (memWf_onTile h))

theorem memWf_takeTrap {n rep t} : MemWf (takeTrap n rep t s) := by
  unfold takeTrap
  split
  · exact h
  · exact memWf_applyPolicy (memWf_noteCause (memWf_writeRecord h))

theorem memWf_trapAt {n t} : MemWf (trapAt n t s) := memWf_takeTrap (memWf_onTile h)

theorem memWf_blockOn {n w} : MemWf (blockOn n w s) := memWf_onTile h

theorem someWf_askService {fn kind va size} : SomeWf (·.2) (askService fn kind va size s) := by
  unfold askService
  split
  · exact someWf_some h
  · exact someWf_ite someWf_none (someWf_some (memWf_onDev h))

theorem memWf_stopShort {n e} : MemWf (stopShort n e s) := by
  unfold stopShort
  split
  · exact memWf_trapAt h
  · exact memWf_blockOn (memWf_postAmo h)
  · exact memWf_blockOn h
  · split
    · exact memWf_trapAt h
    · exact memWf_blockOn (someWf_askService h (_, _) ‹_›)

theorem nextWf_finish {r} (hr : OkWf id r) : NextWf (finish s r) := by
  cases r with
  | ok t => exact nextWf_next (memWf_advance (hr _ rfl))
  | error e => exact nextWf_next (memWf_stopShort h)

theorem nextWf_finishJump {r} (hr : OkWf id r) : NextWf (finishJump s r) := by
  cases r with
  | ok t => exact nextWf_next (memWf_retire (hr _ rfl))
  | error e => exact nextWf_next (memWf_stopShort h)

theorem memWf_resumeHeld {n queuePrecise soft skip} : MemWf (resumeHeld n queuePrecise soft skip s) := by
  refine memWf_onTile h fun t ht => ?_
  cases soft || skip <;> cases queuePrecise <;> exact ht

end

/-! ### Machine/Order.lean -/

section
variable {s : State} (h : MemWf s)
include h

theorem memWf_mark {a ts} : MemWf (mark a ts s) := memWf_onDev h

theorem okWf_perform {a ts} : OkWf id (perform a ts s) := by
  unfold perform
  split
  · exact okWf_error
  · exact okWf_ok (memWf_mark h)

theorem memWf_markConst {k ts} : MemWf (markConst k ts s) := memWf_onDev h

theorem memWf_onOrd {f} : MemWf (onOrd f s) := memWf_onFocus h

theorem memWf_nextPo : MemWf (nextPo s) := memWf_onOrd h

theorem memWf_onRels {p a n f} : MemWf (onRels p a n f s) := memWf_onDev h

theorem memWf_clearRels {p a n} : MemWf (clearRels p a n s) := memWf_onRels h

theorem memWf_reviveRels {p a n} : MemWf (reviveRels p a n s) := memWf_onRels h

theorem memWf_addRels {p a n rels} : MemWf (addRels p a n rels s) := memWf_ite h (memWf_onDev h)

theorem memWf_syncRead {p a n acq sc} : MemWf (syncRead p a n acq sc s) := memWf_onOrd h

theorem memWf_syncWrite {p a n rel atomic sc} : MemWf (syncWrite p a n rel atomic sc s) :=
  memWf_nextPo (memWf_addRels (memWf_ite (memWf_reviveRels h) (memWf_clearRels h)))

theorem memWf_plainWrite {p a n} : MemWf (plainWrite p a n s) := memWf_clearRels h

theorem memWf_fenceOrder {acq rel sc} : MemWf (fenceOrder acq rel sc s) := memWf_nextPo (memWf_onOrd (memWf_onOrd h))

theorem memWf_closeMarks {p po} : MemWf (closeMarks p po s) := memWf_onDev h

end

/-! ### Machine/Flags.lean -/

section
variable {s : State} (h : MemWf s)
include h

theorem memWf_setSubst {b} : MemWf (setSubst b s) := memWf_onFocus h

theorem memWf_setSubstOn {n b} : MemWf (setSubstOn n b s) := memWf_onTile h

theorem memWf_addUf {n} : MemWf (addUf n s) := memWf_onFocus h

theorem okWf_writeVbank {x} : OkWf id (writeVbank x s) := by
  unfold writeVbank
  dsimp only
  split
  · exact okWf_error
  · exact okWf_ok (memWf_onSeq h)

theorem okWf_writeCtl {r x} : OkWf id (writeCtl r x s) := by
  unfold writeCtl
  split
  · exact okWf_ok (memWf_onFocus h)
  · exact okWf_ok (memWf_onFocus h)
  · exact okWf_ok (memWf_onFocus h)
  · exact okWf_ok (memWf_onFocus h)
  · exact okWf_writeVbank h
  · exact okWf_error
  · exact okWf_error
  · exact okWf_error
  · exact okWf_error
  · exact okWf_error
  · exact okWf_error
  · exact okWf_error
  · exact okWf_error
  · exact okWf_error

end

/-! ### Machine/Operands.lean -/

section
variable {s : State} (h : MemWf s)
include h

theorem memWf_useSpot {w u p} : MemWf (useSpot w u p s) := by
  unfold useSpot
  split
  · exact memWf_touch h
  · exact h

theorem memWf_useSpots {u xs} : MemWf (useSpots u xs s) := by
  unfold useSpots
  refine memWf_foldl h fun _ _ hs => ?_
  dsimp only
  split
  · exact memWf_useSpot (memWf_foldl hs fun _ _ hs => memWf_useSpot hs)
  · exact memWf_foldl hs fun _ _ hs => memWf_useSpot hs

theorem memWf_acquireAll {m xs} : MemWf (acquireAll m xs s) :=
  memWf_nextPo (memWf_foldl h fun _ _ hs => memWf_syncRead hs)

theorem okWf_performReads {m xs} : OkWf id (performReads s m xs) := by
  unfold performReads
  refine okWf_skip fun _ => ?_
  refine okWf_skip fun _ => ?_
  dsimp only
  split
  · exact okWf_skip fun _ => okWf_bind (okWf_perform h) fun _ hs => okWf_perform hs
  · exact okWf_bind (okWf_perform h) fun _ hs => okWf_perform hs

theorem memWf_noteLoad {m xs} : MemWf (noteLoad m xs s) := by
  unfold noteLoad
  dsimp only
  split
  · exact memWf_acquireAll (memWf_useSpots (memWf_ite (memWf_markConst h) h))
  · exact memWf_useSpots (memWf_ite (memWf_markConst h) h)

theorem okWf_performLoad {m xs} : OkWf Prod.fst (performLoad s m xs) :=
  okWf_bind (okWf_performReads h) fun _ hs => okWf_skip fun _ => okWf_ok (memWf_noteLoad hs)

theorem memWf_putPiece {w elem p nib bytes} : MemWf (putPiece w elem p nib bytes s) := by
  have hs : MemWf (setPlaceMem s p.place (landBytes (placeMem s p.place) p.addr nib bytes)) :=
    memWf_setPlaceMem h (wf_landBytes (wf_placeMem h))
  unfold putPiece
  split
  · split
    · exact memWf_postFlit h
    · exact hs
  · exact hs

theorem memWf_storePiece {p nib bytes} : MemWf (storePiece p nib bytes s) := memWf_putPiece h

theorem memWf_storeElem {t x v} : MemWf (storeElem t s x v) := by
  unfold storeElem
  dsimp only
  split
  · exact memWf_storePiece h
  · split
    · exact memWf_storePiece (memWf_storePiece h)
    · exact memWf_storePiece h

theorem memWf_storeElems {t val xs} : MemWf (storeElems t val xs s) := memWf_foldl h fun _ _ hs => memWf_storeElem hs

theorem memWf_writeOrder {m xs} : MemWf (writeOrder m xs s) := by
  unfold writeOrder
  dsimp only
  split
  · exact memWf_foldl h fun _ _ hs => memWf_plainWrite hs
  · exact memWf_nextPo (memWf_foldl h fun _ _ hs => memWf_addRels (memWf_clearRels hs))

theorem okWf_performStore {m val xs} : OkWf id (performStore s m val xs) := by
  unfold performStore
  refine okWf_skip fun _ => ?_
  dsimp only
  split
  · exact okWf_skip fun _ => okWf_bind (okWf_perform h) fun _ hs => okWf_ok (memWf_writeOrder (memWf_storeElems
      (memWf_useSpots hs)))
  · exact okWf_bind (okWf_perform h) fun _ hs => okWf_ok (memWf_writeOrder (memWf_storeElems (memWf_useSpots hs)))

theorem okWf_coherentFrom {start addr n} : OkWf Prod.fst (coherentFrom s start addr n) := by
  induction n generalizing addr s with
  | zero => exact okWf_ok h
  | succ n ih =>
    refine okWf_skip fun p => okWf_skip fun _ => okWf_bind (okWf_perform h) fun s hs => okWf_skip fun _ => ?_
    exact okWf_bind (ih (memWf_useSpot hs)) fun p hp => okWf_ok hp

theorem okWf_coherentBytes {addr n} : OkWf Prod.fst (coherentBytes s addr n) := okWf_coherentFrom h

theorem okWf_localBytes {addr n} : OkWf Prod.fst (localBytes s addr n) :=
  okWf_skip fun _ => okWf_bind (okWf_perform h) fun _ hs => okWf_ok hs

end

/-! ### Machine/Beats.lean -/

section
variable {s : State} (h : MemWf s)
include h

theorem memWf_enterPort {k i port user bytes} : MemWf (enterPort k i port user bytes s) := by
  unfold enterPort
  split
  · exact memWf_onRegion h
  · exact h

end

/-! ### Machine/Descriptors.lean -/

section
variable {s : State} (h : MemWf s)
include h

theorem memWf_useDesc {tdi} : MemWf (useDesc tdi s) := memWf_devUsed h

end

/-! ### Machine/Queues.lean -/

section
variable {s : State} (h : MemWf s)
include h

theorem okWf_reserveReply {reply} : OkWf id (reserveReply reply s) := by
  unfold reserveReply
  split
  · exact okWf_ok h
  · exact okWf_ite okWf_error (okWf_ok (memWf_onFocus h))

theorem memWf_postReply {n k reply entry} : MemWf (postReply n k reply entry s) := by
  unfold postReply
  split
  · exact h
  · exact memWf_ite (memWf_onTile h) h

theorem okWf_issue {e body reply} : OkWf id (issue e body reply s) := by
  refine okWf_bind (okWf_reserveReply h) fun t ht => okWf_skip fun _ => okWf_ok (memWf_nextPo ?_)
  refine memWf_onFocus ht fun x hx => tileWf_setEngQueue ?_
  exact hx

theorem nextWf_finishIssue {e r} (hr : OkWf id r) : NextWf (finishIssue e s r) := by
  cases r with
  | ok t => exact nextWf_next (memWf_onFocus (memWf_advance (hr _ rfl)))
  | error e => exact nextWf_next (memWf_stopShort h)

theorem memWf_takeId {ch} : MemWf (takeId ch s) := memWf_onFocus h (fun _ ht => tileWf_onChan ht)

theorem memWf_onCmd {n e k seq f} : MemWf (onCmd n e k seq f s) := by
  refine memWf_onTile h fun t ht => ?_
  split
  · exact ht
  · exact tileWf_setEngQueue ht

theorem memWf_popCmd {n e} : MemWf (popCmd n e s) := memWf_onTile h fun _ ht => tileWf_setEngQueue ht

end

/-! ### Machine/Control.lean -/

section
variable {s : State} (h : MemWf s)
include h

theorem okWf_jumpTo {target} : OkWf id (jumpTo target s) :=
  okWf_ite (okWf_ok (memWf_onFocus (memWf_setPc h))) okWf_error

theorem nextWf_execBCond {c a b off} : NextWf (execBCond c a b off s) :=
  nextWf_ite (nextWf_finishJump h (okWf_jumpTo h)) (nextWf_finish h (okWf_ok h))

theorem nextWf_execJl {imm} : NextWf (execJl imm s) := nextWf_finishJump h (okWf_map (okWf_jumpTo h) fun _ hs =>
    memWf_setS hs)

theorem nextWf_execBrk {tag} : NextWf (execBrk tag s) :=
  nextWf_ite (nextWf_next (memWf_onFocus (memWf_advance h))) (nextWf_finish h okWf_error)

theorem nextWf_execYieldTo {d} : NextWf (execYieldTo d s) := by
  unfold execYieldTo
  split
  · exact nextWf_finish h (okWf_ok (memWf_setS h))
  · exact nextWf_next (memWf_onFocus (memWf_advance (memWf_setS h)))

theorem nextWf_execEndStrand {mask} : NextWf (execEndStrand mask s) := by
  unfold execEndStrand
  dsimp only
  split
  · exact nextWf_next (memWf_stopShort h)
  · exact nextWf_next (memWf_endStrand (memWf_advance (memWf_nextPo h)))

theorem memWf_markLive {id v} : MemWf (markLive id v s) := memWf_onFocus h

theorem nextWf_execFeat {d id} : NextWf (execFeat d id s) :=
  nextWf_finish h (okWf_ok (memWf_setS (memWf_ite h (memWf_markLive h))))

end

/-! ### Machine/LoadStore.lean -/

section
variable {s : State} (h : MemWf s)
include h

theorem nextWf_codecWait {region port bytes} : NextWf (codecWait region port bytes s) :=
  nextWf_next (memWf_blockOn (memWf_onFocus (memWf_ite (memWf_enterPort h) h)))

theorem okWf_readCodec {d m c a run stride lanes} : OkWf Prod.fst (readCodec s d m c a run stride lanes) := by
  unfold readCodec
  refine okWf_skip fun _ => ?_
  refine okWf_skip fun xs => ?_
  split
  · exact okWf_error
  · exact okWf_bind (okWf_performReads h) fun _ hs => okWf_skip fun _ => okWf_skip fun _ => okWf_ok (memWf_noteLoad hs)

theorem nextWf_loadCodec {d m c a run stride lanes} : NextWf (loadCodec d m c a run stride lanes s) := by
  unfold loadCodec
  split
  · have ht := okWf_readCodec h (_, _) ‹_›
    refine nextWf_ite (nextWf_finish h ?_) (nextWf_codecWait h)
    refine okWf_skip fun _ => okWf_ok (memWf_setV (memWf_setSubst ?_))
    exact memWf_onFocus ht
  · exact nextWf_finish h okWf_error
  · exact nextWf_finish h okWf_error

theorem nextWf_loadVec {d m probe named es codec} : NextWf (loadVec d m probe named es codec s) := by
  unfold loadVec
  refine nextWf_finish h ?_
  refine okWf_skip fun _ => ?_
  dsimp only
  split
  · exact okWf_skip fun _ => okWf_bind (okWf_performLoad h) fun ⟨_, _⟩ hs => okWf_ok (memWf_setV (memWf_setSubst hs))
  · exact okWf_skip fun _ => okWf_bind (okWf_performLoad h) fun ⟨_, _⟩ hs => okWf_ok (memWf_setV (memWf_setSubst hs))

theorem nextWf_storeVec {d m probe named es} : NextWf (storeVec d m probe named es s) :=
  nextWf_finish h (okWf_skip fun _ => okWf_ite (okWf_skip fun _ => okWf_performStore h) (okWf_skip fun _ =>
      okWf_performStore h))

theorem nextWf_execLdv {d a m g} : NextWf (execLdv d a m g s) := by
  unfold execLdv
  dsimp only
  split
  · exact nextWf_ite (nextWf_loadVec h) (nextWf_loadCodec h)
  · exact nextWf_loadVec h

theorem nextWf_execLdvs {d a b m g} : NextWf (execLdvs d a b m g s) := by
  unfold execLdvs
  dsimp only
  split
  · split
    · exact nextWf_ite (nextWf_loadVec h) (nextWf_loadCodec h)
    · exact nextWf_loadVec h
  · exact nextWf_loadVec h

theorem memWf_atomicOrder {m p wrote} : MemWf (atomicOrder m p wrote s) :=
  memWf_ite (memWf_syncWrite (memWf_syncRead h)) (memWf_nextPo (memWf_syncRead h))

theorem memWf_amoLanded {p} : MemWf (amoLanded p s) := by
  unfold amoLanded
  split
  · exact memWf_ite h (memWf_dropAmo h)
  · exact h

theorem okWf_performAtomic {m x new} : OkWf Prod.fst (performAtomic s m x new) := by
  refine okWf_bind (okWf_perform h) fun t ht => okWf_skip fun _ => ?_
  have hu : MemWf (useSpot (self t) .update x.spot t) := memWf_useSpot ht
  refine okWf_ok (memWf_amoLanded (memWf_atomicOrder ?_))
  split
  · exact memWf_setPlaceMem hu (Memory.writeNat_wf _ _ _ (wf_placeMem hu))
  · exact hu

theorem okWf_postReduction {op det m x operand} : OkWf id (postReduction op det m x operand s) :=
  okWf_bind (okWf_perform h) fun _ hs => okWf_skip fun _ => okWf_ok (memWf_nextPo (memWf_onDev (memWf_useSpot hs)))

theorem nextWf_execAmo {op d a b det m} : NextWf (execAmo op d a b det m s) := by
  unfold execAmo
  refine nextWf_finish h ?_
  refine okWf_skip fun x => ?_
  split
  · exact okWf_postReduction h
  · exact okWf_skip fun _ => okWf_bind (okWf_performAtomic h) fun ⟨_, _⟩ hs => okWf_ok (memWf_setS hs)

end

/-! ### Machine/System.lean -/

section
variable {s : State} (h : MemWf s)
include h

theorem memWf_arrive {k} : MemWf (arrive k s) := memWf_nextPo (memWf_onGang h)

theorem memWf_barReturnOn {n k} : MemWf (barReturnOn n k s) := memWf_onTile h

theorem memWf_barReturn {k} : MemWf (barReturn k s) := memWf_barReturnOn h

theorem nextWf_execBar {k} : NextWf (execBar k s) := by
  unfold execBar
  dsimp only
  split
  · exact nextWf_next (memWf_stopShort h)
  · split
    · exact nextWf_next (memWf_advance (memWf_barReturn h))
    · exact nextWf_next (memWf_blockOn (memWf_onFocus (memWf_arrive h)))

theorem memWf_closeCopies {vis ch t} : MemWf (closeCopies vis ch t s) := memWf_closeMarks h

theorem memWf_popOrder {x} : MemWf (popOrder x s) := by
  unfold popOrder
  dsimp only
  split
  · exact memWf_nextPo (memWf_onFocus (memWf_onOrd (memWf_closeMarks h)))
  · exact memWf_ite (memWf_closeMarks h) h

theorem nextWf_execPopq {d q} : NextWf (execPopq d q s) := by
  unfold execPopq
  refine nextWf_finish h ?_
  split
  · exact okWf_error
  · dsimp only
    split
    · exact okWf_skip fun _ => okWf_ok (memWf_setS (memWf_popOrder (memWf_onFocus h)))
    · exact okWf_ok (memWf_setS (memWf_popOrder (memWf_onFocus h)))

theorem nextWf_execPeekq {d q} : NextWf (execPeekq d q s) := by
  unfold execPeekq
  refine nextWf_finish h ?_
  split
  · exact okWf_error
  · exact okWf_ok (memWf_setS h)

theorem someWf_pasidWrite {fn pasid addr bs} : SomeWf id (pasidWrite fn pasid addr bs s) := by
  induction bs generalizing addr s with
  | nil => exact someWf_some h
  | cons b bs ih =>
    refine someWf_skip fun _ => ih ?_
    exact memWf_onDev h fun _ hd => ⟨hd.1, Memory.write_wf _ _ hd.2⟩

theorem memWf_queueError {q code} : MemWf (queueError q code s) := memWf_onQueue h

theorem someWf_writeSlot {q i bytes} : SomeWf id (writeSlot q i bytes s) := by
  unfold writeSlot
  refine someWf_ite (someWf_pasidWrite h) ?_
  split
  · split
    · exact someWf_some (okWf_devWrite h _ ‹_›)
    · exact someWf_none
  · exact someWf_none

theorem memWf_appendRecord {d q bytes} : MemWf (appendRecord d q bytes s) := by
  unfold appendRecord
  split
  · exact memWf_setS (memWf_onQueue (someWf_writeSlot h _ ‹_›))
  · exact memWf_setS (memWf_queueError h)

theorem nextWf_execLaunch {d a b} : NextWf (execLaunch d a b s) := by
  unfold execLaunch
  refine nextWf_finish h ?_
  iterate 3 refine okWf_skip fun _ => ?_
  refine okWf_bind (okWf_coherentBytes h) fun ⟨_, _⟩ hs => ?_
  dsimp only
  split
  · exact okWf_ok (memWf_setS hs)
  · exact okWf_ok (memWf_appendRecord hs)

theorem nextWf_execRdid {d n} : NextWf (execRdid d n s) :=
  nextWf_ite (nextWf_finish h (okWf_ok (memWf_setS h))) (nextWf_finish h okWf_error)

end

/-! ### Machine/Copies.lean -/

section
variable {s : State} (h : MemWf s)
include h

theorem okWf_issueCopy {ch body d reply} : OkWf id (issueCopy ch body d reply s) :=
  okWf_bind (okWf_issue h) fun _ hs => okWf_ok (memWf_setS (memWf_takeId hs))

theorem nextWf_execLoadCopy {d a b ring x} : NextWf (execLoadCopy d a b ring x s) := by
  unfold execLoadCopy
  refine nextWf_finishIssue h ?_
  iterate 4 refine okWf_skip fun _ => ?_
  dsimp only
  split
  · iterate 5 refine okWf_skip fun _ => ?_
    exact okWf_issueCopy (memWf_useDesc h)
  · refine okWf_skip fun _ => ?_
    refine okWf_skip fun _ => ?_
    split
    · exact okWf_skip fun _ => okWf_skip fun _ => okWf_skip fun _ => okWf_issueCopy (memWf_useDesc h)
    · exact okWf_skip fun _ => okWf_skip fun _ => okWf_skip fun _ => okWf_issueCopy (memWf_useDesc h)

theorem nextWf_execCpyf {d a b c nd x} : NextWf (execCpyf d a b c nd x s) := by
  unfold execCpyf
  refine nextWf_finishIssue h ?_
  iterate 4 refine okWf_skip fun _ => ?_
  dsimp only
  split
  · exact okWf_skip fun _ => okWf_skip fun _ => okWf_skip fun _ => okWf_issueCopy (memWf_useDesc h)
  · iterate 7 refine okWf_skip fun _ => ?_
    exact okWf_issueCopy (memWf_useDesc h)

theorem memWf_setRing {n r x} : MemWf (setRing n r x s) := memWf_onTile h

theorem memWf_closeSlot {o id n x k po} : MemWf (closeSlot o id n x k po s) := memWf_onDev h

theorem nextWf_execRfree {ring} : NextWf (execRfree ring s) := by
  unfold execRfree
  refine nextWf_finish h ?_
  refine okWf_skip fun x => ?_
  split
  · exact okWf_error
  · exact okWf_ok (memWf_nextPo (memWf_setRing h))

end

/-! ### Machine/Engines.lean -/

section
variable {s : State} (h : MemWf s)
include h

theorem memWf_useAll {w u ps} : MemWf (useAll w u ps s) := memWf_foldl h fun _ _ hs => memWf_useSpot hs

theorem okWf_engRead {a w sp addr n} : OkWf Prod.fst (engRead a w sp addr n s) :=
  okWf_skip fun _ => okWf_skip fun _ => okWf_skip fun _ => okWf_bind (okWf_perform h) fun _ hs => okWf_ok
      (memWf_useAll hs)

theorem memWf_putSpots {w ps x} : MemWf (putSpots w ps x s) := by
  induction ps generalizing x s with
  | nil => exact h
  | cons p ps ih => exact ih (memWf_putPiece h)

theorem memWf_clearSpots {ps} : MemWf (clearSpots ps s) := memWf_foldl h fun _ _ hs => memWf_plainWrite hs

theorem okWf_engWrite {a w sp fmtOk addr x} : OkWf id (engWrite a w sp fmtOk addr x s) := by
  unfold engWrite
  refine okWf_skip fun ps => ?_
  split
  · exact okWf_error
  · exact okWf_bind (okWf_perform h) fun _ hs => okWf_ok (memWf_putSpots (memWf_clearSpots (memWf_useAll hs)))

theorem okWf_readSpots {a w fmtOk ps} : OkWf Prod.fst (readSpots a w fmtOk ps s) := by
  unfold readSpots
  split
  · exact okWf_error
  · exact okWf_skip fun _ => okWf_skip fun _ => okWf_bind (okWf_perform h) fun _ hs => okWf_ok (memWf_useAll hs)

theorem okWf_engUpdate {a w sp fmtOk addr n f} : OkWf id (engUpdate a w sp fmtOk addr n f s) := by
  unfold engUpdate
  refine okWf_skip fun ps => ?_
  split
  · exact okWf_error
  · exact okWf_skip fun _ => okWf_skip fun _ => okWf_bind (okWf_perform h) fun _ hs => okWf_ok (memWf_putSpots
      (memWf_useAll hs))

theorem okWf_sourceExponent {a w ps addr} : OkWf Prod.fst (sourceExponent a w ps addr s) := by
  unfold sourceExponent
  split
  · exact okWf_skip fun _ => okWf_bind (okWf_readSpots h) fun ⟨_, _⟩ hs => okWf_ok hs
  · exact okWf_ok h

theorem okWf_sourceRaw {a w d bits t} : OkWf Prod.fst (sourceRaw a w d bits t s) :=
  okWf_skip fun _ => okWf_skip fun _ => okWf_bind (okWf_readSpots h) fun ⟨_, _⟩ hs => okWf_ok hs

theorem okWf_sourceElem {a w d f rm t} : OkWf Prod.fst (sourceElem a w d f rm t s) := by
  unfold sourceElem
  refine okWf_bind (okWf_sourceRaw h) fun ⟨_, _⟩ hs => ?_
  dsimp only
  split
  · exact okWf_ok hs
  · split
    · exact okWf_error
    · refine okWf_ite (okWf_ok hs) ?_
      split
      · exact okWf_error
      · exact okWf_ite (okWf_bind (okWf_sourceExponent hs) fun ⟨_, _⟩ hs => okWf_ok hs) (okWf_ok hs)

theorem memWf_setHeld {n e c h'} : MemWf (setHeld n e c h' s) := by
  unfold setHeld
  dsimp only
  split
  · exact memWf_dropServing (memWf_onCmd h)
  · exact memWf_onCmd h

theorem memWf_holdCmd {n e c st} : MemWf (holdCmd n e c st s) := by
  unfold holdCmd
  split
  · exact memWf_setHeld h
  · exact h
  · split
    · exact memWf_setHeld h
    · exact memWf_setHeld (someWf_askService h (_, _) ‹_›)

theorem memWf_orHold {n e c r} (hr : OkWf id r) : MemWf (orHold n e c s r) := by
  cases r with
  | ok t => exact hr t rfl
  | error st => exact memWf_holdCmd h

theorem memWf_cmdSubst {n c b} : MemWf (cmdSubst n c b s) := memWf_ite (memWf_setSubstOn h) h

theorem memWf_chargeCmd {n k pj} : MemWf (chargeCmd n k pj s) := memWf_onTelemetry (memWf_onTile h)

theorem memWf_finishCmd {n e c entry pj} : MemWf (finishCmd n e c entry pj s) :=
  memWf_postReply (memWf_chargeCmd (memWf_popCmd h))

end

/-! ### Machine/Matrix.lean -/

section
variable {s : State} (h : MemWf s)
include h

theorem okWf_issueMma {gang d a b c o tdi reply} : OkWf id (issueMma gang d a b c o tdi reply s) := by
  unfold issueMma
  split
  · exact okWf_error
  · iterate 9 refine okWf_skip fun _ => ?_
    dsimp only
    split
    · iterate 2 refine okWf_skip fun _ => ?_
      exact okWf_bind (okWf_issue h) fun _ hs => okWf_ok (memWf_ite (memWf_setSubst hs) hs)
    · iterate 2 refine okWf_skip fun _ => ?_
      exact okWf_bind (okWf_issue (memWf_useDesc h)) fun _ hs => okWf_ok (memWf_ite (memWf_setSubst hs) hs)

theorem okWf_readPieces {q n sp ps} : OkWf Prod.fst (readPieces q n sp ps s) := by
  induction ps generalizing s with
  | nil => exact okWf_ok h
  | cons p ps ih =>
    exact okWf_bind (okWf_engRead h) fun p hp => okWf_bind (ih hp) fun q hq => okWf_ok hq

theorem okWf_operandRow {q n sp o t k j} : OkWf Prod.fst (operandRow q n sp o t k j s) := by
  unfold operandRow
  split
  · exact okWf_ok h
  · exact okWf_readPieces h

theorem okWf_rowExponents {q n c j} : OkWf Prod.fst (rowExponents q n c j s) :=
  okWf_ite (okWf_readPieces h) (okWf_ok h)

theorem okWf_operandVals {q n c o t j} : OkWf Prod.fst (operandVals q n c o t j s) := by
  unfold operandVals
  refine okWf_bind (okWf_operandRow h) fun ⟨_, _⟩ hs => ?_
  dsimp only
  split
  · exact okWf_bind (okWf_rowExponents hs) fun ⟨_, _⟩ hs => okWf_ok hs
  · exact okWf_bind (okWf_ok hs) fun ⟨_, _⟩ hs => okWf_ok hs

theorem okWf_operandRows {q n c o t js} : OkWf Prod.fst (operandRows q n c o t js s) := by
  induction js generalizing s with
  | nil => exact okWf_ok h
  | cons j js ih =>
    exact okWf_bind (okWf_operandVals h) fun p hp => okWf_bind (ih hp) fun q hq => okWf_ok hq

theorem memWf_passUnclean {n q c droop} : MemWf (passUnclean n q c droop s) :=
  memWf_ite (memWf_holdCmd (memWf_onCmd h)) (memWf_onTelemetry (memWf_onCmd (memWf_onCmd h)))

theorem memWf_runPass {n q c check} : MemWf (runPass n q c check s) := by
  unfold runPass
  split
  · exact h
  · refine memWf_orHold h ?_
    refine okWf_bind (okWf_operandRows h) fun ⟨_, _⟩ hs => ?_
    refine okWf_bind (okWf_operandRows hs) fun ⟨t, _⟩ hs => ?_
    dsimp only
    split
    · exact okWf_ok (memWf_passUnclean hs)
    · exact okWf_ok (memWf_passUnclean hs)
    · have hw := fun {c rows cols a b} =>
        memWf_setTile (n := n) hs (tileWf_writeBack (c := c) (rows := rows) (cols := cols) (a := a) (b := b)
            (tileWf_tileAt hs n))
      split
      · exact okWf_ok (memWf_onCmd (memWf_cmdSubst hw))
      · exact okWf_ok (memWf_finishCmd (memWf_cmdSubst hw))

end

end Sys2Proof.Machine
end

section
/-!
PROOFS. Canonical memories (R68, R69): the copy channels, collectives, fetch, the fibre engine, stream ports and contexts.
-/

namespace Sys2Proof.Machine

open Sys2Proof

set_option Elab.async false

/-! ### Machine/CopySteps.lean -/

section
variable {s : State} (h : MemWf s)
include h

theorem someWf_claimSlot {n r id c} : SomeWf (·.2.2) (claimSlot n r id c s) := by
  unfold claimSlot
  split
  · exact someWf_none
  · exact someWf_ite someWf_none (someWf_some (memWf_setRing h))

theorem memWf_copyStart {n e} : MemWf (copyStart n e s) := by
  unfold copyStart
  split
  · exact h
  · split
    · exact h
    · split
      · exact memWf_onCmd h
      · split
        · exact h
        · split
          · dsimp only
            split
            · split
              · exact h
              · exact memWf_holdCmd h
            · exact memWf_onCmd (someWf_ite (someWf_claimSlot h) someWf_none _ ‹_›)
          · exact memWf_onCmd h
      · exact h

theorem okWf_localRead {a w at_ bits} : OkWf Prod.fst (localRead a w at_ bits s) :=
  okWf_bind (okWf_engRead h) fun ⟨_, _⟩ hs => okWf_ok hs

theorem okWf_localWrite {a w at_ bits v} : OkWf id (localWrite a w at_ bits v s) := okWf_engWrite h

theorem okWf_copySource {n c x i} : OkWf Prod.fst (copySource n c x i s) := by
  unfold copySource
  refine okWf_ite (okWf_bind (okWf_localRead h) fun ⟨_, _⟩ hs => okWf_ok hs) ?_
  split
  · split
    · exact okWf_error
    · exact okWf_skip fun _ => okWf_bind (okWf_readSpots h) fun ⟨_, _⟩ hs => okWf_ok hs
  · split
    · exact okWf_sourceElem h
    · exact okWf_bind (okWf_sourceRaw h) fun ⟨_, _⟩ hs => okWf_skip fun _ => okWf_ok hs

theorem okWf_copyDest {n c x i v} : OkWf id (copyDest n c x i v s) := by
  unfold copyDest
  exact okWf_engWrite h

omit h in
theorem okWf_wholeReport {n c write r} (hr : OkWf id r) : OkWf id (wholeReport s n c write r) := by
  unfold wholeReport
  split
  · split
    · split
      · exact okWf_error
      · exact okWf_error
    · exact hr
  · exact hr

theorem memWf_sendStage {n e k seq} : MemWf (sendStage n e k seq s) := by
  unfold sendStage
  split
  · exact h
  · split
    · split
      · exact memWf_enterPort h
      · exact h
    · exact h

theorem memWf_postReturn {n c x i v} : MemWf (postReturn n c x i v s) := by
  unfold postReturn
  dsimp only
  split
  · exact memWf_ite h (memWf_postFlit h)
  · exact memWf_postPort h

theorem memWf_returnRead {n id i} : MemWf (returnRead n id i s) := by
  unfold returnRead
  split
  · exact h
  · exact memWf_orHold h (okWf_wholeReport (okWf_bind (okWf_copySource h) fun ⟨_, _⟩ hs => okWf_ok (memWf_postReturn
      (memWf_onCmd hs))))

theorem memWf_copyReadElem {n ch id i} : MemWf (copyReadElem n ch id i s) := by
  unfold copyReadElem
  split
  · exact memWf_ite (memWf_returnRead h) h
  · dsimp only
    split
    · split
      · exact h
      · exact memWf_orHold h (okWf_wholeReport (okWf_bind (okWf_copySource h) fun ⟨_, _⟩ hs => okWf_ok
          (memWf_sendStage (memWf_onCmd hs))))
    · refine memWf_ite h ?_
      refine memWf_orHold h ?_
      refine okWf_wholeReport ?_
      split
      · exact okWf_bind (okWf_localRead h) fun ⟨_, _⟩ hs => okWf_ok (memWf_onCmd hs)
      · exact okWf_ok (memWf_onCmd h)
    · exact h

theorem memWf_accSubst {n c x i} : MemWf (accSubst n c x i s) := memWf_ite (memWf_cmdSubst h) h

theorem memWf_copyWriteElem {n ch id i} : MemWf (copyWriteElem n ch id i s) := by
  unfold copyWriteElem
  split
  · exact h
  · dsimp only
    split
    · refine memWf_ite h ?_
      refine memWf_orHold h ?_
      refine okWf_wholeReport ?_
      split
      · exact okWf_bind (okWf_localWrite h) fun _ hs => okWf_ok (memWf_onCmd hs)
      · exact okWf_bind (okWf_copyDest h) fun _ hs => okWf_ok (memWf_onCmd hs)
    · split
      · exact memWf_accSubst (memWf_onCmd (memWf_onTile h (fun _ ht => tileWf_accWrite ht)))
      · exact memWf_orHold h (okWf_wholeReport (okWf_bind (okWf_localWrite h) fun _ hs => okWf_ok (memWf_accSubst
          (memWf_onCmd hs))))
    · exact h

theorem memWf_copyPrint {n id} : MemWf (copyPrint n id s) := by
  unfold copyPrint
  split
  · exact h
  · split
    · split
      · exact memWf_ite (memWf_orHold h (okWf_bind (okWf_engWrite h) fun _ hs => okWf_ok (memWf_onCmd hs))) h
      · exact h
    · exact h

theorem okWf_stageDone {n c x region port m beats} : OkWf id (stageDone n c x region port m beats s) :=
  okWf_skip fun _ => okWf_ok (memWf_sendStage (memWf_onCmd h))

theorem memWf_beatToCopy {n ch id b} : MemWf (beatToCopy n ch id b s) := by
  unfold beatToCopy
  split
  · exact h
  · split
    · split
      · exact h
      · refine memWf_ite h ?_
        split
        · exact memWf_holdCmd h
        · exact memWf_ite (memWf_orHold h (okWf_stageDone (memWf_dropServing h))) (memWf_onCmd h)
    · exact h

theorem memWf_toFlight {n e c kind id pj} : MemWf (toFlight n e c kind id pj s) :=
  memWf_onTile (memWf_ite (memWf_popCmd h) (memWf_finishCmd h))

theorem memWf_issueFinish {n e} : MemWf (issueFinish n e s) := by
  unfold issueFinish
  split
  · exact h
  · split
    · exact memWf_ite (memWf_toFlight h) h
    · exact h

theorem memWf_accStep {n c x} : MemWf (accStep n c x s) :=
  memWf_ite (memWf_onCmd h) (memWf_ite (memWf_toFlight (memWf_cmdSubst h)) h)

theorem memWf_sourceReadDone {n ch id} : MemWf (sourceReadDone n ch id s) := by
  unfold sourceReadDone
  dsimp only
  split
  · exact h
  · exact memWf_ite h (memWf_onTile h (fun _ ht => tileWf_onChan ht))

theorem memWf_landCopy {n c} : MemWf (landCopy n c s) := by
  unfold landCopy
  split
  · split
    · split
      · split
        · exact memWf_setRing h
        · exact h
      · exact h
    · exact h
  · exact h

theorem memWf_copyVisible {n ch id} : MemWf (copyVisible n ch id s) := by
  unfold copyVisible
  dsimp only
  split
  · exact h
  · split
    · exact memWf_landCopy (memWf_cmdSubst (memWf_ite (memWf_onTile (memWf_onTile h) (fun _ ht => tileWf_onChan ht))
        (memWf_onTile h)))
    · exact h

theorem memWf_matrixStep {n check} : MemWf (matrixStep n check s) := by
  have ht := tileWf_tileAt h n
  unfold matrixStep
  split
  · exact h
  · split
    · exact memWf_runPass h
    · exact memWf_accStep h
    · exact memWf_finishCmd (memWf_setTile h (tileWf_foldl_accWrite ht))
    · exact memWf_finishCmd (memWf_cmdSubst (memWf_setTile h (tileWf_mapWindow ht)))
    · exact h

end

/-! ### Machine/CollSteps.lean -/

section
variable {s : State} (h : MemWf s)
include h

theorem memWf_collWrite {n c x i v} : MemWf (collWrite n c x i v s) := by
  unfold collWrite
  split
  · exact memWf_putSpots (memWf_clearSpots (memWf_useAll h))
  · exact h

theorem memWf_collMark {n c x ranks r} : MemWf (collMark n c x ranks r s) := by
  unfold collMark
  refine memWf_foldl h fun _ _ hs => ?_
  dsimp only
  split
  · split
    · refine memWf_mark ?_
      split
      · split
        · exact memWf_mark (memWf_useAll hs)
        · exact hs
      · exact hs
    · split
      · split
        · exact memWf_mark (memWf_useAll hs)
        · exact hs
      · exact hs
  · split
    · split
      · exact memWf_mark (memWf_useAll hs)
      · exact hs
    · exact hs

theorem memWf_postCollReply {n c entry} : MemWf (postCollReply n c entry s) := by
  unfold postCollReply
  split
  · exact h
  · exact memWf_ite (memWf_postPort h) (memWf_postReply h)

theorem memWf_collFinish {gain m} : MemWf (collFinish gain m s) := by
  unfold collFinish
  dsimp only
  split
  · exact h
  · split
    · exact memWf_onTile (memWf_postCollReply (memWf_chargeCmd (memWf_popCmd h)))
    · exact memWf_postCollReply (memWf_chargeCmd (memWf_popCmd h))

theorem memWf_holdAll {st ms} : MemWf (holdAll st ms s) := memWf_foldl h fun _ _ hs => memWf_holdCmd hs

theorem memWf_collComplete {n} : MemWf (collComplete n s) := by
  unfold collComplete
  split
  · exact h
  · split
    · exact h
    · dsimp only
      split
      · exact h
      · refine memWf_ite h ?_
        refine memWf_ite (memWf_holdAll h) ?_
        split
        · exact memWf_holdCmd h
        · refine memWf_foldl ?_ fun _ _ hs => ?_
          · refine memWf_foldl ?_ fun _ _ hs => ?_
            · refine memWf_foldl h fun _ _ hs => ?_
              split
              · exact hs
              · exact memWf_foldl hs fun _ _ hs => memWf_ite (memWf_collWrite hs) hs
            · split
              · exact memWf_collMark hs
              · exact hs
          · exact memWf_collFinish hs

theorem memWf_scramble {n c x} : MemWf (scramble n c x s) :=
  memWf_foldl h fun _ _ hs => memWf_ite hs (memWf_ite hs (memWf_collWrite hs))

theorem memWf_participantLost {n} : MemWf (participantLost n s) := by
  unfold participantLost
  split
  · exact h
  · split
    · exact h
    · exact memWf_ite (memWf_holdCmd (memWf_scramble (memWf_onDev h))) h

end

/-! ### Machine/Fetch.lean -/

section
variable {s : State} (h : MemWf s)
include h

theorem okWf_fetchEntry {vpc} : OkWf Prod.fst (fetchEntry s vpc) := by
  unfold fetchEntry
  split
  · exact okWf_error
  · split
    · exact okWf_map (fun _ _ => h) fun _ hs => memWf_onFocus hs
    · exact okWf_error

theorem okWf_fetch : OkWf Prod.fst (fetch s) := by
  unfold fetch
  dsimp only
  split
  · split
    · exact okWf_map (fun _ _ => h) fun _ hs => hs
    · exact okWf_fetchEntry h
  · exact okWf_fetchEntry h

theorem memWf_quarantineRoot {t} : MemWf (quarantineRoot t s) := memWf_onDev h

theorem memWf_quarantineFor {e} : MemWf (quarantineFor e s) := by
  unfold quarantineFor
  split
  · exact memWf_ite (memWf_quarantineRoot h) h
  · exact h

theorem memWf_fetchStop {e} : MemWf (fetchStop e s) := memWf_stopShort (memWf_quarantineFor h)

theorem memWf_tick : MemWf (tick s) :=
  ⟨h.1, tileWf_tickTile h.2.1, List.forall_mem_map.2 fun e he => tileWf_tickTile (h.2.2 e he)⟩

theorem memWf_withFetch {w} : MemWf (withFetch w s) := by
  unfold withFetch
  dsimp only
  split
  · exact memWf_onFocus h
  · exact memWf_onFocus (memWf_onDev h)

end

/-! ### Machine/Fibre.lean -/

section
variable {s : State} (h : MemWf s)
include h

theorem okWf_issueConfig {slot c} : OkWf id (issueConfig slot c s) :=
  okWf_skip fun _ => okWf_bind (okWf_issue h) fun _ hs => okWf_ok (memWf_onFocus hs)

theorem memWf_useDescs {tdi n} : MemWf (useDescs tdi n s) := memWf_foldl h fun _ _ hs => memWf_useDesc hs

theorem nextWf_execFscan {u d a fmt root uniq tdi} : NextWf (execFscan u d a fmt root uniq tdi s) := by
  unfold execFscan
  refine nextWf_finishIssue h ?_
  refine okWf_skip fun _ => ?_
  refine okWf_skip fun _ => ?_
  dsimp only
  split
  · exact okWf_skip fun _ => okWf_skip fun _ => okWf_issueConfig (memWf_useDescs h)
  · exact okWf_skip fun _ => okWf_skip fun _ => okWf_skip fun _ => okWf_issueConfig (memWf_useDescs h)
  · refine okWf_skip fun x => ?_
    refine okWf_skip fun y => ?_
    split
    · exact okWf_skip fun _ => okWf_issueConfig (memWf_useDescs h)
    · exact okWf_skip fun _ => okWf_skip fun _ => okWf_issueConfig (memWf_useDescs h)
  · exact okWf_skip fun _ => okWf_skip fun _ => okWf_issueConfig (memWf_useDescs h)

theorem okWf_reserveSinks {qs} : OkWf id (reserveSinks qs s) := by
  induction qs generalizing s with
  | nil => exact okWf_ok h
  | cons q qs ih => exact okWf_bind (okWf_reserveReply h) fun _ hs => ih hs

theorem memWf_releaseReply {n k q} : MemWf (releaseReply n k q s) := memWf_ite (memWf_onTile h) h

theorem memWf_releaseSinks {n k cfg} : MemWf (releaseSinks n k cfg s) :=
  memWf_foldl h fun _ _ hs => memWf_releaseReply hs

theorem memWf_endRun {n c entry} : MemWf (endRun n c entry s) := memWf_onTile (memWf_postReply (memWf_popCmd h))

theorem memWf_failRun {n c seq cause cfg killed} : MemWf (failRun n c seq cause cfg killed s) :=
  memWf_endRun (memWf_releaseSinks h)

theorem memWf_discardFibre {n k} : MemWf (discardFibre n k s) := by
  unfold discardFibre
  refine memWf_onTile ?_
  refine memWf_foldl h fun _ _ hs => ?_
  split
  · dsimp only
    split
    · exact memWf_releaseReply (memWf_releaseSinks hs)
    · exact memWf_releaseSinks hs
  · exact hs

end

/-! ### Machine/FibreSteps.lean -/

section
variable {s : State} (h : MemWf s)
include h

theorem memWf_setRun {n r} : MemWf (setRun n r s) := memWf_onTile h

theorem memWf_stepUnit {n slot} : MemWf (stepUnit n slot s) := by
  unfold stepUnit
  split
  · exact h
  · split
    · exact h
    · split
      · exact memWf_holdCmd h
      · exact memWf_holdCmd h
      · split
        · exact memWf_holdCmd h
        · dsimp only
          split
          · exact memWf_onTile (memWf_setRun h)
          · exact memWf_setRun h
        · exact h
      · exact h

theorem memWf_holdUnit {n slot c st} : MemWf (holdUnit n slot c st s) := by
  unfold holdUnit
  split
  · exact memWf_holdCmd h
  · exact h
  · split
    · exact memWf_holdCmd h
    · split
      · exact memWf_setRun (someWf_askService h (_, _) ‹_›)
      · exact someWf_askService h (_, _) ‹_›

theorem okWf_readFor {n cmd fn which ix} : OkWf Prod.fst (readFor n cmd fn which ix s) := by
  unfold readFor
  split
  · exact okWf_ok h
  · exact okWf_skip fun _ => okWf_bind (okWf_sourceElem h) fun ⟨_, _⟩ hs => okWf_ok hs

theorem memWf_readReturn {n slot} : MemWf (readReturn n slot s) := by
  unfold readReturn
  split
  · exact h
  · split
    · exact h
    · split
      · split
        · split
          · exact memWf_holdUnit h
          · exact memWf_setRun (okWf_readFor h (_, _) ‹_›)
        · exact h
      · exact h

theorem okWf_destExponent {a w d i} : OkWf Prod.fst (destExponent a w d i s) :=
  okWf_ite (okWf_bind (okWf_engRead h) fun ⟨_, _⟩ hs => okWf_ok hs) (okWf_ok h)

theorem okWf_writeElem {n cmd mode t d rm i v} : OkWf Prod.fst (writeElem n cmd mode t d rm i v s) := by
  unfold writeElem
  split
  · exact okWf_skip fun _ => okWf_error
  · refine okWf_skip fun _ => ?_
    dsimp only
    split
    · exact okWf_bind (okWf_engUpdate h) fun _ hs => okWf_ok hs
    · exact okWf_bind (okWf_destExponent h) fun ⟨_, _⟩ hs => okWf_bind (okWf_engWrite hs) fun _ hs => okWf_ok hs

theorem okWf_performSend {n cmd fn i v} : OkWf Prod.fst (performSend n cmd fn i v s) := by
  unfold performSend
  split
  · exact okWf_writeElem h
  · exact okWf_bind (okWf_engWrite h) fun _ hs => okWf_ok hs
  · exact okWf_ok h

theorem memWf_performFibre {n slot} : MemWf (performFibre n slot s) := by
  unfold performFibre
  split
  · exact h
  · split
    · exact h
    · dsimp only
      split
      · exact h
      · split
        · split
          · exact memWf_holdUnit h
          · exact memWf_setRun (okWf_performSend h (_, _) ‹_›)
        · exact h

theorem memWf_stallExpiry {n} : MemWf (stallExpiry n s) := by
  unfold stallExpiry
  split
  · exact h
  · exact memWf_ite h (memWf_holdCmd h)

theorem memWf_configApply {n} : MemWf (configApply n s) := by
  unfold configApply
  split
  · split
    · exact memWf_ite (memWf_onTile (memWf_popCmd h)) (memWf_popCmd h)
    · exact h
  · exact h

theorem memWf_runStart {n} : MemWf (runStart n s) := by
  unfold runStart
  split
  · split
    · exact memWf_setRun (memWf_onCmd h)
    · exact h
  · exact h

theorem memWf_postSinks {n k r cfg} : MemWf (postSinks n k r cfg s) := by
  unfold postSinks
  refine memWf_foldl h fun _ _ hs => ?_
  split
  · exact memWf_postReply hs
  · exact hs

theorem memWf_failGo {n c seq cause cfg killed} : MemWf (failGo n c seq cause cfg killed s) := by
  unfold failGo
  refine memWf_failRun ?_
  split
  · exact memWf_cmdSubst h
  · exact h

theorem memWf_runFinish {n} : MemWf (runFinish n s) := by
  unfold runFinish
  split
  · split
    · exact h
    · exact memWf_ite (memWf_failGo h) (memWf_ite (memWf_endRun (memWf_postSinks (memWf_cmdSubst h))) h)
  · exact h

theorem memWf_finishHeldGo {n} : MemWf (finishHeldGo n s) := by
  unfold finishHeldGo
  split
  · split
    · exact memWf_ite (memWf_failGo h) h
    · exact h
  · exact h

theorem memWf_performSends {n slot k} : MemWf (performSends n slot k s) := by
  induction k generalizing s with
  | zero => exact h
  | succ k ih => exact ih (memWf_performFibre h)

theorem memWf_killRun : MemWf (killRun s) := by
  unfold killRun
  split
  · exact memWf_ite (memWf_runFinish (memWf_foldl (memWf_setRun h) fun _ _ hs => memWf_performSends hs)) h
  · exact h

end

/-! ### Machine/Ports.lean -/

section
variable {s : State} (h : MemWf s)
include h

theorem memWf_setPort {p x} : MemWf (setPort p x s) := memWf_onFocus h

theorem nextWf_execPortb {p region rport} : NextWf (execPortb p region rport s) := by
  unfold execPortb
  refine nextWf_finish h ?_
  refine okWf_skip fun _ => ?_
  dsimp only
  split
  · exact okWf_skip fun _ => okWf_skip fun _ => okWf_skip fun _ => okWf_ok (memWf_setPort h)
  · exact okWf_skip fun _ => okWf_skip fun _ => okWf_skip fun _ => okWf_ok (memWf_setPort h)

theorem nextWf_execPortw {p a tok fin} : NextWf (execPortw p a tok fin s) := by
  unfold execPortw
  refine nextWf_finish h ?_
  refine okWf_skip fun _ => ?_
  refine okWf_skip fun _ => ?_
  dsimp only
  split
  · exact okWf_error
  · exact okWf_skip fun _ => okWf_ok (memWf_setPort h)

theorem nextWf_execPortr {p d c} : NextWf (execPortr p d c s) := by
  unfold execPortr
  refine nextWf_finish h ?_
  refine okWf_skip fun _ => ?_
  refine okWf_skip fun _ => ?_
  dsimp only
  split
  · exact okWf_error
  · split
    · exact okWf_error
    · exact okWf_ok (memWf_setS (memWf_ite (memWf_setPort h) (memWf_setV (memWf_setPort h))))

end

/-! ### Machine/Context.lean -/

section
variable {s : State} (h : MemWf s)
include h

theorem memWf_keepContext {bytes o} : MemWf (keepContext bytes o s) := memWf_onDev h

theorem okWf_imageWrite {addr bytes} : OkWf id (imageWrite addr bytes s) := okWf_engWrite h

theorem nextWf_execCtxsave {d a b c tdi sealed slot} : NextWf (execCtxsave d a b c tdi sealed slot s) :=
  nextWf_finish h (okWf_skip fun _ => okWf_skip fun _ => okWf_skip fun _ => okWf_skip fun _ => okWf_skip fun _ =>
      okWf_skip fun _ => okWf_skip fun _ => okWf_bind (okWf_imageWrite (memWf_useDesc (memWf_ite
      (memWf_onFn h) h))) fun _ hs => okWf_ok (memWf_setS (memWf_keepContext hs)))

theorem nextWf_execCtxload {tdi sealed slot} : NextWf (execCtxload tdi sealed slot s) := by
  unfold execCtxload
  refine nextWf_finishJump h ?_
  iterate 4 refine okWf_skip fun _ => ?_
  refine okWf_bind (okWf_coherentBytes h) fun ⟨_, _⟩ hs => ?_
  refine okWf_skip fun _ => ?_
  refine okWf_bind (okWf_coherentBytes h) fun ⟨_, _⟩ hs => ?_
  dsimp only
  split
  · iterate 4 refine okWf_skip fun _ => ?_
    exact okWf_ok (memWf_onFocus (memWf_useDesc hs) (fun _ ht => tileWf_imageTile ht))
  · iterate 4 refine okWf_skip fun _ => ?_
    exact okWf_ok (memWf_onFocus (memWf_useDesc hs) (fun _ ht => tileWf_imageTile ht))

end

end Sys2Proof.Machine
end

section
/-!
PROOFS. Canonical memories (R68, R69): stops, service of requests, tasks, placement and objects.
-/

namespace Sys2Proof.Machine

open Sys2Proof

set_option Elab.async false

/-! ### Machine/Stops.lean -/

section
variable {s : State} (h : MemWf s)
include h

theorem memWf_runOn {n} : MemWf (runOn n s) := memWf_onTile h

theorem nextWf_execBlockedStrandWake {tile} : NextWf (execBlockedStrandWake tile s) := by
  unfold execBlockedStrandWake
  refine nextWf_next ?_
  split
  · exact memWf_ite (memWf_runOn h) h
  · exact h

theorem nextWf_execRetentionWake {tile} : NextWf (execRetentionWake tile s) := by
  unfold execRetentionWake
  refine nextWf_next ?_
  split
  · exact memWf_runOn (memWf_onTile h)
  · exact h

theorem nextWf_execBarrierInstanceComplete {queue record gang k} : NextWf
    (execBarrierInstanceComplete queue record gang k s) :=
  nextWf_next (memWf_ite (memWf_onGang h) h)

theorem memWf_withdraw {retires n} : MemWf (withdraw retires n s) := by
  unfold withdraw
  split
  · exact memWf_ite (memWf_onTile (memWf_onGang h)) (memWf_ite (memWf_onTile (memWf_barReturnOn h)) h)
  · exact h

theorem memWf_dropFrom {n e k seq} : MemWf (dropFrom n e k seq s) := by
  have hq : MemWf (onTile n (fun t => { setEngQueue e ((engQueue t e).filter fun c => !(c.owner == k && decide
      (seq ≤ c.seq))) t with
      flight := t.flight.filter fun c => !(flightEng c == e && c.owner == k && c.seq == seq) }) s) :=
    memWf_onTile h fun _ ht => tileWf_setEngQueue ht
  unfold dropFrom
  refine memWf_reapServing ?_
  split
  · exact memWf_onTile hq
  · exact hq

theorem memWf_afterDelivery {n e k c t} : MemWf (afterDelivery n e k c t s) :=
  memWf_ite (memWf_onCmd h) (memWf_dropFrom h)

theorem memWf_deliverFault {n k e c t} : MemWf (deliverFault n k e c t s) :=
  memWf_afterDelivery (memWf_takeTrap (memWf_withdraw h))

theorem memWf_deliverAsync {n} : MemWf (deliverAsync n s) := by
  unfold deliverAsync
  split
  · exact h
  · exact memWf_takeTrap (memWf_onTile (memWf_withdraw h))

theorem memWf_quotaStop {n} : MemWf (quotaStop n s) := by
  unfold quotaStop
  split
  · exact h
  · exact memWf_onTile (memWf_writeRecord (memWf_withdraw h))

theorem memWf_noteStop {n} : MemWf (noteStop n s) := memWf_onTile h

theorem memWf_forceStop {n k why} : MemWf (forceStop n k why s) :=
  memWf_onTile (memWf_noteStop (memWf_writeRecord (memWf_withdraw h)))

theorem someWf_boundaryStop : SomeWf id (boundaryStop s) := by
  refine someWf_ite (someWf_some (memWf_forceStop h)) ?_
  split
  · exact someWf_some (memWf_deliverFault h)
  · split
    · exact someWf_some (memWf_deliverAsync h)
    · split
      · exact someWf_some (memWf_quotaStop h)
      · exact someWf_none

theorem memWf_deliverEnded {n e c t} : MemWf (deliverEnded n e c t s) := by
  unfold deliverEnded
  dsimp only
  split
  · exact memWf_stopTask (memWf_dropFrom (memWf_noteCause (memWf_writeRecord h)))
  · split
    · exact memWf_stopGang (memWf_dropFrom (memWf_noteCause (memWf_writeRecord h)))
    · exact memWf_dropFrom (memWf_noteCause (memWf_writeRecord h))

theorem nextWf_execDeferredFaultDelivery {tile} : NextWf (execDeferredFaultDelivery tile s) := by
  unfold execDeferredFaultDelivery
  refine nextWf_next ?_
  split
  · exact memWf_deliverFault h
  · split
    · exact memWf_deliverEnded h
    · exact h

theorem nextWf_execAsyncTrapDelivery {tile} : NextWf (execAsyncTrapDelivery tile s) :=
  nextWf_next (memWf_ite (memWf_deliverAsync h) h)

theorem memWf_raiseAsync {n t} : MemWf (raiseAsync n t s) := memWf_ite (memWf_onTile h) h

theorem memWf_raiseAll {p t} : MemWf (raiseAll p t s) := by
  refine memWf_onTiles h fun _ x hx => ?_
  split
  · split
    · exact hx
    · exact hx
  · exact hx

theorem memWf_chargeTask {k pj} : MemWf (chargeTask k pj s) := memWf_onTask h

theorem nextWf_execQuotaExhaustionNotice {tile} : NextWf (execQuotaExhaustionNotice tile s) := by
  unfold execQuotaExhaustionNotice
  refine nextWf_next ?_
  split
  · exact memWf_ite (memWf_onTile (memWf_onTask h)) h
  · exact h

theorem memWf_moveAll {a b} : MemWf (moveAll a b s) := memWf_onDev (memWf_onTiles h)

theorem memWf_holdAtPeers {k} : MemWf (holdAtPeers k s) := memWf_foldl h fun _ _ hs => memWf_onNet hs

theorem memWf_saveTile {n vellum why} : MemWf (saveTile n vellum why s) := by
  have ht := tileWf_tileAt h n
  unfold saveTile
  split
  · exact h
  · refine memWf_holdAtPeers (memWf_setMember (memWf_onGang ?_))
    refine memWf_onTask (memWf_onDev (memWf_moveAll ?_))
    cases vellum
    · refine memWf_dropServing (memWf_setTile (memWf_setTile h ?_) ?_)
      · exact ht
      · exact ht
    · refine memWf_setTile (memWf_setTile h ?_) ?_
      · exact ht
      · exact ht

theorem memWf_takeContext {n why} : MemWf (takeContext n why s) := by
  unfold takeContext
  split
  · exact memWf_ite (memWf_saveTile h) (memWf_onTile (memWf_dropServing h))
  · exact memWf_saveTile h
  · exact memWf_saveTile h
  · exact memWf_saveTile h
  · exact memWf_saveTile h
  · exact memWf_saveTile h

theorem nextWf_execStopForCause {tile} : NextWf (execStopForCause tile s) := by
  unfold execStopForCause
  refine nextWf_next ?_
  split
  · exact memWf_ite (memWf_takeContext h) h
  · exact memWf_ite (memWf_quotaStop h) h
  · exact h

theorem nextWf_execDeadlineExpiry {tile} : NextWf (execDeadlineExpiry tile s) := by
  unfold execDeadlineExpiry
  refine nextWf_next ?_
  split
  · split
    · exact memWf_ite (memWf_forceStop h) h
    · exact h
  · exact h

theorem nextWf_execNiFreeze {tile} : NextWf (execNiFreeze tile s) := nextWf_next (memWf_ite (memWf_onTile h) h)

theorem nextWf_execFreezeAck {tile peer} : NextWf (execFreezeAck tile peer s) := by
  unfold execFreezeAck
  refine nextWf_next ?_
  split
  · exact h
  · split
    · dsimp only
      split
      · exact memWf_ite (memWf_onNet (memWf_onNet h)) (memWf_onNet h)
      · exact memWf_onNet h
    · exact h

theorem memWf_unhold {n k} : MemWf (unhold n k s) := memWf_foldl (memWf_onNet h) fun _ _ hs => memWf_onNet hs

theorem memWf_policyLost {n k} : MemWf (policyLost n k s) := by
  unfold policyLost
  refine memWf_ite (memWf_stopTask h) ?_
  split
  · exact memWf_stopGang h
  · dsimp only
    split
    · exact memWf_signal (memWf_ite (memWf_dropSaved (memWf_unhold h)) (memWf_haltNet (memWf_endStrand
        (memWf_unhold h))))
    · exact memWf_ite (memWf_dropSaved (memWf_unhold h)) (memWf_haltNet (memWf_endStrand (memWf_unhold h)))

theorem memWf_scanParity {n home k} : MemWf (scanParity n home k s) :=
  memWf_policyLost (memWf_noteCause (memWf_writeRecord (memWf_onTelemetry h)))

theorem nextWf_execScanOutComplete {tile parityError} : NextWf (execScanOutComplete tile parityError s) := by
  unfold execScanOutComplete
  refine nextWf_next ?_
  split
  · exact memWf_ite (memWf_ite (memWf_scanParity h) (memWf_saveTile h)) h
  · exact h

theorem memWf_landFlit {n f} : MemWf (landFlit n f s) := by
  unfold landFlit
  split
  · exact memWf_onTile h fun _ ht => ⟨wf_landBytes ht.1, ht.2⟩
  · split
    · exact memWf_copyWriteElem h
    · exact h
  · exact memWf_postReply h
  · exact h

theorem memWf_deliverOne {n} : MemWf (deliverOne n s) := by
  unfold deliverOne
  split
  · exact memWf_ite h (memWf_releaseCredits (memWf_landFlit (memWf_onNet h)))
  · exact h

theorem nextWf_execFlitDelivery {tile} : NextWf (execFlitDelivery tile s) :=
  nextWf_next (memWf_ite h (memWf_deliverOne h))

theorem memWf_reconnect {n} : MemWf (reconnect n s) := memWf_injectHeld (memWf_releaseCredits (memWf_unhold h))

theorem nextWf_execRecon {tile} : NextWf (execRecon tile s) := nextWf_next (memWf_ite (memWf_reconnect h) h)

theorem memWf_placeSaved {x n} : MemWf (placeSaved x n s) := by
  refine memWf_setMember (memWf_onGang (memWf_onDev (memWf_moveAll (memWf_setTile (memWf_forgetTile h) ?_))))
  exact tileWf_tileAt h x.home

end

/-! ### Machine/Service.lean -/

section
variable {s : State} (h : MemWf s)
include h

theorem memWf_meetRels {k rels} : MemWf (meetRels k rels s) := by
  refine memWf_onTiles h fun _ t ht => ?_
  split
  · exact ht
  · exact ht

theorem memWf_ackTo {k} : MemWf (ackTo k s) := by
  unfold ackTo
  split
  · exact memWf_ite (memWf_postPort h) h
  · exact h

theorem memWf_routerPerform {i} : MemWf (routerPerform i s) := by
  unfold routerPerform
  split
  · exact h
  · refine memWf_foldl (memWf_onDev (memWf_foldl (memWf_setPlaceMem h ?_) fun _ _ hs => ?_)) fun _ _ hs =>
      memWf_ackTo hs
    · exact Memory.writeNat_wf _ _ _ (wf_placeMem h)
    · exact memWf_addRels (memWf_meetRels hs)

theorem nextWf_execMemoryAccessPerform {sel} : NextWf (execMemoryAccessPerform sel s) := by
  unfold execMemoryAccessPerform
  refine nextWf_next ?_
  split
  · exact memWf_copyReadElem h
  · exact memWf_copyWriteElem h
  · exact memWf_copyPrint h
  · exact memWf_routerPerform h
  · exact memWf_performFibre h

theorem nextWf_execRouterAmoMerge {i j} : NextWf (execRouterAmoMerge i j s) := by
  unfold execRouterAmoMerge
  refine nextWf_next ?_
  split
  · exact memWf_ite (memWf_onDev h) h
  · exact h

theorem memWf_takeBeat {r j counted buf b} : MemWf (takeBeat r j counted buf b s) := memWf_onRegion h

theorem memWf_beatToRegion {n p} : MemWf (beatToRegion n p s) := by
  unfold beatToRegion
  dsimp only
  split
  · split
    · exact memWf_ite (memWf_takeBeat (memWf_onTile h)) h
    · exact h
  · exact h

theorem memWf_beatToPort {r j} : MemWf (beatToPort r j s) := by
  unfold beatToPort
  dsimp only
  split
  · split
    · exact h
    · exact memWf_ite (memWf_takeBeat (memWf_onRegion h)) h
  · exact h

theorem memWf_beatToTile {n p b} : MemWf (beatToTile n p b s) := by
  unfold beatToTile
  dsimp only
  split
  · split
    · exact memWf_ite (memWf_onRegion (memWf_onTile h)) h
    · exact h
  · exact h

theorem memWf_beatToLoad {n b} : MemWf (beatToLoad n b s) := by
  unfold beatToLoad
  dsimp only
  split
  · exact memWf_ite h (memWf_ite (memWf_dropServing (memWf_onTile h)) (memWf_onTile h))
  · exact h

theorem nextWf_execBeatTransfer {sel} : NextWf (execBeatTransfer sel s) := by
  unfold execBeatTransfer
  refine nextWf_next ?_
  split
  · exact memWf_beatToRegion h
  · exact memWf_beatToTile h
  · exact memWf_beatToCopy h
  · exact memWf_beatToLoad h
  · exact memWf_beatToPort h

theorem memWf_answerStrands {id ok ns} : MemWf (answerStrands id ok ns s) := by
  induction ns generalizing s with
  | nil => exact h
  | cons n ns ih =>
    refine ih ?_
    split
    · split
      · split
        · exact memWf_onTile h
        · exact memWf_trapAt h
      · exact h
    · exact h

theorem memWf_answerAll {id ok} : MemWf (answerAll id ok s) := by
  refine memWf_answerStrands (memWf_onTiles h fun _ t ht => tileWf_answerFibre ?_)
  exact ht

theorem memWf_answer {id ok} : MemWf (answer id ok s) := memWf_answerAll (memWf_onDev h)

theorem memWf_withoutRing {i r} : MemWf (withoutRing i r s) := memWf_answerAll (memWf_onDev h)

theorem nextWf_execServiceRequestRecord {i} : NextWf (execServiceRequestRecord i s) := by
  unfold execServiceRequestRecord
  refine nextWf_next ?_
  split
  · exact h
  · dsimp only
    split
    · exact memWf_withoutRing h
    · have hw : ∀ a bs, MemWf (onDev (fun d => { d with mem := d.mem.writeBytes a bs }) s) := fun a bs =>
        memWf_onDev h fun _ hd => ⟨Memory.writeBytes_wf a bs hd.1, hd.2⟩
      split
      · split
        · exact memWf_withoutRing (memWf_signal (memWf_onFn (hw _ _)))
        · exact memWf_onDev (memWf_signal (memWf_onFn (hw _ _)))
      · exact h

theorem memWf_movePage {fn e frame} : MemWf (movePage fn e frame s) := by
  unfold movePage
  refine memWf_foldl h fun _ _ hs => ?_
  split
  · exact memWf_onDev hs
  · exact hs

theorem nextWf_execCowService {i} : NextWf (execCowService i s) := by
  unfold execCowService
  refine nextWf_next ?_
  split
  · exact h
  · split
    · split
      · split
        · exact memWf_answer h
        · have hw : ∀ {r : Request} {f e frame first n bytes}, MemWf (onDev (fun d => { d with
              mem := remapGroup frame (d.mem.writeBytes frame bytes) first n, requests := d.requests.set i r })
                  (movePage f e frame s)) :=
            memWf_onDev (memWf_movePage h) fun _ hd => ⟨wf_remapGroup (Memory.writeBytes_wf _ _ hd.1), hd.2⟩
          dsimp only
          split
          · exact memWf_withoutRing (memWf_onFn (memWf_onDev hw))
          · exact memWf_onFn (memWf_onDev hw)
      · exact h
    · exact h

theorem memWf_notePage {c} : MemWf (notePage c s) := memWf_onDev h

theorem okWf_textPage {t as page vpc} : OkWf Prod.fst (textPage s t as page vpc) := by
  unfold textPage
  refine okWf_skip fun f => ?_
  refine okWf_skip fun _ => ?_
  dsimp only
  split
  · split
    · exact okWf_ok (memWf_touch h)
    · exact okWf_ite (okWf_ok (memWf_touch h)) (okWf_ok (memWf_notePage (memWf_touch h)))
  · exact okWf_ite okWf_error (okWf_ok (memWf_notePage (memWf_touch h)))

theorem okWf_formFolio {t as vpc} : OkWf Prod.fst (formFolio s t as vpc) :=
  okWf_bind (okWf_textPage h) fun ⟨_, _⟩ hs => okWf_ok hs

theorem memWf_makeRoom {f n} : MemWf (makeRoom f n s) := by
  induction n generalizing s with
  | zero => exact h
  | succ n ih =>
    rw [makeRoom]
    split
    · exact h
    · split
      · exact ih (memWf_onDev h)
      · exact h

theorem someWf_keepFolio {f} : SomeWf id (keepFolio f s) :=
  someWf_ite (someWf_some (memWf_onDev (memWf_makeRoom h))) someWf_none

theorem memWf_folioFor {n k} : MemWf (folioFor n k s) := by
  unfold folioFor
  refine memWf_ite (memWf_runOn h) ?_
  split
  · exact memWf_stopShort h
  · split
    · exact memWf_runOn (someWf_keepFolio (okWf_formFolio h (_, _) ‹_›) _ ‹_›)
    · exact memWf_trapAt (okWf_formFolio h (_, _) ‹_›)

theorem someWf_tryAhead {t vpc} : SomeWf id (tryAhead s t vpc) := by
  unfold tryAhead
  split
  · exact someWf_keepFolio (okWf_formFolio h (_, _) ‹_›)
  · split
    · exact someWf_none
    · exact someWf_map (someWf_askService h) fun _ hs => hs
  · exact someWf_none

theorem memWf_scribeAhead : MemWf (scribeAhead s) :=
  memWf_getD h (someWf_findSome fun _ => someWf_findSome fun _ => someWf_tryAhead h)

theorem nextWf_execFolioFormation {tile} : NextWf (execFolioFormation tile s) := by
  unfold execFolioFormation
  refine nextWf_next ?_
  split
  · exact memWf_folioFor h
  · exact memWf_scribeAhead h

end

/-! ### Machine/Tasks.lean -/

section
variable {s : State} (h : MemWf s)
include h

theorem memWf_slotUsed {q i} : MemWf (slotUsed q i s) := memWf_ite h (memWf_devUsed h)

theorem memWf_factorsUsed {as r} : MemWf (factorsUsed as r s) := by
  unfold factorsUsed
  split
  · exact memWf_devUsed h
  · exact h

theorem someWf_writeCompletion {as status counter statusWord failed rel} : SomeWf id
    (writeCompletion as status counter statusWord failed rel s) := by
  unfold writeCompletion
  split
  · exact someWf_none
  · split
    · dsimp only
      split
      · exact someWf_some (memWf_addRels (okWf_devWrite (okWf_devWrite h _ ‹_›) _ ‹_›))
      · exact someWf_none
    · exact someWf_none

theorem memWf_settleDrain {q} : MemWf (settleDrain q s) := memWf_ite (memWf_onQueue h) h

theorem memWf_publishAs {q r how detail cause} : MemWf (publishAs q r how detail cause s) := by
  unfold publishAs
  dsimp only
  split
  · exact memWf_queueError h
  · rename_i u hu
    have hu := memWf_onDev (f := fun d => { closeTask (taskAt s q r) d with
      published := joinClock d.published ⟨joinSeen [] (taskAt s q r).endedPos, []⟩ }) (someWf_writeCompletion h u hu)
    refine memWf_settleDrain ?_
    split
    · exact memWf_signal (memWf_onTask hu)
    · exact memWf_onTask hu

theorem nextWf_execTaskCompletionPublish {queue record} : NextWf (execTaskCompletionPublish queue record s) := by
  unfold execTaskCompletionPublish
  refine nextWf_next ?_
  split
  · exact h
  · split
    · split
      · exact memWf_publishAs h
      · exact memWf_publishAs h
    · exact h

theorem memWf_becomeHead {q} : MemWf (becomeHead q s) := by
  unfold becomeHead
  dsimp only
  split
  · exact memWf_queueError h
  · split
    · exact memWf_queueError (memWf_slotUsed h)
    · split
      · exact memWf_publishAs (memWf_onDev (memWf_onQueue (memWf_factorsUsed (memWf_slotUsed h))))
      · split
        · exact memWf_onQueue (memWf_factorsUsed (memWf_slotUsed h))
        · exact memWf_onDev (memWf_onQueue (memWf_factorsUsed (memWf_slotUsed h)))

theorem nextWf_execRecordHead {queue} : NextWf (execRecordHead queue s) :=
  nextWf_next (memWf_ite (memWf_becomeHead h) h)

theorem memWf_waitsUsed {t} : MemWf (waitsUsed t s) := memWf_foldl h fun _ _ hs => memWf_devUsed hs

theorem memWf_evalWaits {q} : MemWf (evalWaits q s) := by
  unfold evalWaits
  split
  · exact h
  · refine memWf_ite h ?_
    refine memWf_ite (memWf_publishAs h) ?_
    refine memWf_ite h ?_
    split
    · dsimp only
      split
      · exact memWf_publishAs (memWf_waitsUsed h)
      · exact memWf_onTask (memWf_waitsUsed h)
    · exact memWf_waitsUsed h

theorem nextWf_execAgingInterval : NextWf (execAgingInterval s) := nextWf_next (memWf_ite h (memWf_onDev h))

theorem memWf_ringDoorbell {q v} : MemWf (ringDoorbell q v s) :=
  memWf_ite (memWf_queueError h) (memWf_ite (memWf_queueError h) (memWf_onQueue h))

theorem nextWf_execDoorbell {at_ v} : NextWf (execDoorbell at_ v s) := by
  unfold execDoorbell
  refine nextWf_next ?_
  split
  · exact h
  · exact memWf_ite h (memWf_ringDoorbell h)

theorem nextWf_execQueueEnable {fn queue} : NextWf (execQueueEnable fn queue s) :=
  nextWf_next (memWf_ite (memWf_ite (memWf_onQueue h) (memWf_queueError h)) h)

theorem nextWf_execQueueDrain {fn queue} : NextWf (execQueueDrain fn queue s) :=
  nextWf_next (memWf_ite (memWf_settleDrain (memWf_onQueue h)) h)

theorem memWf_settleServing : MemWf (settleServing s) := memWf_foldl h fun _ _ hs => memWf_reapServing hs

theorem memWf_scanStop {q r} : MemWf (scanStop q r s) :=
  memWf_settleServing (memWf_onTiles (memWf_onTask (memWf_stopTask h)))

theorem memWf_scanStopAll {q ts} : MemWf (scanStopAll q ts s) := by
  induction ts generalizing s with
  | nil => exact h
  | cons t ts ih =>
    refine ih ?_
    split
    · exact memWf_scanStop h
    · exact h

theorem memWf_startAbort {q resetting} : MemWf (startAbort q resetting s) := memWf_scanStopAll (memWf_onQueue h)

theorem nextWf_execQueueAbort {fn queue} : NextWf (execQueueAbort fn queue s) :=
  nextWf_next (memWf_ite (memWf_startAbort h) h)

theorem nextWf_execQueueReset {fn queue} : NextWf (execQueueReset fn queue s) :=
  nextWf_next (memWf_ite h (memWf_ite (memWf_onQueue h) (memWf_startAbort h)))

theorem memWf_publishAborted {q ts} : MemWf (publishAborted q ts s) := by
  induction ts generalizing s with
  | nil => exact h
  | cons t ts ih =>
    refine ih ?_
    split
    · exact memWf_publishAs h
    · exact h

theorem memWf_publishBehind {q n} : MemWf (publishBehind q n s) := by
  induction n generalizing s with
  | zero => exact h
  | succ n ih =>
    rw [publishBehind]
    dsimp only
    split
    · exact h
    · split
      · exact memWf_queueError h
      · split
        · exact memWf_queueError h
        · exact ih (memWf_onQueue (memWf_publishAs (memWf_onDev (memWf_slotUsed h))))

theorem memWf_endAbort {q} : MemWf (endAbort q s) := memWf_onQueue h

theorem nextWf_execAbortComplete {queue} : NextWf (execAbortComplete queue s) :=
  nextWf_next (memWf_ite (memWf_endAbort (memWf_publishBehind (memWf_publishAborted h))) h)

end

/-! ### Machine/Placement.lean -/

section
variable {s : State} (h : MemWf s)
include h

theorem memWf_loadRegion {fn handle ix forGang hold r} : MemWf (loadRegion fn handle ix forGang hold r s) :=
  memWf_onRegion h

theorem memWf_loadMissing {t g i rs} : MemWf (loadMissing t g i rs s) := by
  induction rs generalizing i s with
  | nil => exact h
  | cons r rs ih =>
    refine ih ?_
    split
    · exact h
    · exact memWf_loadRegion h

theorem memWf_bindRegions {q r g i xs} : MemWf (bindRegions q r g i xs s) := by
  induction xs generalizing i s with
  | nil => exact h
  | cons x xs ih => exact ih (memWf_onRegion h)

theorem memWf_clearPad {n} : MemWf (clearPad n s) := memWf_onDev h

theorem memWf_startStrand {t g i n handed} : MemWf (startStrand t g i n handed s) :=
  memWf_onTelemetry (memWf_onTile (memWf_clearPad h) (fun _ ht => tileWf_startTile ht))

theorem memWf_startStrands {t g handed i ns} : MemWf (startStrands t g handed i ns s) := by
  induction ns generalizing i s with
  | nil => exact h
  | cons n ns ih => exact ih (memWf_startStrand h)

theorem memWf_startGang {t g tiles regions handed} : MemWf (startGang t g tiles regions handed s) :=
  memWf_startStrands (memWf_bindRegions (memWf_onTask (memWf_onDev h)))

theorem memWf_saveParked {ms} : MemWf (saveParked ms s) := by
  induction ms generalizing s with
  | nil => exact h
  | cons m ms ih =>
    cases m with
    | on n =>
      refine ih ?_
      split
      · exact memWf_saveTile h
      · exact h
    | saved => exact ih h
    | ended => exact ih h

theorem memWf_reserveTile {k why n} : MemWf (reserveTile k why n s) := memWf_onTile h

theorem memWf_resumeMembers {q r g i ns} : MemWf (resumeMembers q r g i ns s) := by
  induction ns generalizing i s with
  | nil => exact h
  | cons n ns ih =>
    refine ih ?_
    split
    · exact h
    · split
      · exact memWf_reserveTile (memWf_onTelemetry (memWf_clearPad h))
      · exact memWf_placeSaved (memWf_onTelemetry (memWf_clearPad h))

theorem memWf_setTargets {q r g i as bs} : MemWf (setTargets q r g i as bs s) := by
  induction as generalizing i bs s with
  | nil => exact h
  | cons a as ih =>
    cases bs with
    | nil => exact h
    | cons b bs =>
      refine ih ?_
      split
      · split
        · exact memWf_onRegion h
        · exact memWf_loadRegion (memWf_onRegion h)
      · exact memWf_onRegion h

theorem someWf_chooseTargets {t x} : SomeWf id (chooseTargets t x s) := by
  refine someWf_findSome fun c => ?_
  split
  · exact someWf_some (memWf_setTargets h)
  · exact someWf_none

theorem someWf_resumeGang {t x} : SomeWf id (resumeGang t x s) := by
  unfold resumeGang
  split
  · refine someWf_findSome fun c => someWf_map (fun _ _ => h) fun p hs => ?_
    exact memWf_resumeMembers (memWf_foldl (memWf_onDev (memWf_saveParked hs)) fun _ _ hs => memWf_onRegion hs)
  · split
    · exact someWf_chooseTargets h
    · exact someWf_none

theorem memWf_postYield {d n} : MemWf (postYield d n s) := by
  unfold postYield
  dsimp only
  split
  · exact memWf_ite (memWf_onTile (memWf_withdraw h)) (memWf_onTile h)
  · exact memWf_saveTile h
  · exact memWf_onTile h
  · exact memWf_onTile h
  · exact memWf_onTile h
  · exact h
  · exact h

theorem memWf_postGang {d ms} : MemWf (postGang d ms s) := by
  induction ms generalizing s with
  | nil => exact h
  | cons m ms ih =>
    cases m with
    | on n => exact ih (memWf_postYield h)
    | saved => exact ih h
    | ended => exact ih h

theorem memWf_preempt : MemWf (preempt s) := by
  unfold preempt
  refine memWf_ite h ?_
  split
  · exact h
  · exact memWf_postGang h

theorem memWf_holdTurn {t} : MemWf (holdTurn t s) := memWf_onDev h

theorem memWf_keepTurn {t} : MemWf (keepTurn t s) := memWf_ite (memWf_preempt (memWf_holdTurn h)) (memWf_holdTurn h)

theorem memWf_serve {t} : MemWf (serve t s) := by
  unfold serve
  split
  · split
    · exact memWf_ite (memWf_holdTurn (someWf_resumeGang h _ ‹_›)) (someWf_resumeGang h _ ‹_›)
    · exact memWf_ite (memWf_holdTurn h) (memWf_keepTurn h)
  · split
    · exact memWf_keepTurn h
    · exact memWf_ite (memWf_startGang h) (memWf_loadMissing (memWf_holdTurn h))

theorem memWf_reap : MemWf (reap s) := memWf_onDev h

theorem nextWf_execGangDispatch : NextWf (execGangDispatch s) := by
  unfold execGangDispatch
  refine nextWf_next ?_
  split
  · exact memWf_serve (memWf_reap h)
  · exact memWf_reap h

theorem memWf_restoreFolio {k f t g} (e : restoreFolio s k f = (t, g)) : MemWf t := by
  have hf : MemWf (restoreFolio s k f).1 := by
    unfold restoreFolio
    dsimp only
    split
    · exact h
    · split
      · have hs := okWf_formFolio h (_, _) ‹_›
        split
        · split
          · exact someWf_keepFolio hs _ ‹_›
          · exact hs
        · exact hs
      · exact h
  rw [e] at hf
  exact hf

theorem memWf_refuseImage {x info stop} : MemWf (refuseImage x info stop s) := by
  unfold refuseImage
  dsimp only
  split
  · exact memWf_stopTask (memWf_noteCause (memWf_writeRecord h))
  · exact memWf_policyLost (memWf_noteCause (memWf_writeRecord h))

theorem memWf_restoreImage {x n} : MemWf (restoreImage x n s) := by
  unfold restoreImage
  split
  · exact memWf_refuseImage h
  · split
    · exact memWf_refuseImage h
    · split
      · exact memWf_placeSaved h
      · split
        · have hs := memWf_restoreFolio h ‹_›
          split
          · exact memWf_onTile (memWf_placeSaved hs)
          · exact memWf_refuseImage (memWf_quarantineRoot hs)
        · exact memWf_onTile (memWf_placeSaved (memWf_restoreFolio h ‹_›))

theorem nextWf_execVellumRestore {sel} : NextWf (execVellumRestore sel s) := by
  unfold execVellumRestore
  refine nextWf_next ?_
  split
  · exact h
  · split
    · exact memWf_ite h (memWf_ite (memWf_scanParity h) (memWf_restoreImage h))
    · exact h

end

end Sys2Proof.Machine
end

section
/-!
PROOFS. Canonical memories (R68, R69): the mailbox, regions, links, registers and resets.
-/

namespace Sys2Proof.Machine

open Sys2Proof

set_option Elab.async false

/-! ### Machine/Mailbox.lean -/

section
variable {s : State} (h : MemWf s)
include h

theorem memWf_endCommand {fn status detail result} : MemWf (endCommand fn status detail result s) := memWf_onFn h

theorem memWf_mailbox {fn code fails effect} (hf : ∀ s, MemWf s → MemWf (effect s).1) :
    MemWf (mailbox fn code fails effect s) := by
  unfold mailbox
  split
  · exact h
  · split
    · exact memWf_endCommand h
    · exact memWf_endCommand (hf s h)

theorem memWf_mailboxLong {fn code fails effect} (hf : ∀ s, MemWf s → MemWf (effect s)) :
    MemWf (mailboxLong fn code fails effect s) := by
  unfold mailboxLong
  split
  · exact h
  · split
    · exact memWf_endCommand h
    · exact hf s h

theorem nextWf_execMailboxUndefinedCommand {fn} : NextWf (execMailboxUndefinedCommand fn s) :=
  nextWf_next (memWf_ite (memWf_endCommand h) h)

theorem memWf_dropFolios {p} : MemWf (dropFolios p s) := by
  refine memWf_onTiles (memWf_onDev h) fun _ t ht => ?_
  split
  · split
    · exact ht
    · exact ht
  · exact ht

theorem memWf_dropChecks {p} : MemWf (dropChecks p s) := memWf_onDev h

theorem nextWf_execTcinvComplete {fn} : NextWf (execTcinvComplete fn s) :=
  nextWf_next (memWf_ite (memWf_endCommand h) h)

theorem memWf_releaseSaved {k} : MemWf (releaseSaved k s) := memWf_onDev h

theorem memWf_pastHold {k n queuePrecise soft skip} : MemWf (pastHold k n queuePrecise soft skip s) := by
  have hs : MemWf (onTile n (fun t => if soft || skip then Tile.onSeq (fun q =>
      { q with vpc := q.vpc + 8 }) t else t) s) := by
    refine memWf_onTile h fun t ht => ?_
    cases soft || skip <;> exact ht
  cases queuePrecise
  · exact hs
  · exact memWf_finishHeldGo (memWf_onTile hs)

theorem memWf_regroupTile {n} : MemWf (regroupTile n s) := by
  unfold regroupTile
  split
  · exact memWf_ite (memWf_resumeHeld h) h
  · exact memWf_ite (memWf_resumeHeld h) h
  · exact memWf_ite (memWf_resumeHeld h) h
  · exact memWf_ite (memWf_resumeHeld h) h
  · exact h

theorem memWf_regroupSaved {f} : MemWf (regroupSaved f s) :=
  memWf_foldl h fun _ _ hs => memWf_releaseSaved (memWf_pastHold hs)

theorem memWf_resumeGroup {h'} : MemWf (resumeGroup h' s) :=
  memWf_regroupSaved (memWf_foldl h fun _ _ hs => memWf_regroupTile hs)

theorem nextWf_execTlbinvComplete {fn} : NextWf (execTlbinvComplete fn s) :=
  nextWf_next (memWf_ite (memWf_endCommand (memWf_onDev h)) h)

theorem nextWf_execQuotaadd {fn} : NextWf (execQuotaadd fn s) := by
  unfold execQuotaadd
  refine nextWf_next (memWf_mailbox h ?_)
  intro t ht
  split
  · exact ht
  · exact memWf_onTask ht

theorem memWf_resumeStrand {k queuePrecise soft skip} : MemWf (resumeStrand k queuePrecise soft skip s) := by
  unfold resumeStrand
  split
  · exact memWf_ite (memWf_finishHeldGo (memWf_resumeHeld h)) (memWf_resumeHeld h)
  · split
    · exact h
    · exact memWf_releaseSaved (memWf_pastHold h)
  · exact h

theorem nextWf_execHeldresume {fn} : NextWf (execHeldresume fn s) := by
  unfold execHeldresume
  refine nextWf_next (memWf_mailbox h ?_)
  intro t ht
  split
  · exact memWf_resumeStrand ht
  · exact ht

theorem nextWf_execHeldabort {fn} : NextWf (execHeldabort fn s) := by
  unfold execHeldabort
  refine nextWf_next (memWf_mailbox h ?_)
  intro t ht
  split
  · exact memWf_stopTask (memWf_onTask ht)
  · exact ht

end

/-! ### Machine/Regions.lean -/

section
variable {s : State} (h : MemWf s)
include h

theorem memWf_holdRegion {fn h' ix r} : MemWf (holdRegion fn h' ix r s) :=
  memWf_ite (memWf_onRegion h) (memWf_loadRegion h)

theorem memWf_freeRegion {r} : MemWf (freeRegion r s) := memWf_onRegion h

theorem memWf_refuseLoad {x} : MemWf (refuseLoad x s) := by
  unfold refuseLoad
  split
  · exact memWf_stopTask (memWf_noteCause h)
  · exact h

theorem nextWf_execRegionLoadComplete {region} : NextWf (execRegionLoadComplete region s) := by
  refine nextWf_next (memWf_ite h ?_)
  split
  · exact memWf_onRegion h
  · refine memWf_refuseLoad (memWf_freeRegion ?_)
    split
    · exact memWf_onRegion h
    · exact h

theorem nextWf_execSwap {fn} : NextWf (execSwap fn s) := by
  unfold execSwap
  refine nextWf_next (memWf_mailboxLong h ?_)
  intro t ht
  split
  · exact ht
  · split
    · exact ht
    · exact memWf_endCommand (memWf_onRegion (memWf_loadRegion ht))

theorem memWf_moveRegion {x a b} : MemWf (moveRegion x a b s) := by
  unfold moveRegion
  split
  · exact memWf_onGang h
  · exact h

theorem nextWf_execSwapQuiesce {region} : NextWf (execSwapQuiesce region s) := by
  unfold execSwapQuiesce
  refine nextWf_next ?_
  split
  · split
    · exact memWf_ite (memWf_onRegion (memWf_moveRegion (memWf_onRegion h))) h
    · exact h
  · exact h

theorem nextWf_execRclock {fn} : NextWf (execRclock fn s) := by
  unfold execRclock
  refine nextWf_next (memWf_mailbox h ?_)
  intro t ht
  split
  · exact memWf_onRegion ht
  · exact ht

theorem nextWf_execReconfigTokenApply {region port depth} : NextWf (execReconfigTokenApply region port depth s) := by
  unfold execReconfigTokenApply
  refine nextWf_next ?_
  split
  · exact memWf_ite (memWf_onRegion h) h
  · exact h

theorem memWf_loseRegion {x} : MemWf (loseRegion x s) := by
  unfold loseRegion
  split
  · exact memWf_raiseAll h
  · exact h

theorem nextWf_execRegionStop {region} : NextWf (execRegionStop region s) := by
  unfold execRegionStop
  refine nextWf_next ?_
  split
  · dsimp only
    split
    · refine memWf_loseRegion (memWf_onRegion ?_)
      split
      · exact memWf_freeRegion h
      · exact h
    · refine memWf_onRegion ?_
      split
      · exact memWf_freeRegion h
      · exact h
  · exact h

theorem nextWf_execRegionRelink {region} : NextWf (execRegionRelink region s) := by
  unfold execRegionRelink
  refine nextWf_next ?_
  split
  · exact h
  · refine memWf_ite h ?_
    split
    · dsimp only
      split
      · exact memWf_refuseLoad (memWf_freeRegion h)
      · exact memWf_freeRegion (memWf_refuseLoad (memWf_freeRegion h))
    · exact memWf_ite (memWf_onRegion h) (memWf_freeRegion (memWf_moveRegion (memWf_onRegion h)))

theorem nextWf_execThermalTick {region temp} : NextWf (execThermalTick region temp s) :=
  nextWf_next (memWf_ite (memWf_onRegion h) h)

theorem nextWf_execRegionMachineCheck {region} : NextWf (execRegionMachineCheck region s) := by
  unfold execRegionMachineCheck
  refine nextWf_next ?_
  split
  · refine memWf_loseRegion (memWf_onRegion ?_)
    split
    · exact memWf_ite h (memWf_freeRegion h)
    · exact h
  · exact h

theorem memWf_setForced {c} : MemWf (setForced c s) := memWf_onClock h

theorem nextWf_execTdivreqWrite {chiplet v} : NextWf (execTdivreqWrite chiplet v s) :=
  nextWf_next (memWf_ite (memWf_onClock h) h)

theorem nextWf_execClockDividerChange {dom} : NextWf (execClockDividerChange dom s) := by
  unfold execClockDividerChange
  refine nextWf_next ?_
  split
  · exact memWf_ite (memWf_setForced (memWf_onClock (memWf_foldl h fun _ _ hs => memWf_onTelemetry hs))) h
  · split
    · exact memWf_onRegion h
    · exact h

theorem nextWf_execTileThrottle {tile divider} : NextWf (execTileThrottle tile divider s) :=
  nextWf_next (memWf_ite (memWf_setForced (memWf_onTelemetry h)) h)

theorem nextWf_execDroopDetected {tile} : NextWf (execDroopDetected tile s) := by
  unfold execDroopDetected
  refine nextWf_next (memWf_ite h ?_)
  split
  · split
    · exact memWf_ite (memWf_onCmd (memWf_onTelemetry h)) (memWf_onTelemetry h)
    · exact memWf_onTelemetry h
  · exact memWf_onTelemetry h

theorem nextWf_execEccError {place double} : NextWf (execEccError place double s) := by
  unfold execEccError
  refine nextWf_next ?_
  split
  · exact memWf_ite h (memWf_ite (memWf_raiseAsync (memWf_onTelemetry h)) (memWf_onTelemetry h))
  · exact memWf_ite (memWf_onDev h) h

theorem nextWf_execMemoryScrub {line double} : NextWf (execMemoryScrub line double s) :=
  nextWf_next (memWf_ite (memWf_onDev h) h)

theorem memWf_attach {n} : MemWf (attach n s) := memWf_onTask h

theorem memWf_haltTile {n} : MemWf (haltTile n s) := by
  unfold haltTile
  split
  · exact memWf_attach (memWf_onTile (memWf_noteStop (memWf_withdraw h)))
  · exact h

theorem memWf_deliverMany {n k} : MemWf (deliverMany n k s) := by
  induction k generalizing s with
  | zero => exact h
  | succ k ih => exact ih (memWf_deliverOne h)

theorem memWf_resumeTile {n} : MemWf (resumeTile n s) := by
  unfold resumeTile
  split
  · exact memWf_reconnect (memWf_onTile (memWf_deliverMany h))
  · exact h

theorem nextWf_execDbgpend {fn} : NextWf (execDbgpend fn s) :=
  nextWf_next (memWf_mailbox h fun _ ht => memWf_getD ht (someWf_dmaWrite ht))

theorem nextWf_execDbgview {fn} : NextWf (execDbgview fn s) :=
  nextWf_next (memWf_mailbox h fun _ ht => memWf_getD ht (someWf_dmaWrite ht))

end

/-! ### Machine/Registers.lean -/

section
variable {s : State} (h : MemWf s)
include h

theorem memWf_onLink {l f} : MemWf (onLink l f s) := memWf_onDev h

theorem memWf_writeTenant {fn v} : MemWf (writeTenant fn v s) := memWf_onFn h

theorem nextWf_execTenantWrite {fn v} : NextWf (execTenantWrite fn v s) :=
  nextWf_next (memWf_ite (memWf_writeTenant h) h)

theorem nextWf_execPkgWrite {v} : NextWf (execPkgWrite v s) := nextWf_next (memWf_ite (memWf_onDev h) h)

theorem memWf_writeQueue {fn q off v} : MemWf (writeQueue fn q off v s) := by
  unfold writeQueue
  refine memWf_ite h ?_
  split
  · exact memWf_onQueue h
  · exact memWf_onQueue h
  · exact memWf_onQueue h
  · exact memWf_onQueue h
  · exact h

theorem memWf_writeFn {f off v} : MemWf (writeFn f off v s) := by
  unfold writeFn
  split
  · exact memWf_onFn h
  · exact memWf_onFn h
  · exact memWf_onFn h
  · exact memWf_onFn h

theorem memWf_writeMailbox {fn off v} : MemWf (writeMailbox fn off v s) := by
  unfold writeMailbox
  split
  · exact memWf_onFn h
  · exact memWf_onFn h
  · exact h

theorem memWf_writeGlobal {off v} : MemWf (writeGlobal off v s) := by
  unfold writeGlobal
  refine memWf_ite (memWf_onDev h) ?_
  refine memWf_ite (memWf_onDev h) ?_
  refine memWf_ite (memWf_onDev h) ?_
  split
  · exact memWf_writeTenant h
  · exact memWf_ite h (memWf_ite (memWf_writeFn h) (memWf_ite (memWf_onRegion h) h))

theorem nextWf_execRegisterWrite {fn off v} : NextWf (execRegisterWrite fn off v s) := by
  unfold execRegisterWrite
  refine nextWf_next (memWf_ite h ?_)
  refine memWf_ite (memWf_writeMailbox h) ?_
  split
  · split
    · exact memWf_ite h (memWf_writeQueue h)
    · exact h
  · exact memWf_ite (memWf_writeGlobal h) h

theorem memWf_hostWrite {p addr bytes} : MemWf (hostWrite p addr bytes s) :=
  memWf_setPlaceMem (memWf_plainWrite (memWf_onDev h)) (Memory.writeBytes_wf _ _ (wf_placeMem h))

theorem nextWf_execHostMemoryAccess {aperture addr bytes} : NextWf (execHostMemoryAccess aperture addr bytes s) :=
  nextWf_next (memWf_ite h (memWf_ite (memWf_ite (memWf_hostWrite h) h) (memWf_hostWrite h)))

theorem nextWf_execLinkTrainingDone {link peer peerLink} : NextWf (execLinkTrainingDone link peer peerLink s) :=
  nextWf_next (memWf_ite (memWf_onLink h) h)

theorem nextWf_execFlitReplay {link} : NextWf (execFlitReplay link s) := nextWf_next (memWf_ite (memWf_onLink h) h)

theorem nextWf_execLinkReplayLimit {link} : NextWf (execLinkReplayLimit link s) :=
  nextWf_next (memWf_ite (memWf_onLink h) h)

theorem nextWf_execLinkEnableWrite {link v} : NextWf (execLinkEnableWrite link v s) :=
  nextWf_next (memWf_ite h (memWf_onLink h))

theorem memWf_cutOff {pkg} : MemWf (cutOff pkg s) := memWf_raiseAll (memWf_onDev h)

theorem nextWf_execLinkRetrainFail {link} : NextWf (execLinkRetrainFail link s) := by
  unfold execLinkRetrainFail
  refine nextWf_next ?_
  split
  · exact memWf_ite (memWf_signal (memWf_onLink h)) (memWf_cutOff (memWf_signal (memWf_onLink h)))
  · exact h

theorem memWf_maybeSupervisor : MemWf (maybeSupervisor s) :=
  memWf_ite (memWf_onDev h (fun _ hd => devWf_enterSupervisor hd)) h

theorem memWf_resetDevice : MemWf (resetDevice s) :=
  memWf_maybeSupervisor ⟨devWf_enterRom ⟨rfl, h.1.2⟩, tileWf_blank, fun _ he => nomatch he⟩

theorem memWf_reachReady : MemWf (reachReady s) := memWf_foldl (memWf_onDev h) fun _ _ hs => memWf_onLink hs

theorem nextWf_execBootReady : NextWf (execBootReady s) := by
  unfold execBootReady
  refine nextWf_next ?_
  split
  · exact memWf_reachReady (memWf_onDev h (fun _ hd => devWf_enterSupervisor hd))
  · exact memWf_onDev h (fun _ hd => devWf_enterSupervisor hd)

theorem memWf_failStart {reason detail} : MemWf (failStart reason detail s) := by
  unfold failStart
  split
  · exact memWf_onDev h
  · exact h

theorem nextWf_execFailedStart {reason detail} : NextWf (execFailedStart reason detail s) :=
  nextWf_next (memWf_ite h (memWf_failStart (memWf_maybeSupervisor h)))

theorem nextWf_execRestart {fn} : NextWf (execRestart fn s) :=
  nextWf_next (memWf_mailboxLong h (fun _ ht => memWf_resetDevice (memWf_ite (memWf_onDev ht) ht)))

theorem nextWf_execAttest {fn} : NextWf (execAttest fn s) :=
  nextWf_next (memWf_mailbox h fun _ ht => memWf_onDev (memWf_onFn (memWf_getD ht (someWf_dmaWrite ht))))

end

/-! ### Machine/Scalar.lean -/

section
variable {s : State} (h : MemWf s)
include h

theorem nextWf_scalar2 {f d a b} : NextWf (scalar2 f d a b s) := nextWf_finish h (okWf_ok (memWf_setS h))

theorem nextWf_scalar1 {f d a} : NextWf (scalar1 f d a s) := nextWf_finish h (okWf_ok (memWf_setS h))

theorem nextWf_scalarImm {f d a imm} : NextWf (scalarImm f d a imm s) := nextWf_finish h (okWf_ok (memWf_setS h))

theorem nextWf_execLiFactor {d slot scale} : NextWf (execLiFactor d slot scale s) :=
  nextWf_finish h (okWf_map (fun _ _ => h) fun _ hs => memWf_setS hs)

theorem nextWf_execAddiFactor {d a slot scale} : NextWf (execAddiFactor d a slot scale s) :=
  nextWf_finish h (okWf_map (fun _ _ => h) fun _ hs => memWf_setS hs)

end

/-! ### Machine/Vector.lean -/

section
variable {s : State} (h : MemWf s)
include h

theorem memWf_writeLanes {d t rs} : MemWf (writeLanes d t rs s) := memWf_setV (memWf_setSubst h)

theorem nextWf_laneWise {d named m g f} : NextWf (laneWise d named m g f s) :=
  nextWf_finish h (okWf_skip fun _ => okWf_ok (memWf_writeLanes h))

theorem nextWf_vecShift {f d a b scalar m g} : NextWf (vecShift f d a b scalar m g s) := nextWf_laneWise h

theorem nextWf_reducePick {greater d a b m g} : NextWf (reducePick greater d a b m g s) :=
  nextWf_finish h (okWf_skip fun _ => okWf_ok (memWf_writeLanes h))

theorem nextWf_approxLanes {f d a m g} : NextWf (approxLanes f d a m g s) := nextWf_laneWise h

end

end Sys2Proof.Machine
end

section
/-!
PROOFS. Canonical memories (R68, R69): every instruction and event, and the step of the machine, keep them.
-/

namespace Sys2Proof.Machine

open Sys2Proof

set_option Elab.async false

/-! ### Machine/Dispatch.lean -/

section
variable {s : State} (h : MemWf s)
include h

theorem nextWf_exec {i} : NextWf (exec i s) := by
  unfold exec
  cases i with
  | add | sub | and | or | xor | shl | shr | sra | min | max | minz | maxz | setlt | setltz | seteq | mul
  | mulh | mulhz | madd | div | divz | rem | remz | sel => exact nextWf_scalar2 h
  | popc | clz | ctz | bfx | bfi | shlImm | shrImm | sraImm | lui => exact nextWf_scalar1 h
  | addi | andi | ori | xori | li | addpc => exact nextWf_scalarImm h
  | liFactor => exact nextWf_execLiFactor h
  | addiFactor => exact nextWf_execAddiFactor h
  | bCond => exact nextWf_execBCond h
  | j => exact nextWf_finishJump h (okWf_jumpTo h)
  | jl => exact nextWf_execJl h
  | jr =>
    exact nextWf_finishJump h (okWf_skip fun _ => okWf_bind (okWf_jumpTo h) fun _ hs => okWf_ok (memWf_setS hs))
  | nop => exact nextWf_finish h (okWf_ok h)
  | brk => exact nextWf_execBrk h
  | trap | reservedEncoding => exact nextWf_finish h okWf_error
  | yieldTo => exact nextWf_execYieldTo h
  | endStrand => exact nextWf_execEndStrand h
  | feat => exact nextWf_execFeat h
  | fence => exact nextWf_finish h (okWf_skip fun _ => okWf_ok (memWf_fenceOrder h))
  | bar => exact nextWf_execBar h
  | bara =>
    exact nextWf_finish h (okWf_skip fun _ => okWf_skip fun _ => okWf_skip fun _ => okWf_ok (memWf_arrive h))
  | barw =>
    exact nextWf_finish h (okWf_skip fun _ => okWf_skip fun _ => okWf_skip fun _ => okWf_ok (memWf_barReturn h))
  | waitcR => exact nextWf_finish h (okWf_skip fun _ => okWf_ok (memWf_closeCopies h))
  | waitcV =>
    exact nextWf_finish h (okWf_skip fun _ => okWf_skip fun _ => okWf_ok (memWf_nextPo (memWf_closeCopies h)))
  | waitr | vext => exact nextWf_finish h (okWf_skip fun _ => okWf_ok (memWf_setS h))
  | waite => exact nextWf_finish h (okWf_skip fun _ => okWf_ok h)
  | popq => exact nextWf_execPopq h
  | peekq => exact nextWf_execPeekq h
  | launch => exact nextWf_execLaunch h
  | siginc =>
    refine nextWf_finish h ?_
    iterate 4 refine okWf_skip fun _ => ?_
    exact okWf_bind (okWf_performAtomic h) fun ⟨_, _⟩ hs => okWf_ok (memWf_setS (memWf_addRels hs))
  | rdid => exact nextWf_execRdid h
  | rdctl | pcnt | pfirst | portq => exact nextWf_finish h (okWf_ok (memWf_setS h))
  | wrctl => exact nextWf_finish h (okWf_writeCtl h)
  | tdnarrow =>
    exact nextWf_finish h (okWf_skip fun _ => okWf_skip fun _ => okWf_skip fun _ => okWf_bind (okWf_localBytes h)
        fun ⟨_, _⟩ hs => okWf_skip fun _ => okWf_ok (memWf_onFocus (memWf_useDesc hs)))
  | ctxsave => exact nextWf_execCtxsave h
  | ctxload => exact nextWf_execCtxload h
  | vsetvl => exact nextWf_finish h (okWf_ok (memWf_setS (memWf_onFocus h)))
  | vadd | vsub | vmul | vfma | vmin | vmax | vabs | vneg | vand | vor | vxor | vsel | vbcast | viota | vperm
  | vpopc | vscan | vladd | vlsub => exact nextWf_laneWise h
  | vshl | vshr | vsra => exact nextWf_vecShift h
  | vcmp => exact nextWf_finish h (okWf_skip fun _ => okWf_ok (memWf_setP h))
  | vcompress | vexpand => exact nextWf_finish h (okWf_skip fun _ => okWf_ok (memWf_setV h))
  | vredsum | vcvt => exact nextWf_finish h (okWf_skip fun _ => okWf_ok (memWf_writeLanes h))
  | vredmax | vredmin => exact nextWf_reducePick h
  | vcvtds => exact nextWf_finish h (okWf_skip fun _ => okWf_ok (memWf_addUf (memWf_setV (memWf_writeLanes h))))
  | vrecip | vrsqrt | vexp2 | vlog2 => exact nextWf_approxLanes h
  | ldct =>
    refine nextWf_finish h ?_
    iterate 6 refine okWf_skip fun _ => ?_
    exact okWf_bind (okWf_performLoad h) fun ⟨_, _⟩ hs => okWf_ok (memWf_setSubst (memWf_onFocus hs))
  | ldctReset => exact nextWf_finish h (okWf_ok (memWf_onFocus h))
  | pand | por | pxor | pnot => exact nextWf_finish h (okWf_ok (memWf_setP h))
  | ld =>
    exact nextWf_finish h (okWf_skip fun _ => okWf_skip fun _ => okWf_bind (okWf_performLoad h) fun ⟨_, _⟩ hs =>
        okWf_ok (memWf_setS (memWf_setSubst hs)))
  | st => exact nextWf_finish h (okWf_skip fun _ => okWf_skip fun _ => okWf_performStore h)
  | ldv => exact nextWf_execLdv h
  | stv | stvs | stvx => exact nextWf_storeVec h
  | ldvs => exact nextWf_execLdvs h
  | ldvx => exact nextWf_loadVec h
  | cas =>
    exact nextWf_finish h (okWf_skip fun _ => okWf_skip fun _ => okWf_bind (okWf_performAtomic h) fun ⟨_, _⟩ hs =>
        okWf_ok (memWf_setS hs))
  | amoAdd | amoAnd | amoOr | amoXor | amoMin | amoMax | amoMinz | amoMaxz | amoSwap | amoFaddF32 | amoFaddBf16 =>
    exact nextWf_execAmo h
  | cpyl | cpylRing => exact nextWf_execLoadCopy h
  | cpys =>
    refine nextWf_finishIssue h ?_
    iterate 9 refine okWf_skip fun _ => ?_
    exact okWf_issueCopy (memWf_useDesc h)
  | cpyf => exact nextWf_execCpyf h
  | cpya =>
    refine nextWf_finishIssue h ?_
    iterate 4 refine okWf_skip fun _ => ?_
    exact okWf_bind (okWf_issueCopy h) fun _ hs => okWf_ok (memWf_onFocus hs)
  | rsetup => exact nextWf_finish h (okWf_skip fun _ => okWf_ok (memWf_setRing h))
  | rpub =>
    exact nextWf_finish h (okWf_skip fun _ => okWf_skip fun _ => okWf_ok (memWf_nextPo (memWf_setS (memWf_setRing h))))
  | rtake =>
    exact nextWf_finish h (okWf_skip fun _ => okWf_skip fun _ => okWf_ok (memWf_nextPo (memWf_setS (memWf_setRing
        (memWf_closeSlot h)))))
  | rfree => exact nextWf_execRfree h
  | coll =>
    refine nextWf_finishIssue h ?_
    iterate 6 refine okWf_skip fun _ => ?_
    exact okWf_bind (okWf_issue (memWf_useDesc h)) fun _ hs => okWf_ok (memWf_setS (memWf_onFocus (memWf_onFocus hs)))
  | mma | mmag => exact nextWf_finishIssue h (okWf_issueMma h)
  | mzero | mscale => exact nextWf_finishIssue h (okWf_skip fun _ => okWf_issue h)
  | fscan => exact nextWf_execFscan h
  | fisect | funion | frepeat | freduce | falu | fgen | fsteer | fmerge | fcarry | fsrc | fsinkPort =>
    exact nextWf_finishIssue h (okWf_skip fun _ => okWf_skip fun _ => okWf_issueConfig h)
  | fval | fwrite =>
    refine nextWf_finishIssue h ?_
    iterate 6 refine okWf_skip fun _ => ?_
    exact okWf_issueConfig (memWf_useDesc h)
  | fsinkQ | fsinkL => exact nextWf_finishIssue h (okWf_skip fun _ => okWf_issueConfig h)
  | fgo =>
    exact nextWf_finishIssue h (okWf_skip fun _ => okWf_bind (okWf_reserveSinks h) fun _ hs => okWf_bind
        (okWf_issue hs) fun _ hs => okWf_ok (memWf_setS (memWf_onFocus hs)))
  | fkill => exact nextWf_finish h (okWf_ok (memWf_killRun h))
  | fkillClear => exact nextWf_finish h (okWf_ok (memWf_onFocus (memWf_discardFibre (memWf_killRun h))))
  | portb => exact nextWf_execPortb h
  | portbU => exact nextWf_finish h (okWf_skip fun _ => okWf_ok (memWf_setPort h))
  | portw => exact nextWf_execPortw h
  | portr => exact nextWf_execPortr h
  | blockedStrandWake => exact nextWf_execBlockedStrandWake h
  | retentionWake => exact nextWf_execRetentionWake h
  | copyStart => exact nextWf_next (memWf_copyStart h)
  | copyIssueFinish => exact nextWf_next (memWf_issueFinish h)
  | copySourceReadDone => exact nextWf_next (memWf_sourceReadDone h)
  | copyVisible => exact nextWf_next (memWf_copyVisible h)
  | memoryAccessPerform => exact nextWf_execMemoryAccessPerform h
  | routerAmoMerge => exact nextWf_execRouterAmoMerge h
  | matrixPass => exact nextWf_next (memWf_matrixStep h)
  | fibreConfigApply => exact nextWf_next (memWf_configApply h)
  | graphRunStart => exact nextWf_next (memWf_runStart h)
  | fibreUnitStep => exact nextWf_next (memWf_stepUnit h)
  | fibreScanReadReturn => exact nextWf_next (memWf_readReturn h)
  | fibreStallExpiry => exact nextWf_next (memWf_stallExpiry h)
  | graphRunFinish => exact nextWf_next (memWf_runFinish h)
  | collComplete => exact nextWf_next (memWf_collComplete h)
  | collParticipantLost => exact nextWf_next (memWf_participantLost h)
  | barrierInstanceComplete => exact nextWf_execBarrierInstanceComplete h
  | beatTransfer => exact nextWf_execBeatTransfer h
  | flitDelivery => exact nextWf_execFlitDelivery h
  | niFreeze => exact nextWf_execNiFreeze h
  | freezeAck => exact nextWf_execFreezeAck h
  | recon => exact nextWf_execRecon h
  | deadlineExpiry => exact nextWf_execDeadlineExpiry h
  | stopForCause => exact nextWf_execStopForCause h
  | deferredFaultDelivery => exact nextWf_execDeferredFaultDelivery h
  | asyncTrapDelivery => exact nextWf_execAsyncTrapDelivery h
  | quotaChargeReport => exact nextWf_next (memWf_foldl (memWf_onTile h) fun _ _ hs => memWf_chargeTask hs)
  | quotaExhaustionNotice => exact nextWf_execQuotaExhaustionNotice h
  | serviceRequestRecord => exact nextWf_execServiceRequestRecord h
  | cowService => exact nextWf_execCowService h
  | folioFormation => exact nextWf_execFolioFormation h
  | doorbell => exact nextWf_execDoorbell h
  | recordHead => exact nextWf_execRecordHead h
  | waitEvaluation => exact nextWf_next (memWf_evalWaits h)
  | waitPollTimer => exact nextWf_next (memWf_foldl h fun _ _ hs => memWf_evalWaits hs)
  | agingInterval => exact nextWf_execAgingInterval h
  | gangDispatch => exact nextWf_execGangDispatch h
  | taskCompletionPublish => exact nextWf_execTaskCompletionPublish h
  | queueEnable => exact nextWf_execQueueEnable h
  | queueDrain => exact nextWf_execQueueDrain h
  | queueAbort => exact nextWf_execQueueAbort h
  | queueReset => exact nextWf_execQueueReset h
  | abortComplete => exact nextWf_execAbortComplete h
  | load | unload | group | ungroup | fwstage => exact nextWf_next (memWf_mailbox h (fun _ ht => memWf_onDev ht))
  | tcinv =>
    exact nextWf_next (memWf_mailboxLong h (fun _ ht => memWf_onDev (memWf_dropChecks (memWf_dropFolios ht))))
  | tcinvComplete => exact nextWf_execTcinvComplete h
  | tlbinv =>
    exact nextWf_next (memWf_mailboxLong h (fun _ ht => memWf_dropChecks (memWf_dropFolios (memWf_onDev ht))))
  | tlbinvComplete => exact nextWf_execTlbinvComplete h
  | frames | keyset | keyclr => exact nextWf_next (memWf_mailbox h (fun _ ht => memWf_onFn ht))
  | resolve => exact nextWf_next (memWf_mailbox h (fun _ ht => memWf_answer ht))
  | ctrget => exact nextWf_next (memWf_mailbox h (fun _ ht => ht))
  | dbghalt => exact nextWf_next (memWf_mailbox h (fun _ ht => memWf_foldl ht fun _ _ hs => memWf_haltTile hs))
  | dbgresume => exact nextWf_next (memWf_mailbox h (fun _ ht => memWf_foldl ht fun _ _ hs => memWf_resumeTile hs))
  | dbgpend => exact nextWf_execDbgpend h
  | dbgview => exact nextWf_execDbgview h
  | imghold => exact nextWf_next (memWf_mailbox h (fun _ ht => memWf_foldl ht fun _ _ hs => memWf_holdRegion hs))
  | imgfree => exact nextWf_next (memWf_mailbox h (fun _ ht => memWf_foldl ht fun _ _ hs => memWf_onRegion hs))
  | swap => exact nextWf_execSwap h
  | swapQuiesce => exact nextWf_execSwapQuiesce h
  | rclock => exact nextWf_execRclock h
  | quotaadd => exact nextWf_execQuotaadd h
  | restart => exact nextWf_execRestart h
  | attest => exact nextWf_execAttest h
  | regroup => exact nextWf_next (memWf_mailbox h (fun _ ht => memWf_resumeGroup (memWf_onDev ht)))
  | heldresume => exact nextWf_execHeldresume h
  | heldabort => exact nextWf_execHeldabort h
  | mailboxUndefinedCommand => exact nextWf_execMailboxUndefinedCommand h
  | regionLoadComplete => exact nextWf_execRegionLoadComplete h
  | regionStop => exact nextWf_execRegionStop h
  | regionRelink => exact nextWf_execRegionRelink h
  | reconfigTokenApply => exact nextWf_execReconfigTokenApply h
  | thermalTick => exact nextWf_execThermalTick h
  | regionMachineCheck => exact nextWf_execRegionMachineCheck h
  | tdivreqWrite => exact nextWf_execTdivreqWrite h
  | clockDividerChange => exact nextWf_execClockDividerChange h
  | droopDetected => exact nextWf_execDroopDetected h
  | eccError => exact nextWf_execEccError h
  | memoryScrub => exact nextWf_execMemoryScrub h
  | linkReplayLimit => exact nextWf_execLinkReplayLimit h
  | linkRetrainFail => exact nextWf_execLinkRetrainFail h
  | linkEnableWrite => exact nextWf_execLinkEnableWrite h
  | pkgWrite => exact nextWf_execPkgWrite h
  | tenantWrite => exact nextWf_execTenantWrite h
  | registerWrite => exact nextWf_execRegisterWrite h
  | hostMemoryAccess => exact nextWf_execHostMemoryAccess h
  | vellumRestore => exact nextWf_execVellumRestore h
  | deviceReset => exact nextWf_next (memWf_resetDevice h)
  | bootReady => exact nextWf_execBootReady h
  | bootWatchdogExpiry => exact nextWf_next (memWf_failStart (memWf_maybeSupervisor h))
  | linkTrainingDone => exact nextWf_execLinkTrainingDone h
  | flitReplay => exact nextWf_execFlitReplay h
  | tileThrottle => exact nextWf_execTileThrottle h
  | failedStart => exact nextWf_execFailedStart h
  | scanOutComplete => exact nextWf_execScanOutComplete h

end

/-! ### Machine/Step.lean -/

section
variable {s : State} (h : MemWf s)
include h

theorem nextWf_runFocus : NextWf (runFocus s) := by
  unfold runFocus
  split
  · split
    · exact nextWf_next (someWf_boundaryStop h _ ‹_›)
    · split
      · exact nextWf_exec (okWf_fetch h (_, _) ‹_›)
      · exact nextWf_next (memWf_fetchStop h)
  · exact nextWf_next h

theorem nextWf_step : NextWf (step s) := by
  unfold step
  dsimp only
  split
  · exact nextWf_runFocus (memWf_tick h)
  · exact nextWf_runFocus (memWf_focusOn (memWf_agenda (memWf_tick h)))
  · split
    · exact nextWf_exec (memWf_agenda (memWf_tick h))
    · exact fun _ e => nomatch e

end

/-- Settles O55: an empty memory is in canonical form. -/
theorem resetMemoriesCanonical : Obligations.ResetMemoriesCanonical :=
  memWf_iff.1 ⟨⟨rfl, rfl⟩, tileWf_blank, fun _ he => nomatch he⟩

/-- Settles O56, by the cases of the step: time passes, and the agent whose turn it is, or the fetched instruction, keeps every
memory in canonical form. -/
theorem stepKeepsMemoriesCanonical : Obligations.StepKeepsMemoriesCanonical :=
  fun _ t hs ht => memWf_iff.1 (nextWf_step (memWf_iff.2 hs) t ht)

end Sys2Proof.Machine
end

section
/-!
PROOFS. Branches and jumps (R131, R161): where a transfer of control goes, what it writes, and the traps of its targets.
-/

namespace Sys2Proof.Machine

open Sys2Proof Sys2Proof.Claims

set_option Elab.async false

/-! ### Canonical addresses (R69) -/

theorem fieldOf_toNat_56_8 (x : Word) : fieldOf x.toNat 56 8 = (x.extractLsb' 56 8).toNat := by
  rw [fieldOf, BitVec.extractLsb'_toNat, Nat.shiftRight_eq_div_pow]

/-- The bits from 56 on of a canonical address are one value. -/
theorem canonical_iff_extractLsb' (x : Word) :
    Canonical x ↔ x.extractLsb' 56 8 = 0#8 ∨ x.extractLsb' 56 8 = BitVec.allOnes 8 := by
  have hbit : ∀ i, i < 8 → (x.extractLsb' 56 8).getLsbD i = x.getLsbD (56 + i) := fun i hi => by
    simp [hi]
  constructor
  · intro h
    have hall : ∀ i, i < 8 → (x.extractLsb' 56 8).getLsbD i = x.getLsbD 56 := fun i hi => by
      rw [hbit i hi]
      rcases Nat.eq_zero_or_pos i with rfl | hpos
      · rfl
      · exact h (56 + i) (by omega) (by omega)
    rcases hx : x.getLsbD 56 with _ | _
    · exact Or.inl (BitVec.eq_of_getLsbD_eq fun i hi => by rw [hall i hi, hx, BitVec.getLsbD_zero])
    · exact Or.inr (BitVec.eq_of_getLsbD_eq fun i hi => by rw [hall i hi, hx, BitVec.getLsbD_allOnes, decide_eq_true hi])
  · intro h i hlo hhi
    have hi := hbit (i - 56) (by omega)
    rw [Nat.add_sub_cancel' (show 56 ≤ i by omega)] at hi
    rw [← hi, ← hbit 0 (by omega)]
    rcases h with h | h
    · rw [h, BitVec.getLsbD_zero, BitVec.getLsbD_zero]
    · rw [h, BitVec.getLsbD_allOnes, BitVec.getLsbD_allOnes, decide_eq_true (by omega), decide_eq_true (by omega)]

/-- The model's check of an address is R69's. -/
theorem canonical_toNat (x : Word) : canonical x.toNat = true ↔ Canonical x := by
  rw [canonical_iff_extractLsb', canonical, fieldOf_toNat_56_8, Bool.or_eq_true, beq_iff_eq, beq_iff_eq]
  constructor
  · rintro (h | h)
    · exact Or.inl (BitVec.eq_of_toNat_eq h)
    · exact Or.inr (BitVec.eq_of_toNat_eq h)
  · rintro (h | h)
    · exact Or.inl (congrArg BitVec.toNat h)
    · exact Or.inr (congrArg BitVec.toNat h)

theorem canonical_eq_false {x : Word} (h : ¬ Canonical x) : canonical x.toNat = false :=
  Bool.eq_false_iff.2 (mt (canonical_toNat x).1 h)

/-! ### Stops -/

/-- A cause whose information word is a register's. -/
theorem cause_toNat (cause : Nat) (x : Word) : Stop.cause cause x.toNat = .trap ⟨cause, x, 0, []⟩ := by
  rw [Stop.cause, word_of_toNat]

theorem need_false (e : Stop) : need false e = .error e := rfl

theorem error_bind {α β : Type} (e : Stop) (f : α → Except Stop β) : (Except.error e >>= f) = .error e := rfl

theorem finishJump_cause (s : State) (cause : Nat) (x : Word) :
    finishJump s (.error (.cause cause x.toNat)) = .next (trapAt s.tileNo ⟨cause, x, 0, []⟩ s) := by
  rw [cause_toNat]
  rfl

/-! ### Transfers of control (R131, R161) -/

/-- The state after a transfer to `target`, before anything is linked. -/
def atTarget (target : Word) (s : State) : State := onFocus (fun t => { t with folio := none }) (setPc target s)

theorem jumpTo_canonical {target : Word} (s : State) (h : Canonical target) : jumpTo target s = .ok (atTarget target s) :=
  if_pos ((canonical_toNat target).2 h)

theorem jumpTo_noncanonical {target : Word} (s : State) (h : ¬ Canonical target) :
    jumpTo target s = .error (.cause 0x040 target.toNat) := by
  rw [jumpTo, canonical_eq_false h]
  rfl

/-- A transfer that links `v` in S[d] and then retires. -/
theorem goesTo_of_exec {i : Instr} {s : State} {target v : Word} {d : SReg}
    (h : exec i s = finishJump s (.ok (setS d v (atTarget target s)))) : GoesTo i s target d v := by
  refine ⟨_, h, ?_, fun r => ?_, ?_⟩
  · rw [getPc_retire, getPc_setS]
    rfl
  · rw [getS_retire, getS_setS]
    rfl
  · unfold setS
    split <;> rfl

/-- The condition of a branch (R131). -/
theorem condHolds_iff (c : Cond) (x y : Word) : condHolds c x y = true ↔ Taken c x y := by
  cases c with
  | eq => exact beq_iff_eq
  | ne => exact bne_iff_ne
  | lt => exact BitVec.slt_iff_toInt_lt
  | ge => simp [condHolds, Taken, BitVec.slt]
  | ltz => exact BitVec.ult_iff_lt
  | gez => simp [condHolds, Taken, BitVec.ult]

theorem exec_bCond_taken {s : State} {c : Cond} {a b : SReg} (off : BitVec 24) (h : Taken c (getS s a) (getS s b)) :
    exec (.bCond c a b off) s = finishJump s (jumpTo (getPc s + 8 * off.signExtend 64) s) := by
  show execBCond c a b off s = _
  rw [execBCond, if_pos ((condHolds_iff _ _ _).2 h), BitVec.mul_comm]

theorem exec_bCond_fallsThrough {s : State} {c : Cond} {a b : SReg} (off : BitVec 24)
    (h : ¬ Taken c (getS s a) (getS s b)) : exec (.bCond c a b off) s = .next (advance s) := by
  show execBCond c a b off s = _
  rw [execBCond, if_neg (mt (condHolds_iff _ _ _).1 h)]
  rfl

theorem exec_j (imm : BitVec 28) (s : State) :
    exec (.j imm) s = finishJump s (jumpTo (getPc s + 8 * imm.signExtend 64) s) := by
  show execJ imm s = _
  rw [execJ, BitVec.mul_comm]

theorem exec_jl (imm : BitVec 28) (s : State) :
    exec (.jl imm) s = finishJump s ((jumpTo (getPc s + 8 * imm.signExtend 64) s).map (setS 63 (getPc s + 8))) := by
  show execJl imm s = _
  rw [execJl, BitVec.mul_comm]

theorem exec_jr_aligned {s : State} {a : SReg} (d : SReg) (h : (getS s a).toNat % 8 = 0) :
    exec (.jr d a) s = finishJump s ((jumpTo (getS s a) s).map (setS d (getPc s + 8))) := by
  show execJr d a s = _
  simp only [execJr, beq_iff_eq.2 h, need_true, ok_bind]
  rfl

theorem exec_jr_misaligned {s : State} {a : SReg} (d : SReg) (h : (getS s a).toNat % 8 ≠ 0) :
    exec (.jr d a) s = finishJump s (.error (.cause 0x005 (getS s a).toNat)) := by
  show execJr d a s = _
  simp only [execJr, beq_eq_false_iff_ne.2 h, need_false, error_bind]

theorem branchesAndJumps : BranchesAndJumps := by
  intro s c a b d off imm near far
  refine ⟨fun htaken hcan => ?_, fun hnot => ?_, fun hcan => ⟨?_, ?_⟩, fun hcan haligned => ?_⟩
  · exact goesTo_of_exec (by rw [exec_bCond_taken off htaken, jumpTo_canonical s hcan, setS_zero])
  · exact ⟨_, exec_bCond_fallsThrough off hnot, rfl, fun _ => rfl, rfl⟩
  · exact goesTo_of_exec (by rw [exec_j, jumpTo_canonical s hcan, setS_zero])
  · exact goesTo_of_exec (by rw [exec_jl, jumpTo_canonical s hcan, Except.map])
  · exact goesTo_of_exec (by rw [exec_jr_aligned d haligned, jumpTo_canonical s hcan, Except.map])

theorem jumpTraps : JumpTraps := by
  intro s c a b d off imm near far
  refine ⟨fun htaken hcan => ?_, fun hcan => ⟨?_, ?_⟩, fun hodd => ?_, fun haligned hcan => ?_⟩
  · rw [Traps, exec_bCond_taken off htaken, jumpTo_noncanonical s hcan, finishJump_cause]
  · rw [Traps, exec_j, jumpTo_noncanonical s hcan, finishJump_cause]
  · rw [Traps, exec_jl, jumpTo_noncanonical s hcan, Except.map, finishJump_cause]
  · rw [Traps, exec_jr_misaligned d hodd, finishJump_cause]
  · rw [Traps, exec_jr_aligned d haligned, jumpTo_noncanonical s hcan, Except.map, finishJump_cause]

/-- Settles O4: branches and jumps, by their targets, and the traps of targets misaligned or not canonical. -/
theorem controlFlow : Obligations.ControlFlow := ⟨branchesAndJumps, jumpTraps⟩

end Sys2Proof.Machine
end

section
/-!
PROOFS. What the accesses of a strand leave alone: the ordering state and the marks (R95 to R105) are of no account to any
register or byte (`OrderOnly`), flits to no register or byte (`Quiet`), and pages are used alike whatever the marks (R372).
-/

namespace Sys2Proof.Machine

open Sys2Proof Sys2Proof.Claims

set_option Elab.async false

/-! ### Steps of the ordering state only -/

/-- The state with the strand's ordering state, the marks, the constant marks and the releases kept replaced. -/
def reorder (ord : OrderState) (marks : List Mark) (consts : List ConstMark) (syncs : List SyncLoc) (s : State) : State :=
  { s with tile := { s.tile with ord := ord }, dev := { s.dev with marks := marks, consts := consts, syncs := syncs } }

theorem reorder_tileNo (o : OrderState) (m : List Mark) (c : List ConstMark) (y : List SyncLoc) (s : State) :
    (reorder o m c y s).tileNo = s.tileNo := rfl

/-- Nothing changed but the strand's ordering state, the marks, the constant marks and the releases kept. -/
def OrderOnly (s t : State) : Prop := ∃ ord marks consts syncs, t = reorder ord marks consts syncs s

theorem OrderOnly.refl (s : State) : OrderOnly s s := ⟨_, _, _, _, rfl⟩

theorem OrderOnly.trans {s t u : State} (h : OrderOnly s t) (h' : OrderOnly t u) : OrderOnly s u := by
  obtain ⟨_, _, _, _, rfl⟩ := h
  obtain ⟨o, m, c, y, rfl⟩ := h'
  exact ⟨o, m, c, y, rfl⟩

theorem orderOnly_foldl {α : Type} {f : State → α → State} (hf : ∀ s a, OrderOnly s (f s a)) (l : List α) (s : State) :
    OrderOnly s (l.foldl f s) := by
  induction l generalizing s with
  | nil => exact .refl s
  | cons a l ih => exact (hf s a).trans (ih _)

theorem orderOnly_onOrd (f : OrderState → OrderState) (s : State) : OrderOnly s (onOrd f s) := ⟨_, _, _, _, rfl⟩

theorem orderOnly_nextPo (s : State) : OrderOnly s (nextPo s) := orderOnly_onOrd _ s

theorem orderOnly_mark (a : Access) (ts : List Touch) (s : State) : OrderOnly s (mark a ts s) := ⟨_, _, _, _, rfl⟩

theorem orderOnly_markConst (k : StrandKey) (ts : List Touch) (s : State) : OrderOnly s (markConst k ts s) :=
  ⟨_, _, _, _, rfl⟩

theorem orderOnly_onRels (p : Place) (a n : Nat) (f : SyncLoc → SyncLoc) (s : State) : OrderOnly s (onRels p a n f s) :=
  ⟨_, _, _, _, rfl⟩

theorem orderOnly_addRels (p : Place) (a n : Nat) (rels : List Release) (s : State) :
    OrderOnly s (addRels p a n rels s) := by
  unfold addRels
  split
  · exact .refl s
  · exact ⟨_, _, _, _, rfl⟩

theorem orderOnly_syncRead (p : Place) (a n : Nat) (acq : Bool) (sc : Scope) (s : State) :
    OrderOnly s (syncRead p a n acq sc s) := ⟨_, _, _, _, rfl⟩

theorem orderOnly_syncWrite (p : Place) (a n : Nat) (rel atomic : Bool) (sc : Scope) (s : State) :
    OrderOnly s (syncWrite p a n rel atomic sc s) := by
  unfold syncWrite
  refine .trans ?_ ((orderOnly_addRels _ _ _ _ _).trans (orderOnly_nextPo _))
  split <;> exact orderOnly_onRels _ _ _ _ s

theorem orderOnly_acquireAll (m : MemOp) (xs : List ElemSpot) (s : State) : OrderOnly s (acquireAll m xs s) :=
  (orderOnly_foldl (fun _ _ => orderOnly_syncRead _ _ _ _ _ _) _ s).trans (orderOnly_nextPo _)

theorem orderOnly_writeOrder (m : MemOp) (xs : List ElemSpot) (s : State) : OrderOnly s (writeOrder m xs s) := by
  unfold writeOrder
  dsimp only
  split
  · exact orderOnly_foldl (fun _ _ => orderOnly_onRels _ _ _ _ _) _ s
  · exact (orderOnly_foldl (fun _ _ => (orderOnly_onRels _ _ _ _ _).trans (orderOnly_addRels _ _ _ _ _)) _ s).trans
      (orderOnly_nextPo _)

theorem orderOnly_atomicOrder (m : MemOp) (p : Piece) (wrote : Bool) (s : State) :
    OrderOnly s (atomicOrder m p wrote s) := by
  unfold atomicOrder
  dsimp only
  refine (orderOnly_syncRead p.place p.addr p.n (m.order == .acq || m.order == .ar) m.scope s).trans ?_
  split
  · exact orderOnly_syncWrite _ _ _ _ _ _ _
  · exact orderOnly_nextPo _

/-! ### Registers, bytes and pages -/

/-- Every memory and the sequencer are as they were. -/
def Quiet (s t : State) : Prop := (∀ p, placeMem t p = placeMem s p) ∧ t.tile.seq = s.tile.seq

theorem Quiet.refl (s : State) : Quiet s s := ⟨fun _ => rfl, rfl⟩

theorem Quiet.trans {s t u : State} (h : Quiet s t) (h' : Quiet t u) : Quiet s u :=
  ⟨fun p => (h'.1 p).trans (h.1 p), h'.2.trans h.2⟩

theorem quiet_foldl {α : Type} {f : State → α → State} (hf : ∀ s a, Quiet s (f s a)) (l : List α) (s : State) :
    Quiet s (l.foldl f s) := by
  induction l generalizing s with
  | nil => exact .refl s
  | cons a l ih => exact (hf s a).trans (ih _)

theorem OrderOnly.tileAt {s t : State} (h : OrderOnly s t) (n : Nat) :
    ∃ ord, Machine.tileAt t n = { Machine.tileAt s n with ord := ord } := by
  obtain ⟨ord, _, _, _, rfl⟩ := h
  by_cases hn : n = s.tileNo
  · refine ⟨ord, ?_⟩
    rw [Machine.tileAt, Machine.tileAt, reorder_tileNo, if_pos hn, if_pos hn]
    rfl
  · refine ⟨(look Tile.blank s.others n).ord, ?_⟩
    rw [Machine.tileAt, Machine.tileAt, reorder_tileNo, if_neg hn, if_neg hn]
    rfl

theorem OrderOnly.quiet {s t : State} (h : OrderOnly s t) : Quiet s t := by
  refine ⟨fun p => ?_, ?_⟩
  · cases p with
    | pad n =>
      obtain ⟨_, hn⟩ := h.tileAt n
      rw [Machine.placeMem, Machine.placeMem, hn]
    | dev => obtain ⟨_, _, _, _, rfl⟩ := h; rfl
    | host => obtain ⟨_, _, _, _, rfl⟩ := h; rfl
  · obtain ⟨_, _, _, _, rfl⟩ := h; rfl

theorem OrderOnly.self {s t : State} (h : OrderOnly s t) : Machine.self t = Machine.self s := by
  obtain ⟨_, _, _, _, rfl⟩ := h
  simp only [Machine.self, me, keyOn, Machine.tileAt, if_true]
  rfl

theorem markUsed_reorder (o : OrderState) (m : List Mark) (c : List ConstMark) (y : List SyncLoc) (as : AddrSpace)
    (w : Bool) (x : Leaf) (s : State) : markUsed as w x (reorder o m c y s) = reorder o m c y (markUsed as w x s) := by
  unfold markUsed
  dsimp only
  rw [apply_ite (reorder o m c y)]
  rfl

theorem remember_reorder (o : OrderState) (m : List Mark) (c : List ConstMark) (y : List SyncLoc) (as : AddrSpace)
    (w : Bool) (x : Leaf) (s : State) : remember as w x (reorder o m c y s) = reorder o m c y (remember as w x s) := by
  have hc : cachedAs (reorder o m c y s) as x = cachedAs s as x := rfl
  unfold remember
  rw [hc]
  split
  · rw [apply_ite (reorder o m c y)]
    rfl
  · rfl

/-- Pages are used alike in states that differ in order only (R372). -/
theorem OrderOnly.touch {s t : State} (h : OrderOnly s t) (as : AddrSpace) (u : Use) (f : Found) :
    OrderOnly (Machine.touch as u f s) (Machine.touch as u f t) := by
  obtain ⟨o, m, c, y, rfl⟩ := h
  exact ⟨o, m, c, y, by rw [Machine.touch, markUsed_reorder, remember_reorder, Machine.touch]⟩

theorem OrderOnly.useSpot {s t : State} (h : OrderOnly s t) (w : Who) (u : Use) (p : Spot) :
    OrderOnly (Machine.useSpot w u p s) (Machine.useSpot w u p t) := by
  have hspace : strandSpace t w.key = strandSpace s w.key := by
    obtain ⟨_, _, _, _, rfl⟩ := h
    rfl
  unfold Machine.useSpot
  rw [hspace]
  split
  · exact h.touch _ _ _
  · exact h

theorem OrderOnly.useOwnSpot {s t : State} (h : OrderOnly s t) (u : Use) (p : Spot) :
    OrderOnly (Machine.useSpot (Machine.self s) u p s) (Machine.useSpot (Machine.self t) u p t) := by
  rw [h.self]
  exact h.useSpot _ u p

theorem OrderOnly.foldl {α : Type} {f : State → α → State} (hf : ∀ s t a, OrderOnly s t → OrderOnly (f s a) (f t a))
    {s t : State} (h : OrderOnly s t) (l : List α) : OrderOnly (l.foldl f s) (l.foldl f t) := by
  induction l generalizing s t with
  | nil => exact h
  | cons a l ih => exact ih (hf s t a h)

theorem OrderOnly.useSpots {s t : State} (h : OrderOnly s t) (u : Use) (xs : List ElemSpot) :
    OrderOnly (Machine.useSpots u xs s) (Machine.useSpots u xs t) := by
  refine .foldl (fun s t x h => ?_) h xs
  have hx := OrderOnly.foldl (fun _ _ p h => h.useOwnSpot u p) h x.spots
  cases x.expo with
  | none => exact hx
  | some e => exact hx.useOwnSpot .read e

/-! ### Steps of page tables only (R372, R376) -/

/-- Nothing changed but device memory and the cached translations. -/
def PagesOnly (s t : State) : Prop := ∃ mem tlb, t = onDev (fun d => { d with mem := mem, tlb := tlb }) s

theorem PagesOnly.refl (s : State) : PagesOnly s s := ⟨_, _, rfl⟩

theorem PagesOnly.trans {s t u : State} (h : PagesOnly s t) (h' : PagesOnly t u) : PagesOnly s u := by
  obtain ⟨_, _, rfl⟩ := h
  obtain ⟨m, l, rfl⟩ := h'
  exact ⟨m, l, rfl⟩

theorem pagesOnly_foldl {α : Type} {f : State → α → State} (hf : ∀ s a, PagesOnly s (f s a)) (l : List α) (s : State) :
    PagesOnly s (l.foldl f s) := by
  induction l generalizing s with
  | nil => exact .refl s
  | cons a l ih => exact (hf s a).trans (ih _)

theorem pagesOnly_markUsed (as : AddrSpace) (w : Bool) (x : Leaf) (s : State) : PagesOnly s (markUsed as w x s) := by
  unfold markUsed
  extract_lets
  split
  · exact .refl s
  · exact ⟨_, _, rfl⟩

theorem pagesOnly_remember (as : AddrSpace) (w : Bool) (x : Leaf) (s : State) : PagesOnly s (remember as w x s) := by
  unfold remember
  split
  · split
    · exact .refl s
    · exact ⟨_, _, rfl⟩
  · exact ⟨_, _, rfl⟩

theorem pagesOnly_touch (as : AddrSpace) (u : Use) (f : Found) (s : State) : PagesOnly s (touch as u f s) :=
  (pagesOnly_markUsed _ _ _ s).trans (pagesOnly_remember _ _ _ _)

theorem pagesOnly_useSpot (w : Who) (u : Use) (p : Spot) (s : State) : PagesOnly s (useSpot w u p s) := by
  unfold useSpot
  split
  · exact pagesOnly_touch _ _ _ s
  · exact .refl s

theorem pagesOnly_useSpots (u : Use) (xs : List ElemSpot) (s : State) : PagesOnly s (useSpots u xs s) := by
  refine pagesOnly_foldl (fun s x => ?_) xs s
  have hx := pagesOnly_foldl (fun s p => pagesOnly_useSpot (self s) u p s) x.spots s
  cases x.expo with
  | none => exact hx
  | some e => exact hx.trans (pagesOnly_useSpot _ .read e _)

theorem PagesOnly.tile {s t : State} (h : PagesOnly s t) : t.tile = s.tile := by
  obtain ⟨_, _, rfl⟩ := h
  rfl

theorem PagesOnly.tileNo {s t : State} (h : PagesOnly s t) : t.tileNo = s.tileNo := by
  obtain ⟨_, _, rfl⟩ := h
  rfl

theorem PagesOnly.tileAt {s t : State} (h : PagesOnly s t) (n : Nat) : Machine.tileAt t n = Machine.tileAt s n := by
  obtain ⟨_, _, rfl⟩ := h
  rfl

theorem OrderOnly.tileNo {s t : State} (h : OrderOnly s t) : t.tileNo = s.tileNo := by
  obtain ⟨_, _, _, _, rfl⟩ := h
  rfl

theorem OrderOnly.net {s t : State} (h : OrderOnly s t) (n : Nat) : (Machine.tileAt t n).net = (Machine.tileAt s n).net := by
  obtain ⟨_, hn⟩ := h.tileAt n
  rw [hn]

theorem OrderOnly.unserved {s t : State} (h : OrderOnly s t) (n : Nat) :
    Machine.unserved (Machine.tileAt t n) = Machine.unserved (Machine.tileAt s n) := by
  obtain ⟨_, hn⟩ := h.tileAt n
  rw [hn]
  rfl

theorem OrderOnly.keyOn {s t : State} (h : OrderOnly s t) (n : Nat) : Machine.keyOn t n = Machine.keyOn s n := by
  obtain ⟨_, hn⟩ := h.tileAt n
  rw [Machine.keyOn, Machine.keyOn, hn]

end Sys2Proof.Machine
end

section
/-!
PROOFS. Where the element of a scalar access lies (R69 to R73, R87 to R89, R215): found whole in one page, of the stored
element's size, and in the scratchpad of no tile unless the space is local or the window.
-/

namespace Sys2Proof.Machine

open Sys2Proof Sys2Proof.Claims

set_option Elab.async false

/-! ### Computations that can stop -/

theorem bind_eq_ok {α β : Type} {x : Except Stop α} {f : α → Except Stop β} {b : β} :
    (x >>= f) = .ok b ↔ ∃ a, x = .ok a ∧ f a = .ok b := by
  cases x with
  | error e => exact ⟨fun h => (nomatch h), fun ⟨_, h, _⟩ => (nomatch h)⟩
  | ok a => exact ⟨fun h => ⟨a, rfl, h⟩, fun ⟨_, h, h'⟩ => by cases h; exact h'⟩

theorem map_eq_ok {α β : Type} {x : Except Stop α} {f : α → β} {b : β} :
    x.map f = .ok b ↔ ∃ a, x = .ok a ∧ f a = b := by
  cases x with
  | error e => exact ⟨fun h => (nomatch h), fun ⟨_, h, _⟩ => (nomatch h)⟩
  | ok a => exact ⟨fun h => ⟨a, rfl, Except.ok.inj h⟩, fun ⟨_, h, h'⟩ => by cases h; exact congrArg Except.ok h'⟩

theorem need_eq_ok {c : Bool} {e : Stop} {u : Unit} : need c e = .ok u ↔ c = true := by
  cases c with
  | false => exact ⟨fun h => (nomatch h), fun h => (nomatch h)⟩
  | true => exact ⟨fun _ => rfl, fun _ => rfl⟩

theorem both_eq_ok {α β : Type} {x : Except Stop α} {y : Except Stop β} {a : α} {b : β} :
    both x y = .ok (a, b) ↔ x = .ok a ∧ y = .ok b := by
  cases x <;> cases y <;> simp [both]

/-! ### Sizes (R73, R88) -/

/-- An element is stored in 1, 2, 4 or 8 bytes. -/
theorem storedBytes_cases (p : Option Nat) (t : Fmt) :
    storedBytes p t = 1 ∨ storedBytes p t = 2 ∨ storedBytes p t = 4 ∨ storedBytes p t = 8 := by
  have hsize : ∀ f : Fmt, max 1 (f.bits / 8) = 1 ∨ max 1 (f.bits / 8) = 2 ∨ max 1 (f.bits / 8) = 4 ∨
      max 1 (f.bits / 8) = 8 := fun f => by cases f <;> decide
  unfold storedBytes
  split
  · exact hsize t
  · split
    · exact hsize _
    · exact hsize t

theorem bits_of_ne_f4 {t : Fmt} (h : t ≠ .f4) : t.bits = 8 * (t.bits / 8) ∧ 1 ≤ t.bits / 8 := by
  revert h
  cases t <;> decide

theorem ne_f4_of_bits {t : Fmt} (h : 8 ≤ t.bits) : t ≠ .f4 := by
  rintro rfl
  exact absurd h (by decide)

theorem storedBytes_none {t : Fmt} (h : t ≠ .f4) : storedBytes none t = t.bits / 8 :=
  Nat.max_eq_right (bits_of_ne_f4 h).2

theorem ofCode_code (t : Fmt) : Fmt.ofCode t.code = some t := by cases t <;> rfl

/-- A write of a type to a page that it may go to takes the bytes of the type (R89). -/
theorem storedBytes_storeFormat {p : Option Nat} {t : Fmt} (ht : t ≠ .f4) (h : storeFormatOk p t = true) :
    storedBytes p t = t.bits / 8 := by
  cases p with
  | none => exact storedBytes_none ht
  | some c =>
    have hc : c = t.code := beq_iff_eq.1 h
    rw [storedBytes, hc, ofCode_code]
    exact Nat.max_eq_right (bits_of_ne_f4 ht).2

/-- An aligned element does not run into the next page. -/
theorem aligned_in_page {a n : Nat} (hn : n = 1 ∨ n = 2 ∨ n = 4 ∨ n = 8) (h : a % n = 0) : n ≤ 4096 - a % 4096 := by
  rcases hn with rfl | rfl | rfl | rfl <;> omega

/-! ### Places (R69 to R71, R371) -/

/-- Translation finds device memory or host memory (R368). -/
theorem locateIn_place {s : State} {as : AddrSpace} {u : Use} {start va : Nat} {f : Found}
    (h : locateIn s as u start va = .ok f) (n : Nat) : f.place ≠ .pad n := by
  have hplace : ∀ {x p a}, leafPlace s as x va = .ok (p, a) → p ≠ .pad n := by
    intro x p a hx
    unfold leafPlace at hx
    dsimp only at hx
    split at hx
    · split at hx
      · cases hx
        exact Place.noConfusion
      · exact nomatch hx
    · cases hx
      exact Place.noConfusion
  unfold locateIn at h
  split_ifs at h
  split at h
  · exact nomatch h
  · split at h
    · exact nomatch h
    · split at h
      · exact nomatch h
      · cases h
        exact hplace ‹_›

theorem globalByte_ok {s : State} {w : Who} {u : Use} {start addr : Nat} {p : Spot}
    (h : globalByte s w u start addr = .ok p) : (∀ n, p.piece.place ≠ .pad n) ∧ p.piece.n = 1 := by
  obtain ⟨f, hf, rfl⟩ := map_eq_ok.1 h
  exact ⟨locateIn_place hf, rfl⟩

/-- Bytes that lie in the page of the first are its page's. -/
theorem globalPair_ok {s : State} {w : Who} {u : Use} {addr n : Nat} {r : Spot × Option Spot}
    (h : globalPair s w u addr n = .ok r) (hn : n ≤ 4096 - addr % 4096) :
    ∃ f, globalByte s w u addr addr = .ok f ∧ r = ({ f with piece := { f.piece with n := n } }, none) := by
  obtain ⟨f, hf, hr⟩ := bind_eq_ok.1 h
  rw [Nat.min_eq_left hn] at hr
  simp only [le_refl, if_true] at hr
  exact ⟨f, hf, (Except.ok.inj hr).symm⟩

/-- What is known of the spot of an aligned scalar element: `n` bytes, outside every scratchpad in the global space and
of no page outside it. -/
structure SpotFacts (sp : Space) (n : Nat) (p : Spot) : Prop where
  size : p.piece.n = n
  glob : sp = .glob → ∀ k, p.piece.place ≠ .pad k
  unpaged : sp ≠ .glob → p.leaf = none

theorem localSpot_facts {w : Who} {addr n : Nat} {p : Spot} (h : localSpot w addr n = .ok p) : SpotFacts .loc n p := by
  unfold localSpot at h
  split at h
  · cases h
    exact ⟨rfl, fun h => (nomatch h), fun _ => rfl⟩
  · exact nomatch h

theorem windowSpot_facts {s : State} {w : Who} {addr n : Nat} {p : Spot} (h : windowSpot s w addr n = .ok p) :
    SpotFacts .win n p := by
  unfold windowSpot at h
  dsimp only at h
  split_ifs at h
  · cases h
    exact ⟨rfl, fun h => (nomatch h), fun _ => rfl⟩
  · split at h
    · cases h
      exact ⟨rfl, fun h => (nomatch h), fun _ => rfl⟩
    · exact nomatch h

theorem spotPair_facts {s : State} {w : Who} {sp : Space} {u : Use} {addr n : Nat} {r : Spot × Option Spot}
    (h : spotPair s w sp u addr n = .ok r) (hn : n ≤ 4096 - addr % 4096) : SpotFacts sp n r.1 ∧ r.2 = none := by
  cases sp with
  | glob =>
    obtain ⟨f, hf, rfl⟩ := globalPair_ok h hn
    exact ⟨⟨rfl, fun _ => (globalByte_ok hf).1, fun h => absurd rfl h⟩, rfl⟩
  | loc =>
    obtain ⟨p, hp, rfl⟩ := map_eq_ok.1 h
    exact ⟨localSpot_facts hp, rfl⟩
  | win =>
    obtain ⟨p, hp, rfl⟩ := map_eq_ok.1 h
    exact ⟨windowSpot_facts hp, rfl⟩

/-- The page of an element's first byte is the page of the element. -/
theorem spotPair_leaf {s : State} {w : Who} {sp : Space} {u : Use} {addr n : Nat} {p : Spot} {r : Spot × Option Spot}
    (hp : spotAt s w sp u addr 1 = .ok p) (hr : spotPair s w sp u addr n = .ok r) (hn : n ≤ 4096 - addr % 4096) :
    p.leaf = r.1.leaf := by
  cases sp with
  | glob =>
    obtain ⟨f, hf, rfl⟩ := globalPair_ok hr hn
    obtain ⟨q, hq, rfl⟩ := map_eq_ok.1 hp
    obtain ⟨g, hg, rfl⟩ := globalPair_ok hq (aligned_in_page (Or.inl rfl) (Nat.mod_one _))
    rw [hf] at hg
    cases hg
    rfl
  | loc => rw [(localSpot_facts hp).unpaged Space.noConfusion, (spotPair_facts hr hn).1.unpaged Space.noConfusion]
  | win => rw [(windowSpot_facts hp).unpaged Space.noConfusion, (spotPair_facts hr hn).1.unpaged Space.noConfusion]

/-- What is known of the element that an aligned access finds: it lies in one piece, and outside pages it has no exponent. -/
structure ElemFacts (sp : Space) (t : Fmt) (e : Elem) (x : ElemSpot) : Prop where
  elem : x.elem = e
  tail : x.tail = none
  spot : SpotFacts sp (storedBytes (pageFmt x.spot.leaf) t) x.spot
  expo : x.spot.leaf = none → x.expo = none

theorem findElem_facts {s : State} {sp : Space} {u : Use} {t : Fmt} {e : Elem} {x : ElemSpot} (he : e.loose = false)
    (h : findElem s sp u t e = .ok x) : ElemFacts sp t e x := by
  obtain ⟨first, hfirst, h⟩ := bind_eq_ok.1 h
  obtain ⟨spots, hspots, h⟩ := bind_eq_ok.1 h
  obtain ⟨⟨⟨⟩, ex⟩, hboth, h⟩ := bind_eq_ok.1 h
  cases h
  obtain ⟨halign, hex⟩ := both_eq_ok.1 hboth
  have hmod := need_eq_ok.1 halign
  rw [he, Bool.false_or, beq_iff_eq] at hmod
  have hn := aligned_in_page (storedBytes_cases (pageFmt first.leaf) t) hmod
  obtain ⟨hfacts, htail⟩ := spotPair_facts hspots hn
  refine ⟨rfl, htail, spotPair_leaf hfirst hspots hn ▸ hfacts, fun hleaf => ?_⟩
  rw [show spots.1.leaf = none from hleaf] at hex
  exact (Except.ok.inj hex).symm

/-- The element of a scalar access lies in one piece, of its stored size. -/
theorem findScalar_facts {s : State} {sp : Space} {u : Use} {t : Fmt} {addr : Nat} {x : ElemSpot}
    (h : findScalar s sp u t addr = .ok x) : ElemFacts sp t ⟨0, addr, false, false⟩ x := by
  unfold findScalar at h
  cases sp
  all_goals
    obtain ⟨_, -, h⟩ := bind_eq_ok.1 h
    obtain ⟨_, -, h⟩ := bind_eq_ok.1 h
    exact findElem_facts rfl h

/-- A piece in a scratchpad is of no page, and its use leaves everything as it was. -/
theorem ElemFacts.useSpots_pad {sp : Space} {t : Fmt} {e : Elem} {x : ElemSpot} (h : ElemFacts sp t e x) {n : Nat}
    (hpad : x.spot.piece.place = .pad n) (u : Use) (s : State) : useSpots u [x] s = s := by
  have hleaf : x.spot.leaf = none := h.spot.unpaged fun hsp => h.spot.glob hsp n hpad
  have hspot : useSpot (self s) u x.spot s = s := by rw [useSpot, hleaf]
  simp only [useSpots, ElemSpot.spots, h.tail, h.expo hleaf, Option.toList_none, List.foldl_cons, List.foldl_nil, hspot]

/-! ### The own scratchpad (R70, R73) -/

/-- An element outside the scratchpad: the range is checked first. -/
theorem findScalar_loc_outside {s : State} {u : Use} {t : Fmt} {addr : Nat} (ht : t ≠ .f4)
    (h : 0x200000 < addr + t.bits / 8) : findScalar s .loc u t addr = .error (.cause 0x048 (max addr 0x200000)) := by
  have hout : localSpot (self s) addr (storedBytes none t) = .error (.cause 0x048 (max addr 0x200000)) := by
    rw [storedBytes_none ht, localSpot, if_neg (by omega)]
  simp only [findScalar, hout]
  rfl

theorem localSpot_inside {w : Who} {addr n : Nat} (h : addr + n ≤ 0x200000) :
    localSpot w addr n = .ok ⟨⟨.pad w.tile, addr, n, padReport w.key.tile addr⟩, none⟩ := if_pos h

theorem findScalar_loc_misaligned {s : State} {u : Use} {t : Fmt} {addr : Nat} (ht : t ≠ .f4)
    (hin : addr + t.bits / 8 ≤ 0x200000) (h : addr % (t.bits / 8) ≠ 0) :
    findScalar s .loc u t addr = .error (.cause 0x04A addr) := by
  simp only [findScalar, storedBytes_none ht, localSpot_inside hin, beq_eq_false_iff_ne.2 h]
  rfl

theorem findScalar_loc_ok {s : State} {u : Use} {t : Fmt} {addr : Nat} (ht : t ≠ .f4)
    (hin : addr + t.bits / 8 ≤ 0x200000) (h : addr % (t.bits / 8) = 0) :
    findScalar s .loc u t addr = .ok (ownElem s addr (t.bits / 8)) := by
  have hone : addr + 1 ≤ 0x200000 := by have := (bits_of_ne_f4 ht).2; omega
  have hpage : pageFmt none = none := rfl
  simp only [findScalar, findElem, spotAt, spotPair, storedBytes_none ht, localSpot_inside hin, localSpot_inside hone,
    beq_iff_eq.2 h, ok_bind, need_true, Except.map, hpage, Bool.or_true]
  rfl

end Sys2Proof.Machine
end

section
/-!
PROOFS. LD and ST (R69, R70, R73, R88, R89, R214, R215, R372, R391): what a load or a store that may be performed leaves, in
every space and, byte by byte, in the own scratchpad.
-/

namespace Sys2Proof.Machine

open Sys2Proof Sys2Proof.Claims

set_option Elab.async false

/-! ### Flits and tiles -/

theorem tileAt_focus (s : State) : tileAt s s.tileNo = s.tile := if_pos rfl

theorem onTile_seq (n : Nat) {f : Tile → Tile} (hf : ∀ t, (f t).seq = t.seq) (s : State) :
    (onTile n f s).tile.seq = s.tile.seq := by
  unfold onTile setTile
  split
  · rename_i hn
    rw [hf, hn, tileAt_focus]
  · rfl

theorem quiet_onNet (n : Nat) (f : NetIf → NetIf) (s : State) : Quiet s (onNet n f s) := by
  refine ⟨fun p => ?_, ?_⟩
  · cases p with
    | pad m =>
      rw [placeMem, placeMem, onNet, tileAt_onTile]
      split
      · rename_i hm
        rw [hm]
      · rfl
    | dev =>
      unfold onNet onTile setTile
      split <;> rfl
    | host =>
      unfold onNet onTile setTile
      split <;> rfl
  · refine onTile_seq n ?_ s
    exact fun _ => rfl

theorem quiet_receive (n : Nat) (f : Flit) (s : State) : Quiet s (receive n f s) := quiet_onNet _ _ s

theorem quiet_postFlit (src m : Nat) (f : Flit) (s : State) : Quiet s (postFlit src m f s) := by
  unfold postFlit
  split
  · exact quiet_onNet _ _ s
  · exact quiet_receive _ _ s

/-- A flit that is sent waits at its receiver or at its sender. -/
theorem postFlit_waits (src m : Nat) (f : Flit) (s : State) :
    f ∈ (tileAt (postFlit src m f s) m).net.rx ∨
      ((keyOn s m).tile, f) ∈ (tileAt (postFlit src m f s) src).net.outbound := by
  unfold postFlit
  split
  · refine Or.inr ?_
    rw [onNet, tileAt_onTile, if_pos rfl]
    exact List.mem_append_right _ (List.mem_singleton_self _)
  · refine Or.inl ?_
    rw [receive, onNet, tileAt_onTile, if_pos rfl]
    exact List.mem_append_right _ (List.mem_singleton_self _)

theorem postFlit_tileNo (src m : Nat) (f : Flit) (s : State) : (postFlit src m f s).tileNo = s.tileNo := by
  unfold postFlit receive onNet onTile setTile
  split <;> split <;> rfl

/-! ### Bytes written -/

theorem setPlaceMem_seq (s : State) (p : Place) (m : Memory) : (setPlaceMem s p m).tile.seq = s.tile.seq := by
  cases p with
  | pad n =>
    refine onTile_seq n ?_ s
    exact fun _ => rfl
  | dev => rfl
  | host => rfl

theorem leBytes_getD (n v i : Nat) (b : Byte) :
    (leBytes n v).getD i b = if i < n then BitVec.ofNat 8 (v / 2 ^ (8 * i)) else b := by
  induction n generalizing v i with
  | zero => rfl
  | succ n ih =>
    cases i with
    | zero => simp [leBytes]
    | succ i =>
      rw [leBytes, List.getD_cons_succ, ih]
      simp only [Nat.add_lt_add_iff_right, Nat.div_div_eq_div_mul]
      rw [show 8 * (i + 1) = 8 + 8 * i by omega, pow_add]
      rfl

/-- A number written at a piece is stored there. -/
theorem stored_setPlaceMem {u : State} {p : Piece} (v : Nat) (hwf : (placeMem u p.place).wf = true) :
    Stored u (setPlaceMem u p.place ((placeMem u p.place).writeBytes p.addr (leBytes p.n v))) p v := by
  intro q a
  by_cases hq : q = p.place
  · subst hq
    rw [placeMem_setPlaceMem_same, Memory.read_writeBytes _ _ _ hwf, leBytes_getD]
    by_cases ha : p.addr ≤ a
    · rw [if_pos ha]
      exact if_congr (by simp [ha]; omega) rfl rfl
    · rw [if_neg ha, if_neg fun h => ha h.2.1]
  · rw [placeMem_setPlaceMem_ne _ _ hq, if_neg fun h => hq h.1]

/-- What is stored depends on the memories alone, before and after. -/
theorem stored_congr {u u' t t' : State} {p : Piece} {v : Nat} (h : Stored u t p v)
    (hu : ∀ q, placeMem u' q = placeMem u q) (ht : ∀ q, placeMem t' q = placeMem t q) : Stored u' t' p v :=
  fun q a => by rw [hu q, ht q, h q a]

/-! ### The end of an instruction -/

theorem placeMem_onFocus {f : Tile → Tile} (hf : ∀ t, (f t).pad = t.pad) (s : State) (p : Place) :
    placeMem (onFocus f s) p = placeMem s p := by
  cases p with
  | pad n =>
    rw [placeMem, placeMem, tileAt, tileAt, onFocus_tileNo, onFocus_others]
    split
    · exact hf s.tile
    · rfl
  | dev => rfl
  | host => rfl

theorem placeMem_advance (s : State) (p : Place) : placeMem (advance s) p = placeMem s p :=
  placeMem_onFocus (f := fun t => { Tile.onSeq (fun q => { q with vpc := getPc s + 8 }) t with
    fresh := none, barStage := none }) (fun _ => rfl) s p

theorem placeMem_setSubst (b : BitVec 3) (s : State) (p : Place) : placeMem (setSubst b s) p = placeMem s p := by
  refine placeMem_onFocus ?_ s p
  exact fun _ => rfl

theorem placeMem_setS (d : SReg) (v : Word) (s : State) (p : Place) : placeMem (setS d v s) p = placeMem s p := by
  unfold setS
  split
  · rfl
  · refine placeMem_onFocus ?_ s p
    exact fun _ => rfl

theorem net_advance (s : State) (n : Nat) : (tileAt (advance s) n).net = (tileAt s n).net := by
  rw [tileAt, tileAt, advance_tileNo, advance_others]
  split <;> rfl

theorem subst_setS (d : SReg) (v : Word) (s : State) : (setS d v s).tile.seq.subst = s.tile.seq.subst := by
  unfold setS
  split <;> rfl

section
variable {s t : State} (h : t.tile.seq = s.tile.seq)
include h

theorem getPc_congr : getPc t = getPc s := congrArg Seq.vpc h

theorem getS_congr (r : SReg) : getS t r = getS s r := by rw [getS, getS, h]

theorem getV_congr (r : VReg) : getV t r = getV s r := by rw [getV, getV, h]

theorem getP_congr (r : PReg) : getP t r = getP s r := by rw [getP, getP, h]

/-- An instruction that leaves the sequencer alone retires. -/
theorem registersKept_advance : RegistersKept s (advance t) := by
  refine ⟨?_, fun r => ?_, fun r => ?_, fun r => ?_⟩
  · rw [getPc_advance, getPc_congr h]
  · rw [getS_advance, getS_congr h]
  · rw [getV_advance, getV_congr h]
  · rw [getP_advance, getP_congr h]

/-- An instruction that leaves the sequencer alone but for SUBST writes S[d] and retires. -/
theorem wrote_advance_setS (d : SReg) (v : Word) : Wrote s d v (advance (setS d v t)) := by
  refine ⟨fun r => ?_, ?_⟩
  · rw [getS_advance, getS_setS, getS_congr h]
  · rw [getPc_advance, getPc_setS, getPc_congr h]

theorem wrote_advance_setSubst (d : SReg) (v : Word) (b : BitVec 3) : Wrote s d v (advance (setS d v (setSubst b t))) := by
  refine ⟨fun r => ?_, ?_⟩
  · rw [getS_advance, getS_setS, ← getS_congr h]
    rfl
  · rw [getPc_advance, getPc_setS, ← getPc_congr h]
    rfl

end

/-! ### Loads (R88, R95, R105, R215, R372) -/

/-- The value of an element depends on the bytes, the constant marks and ROUND.MODE, not on the marks (R88). -/
theorem elemValue_marks {s u : State} (h : MarksOnly s u) (const : Bool) (t : Fmt) (x : ElemSpot) :
    elemValue u const t x = elemValue s const t x := by
  have hbytes : ∀ c p, pieceBytes u c p = pieceBytes s c p := fun c p => by
    simp only [pieceBytes, h.placeMem]
    obtain ⟨_, rfl⟩ := h
    rfl
  simp only [elemValue, rawElem, elemBytes, hbytes, h.tile]

theorem awaitAcks_ok {s : State} (h : owedAcks s (me s) = false) : awaitAcks s = .ok () := by
  rw [awaitAcks, h]
  rfl

/-- The reads of a load that may be performed keep marks, and nothing else. -/
theorem performReads_ok {s : State} {m : MemOp} {xs : List ElemSpot} (h : MayLoad s m xs) :
    ∃ u, performReads s m xs = .ok u ∧ MarksOnly s u := by
  by_cases hplain : m.order = .plain
  · exact performReads_plain h hplain
  · let a := strandAccess s .sync false true
    have hsync : (m.order != .plain) = true := bne_iff_ne.2 hplain
    obtain ⟨hpeers, -, hown, hacks, htrap, hexpo⟩ := h
    simp only [hsync, if_neg hplain] at htrap hexpo
    refine ⟨mark (strandAccess s .load false false) (expoTouches xs) (mark a (touchesOf xs) s), ?_,
      (marksOnly_mark _ _ s).trans (marksOnly_mark _ _ _)⟩
    simp only [performReads, hsync, if_true, hpeers, hown, awaitAcks_ok (hacks hplain)]
    show (perform a (touchesOf xs) s >>= fun u => perform (strandAccess u .load false false) (expoTouches xs) u) = _
    rw [perform_ok htrap]
    exact perform_ok hexpo

theorem MarksOnly.orderOnly {s t : State} (h : MarksOnly s t) : OrderOnly s t := by
  obtain ⟨_, rfl⟩ := h
  exact ⟨_, _, _, _, rfl⟩

theorem orderOnly_noteLoad (m : MemOp) (xs : List ElemSpot) {s u : State} (h : OrderOnly s u) :
    OrderOnly (useSpots .read xs s) (noteLoad m xs u) := by
  unfold noteLoad
  dsimp only
  have hmark : OrderOnly s (if constLoad m = true then markConst (me u) (touchesOf xs) u else u) := by
    split
    · exact h.trans (orderOnly_markConst _ _ _)
    · exact h
  split
  · exact (hmark.useSpots .read xs).trans (orderOnly_acquireAll _ _ _)
  · exact hmark.useSpots .read xs

/-- A load that may be performed gives each lane its element; its pages are used, and the order is kept. -/
theorem performLoad_ok {s : State} {m : MemOp} {xs : List ElemSpot} (h : MayLoad s m xs) :
    ∃ t, performLoad s m xs = .ok (t, xs.map fun x => (x.elem.lane, elemValue s (constLoad m) m.ty x)) ∧
      OrderOnly (useSpots .read xs s) t := by
  obtain ⟨u, hreads, hu⟩ := performReads_ok h
  obtain ⟨-, hsound, -⟩ := h
  refine ⟨noteLoad m xs u, ?_, orderOnly_noteLoad m xs hu.orderOnly⟩
  simp only [performLoad, hreads, ok_bind, hu.poisonFree, hsound, elemValue_marks hu]

theorem substOf_singleton (r : Rep) : substOf [r] = r.2 := BitVec.zero_or

theorem exec_ld {s : State} {d a : SReg} {m : MemOp} {x : ElemSpot} {t : State} {r : Rep}
    (hx : findScalar s m.space .read m.ty (effAddr s a m.off) = .ok x)
    (hf : loadFormatOk (pageFmt x.spot.leaf) m.ty false = true)
    (ht : performLoad s m [x] = .ok (t, [(x.elem.lane, r)])) :
    exec (.ld d a m) s = .next (advance (setS d (extendElem m.ty r.1) (setSubst r.2 t))) := by
  show execLd d a m s = _
  simp only [execLd, hx, ok_bind, hf, need_true, ht, List.map_cons, List.map_nil, substOf_singleton]
  rfl

/-- R88, R215: LD in any space. -/
theorem ld_scalarLoad : ScalarLoad := by
  intro s d a m x hx hf hmay
  obtain ⟨t, ht, horder⟩ := performLoad_ok hmay
  have hseq : t.tile.seq = s.tile.seq := horder.quiet.2.trans (congrArg Tile.seq (useSpots_tile _ _ s))
  refine ⟨_, exec_ld hx hf ht, wrote_advance_setSubst hseq _ _ _, ?_, fun r => ?_, fun r => ?_, fun p b => ?_⟩
  · show (setS _ _ _).tile.seq.subst = _
    rw [subst_setS, ← hseq]
    rfl
  · rw [getV_advance, getV_setS]
    exact getV_congr hseq r
  · rw [getP_advance, getP_setS]
    exact getP_congr hseq r
  · rw [placeMem_advance, placeMem_setS, placeMem_setSubst, horder.quiet.1]

/-! ### Stores (R89, R215, R372, R391) -/

/-- The pages used and the order kept of a store that may be performed, before its bytes are written. -/
theorem performStore_ok {s : State} {m : MemOp} {xs : List ElemSpot} (h : MayStore s m xs) (val : Nat → Nat) :
    ∃ u, performStore s m val xs = .ok (writeOrder m xs (storeElems m.ty val xs u)) ∧
      OrderOnly (useSpots .write xs s) u := by
  obtain ⟨hown, hacks, htrap⟩ := h
  by_cases hplain : m.order = .plain
  · let a := strandAccess s .store true false
    simp only [hplain, bne_self_eq_false, if_true] at htrap
    refine ⟨useSpots .write xs (mark a (touchesOf xs) s), ?_, (orderOnly_mark _ _ s).useSpots .write xs⟩
    simp only [performStore, hplain, bne_self_eq_false, Bool.false_eq_true, if_false, hown]
    show (perform a (touchesOf xs) s >>= fun u => _) = _
    rw [perform_ok htrap]
    rfl
  · let a := strandAccess s .sync true true
    have hsync : (m.order != .plain) = true := bne_iff_ne.2 hplain
    simp only [hsync, if_neg hplain] at htrap
    refine ⟨useSpots .write xs (mark a (touchesOf xs) s), ?_, (orderOnly_mark _ _ s).useSpots .write xs⟩
    simp only [performStore, hsync, if_true, hown, awaitAcks_ok (hacks hplain)]
    show (perform a (touchesOf xs) s >>= fun u => _) = _
    rw [perform_ok htrap]
    rfl

theorem exec_st {s : State} {d a : SReg} {m : MemOp} {x : ElemSpot} {t : State}
    (hx : findScalar s m.space .write m.ty (effAddr s a m.off) = .ok x)
    (hf : storeFormatOk (pageFmt x.spot.leaf) m.ty = true)
    (ht : performStore s m (fun _ => (getS s d).toNat) [x] = .ok t) : exec (.st d a m) s = .next (advance t) := by
  show execSt d a m s = _
  simp only [execSt, hx, ok_bind, hf, need_true, ht]
  rfl

/-- An element in one piece is stored there. -/
theorem storeElems_singleton {t : Fmt} {x : ElemSpot} (ht : t ≠ .f4) (htail : x.tail = none) (v : Nat) (s : State) :
    storeElems t (fun _ => v) [x] s = storePiece x.spot.piece none (leBytes x.spot.piece.n v) s := by
  show storeElem t s x v = _
  rw [storeElem, if_neg ht, htail]

/-- A piece in storage that takes a store at once is written (R33, R391). -/
theorem storePiece_served {s : State} {p : Piece} (h : Served s p) (bytes : List Byte) :
    storePiece p none bytes s = setPlaceMem s p.place ((placeMem s p.place).writeBytes p.addr bytes) := by
  unfold storePiece putPiece
  split
  · rename_i n hn
    rw [if_neg]
    · rfl
    · rcases h n hn with rfl | hn
      · simp [self]
      · simp [hn]
  · rfl

/-- A store toward a peer that does not serve it is sent as a flit (R33, R391). -/
theorem storePiece_unserved {s : State} {p : Piece} {n : Nat} (hp : p.place = .pad n) (hn : n ≠ s.tileNo)
    (hu : unserved (tileAt s n) = true) (bytes : List Byte) :
    storePiece p none bytes s = postFlit s.tileNo n ⟨1, me s, false, p.addr, bytes, none, none⟩ s := by
  unfold storePiece putPiece
  rw [hp]
  dsimp only
  rw [if_pos (by simp [self, hn, hu])]
  rfl

/-- What holds of the tiles of `s` where a store writes its bytes, its pages used and its order checked. -/
structure StoreReady (s u : State) : Prop where
  seq : u.tile.seq = s.tile.seq
  tileNo : u.tileNo = s.tileNo
  unserved : ∀ n, unserved (tileAt u n) = unserved (tileAt s n)
  keyOn : ∀ n, keyOn u n = keyOn s n

theorem storeReady {s v u : State} (hv : PagesOnly s v) (hu : OrderOnly v u) : StoreReady s u where
  seq := hu.quiet.2.trans (congrArg Tile.seq hv.tile)
  tileNo := hu.tileNo.trans hv.tileNo
  unserved n := by rw [hu.unserved, hv.tileAt]
  keyOn n := by rw [hu.keyOn, keyOn, keyOn, hv.tileAt]

theorem StoreReady.served {s u : State} (h : StoreReady s u) {p : Piece} (hp : Served s p) : Served u p := fun n hn => by
  rw [h.tileNo, h.unserved]
  exact hp n hn

theorem StoreReady.me {s u : State} (h : StoreReady s u) : me u = me s := by
  rw [Machine.me, Machine.me, h.tileNo, h.keyOn]

/-- ST of an element in one piece of storage that takes it at once (R215). -/
theorem st_served {s : State} {d a : SReg} {m : MemOp} {x : ElemSpot} (hwf : memoriesWf s = true) (ht : m.ty ≠ .f4)
    (hx : findScalar s m.space .write m.ty (effAddr s a m.off) = .ok x)
    (hf : storeFormatOk (pageFmt x.spot.leaf) m.ty = true) (hmay : MayStore s m [x]) (hserved : Served s x.spot.piece) :
    Gives (.st d a m) s fun t => RegistersKept s t ∧ Stored (useSpots .write [x] s) t x.spot.piece (getS s d).toNat := by
  have htail := (findScalar_facts hx).tail
  obtain ⟨u, hperform, hu⟩ := performStore_ok hmay fun _ => (getS s d).toNat
  have hready := storeReady (pagesOnly_useSpots .write [x] s) hu
  rw [storeElems_singleton ht htail, storePiece_served (hready.served hserved)] at hperform
  refine ⟨_, exec_st hx hf hperform, registersKept_advance ?_, ?_⟩
  · rw [(orderOnly_writeOrder m [x] _).quiet.2, setPlaceMem_seq, hready.seq]
  · have hmem : (placeMem u x.spot.piece.place).wf = true := by
      rw [hu.quiet.1]
      exact wf_placeMem (memWf_useSpots (memWf_iff.2 hwf))
    exact stored_congr (stored_setPlaceMem _ hmem) (fun q => (hu.quiet.1 q).symm) fun q => by
      rw [placeMem_advance, (orderOnly_writeOrder m [x] _).quiet.1]

/-- ST toward the scratchpad of a peer that is stopped or halted (R391). -/
theorem st_unserved {s : State} {d a : SReg} {m : MemOp} {x : ElemSpot} {n : Nat} (ht : m.ty ≠ .f4)
    (hx : findScalar s m.space .write m.ty (effAddr s a m.off) = .ok x)
    (hf : storeFormatOk (pageFmt x.spot.leaf) m.ty = true) (hmay : MayStore s m [x]) (hpad : x.spot.piece.place = .pad n)
    (hn : n ≠ s.tileNo) (hstopped : unserved (tileAt s n) = true) :
    Gives (.st d a m) s fun t => RegistersKept s t ∧ SameBytes s t ∧ ∃ f : Flit, f.kind = 1 ∧ f.sender = me s ∧
      f.port = false ∧ f.nibble = none ∧ f.elem = none ∧ f.offset = x.spot.piece.addr ∧
      f.bytes = leBytes x.spot.piece.n (getS s d).toNat ∧
      (f ∈ (tileAt t n).net.rx ∨ ((keyOn s n).tile, f) ∈ t.tile.net.outbound) := by
  have hfacts := findScalar_facts hx
  obtain ⟨u, hperform, hu⟩ := performStore_ok hmay fun _ => (getS s d).toNat
  rw [hfacts.useSpots_pad hpad] at hu
  have hready := storeReady (.refl s) hu
  let f : Flit := ⟨1, me u, false, x.spot.piece.addr, leBytes x.spot.piece.n (getS s d).toNat, none, none⟩
  rw [storeElems_singleton ht hfacts.tail, storePiece_unserved hpad (hready.tileNo ▸ hn) ((hready.unserved n).trans hstopped)]
    at hperform
  have horder := orderOnly_writeOrder m [x] (postFlit u.tileNo n f u)
  have hq : Quiet s (writeOrder m [x] (postFlit u.tileNo n f u)) :=
    hu.quiet.trans ((quiet_postFlit _ _ _ u).trans horder.quiet)
  refine ⟨_, exec_st hx hf hperform, registersKept_advance hq.2, fun p b => ?_,
    f, rfl, hready.me, rfl, rfl, rfl, rfl, rfl, ?_⟩
  · rw [placeMem_advance, hq.1]
  · have hwaits := postFlit_waits u.tileNo n f u
    rw [← horder.net, ← horder.net, ← net_advance, ← net_advance _ u.tileNo, hready.keyOn] at hwaits
    refine hwaits.imp_right fun hout => ?_
    have hfocus : (advance (writeOrder m [x] (postFlit u.tileNo n f u))).tileNo = u.tileNo := by
      rw [advance_tileNo, horder.tileNo, postFlit_tileNo]
    rwa [show tileAt _ u.tileNo = _ from if_pos hfocus.symm] at hout

/-- R89, R215, R391: ST in any space. -/
theorem st_scalarStore : ScalarStore := fun _ _ _ _ _ hwf ht hx hf hmay =>
  ⟨st_served hwf ht hx hf hmay, fun _ hpad hn hstopped => st_unserved ht hx hf hmay hpad hn hstopped⟩

/-- Settles O20: scalar loads and stores in every space. -/
theorem scalarAccesses : Obligations.ScalarAccesses := ⟨ld_scalarLoad, st_scalarStore⟩

/-! ### The own scratchpad, byte by byte (R69, R70, R73) -/

theorem readBytes_eq_map (m : Memory) (a n : Nat) : m.readBytes a n = (List.range n).map fun i => m.read (a + i) := by
  induction n generalizing a with
  | zero => rfl
  | succ n ih =>
    rw [Memory.readBytes, ih, List.range_succ_eq_map, List.map_cons, List.map_map]
    exact congrArg _ (List.map_congr_left fun i _ => by rw [Function.comp_apply, Nat.add_right_comm, Nat.add_assoc])

/-- A load that is not constant reads the bytes as they stand. -/
theorem pieceBytes_plain (s : State) (p : Piece) :
    pieceBytes s false p = (placeMem s p.place).readBytes p.addr p.n := by
  simp only [pieceBytes, readBytes_eq_map, Bool.false_eq_true, if_false]

/-- The value of an element of the own scratchpad (R70). -/
theorem elemValue_ownElem (s : State) {t : Fmt} (ht : t ≠ .f4) (addr n : Nat) :
    elemValue s false t (ownElem s addr n) = (s.tile.pad.readNat addr n, 0) := by
  have hbytes : elemBytes s false (ownElem s addr n) = s.tile.pad.readBytes addr n := by
    rw [elemBytes, ownElem]
    simp only [ElemSpot.spots, Option.toList_none, List.flatMap_cons, List.flatMap_nil, List.append_nil, pieceBytes_plain,
      placeMem, tileAt_focus]
  have hfmt : pageFmt (ownElem s addr n).spot.leaf = none := rfl
  rw [elemValue, hfmt, rawElem, hbytes, hfmt]
  simp only [beq_eq_false_iff_ne.2 ht, Bool.false_eq_true, if_false]
  rfl

theorem finish_cause (s : State) (cause info : Nat) :
    finish s (.error (.cause cause info)) = .next (trapAt s.tileNo ⟨cause, BitVec.ofNat 64 info, 0, []⟩ s) := rfl

theorem exec_ld_stop {s : State} {d a : SReg} {m : MemOp} {cause info : Nat}
    (h : findScalar s m.space .read m.ty (effAddr s a m.off) = .error (.cause cause info)) :
    Traps (.ld d a m) s cause (BitVec.ofNat 64 info) 0 := by
  show execLd d a m s = _
  simp only [execLd, h, error_bind]
  exact finish_cause s cause info

theorem exec_st_stop {s : State} {d a : SReg} {m : MemOp} {cause info : Nat}
    (h : findScalar s m.space .write m.ty (effAddr s a m.off) = .error (.cause cause info)) :
    Traps (.st d a m) s cause (BitVec.ofNat 64 info) 0 := by
  show execSt d a m s = _
  simp only [execSt, h, error_bind]
  exact finish_cause s cause info

/-- Settles O19: LD and ST of the own scratchpad, by their elements in every space. -/
theorem ownScratchpad : Obligations.OwnScratchpad := by
  intro s d a m hloc ht hwf x n
  have hx : effAddr s a m.off = x := rfl
  have hconst : constLoad m = false := by rw [constLoad, hloc]; rfl
  refine ⟨fun hout => ⟨exec_ld_stop ?_, exec_st_stop ?_⟩, fun hin hodd => ⟨exec_ld_stop ?_, exec_st_stop ?_⟩,
    fun hin haligned hmay => ?_, fun hin haligned hmay => ?_⟩
  · rw [hloc, hx, findScalar_loc_outside ht hout]
  · rw [hloc, hx, findScalar_loc_outside ht hout]
  · rw [hloc, hx, findScalar_loc_misaligned ht hin hodd]
  · rw [hloc, hx, findScalar_loc_misaligned ht hin hodd]
  · have hfound : findScalar s m.space .read m.ty (effAddr s a m.off) = .ok (ownElem s x n) := by
      rw [hloc, hx, findScalar_loc_ok ht hin haligned]
    obtain ⟨t, ht', hwrote, -, -, -, hbytes⟩ := ld_scalarLoad s d a m _ hfound rfl hmay
    rw [hconst, elemValue_ownElem s ht] at hwrote
    exact ⟨t, ht', hwrote, hbytes⟩
  · have hfound : findScalar s m.space .write m.ty (effAddr s a m.off) = .ok (ownElem s x n) := by
      rw [hloc, hx, findScalar_loc_ok ht hin haligned]
    have hserved : Served s (ownElem s x n).spot.piece := fun k hk => Or.inl (Place.pad.inj hk).symm
    exact (st_scalarStore s d a m _ hwf ht hfound rfl hmay).1 hserved

end Sys2Proof.Machine
end

section
/-!
PROOFS. Atomics (R76, R111, R112, R219 to R221): what CAS and the AMOs give and write, and what a posted reduction leaves.
-/

namespace Sys2Proof.Machine

open Sys2Proof Sys2Proof.Claims

set_option Elab.async false

/-! ### Flits that have been performed (R390) -/

theorem quiet_releaseOne (src m i : Nat) (s : State) : Quiet s (releaseOne src m i s) := by
  unfold releaseOne
  dsimp only
  split
  · exact .refl s
  · split
    · exact .refl s
    · exact (quiet_onNet _ _ s).trans (quiet_receive _ _ _)

theorem quiet_releasePort (n : Nat) (s : State) : Quiet s (releasePort n s) := by
  unfold releasePort
  dsimp only
  split
  · exact .refl s
  · split
    · exact .refl s
    · exact (quiet_onNet _ _ s).trans (quiet_receive _ _ _)

theorem quiet_releaseCredits (n : Nat) (s : State) : Quiet s (releaseCredits n s) :=
  (quiet_foldl (fun s src => quiet_releaseOne src n (keyOn s n).tile s) _ s).trans (quiet_releasePort n _)

theorem quiet_dropAmo (k : StrandKey) (n : Nat) (s : State) : Quiet s (dropAmo k n s) := by
  unfold dropAmo
  split
  · split
    · exact (quiet_onNet _ _ s).trans (quiet_releaseCredits n _)
    · exact .refl s
  · exact .refl s

theorem quiet_amoLanded (p : Piece) (s : State) : Quiet s (amoLanded p s) := by
  unfold amoLanded
  split
  · split
    · exact .refl s
    · exact quiet_dropAmo _ _ s
  · exact .refl s

/-! ### An atomic on a found location (R219, R220) -/

theorem MarksOnly.poisonTrap {s u : State} (h : MarksOnly s u) (p : Piece) : poisonTrap u p = poisonTrap s p := by
  obtain ⟨_, rfl⟩ := h
  rfl

theorem findAtomic_ok {s : State} {m : MemOp} {addr operand : Nat} {x : ElemSpot}
    (hx : findScalar s m.space .update m.ty addr = .ok x) (hf : storeFormatOk (pageFmt x.spot.leaf) m.ty = true)
    (hacks : m.order ≠ .plain → owedAcks s (me s) = false) (hserved : amoServed s x.spot.piece operand = .ok ()) :
    findAtomic s m addr operand = .ok x := by
  by_cases hplain : m.order = .plain
  · simp only [findAtomic, hx, ok_bind, hf, need_true, hplain, bne_self_eq_false, Bool.false_eq_true, if_false, hserved]
  · simp only [findAtomic, hx, ok_bind, hf, need_true, bne_iff_ne.2 hplain, if_true, awaitAcks_ok (hacks hplain), hserved]

/-- The state with `v`, if anything, written at a piece in `n` bits. -/
def writtenAt (p : Piece) (n : Nat) (v : Option Nat) (s : State) : State :=
  match v with
  | some v => setPlaceMem s p.place ((placeMem s p.place).writeNat p.addr p.n (v % 2 ^ n))
  | none => s

theorem writtenAt_seq (p : Piece) (n : Nat) (v : Option Nat) (s : State) :
    (writtenAt p n v s).tile.seq = s.tile.seq := by
  cases v with
  | none => rfl
  | some v => exact setPlaceMem_seq _ _ _

/-- An atomic that may be performed gives the old value, uses its page and writes what `new` says. -/
theorem performAtomic_ok {s : State} {m : MemOp} {x : ElemSpot} {new : Nat → Option Nat}
    (hpoison : poisonTrap s x.spot.piece = .ok ())
    (htrap : orderTrap s { strandAccess s .sync (new (valueAt s x.spot.piece)).isSome true with claims := true }
      x.spot.piece.touches = none) :
    ∃ u t, performAtomic s m x new = .ok (t, valueAt s x.spot.piece) ∧
      OrderOnly (useSpot (self s) .update x.spot s) u ∧
      Quiet (writtenAt x.spot.piece m.ty.bits (new (valueAt s x.spot.piece)) u) t := by
  have hmark := marksOnly_mark { strandAccess s .sync (new (valueAt s x.spot.piece)).isSome true with claims := true }
    x.spot.piece.touches s
  refine ⟨_, _, ?_, hmark.orderOnly.useOwnSpot .update x.spot,
    (orderOnly_atomicOrder m x.spot.piece (new (valueAt s x.spot.piece)).isSome _).quiet.trans (quiet_amoLanded x.spot.piece _)⟩
  unfold performAtomic
  dsimp only
  rw [show (placeMem s x.spot.piece.place).readNat x.spot.piece.addr x.spot.piece.n = valueAt s x.spot.piece from rfl,
    perform_ok htrap, ok_bind, hmark.poisonTrap, hpoison, ok_bind]
  rfl

/-- Only the bits of the piece count in what is stored there. -/
theorem stored_mod {u t : State} {p : Piece} {v n : Nat} (hn : n = 8 * p.n) (h : Stored u t p (v % 2 ^ n)) :
    Stored u t p v := by
  intro q a
  rw [h q a]
  by_cases hq : q = p.place ∧ p.addr ≤ a ∧ a < p.addr + p.n
  · rw [if_pos hq, if_pos hq]
    obtain ⟨-, hlo, hhi⟩ := hq
    obtain ⟨k, hk⟩ : ∃ k, n = 8 * (a - p.addr) + (8 + k) := ⟨n - (8 * (a - p.addr) + 8), by omega⟩
    refine BitVec.eq_of_toNat_eq ?_
    rw [BitVec.toNat_ofNat, BitVec.toNat_ofNat, hk, pow_add, Nat.mod_mul_right_div_self,
      Nat.mod_mod_of_dvd _ (pow_dvd_pow 2 (Nat.le_add_right 8 k))]
  · rw [if_neg hq, if_neg hq]

/-- What an atomic leaves where it writes: the value stands at its location and nothing else changed. -/
theorem stored_writtenAt {s u t : State} {x : ElemSpot} {n v : Nat} (hwf : memoriesWf s = true) (hn : n = 8 * x.spot.piece.n)
    (hu : OrderOnly (useSpot (self s) .update x.spot s) u) (ht : Quiet (writtenAt x.spot.piece n (some v) u) t) :
    Stored (useSpot (self s) .update x.spot s) t x.spot.piece v := by
  have hmem : (placeMem u x.spot.piece.place).wf = true := by
    rw [hu.quiet.1]
    exact wf_placeMem (memWf_useSpot (memWf_iff.2 hwf))
  exact stored_congr (stored_mod hn (stored_setPlaceMem _ hmem)) (fun q => (hu.quiet.1 q).symm) ht.1

/-- The element of an atomic takes the bytes of its type. -/
theorem atomic_size {s : State} {m : MemOp} {addr : Nat} {x : ElemSpot} (hbits : 8 ≤ m.ty.bits)
    (hx : findScalar s m.space .update m.ty addr = .ok x) (hf : storeFormatOk (pageFmt x.spot.leaf) m.ty = true) :
    m.ty.bits = 8 * x.spot.piece.n := by
  have ht := ne_f4_of_bits hbits
  rw [(findScalar_facts hx).spot.size, storedBytes_storeFormat ht hf]
  exact (bits_of_ne_f4 ht).1

theorem exec_cas {s : State} {d a b : SReg} {m : MemOp} {x : ElemSpot} {t : State} {old : Nat}
    (hx : findAtomic s m (effAddr s a m.off) (getS s b).toNat = .ok x) (hown : ownRouted s x.spot.piece.touches = .ok ())
    (ht : performAtomic s m x (fun old => if old = (getS s d).toNat % 2 ^ m.ty.bits then
      some ((getS s b).toNat % 2 ^ m.ty.bits) else none) = .ok (t, old)) :
    exec (.cas d a b m) s = .next (advance (setS d (extendElem m.ty old) t)) := by
  show execCas d a b m s = _
  simp only [execCas, hx, ok_bind, hown, ht]
  rfl

theorem sameBytes_advance_setS {s t : State} (h : ∀ p, placeMem t p = placeMem s p) (d : SReg) (v : Word) :
    SameBytes s (advance (setS d v t)) := fun p a => by
  rw [placeMem_advance, placeMem_setS, h]

theorem stored_advance_setS {s t : State} {p : Piece} {w : Nat} (h : Stored s t p w) (d : SReg) (v : Word) :
    Stored s (advance (setS d v t)) p w :=
  stored_congr h (fun _ => rfl) fun q => by rw [placeMem_advance, placeMem_setS]

/-- R76, R219: CAS. -/
theorem cas_compareAndSwap : CompareAndSwap := by
  intro s d a b m x hwf hbits hx hf old same
  have hsize := atomic_size hbits hx hf
  have hpages := pagesOnly_useSpot (self s) .update x.spot s
  let new := fun old => if old = (getS s d).toNat % 2 ^ m.ty.bits then some ((getS s b).toNat % 2 ^ m.ty.bits) else none
  refine ⟨fun ⟨hserved, hpoison, hacks, hown, htrap⟩ hsame => ?_, fun ⟨hserved, hpoison, hacks, hown, htrap⟩ hsame => ?_⟩
  · have hnew : new old = some ((getS s b).toNat % 2 ^ m.ty.bits) := if_pos hsame
    obtain ⟨u, t, ht, hu, hq⟩ := performAtomic_ok (m := m) (new := new) hpoison (by rw [hnew]; exact htrap)
    rw [hnew] at hq
    refine ⟨_, exec_cas (findAtomic_ok hx hf hacks hserved) hown ht, wrote_advance_setS ?_ _ _, ?_⟩
    · rw [hq.2, writtenAt_seq, hu.quiet.2, hpages.tile]
    · exact stored_advance_setS (stored_mod hsize (stored_writtenAt hwf hsize hu hq)) _ _
  · have hnew : new old = none := if_neg hsame
    obtain ⟨u, t, ht, hu, hq⟩ := performAtomic_ok (m := m) (new := new) hpoison (by rw [hnew]; exact htrap)
    rw [hnew] at hq
    have hqu : Quiet (useSpot (self s) .update x.spot s) t := hu.quiet.trans hq
    refine ⟨_, exec_cas (findAtomic_ok hx hf hacks hserved) hown ht, wrote_advance_setS ?_ _ _, ?_⟩
    · rw [hqu.2, hpages.tile]
    · exact sameBytes_advance_setS hqu.1 _ _

/-! ### The AMOs (R112, R220) -/

/-- The new value of an AMO is R220's. -/
theorem amoValue_eq (op : AmoKind) (n old x : Nat) : amoValue op n old x = amoNew op n old x := by
  cases op with
  | min =>
    show _ = if signedOf n old ≤ signedOf n x then old else x
    rw [← ite_not, amoValue]
    exact if_congr not_le.symm rfl rfl
  | max =>
    show _ = if signedOf n x ≤ signedOf n old then old else x
    rw [← ite_not, amoValue]
    exact if_congr not_le.symm rfl rfl
  | minz =>
    show (if x < old then x else old) = min old x
    split <;> omega
  | maxz =>
    show (if old < x then x else old) = max old x
    split <;> omega
  | add => rfl
  | and => rfl
  | or => rfl
  | xor => rfl
  | swap => rfl
  | faddF32 => rfl
  | faddBf16 => rfl

/-- Every AMO is `execAmo` of its operation. -/
theorem exec_amo {i : Instr} {op : AmoKind} {d a b : SReg} {det : Bool} {m : MemOp} (h : Claims.amoOf i = some (op, d, a, b, det, m))
    (s : State) : exec i s = execAmo op d a b det m s := by
  unfold Claims.amoOf at h
  split at h
  all_goals
    cases h
  all_goals
    rfl

theorem reduction_iff (d : SReg) (m : MemOp) : reduction d m = true ↔ m.order = .plain ∧ d = 0 ∧ m.space = .glob := by
  simp [reduction, and_assoc]

theorem execAmo_performed {s : State} {op : AmoKind} {d a b : SReg} {det : Bool} {m : MemOp} {x : ElemSpot} {t : State}
    {old : Nat} (hx : findAtomic s m (effAddr s a m.off) ((getS s b).toNat % 2 ^ m.ty.bits) = .ok x)
    (hred : ¬ (m.order = .plain ∧ d = 0 ∧ m.space = .glob)) (hown : ownRouted s x.spot.piece.touches = .ok ())
    (ht : performAtomic s m x (fun old => some (amoValue op m.ty.bits old ((getS s b).toNat % 2 ^ m.ty.bits))) = .ok (t, old)) :
    execAmo op d a b det m s = .next (advance (setS d (extendElem m.ty old) t)) := by
  simp only [execAmo, hx, ok_bind, Bool.eq_false_iff.2 (mt (reduction_iff d m).1 hred), Bool.false_eq_true, if_false, hown, ht]
  rfl

/-- R112, R220: the AMOs that are no posted reductions. -/
theorem amo_atomicOperations : AtomicOperations := by
  intro s i op d a b det m x hi hwf hbits _ _ hx hf ⟨hserved, hpoison, hacks, hown, htrap⟩ hred old
  have hsize := atomic_size hbits hx hf
  obtain ⟨u, t, ht, hu, hq⟩ := performAtomic_ok (m := m)
    (new := fun old => some (amoValue op m.ty.bits old ((getS s b).toNat % 2 ^ m.ty.bits))) hpoison htrap
  rw [amoValue_eq] at hq
  refine ⟨_, (exec_amo hi s).trans (execAmo_performed (findAtomic_ok hx hf hacks hserved) hred hown ht),
    wrote_advance_setS ?_ _ _, ?_⟩
  · rw [hq.2, writtenAt_seq, hu.quiet.2, (pagesOnly_useSpot (self s) .update x.spot s).tile]
  · exact stored_advance_setS (stored_writtenAt hwf hsize hu hq) _ _

/-! ### Posted reductions (R111, R221) -/

/-- What a posted reduction puts into the routers. -/
def posted (s : State) (op : AmoKind) (det : Bool) (m : MemOp) (p : Piece) (operand : Nat) : RouterAmo where
  opcode := amoCode op
  ty := m.ty
  fn := (taskOf s (me s)).fn
  va := word p.report
  place := p.place
  addr := p.addr
  operand := operand
  parts := [(me s, s.tile.ord.fences)]
  noMerge := det || (taskOf s (me s)).trec.det

/-- One request more stands last in the routers. -/
def routed (r : RouterAmo) (s : State) : State := onDev (fun d => { d with router := d.router ++ [r] }) s

theorem quiet_routed (r : RouterAmo) (s : State) : Quiet s (routed r s) :=
  ⟨fun p => by cases p <;> rfl, rfl⟩

/-- A reduction that may be posted uses its page and stands last in the routers. -/
theorem postReduction_ok {s : State} {op : AmoKind} {det : Bool} {m : MemOp} {x : ElemSpot} {operand : Nat}
    (hpoison : poisonTrap s x.spot.piece = .ok ())
    (htrap : orderTrap s (strandAccess s .sync true true) x.spot.piece.touches = none) :
    ∃ u, OrderOnly (useSpot (self s) .update x.spot s) u ∧ postReduction op det m x operand s =
      .ok (nextPo (routed (posted s op det m x.spot.piece operand) u)) := by
  have hmark := marksOnly_mark (strandAccess s .sync true true) x.spot.piece.touches s
  refine ⟨_, hmark.orderOnly.useOwnSpot .update x.spot, ?_⟩
  unfold postReduction
  dsimp only
  rw [perform_ok htrap, ok_bind, hmark.poisonTrap, hpoison, ok_bind]
  rfl

theorem amoServed_global {s : State} {p : Piece} (h : ∀ n, p.place ≠ .pad n) (operand : Nat) :
    amoServed s p operand = .ok () := by
  unfold amoServed
  split
  · exact absurd ‹_› (h _)
  · rfl

theorem execAmo_posted {s : State} {op : AmoKind} {a b : SReg} {det : Bool} {m : MemOp} {x : ElemSpot} {t : State}
    (hx : findAtomic s m (effAddr s a m.off) ((getS s b).toNat % 2 ^ m.ty.bits) = .ok x) (hplain : m.order = .plain)
    (hglob : m.space = .glob) (ht : postReduction op det m x ((getS s b).toNat % 2 ^ m.ty.bits) s = .ok t) :
    execAmo op 0 a b det m s = .next (advance t) := by
  simp only [execAmo, hx, ok_bind, (reduction_iff 0 m).2 ⟨hplain, rfl, hglob⟩, if_true, ht]
  rfl

theorem OrderOnly.router {s t : State} (h : OrderOnly s t) : t.dev.router = s.dev.router := by
  obtain ⟨_, _, _, _, rfl⟩ := h
  rfl

theorem PagesOnly.router {s t : State} (h : PagesOnly s t) : t.dev.router = s.dev.router := by
  obtain ⟨_, _, rfl⟩ := h
  rfl

/-- R111, R221: reductions whose result is not wanted. -/
theorem amo_postedReductions : PostedReductions := by
  intro s i op a b det m x hi hplain hglob hx hf hpoison htrap
  have hpages := pagesOnly_useSpot (self s) .update x.spot s
  have hserved := amoServed_global (s := s) ((findScalar_facts hx).spot.glob hglob) ((getS s b).toNat % 2 ^ m.ty.bits)
  obtain ⟨u, hu, ht⟩ := postReduction_ok (op := op) (det := det) (m := m) (operand := (getS s b).toNat % 2 ^ m.ty.bits)
    hpoison htrap
  let r := posted s op det m x.spot.piece ((getS s b).toNat % 2 ^ m.ty.bits)
  have hq := hu.quiet.trans ((quiet_routed r u).trans (orderOnly_nextPo _).quiet)
  refine ⟨_, (exec_amo hi s).trans
    (execAmo_posted (findAtomic_ok hx hf (fun h => absurd hplain h) hserved) hplain hglob ht), registersKept_advance ?_,
    fun p c => ?_,
    r, ?_, rfl, rfl, rfl, rfl, rfl, Bool.or_eq_true_iff⟩
  · exact hq.2.trans (congrArg Tile.seq hpages.tile)
  · rw [placeMem_advance, hq.1]
  · rw [← hpages.router, ← hu.router]
    rfl

/-- Settles O22: CAS, the AMOs and posted reductions. -/
theorem atomics : Obligations.Atomics := ⟨cas_compareAndSwap, amo_atomicOperations, amo_postedReductions⟩

end Sys2Proof.Machine
end

section
/-!
PROOFS. LAUNCH, SIGINC and TDNARROW (R82, R89, R176, R177, R181, R182, R350): the record read and the ring slot written leave
registers and queues alone; the counter's atomic; the checks of a narrowing block in their order.
-/

namespace Sys2Proof.Machine

open Sys2Proof Sys2Proof.Claims

set_option Elab.async false

/-! ### LAUNCH (R176, R350) -/

/-- The tile in focus and the queue registers are as they were. -/
def KeepsQueues (s t : State) : Prop := t.tile = s.tile ∧ t.dev.queues = s.dev.queues

theorem KeepsQueues.refl (s : State) : KeepsQueues s s := ⟨rfl, rfl⟩

theorem KeepsQueues.trans {s t u : State} (h : KeepsQueues s t) (h' : KeepsQueues t u) : KeepsQueues s u :=
  ⟨h'.1.trans h.1, h'.2.trans h.2⟩

theorem KeepsQueues.queueAt {s t : State} (h : KeepsQueues s t) (q : Nat) : queueAt t q = queueAt s q := by
  rw [Machine.queueAt, Machine.queueAt, h.2]

theorem PagesOnly.keepsQueues {s t : State} (h : PagesOnly s t) : KeepsQueues s t := by
  obtain ⟨_, _, rfl⟩ := h
  exact .refl s

theorem MarksOnly.keepsQueues {s t : State} (h : MarksOnly s t) : KeepsQueues s t := by
  obtain ⟨_, rfl⟩ := h
  exact .refl s

/-- A memory other than a scratchpad is put. -/
theorem keepsQueues_setPlaceMem {p : Place} (hp : ∀ n, p ≠ .pad n) (s : State) (m : Memory) :
    KeepsQueues s (setPlaceMem s p m) := by
  cases p with
  | pad n => exact absurd rfl (hp n)
  | dev => exact .refl s
  | host => exact .refl s

theorem perform_eq_ok {a : Access} {ts : List Touch} {s t : State} (h : perform a ts s = .ok t) : MarksOnly s t := by
  unfold perform at h
  split at h
  · exact nomatch h
  · cases h
    exact marksOnly_mark a ts s

theorem keepsQueues_coherentFrom {s u : State} {start addr n : Nat} {bytes : List Byte}
    (h : coherentFrom s start addr n = .ok (u, bytes)) : KeepsQueues s u := by
  induction n generalizing s u addr bytes with
  | zero =>
    cases h
    exact .refl s
  | succ n ih =>
    obtain ⟨p, -, h⟩ := bind_eq_ok.1 h
    obtain ⟨_, -, h⟩ := bind_eq_ok.1 h
    obtain ⟨v, hv, h⟩ := bind_eq_ok.1 h
    obtain ⟨_, -, h⟩ := bind_eq_ok.1 h
    obtain ⟨⟨w, rest⟩, hw, h⟩ := bind_eq_ok.1 h
    cases h
    exact (perform_eq_ok hv).keepsQueues.trans ((pagesOnly_useSpot _ _ p v).keepsQueues.trans (ih hw))

theorem keepsQueues_coherentBytes {s u : State} {addr n : Nat} {bytes : List Byte}
    (h : coherentBytes s addr n = .ok (u, bytes)) : KeepsQueues s u := keepsQueues_coherentFrom h

theorem keepsQueues_pasidWrite {fn pasid addr : Nat} {bytes : List Byte} {s t : State}
    (h : pasidWrite fn pasid addr bytes s = some t) : KeepsQueues s t := by
  induction bytes generalizing s addr with
  | nil =>
    cases h
    exact .refl _
  | cons b bytes ih =>
    obtain ⟨_, -, h⟩ := Option.bind_eq_some_iff.1 h
    obtain ⟨htile, hqueues⟩ := ih h
    exact ⟨htile, hqueues⟩

theorem keepsQueues_devWriteIn {as : AddrSpace} {start va : Nat} {bytes : List Byte} {s t : State}
    (h : devWriteIn as start va bytes s = .ok t) : KeepsQueues s t := by
  induction bytes generalizing s va with
  | nil =>
    cases h
    exact .refl _
  | cons b bytes ih =>
    obtain ⟨f, hf, h⟩ := bind_eq_ok.1 h
    exact (pagesOnly_touch as .write f s).keepsQueues.trans
      ((keepsQueues_setPlaceMem (locateIn_place hf) _ _).trans (ih h))

theorem keepsQueues_writeSlot {q i : Nat} {bytes : List Byte} {s t : State} (h : writeSlot q i bytes s = some t) :
    KeepsQueues s t := by
  unfold writeSlot at h
  dsimp only at h
  split_ifs at h
  · exact keepsQueues_pasidWrite h
  · split at h
    · cases h
      exact keepsQueues_devWriteIn ‹_›
    · exact nomatch h

/-- Whether LAUNCH may use queue `q` (R176, R351). -/
def OpenQueue (s : State) (q : Nat) : Prop :=
  q < 4096 ∧ (queueAt s q).devenq = true ∧ (queueAt s q).owner = (taskOf s (me s)).fn ∧
    (queueAt s q).state ≠ .disabled ∧ (queueAt s q).state ≠ .error

theorem openTo_iff {s : State} {q : Nat} : openTo s (me s) q = true ↔ OpenQueue s q := by
  simp only [openTo, OpenQueue, Bool.and_eq_true, decide_eq_true_eq, beq_iff_eq, bne_iff_ne, and_assoc]
  exact Iff.rfl

theorem queueFull_iff {r : Queue} : queueFull r = true ↔ (r.tail + 2 ^ 32 - r.head) % 2 ^ 32 = 2 ^ r.qlog2 := beq_iff_eq

theorem exec_launch (d a b : SReg) (s : State) : exec (.launch d a b) s = execLaunch d a b s := rfl

theorem launch_closed {s : State} {b : SReg} (d a : SReg) (h : ¬ OpenQueue s (getS s b).toNat) :
    Traps (.launch d a b) s 0x183 (getS s b) 0 := by
  rw [Traps, exec_launch]
  simp only [execLaunch, Bool.eq_false_iff.2 (mt openTo_iff.1 h), need_false, error_bind, cause_toNat]
  rfl

theorem launch_noncanonical {s : State} {a b : SReg} (d : SReg) (h : OpenQueue s (getS s b).toNat)
    (hx : ¬ Canonical (getS s a)) : Traps (.launch d a b) s 0x040 (getS s a) 0 := by
  rw [Traps, exec_launch]
  simp only [execLaunch, openTo_iff.2 h, need_true, ok_bind, canonical_eq_false hx, need_false, error_bind, cause_toNat]
  rfl

theorem launch_misaligned {s : State} {a b : SReg} (d : SReg) (h : OpenQueue s (getS s b).toNat)
    (hx : Canonical (getS s a)) (ha : (getS s a).toNat % 256 ≠ 0) : Traps (.launch d a b) s 0x04A (getS s a) 0 := by
  rw [Traps, exec_launch]
  simp only [execLaunch, openTo_iff.2 h, need_true, ok_bind, (canonical_toNat _).2 hx, beq_eq_false_iff_ne.2 ha, need_false,
    error_bind, cause_toNat]
  rfl

/-- LAUNCH once its record has been read. -/
theorem launch_read {s u : State} {a b : SReg} {bytes : List Byte} (d : SReg) (h : OpenQueue s (getS s b).toNat)
    (hx : Canonical (getS s a)) (ha : (getS s a).toNat % 256 = 0)
    (hu : coherentBytes s (getS s a).toNat 256 = .ok (u, bytes)) :
    exec (.launch d a b) s = .next (advance (if queueFull (queueAt s (getS s b).toNat) = true then setS d 0 u
      else appendRecord d (getS s b).toNat bytes u)) := by
  rw [exec_launch]
  simp only [execLaunch, openTo_iff.2 h, need_true, ok_bind, (canonical_toNat _).2 hx, beq_iff_eq.2 ha, hu]
  rfl

theorem appendRecord_written {q : Nat} {bytes : List Byte} {s t : State} (d : SReg)
    (h : writeSlot q (queueAt s q).tail bytes s = some t) :
    appendRecord d q bytes s = setS d 1 (onQueue q (fun r => { r with tail := (r.tail + 1) % 2 ^ 32 }) t) := by
  rw [appendRecord, h]

theorem appendRecord_failed {q : Nat} {bytes : List Byte} {s : State} (d : SReg)
    (h : writeSlot q (queueAt s q).tail bytes s = none) : appendRecord d q bytes s = setS d 0 (queueError q 3 s) := by
  rw [appendRecord, h]

theorem queueAt_onQueue (q : Nat) (g : Queue → Queue) (s : State) : queueAt (onQueue q g s) q = g (queueAt s q) := by
  simp only [queueAt, onQueue, onDev_dev, look_keep, if_true]

theorem queueAt_congr {s t : State} (h : t.dev = s.dev) (q : Nat) : queueAt t q = queueAt s q := by
  rw [queueAt, queueAt, h]

theorem queueAt_advance_setS (d : SReg) (v : Word) (s : State) (q : Nat) :
    queueAt (advance (setS d v s)) q = queueAt s q := queueAt_congr (by rw [advance_dev, setS_dev]) q

/-- What the ERROR of a queue leaves of its registers (R350, R362). -/
theorem queueAt_queueError (q code : Nat) (s : State) :
    ((queueAt s q).state ≠ .aborting →
      (queueAt (queueError q code s) q).state = .error ∧ (queueAt (queueError q code s) q).err = code) ∧
    (queueAt (queueError q code s) q).tail = (queueAt s q).tail := by
  rw [queueError, queueAt_onQueue]
  split
  · exact ⟨fun h => absurd ‹_› h, rfl⟩
  · exact ⟨fun _ => ⟨rfl, rfl⟩, rfl⟩

/-- R176, R350: LAUNCH. -/
theorem launch_appendsRecord : Launch := by
  intro s d a b x q r isOpen full
  refine ⟨launch_closed d a, launch_noncanonical d, launch_misaligned d, fun hopen hx ha u bytes hu => ?_⟩
  have hexec := launch_read d hopen hx ha hu
  have hkeep : KeepsQueues s u := keepsQueues_coherentBytes hu
  refine ⟨fun hfull => ?_, fun hfull v hv => ?_, fun hfull hv => ?_⟩
  · rw [if_pos (queueFull_iff.2 hfull)] at hexec
    exact ⟨_, hexec, wrote_advance_setS (congrArg Tile.seq hkeep.1) _ _, by rw [advance_dev, setS_dev]⟩
  · have hslot : writeSlot q (queueAt u q).tail bytes u = some v := by rw [hkeep.queueAt]; exact hv
    have hkeep' := hkeep.trans (keepsQueues_writeSlot hslot)
    rw [if_neg (mt queueFull_iff.1 hfull), appendRecord_written d hslot] at hexec
    refine ⟨_, hexec, wrote_advance_setS ?_ _ _, ?_, ?_, ?_⟩
    · exact (congrArg Tile.seq hkeep'.1 :)
    · rw [advance_dev, setS_dev]
    · rw [queueAt_advance_setS, queueAt_onQueue, hkeep'.queueAt]
    · rw [queueAt_advance_setS, queueAt_onQueue, hkeep'.queueAt]
  · have hslot : writeSlot q (queueAt u q).tail bytes u = none := by rw [hkeep.queueAt]; exact hv
    rw [if_neg (mt queueFull_iff.1 hfull), appendRecord_failed d hslot] at hexec
    obtain ⟨herror, htail⟩ := queueAt_queueError q 3 u
    refine ⟨_, hexec, wrote_advance_setS ?_ _ _, fun hstate => ?_, ?_⟩
    · exact (congrArg Tile.seq hkeep.1 :)
    · rw [queueAt_advance_setS]
      exact herror (by rw [hkeep.queueAt]; exact hstate)
    · rw [queueAt_advance_setS, htail, hkeep.queueAt]

/-! ### SIGINC (R177) -/

/-- The access of SIGINC: an atomic of an 8-byte global counter, releasing at device scope. -/
def counterOp : MemOp := ⟨.s64, .glob, .rel, .dev, false, 0⟩

/-- A page that the counter may lie in: untyped, S64 or Z64. -/
def CounterPage (p : Option Nat) : Prop := p = none ∨ p = some 0x03 ∨ p = some 0x07

theorem counterPage_format {p : Option Nat} (h : CounterPage p) : (storeFormatOk p .s64 || storeFormatOk p .z64) = true := by
  rcases h with rfl | rfl | rfl <;> rfl

theorem counterPage_size {p : Option Nat} (h : CounterPage p) : storedBytes p .s64 = 8 := by
  rcases h with rfl | rfl | rfl <;> rfl

theorem exec_siginc {s : State} {d a b : SReg} {x : ElemSpot} {t : State} {old : Nat}
    (hx : findScalar s .glob .update .s64 (getS s a).toNat = .ok x) (hpage : CounterPage (pageFmt x.spot.leaf))
    (hown : ownRouted s x.spot.piece.touches = .ok ()) (hacks : owedAcks s (me s) = false)
    (ht : performAtomic s counterOp x (fun old => some ((old + (getS s b).toNat) % 2 ^ 64)) = .ok (t, old)) :
    exec (.siginc d a b) s = .next (advance (setS d (word old) (addRels x.spot.piece.place x.spot.piece.addr x.spot.piece.n
      [⟨me s, .dev, ordClock (me s) s.tile.ord, true, false⟩] t))) := by
  show execSiginc d a b s = _
  simp only [execSiginc, hx, ok_bind, counterPage_format hpage, need_true, hown, awaitAcks_ok hacks]
  show finish s (performAtomic s counterOp x _ >>= fun r => _) = _
  rw [ht]
  rfl

/-- R89, R177: SIGINC. -/
theorem siginc_signalIncrement : SignalIncrement := by
  intro s d a b x m hwf hx hpage ⟨_, hpoison, hacks, hown, htrap⟩ old
  have hsize : 64 = 8 * x.spot.piece.n := by rw [(findScalar_facts hx).spot.size, counterPage_size hpage]
  obtain ⟨u, t, ht, hu, hq⟩ := performAtomic_ok (m := m) (new := fun old => some ((old + (getS s b).toNat) % 2 ^ 64))
    hpoison htrap
  have hrels := (orderOnly_addRels x.spot.piece.place x.spot.piece.addr x.spot.piece.n
    [⟨me s, .dev, ordClock (me s) s.tile.ord, true, false⟩] t).quiet
  refine ⟨_, exec_siginc hx hpage hown (hacks Order.noConfusion) ht, wrote_advance_setS ?_ _ _, stored_advance_setS ?_ _ _⟩
  · rw [hrels.2, hq.2, writtenAt_seq, hu.quiet.2, (pagesOnly_useSpot (self s) .update x.spot s).tile]
  · exact stored_mod hsize (stored_writtenAt hwf hsize hu (hq.trans hrels))

/-! ### TDNARROW (R82, R181, R182) -/

/-- Translation is alike in states that differ in order only (R371). -/
theorem OrderOnly.locate {s t : State} (h : OrderOnly s t) (as : AddrSpace) (u : Use) (va : Nat) :
    Machine.locate t as u va = Machine.locate s as u va := by
  obtain ⟨o, m, c, y, rfl⟩ := h
  have hsound : walkSound (reorder o m c y s) as va = walkSound s as va := rfl
  have hwalk : walkOf (reorder o m c y s) as va va = walkOf s as va va := rfl
  have hcached : cached (reorder o m c y s) as va = cached s as va := rfl
  have hfree : ∀ site, freeAt (reorder o m c y s) site = freeAt s site := fun _ => rfl
  have hleaf : chooseLeaf (reorder o m c y s) as u va va = chooseLeaf s as u va va := by
    simp only [chooseLeaf, hwalk, hcached, hfree]
  have hplace : ∀ x, leafPlace (reorder o m c y s) as x va = leafPlace s as x va := fun _ => rfl
  simp only [Machine.locate, locateIn, hsound, hleaf, hplace]

/-- The driver's table is read alike in states that differ in order only. -/
theorem OrderOnly.devUsed {s t : State} (h : OrderOnly s t) (as : AddrSpace) (va n : Nat) :
    OrderOnly (Machine.devUsed as va n s) (Machine.devUsed as va n t) := by
  have hone : ∀ {s t : State}, OrderOnly s t → ∀ a,
      OrderOnly (match Machine.locate s as .read a with | .ok f => Machine.touch as .read f s | .error _ => s)
        (match Machine.locate t as .read a with | .ok f => Machine.touch as .read f t | .error _ => t) := by
    intro s t h a
    rw [h.locate]
    split
    · exact h.touch as .read _
    · exact h
  unfold Machine.devUsed
  dsimp only
  split
  · exact hone h va
  · exact hone (hone h va) _

theorem pagesOnly_devUsed (as : AddrSpace) (va n : Nat) (s : State) : PagesOnly s (devUsed as va n s) := by
  have hone : ∀ (s : State) a,
      PagesOnly s (match locate s as .read a with | .ok f => touch as .read f s | .error _ => s) := by
    intro s a
    split
    · exact pagesOnly_touch as .read _ s
    · exact .refl s
  unfold devUsed
  dsimp only
  split
  · exact hone s va
  · exact (hone s va).trans (hone _ _)

theorem OrderOnly.useDesc {s t : State} (h : OrderOnly s t) (tdi : Nat) :
    OrderOnly (Machine.useDesc tdi s) (Machine.useDesc tdi t) := by
  have hme : me t = me s := congrArg Who.key h.self
  have hargs : strandSpace t (me s) = strandSpace s (me s) ∧ queueAt t (me s).queue = queueAt s (me s).queue ∧
      t.tile.window = s.tile.window := by
    obtain ⟨_, _, _, _, rfl⟩ := h
    exact ⟨rfl, rfl, rfl⟩
  obtain ⟨hspace, hqueue, hwindow⟩ := hargs
  have hroot : rootIndex t tdi = rootIndex s tdi := by rw [rootIndex, rootIndex, hwindow]
  rw [Machine.useDesc, Machine.useDesc, hme, hspace, hqueue, hroot]
  exact h.devUsed _ _ _

theorem pagesOnly_useDesc (tdi : Nat) (s : State) : PagesOnly s (useDesc tdi s) := pagesOnly_devUsed _ _ _ s

/-- The block of a narrowing is free of reserved bits and of extents too large. -/
def BlockFormed (b : Nat) : Prop := narrowField b 10 < 64 ∧ ∀ k < 5, narrowField b (5 + k) ≤ 0x00FFFFFF

/-- The parent has the rights and the path that the block keeps. -/
def BlockAllowed (d : Desc) (b : Nat) : Prop :=
  Nat.land (narrowField b 10 % 32) d.rights = narrowField b 10 % 32 ∧ ((narrowField b 10).testBit 5 = true → d.fpath = true)

/-- The block stays inside the parent. -/
def BlockInside (d : Desc) (b : Nat) : Prop :=
  ∀ k < 5, if k < d.ndim then 1 ≤ narrowField b (5 + k) ∧ narrowField b k + narrowField b (5 + k) ≤ d.ext.getD k 0
    else narrowField b k = 0 ∧ narrowField b (5 + k) = 0

/-- The entry that a block makes of its parent (R182). -/
def narrowed (s : State) (tdi : Nat) (d : Desc) (b : Nat) : PrivDesc where
  root := rootIndex s tdi
  origin := (List.range 5).map fun k => d.origin.getD k 0 + narrowField b k
  ext := (List.range 5).map fun k => narrowField b (5 + k)
  rights := narrowField b 10 % 32
  fpath := (narrowField b 10).testBit 5

/-- An entry put into the strand's own window. -/
def putWindow (slot : Fin 64) (p : PrivDesc) (s : State) : State :=
  onFocus (fun t => { t with window := t.window.set slot (some p) }) s

theorem getPc_putWindow (slot : Fin 64) (p : PrivDesc) (s : State) : getPc (putWindow slot p s) = getPc s := rfl

theorem getS_putWindow (slot : Fin 64) (p : PrivDesc) (r : SReg) (s : State) : getS (putWindow slot p s) r = getS s r := rfl

theorem placeMem_putWindow (slot : Fin 64) (p : PrivDesc) (s : State) (q : Place) :
    placeMem (putWindow slot p s) q = placeMem s q := by
  refine placeMem_onFocus ?_ s q
  exact fun _ => rfl

theorem window_putWindow (slot : Fin 64) (p : PrivDesc) (s : State) (j : Fin 64) :
    (putWindow slot p s).tile.window[j] = if j = slot then some p else s.tile.window[j] := by
  show (s.tile.window.set slot (some p))[(j : Nat)] = _
  rw [Vector.getElem_set]
  exact if_congr (by rw [Fin.ext_iff, eq_comm]) rfl rfl

theorem blockFormed_iff {b : Nat} : (narrowField b 10 / 64 == 0 &&
    (List.range 5).all fun i => decide (narrowField b (5 + i) ≤ 0x00FFFFFF)) = true ↔ BlockFormed b := by
  simp only [BlockFormed, Bool.and_eq_true, beq_iff_eq, List.all_eq_true, List.mem_range, decide_eq_true_eq,
    Nat.div_eq_zero_iff_lt (show 0 < 64 by decide)]

theorem blockAllowed_iff {d : Desc} {b : Nat} : (Nat.land (narrowField b 10 % 32) d.rights == narrowField b 10 % 32 &&
    (!(narrowField b 10).testBit 5 || d.fpath)) = true ↔ BlockAllowed d b := by
  simp only [BlockAllowed, Bool.and_eq_true, beq_iff_eq, Bool.or_eq_true, Bool.not_eq_true', imp_iff_not_or,
    Bool.not_eq_true]

theorem blockInside_iff {d : Desc} {b : Nat} : ((List.range 5).all fun i =>
    if i < d.ndim then decide (1 ≤ narrowField b (5 + i) ∧ narrowField b i + narrowField b (5 + i) ≤ d.ext.getD i 0)
    else narrowField b i == 0 && narrowField b (5 + i) == 0) = true ↔ BlockInside d b := by
  rw [List.all_eq_true]
  refine forall_congr' fun k => imp_congr List.mem_range ?_
  split
  · exact decide_eq_true_iff
  · rw [Bool.and_eq_true, beq_iff_eq, beq_iff_eq]

theorem narrow_malformed {s : State} {tdi : Nat} {d : Desc} {b : Nat} (h : ¬ BlockFormed b) :
    narrow s tdi d b = .error (.cause 0x051 tdi) := by
  simp only [narrow, Bool.eq_false_iff.2 (mt blockFormed_iff.1 h), need_false, error_bind]

theorem narrow_refused {s : State} {tdi : Nat} {d : Desc} {b : Nat} (hf : BlockFormed b) (h : ¬ BlockAllowed d b) :
    narrow s tdi d b = .error (.cause 0x052 tdi) := by
  simp only [narrow, blockFormed_iff.2 hf, need_true, ok_bind, Bool.eq_false_iff.2 (mt blockAllowed_iff.1 h), need_false,
    error_bind]

theorem narrow_outside {s : State} {tdi : Nat} {d : Desc} {b : Nat} (hf : BlockFormed b) (ha : BlockAllowed d b)
    (h : ¬ BlockInside d b) : narrow s tdi d b = .error (.cause 0x053 tdi) := by
  simp only [narrow, blockFormed_iff.2 hf, need_true, ok_bind, blockAllowed_iff.2 ha,
    Bool.eq_false_iff.2 (mt blockInside_iff.1 h), need_false, error_bind]

theorem narrow_ok {s : State} {tdi : Nat} {d : Desc} {b : Nat} (hf : BlockFormed b) (ha : BlockAllowed d b)
    (h : BlockInside d b) : narrow s tdi d b = .ok (narrowed s tdi d b) := by
  simp only [narrow, blockFormed_iff.2 hf, need_true, ok_bind, blockAllowed_iff.2 ha, blockInside_iff.2 h, narrowed]

section
variable {s : State} {a : SReg} {tdi : BitVec 16} {d : Desc} (slot : Fin 64) (hd : getDesc s tdi.toNat = .ok d)
include hd

theorem tdnarrow_outside (h : 0x200000 < (getS s a).toNat + 44) :
    Traps (.tdnarrow slot a tdi) s 0x048 (BitVec.ofNat 64 (max (getS s a).toNat 0x200000)) 0 := by
  show execTdnarrow slot a tdi s = _
  have hout : localSpot (self s) (getS s a).toNat 44 = .error (.cause 0x048 (max (getS s a).toNat 0x200000)) :=
    if_neg (Nat.not_le.2 h)
  simp only [execTdnarrow, hd, ok_bind, hout, error_bind]
  exact finish_cause s _ _

theorem tdnarrow_misaligned (hin : (getS s a).toNat + 44 ≤ 0x200000) (h : (getS s a).toNat % 4 ≠ 0) :
    Traps (.tdnarrow slot a tdi) s 0x04A (getS s a) 0 := by
  show execTdnarrow slot a tdi s = _
  simp only [execTdnarrow, hd, ok_bind, localSpot_inside hin, beq_eq_false_iff_ne.2 h, need_false, error_bind, cause_toNat]
  rfl

/-- TDNARROW of a block that can be read goes on with the checks of its fields. -/
theorem exec_tdnarrow (hin : (getS s a).toNat + 44 ≤ 0x200000) (haligned : (getS s a).toNat % 4 = 0)
    (htrap : orderTrap s (strandAccess s .load false false)
      (Piece.touches ⟨.pad s.tileNo, (getS s a).toNat, 44, padReport (me s).tile (getS s a).toNat⟩) = none) :
    ∃ u, OrderOnly s u ∧ exec (.tdnarrow slot a tdi) s =
      finish s ((narrow s tdi.toNat d (s.tile.pad.readNat (getS s a).toNat 44)).map fun p =>
        putWindow slot p (useDesc tdi.toNat u)) := by
  refine ⟨_, orderOnly_mark (strandAccess s .load false false)
    (Piece.touches ⟨.pad s.tileNo, (getS s a).toNat, 44, padReport (me s).tile (getS s a).toNat⟩) s, ?_⟩
  show execTdnarrow slot a tdi s = _
  have hread : localBytes s (getS s a).toNat 44 = .ok (mark (strandAccess s .load false false)
      (Piece.touches ⟨.pad s.tileNo, (getS s a).toNat, 44, padReport (me s).tile (getS s a).toNat⟩) s,
      s.tile.pad.readBytes (getS s a).toNat 44) := by
    rw [localBytes, localSpot_inside hin, ok_bind]
    exact congrArg (· >>= _) (perform_ok htrap)
  simp only [execTdnarrow, hd, ok_bind, localSpot_inside hin, beq_iff_eq.2 haligned, need_true, hread]
  rfl

end

/-- R82, R181, R182: TDNARROW. -/
theorem tdnarrow_narrowing : Narrowing := by
  intro s slot a tdi d hd x b start size last stops wellFormed allowed inside
  have hsize : ∀ k, size k = narrowField b (5 + k) := fun k => by
    show fieldOf b (160 + 32 * k) 32 = fieldOf b (32 * (5 + k)) 32
    rw [Nat.mul_add]
  have hformed : wellFormed ↔ BlockFormed b := by simp only [wellFormed, hsize]; rfl
  have hinside : inside ↔ BlockInside d b := by simp only [inside, hsize]; rfl
  refine ⟨tdnarrow_outside slot hd, tdnarrow_misaligned slot hd, fun hin haligned htrap => ?_⟩
  obtain ⟨u, hu, hexec⟩ := exec_tdnarrow slot hd hin haligned htrap
  rw [hformed, hinside]
  refine ⟨fun hf => ?_, fun hf ha => ?_, fun hf ha hi => ?_, fun hf ha hi => ?_⟩
  · rw [narrow_malformed hf] at hexec
    exact hexec.trans (finish_cause s _ _)
  · rw [narrow_refused hf ha] at hexec
    exact hexec.trans (finish_cause s _ _)
  · rw [narrow_outside hf ha hi] at hexec
    exact hexec.trans (finish_cause s _ _)
  · rw [narrow_ok hf ha hi] at hexec
    have hq := (hu.useDesc tdi.toNat).quiet
    have hseq : (useDesc tdi.toNat u).tile.seq = s.tile.seq :=
      hq.2.trans (congrArg Tile.seq (pagesOnly_useDesc tdi.toNat s).tile)
    have hwindow : (useDesc tdi.toNat u).tile.window = s.tile.window := by
      rw [(pagesOnly_useDesc tdi.toNat u).tile]
      obtain ⟨_, _, _, _, rfl⟩ := hu
      rfl
    refine ⟨_, hexec, ?_, fun r => ?_, fun p c => ?_, ?_, fun j hj => ?_⟩
    · rw [getPc_advance, getPc_putWindow, getPc_congr hseq]
    · rw [getS_advance, getS_putWindow, getS_congr hseq]
    · rw [placeMem_advance, placeMem_putWindow, hq.1]
    · refine (window_putWindow slot _ _ slot).trans ((if_pos rfl).trans ?_)
      simp only [narrowed, ← hsize]
      rfl
    · exact (window_putWindow slot _ _ j).trans ((if_neg hj).trans (congrArg (·[j]) hwindow))

/-- Settles O11: LAUNCH, SIGINC and TDNARROW. -/
theorem launchSignalNarrow : Obligations.LaunchSignalNarrow :=
  ⟨launch_appendsRecord, siginc_signalIncrement, tdnarrow_narrowing⟩

end Sys2Proof.Machine
end

section
/-!
PROOFS. The issue of engine commands (R15 to R18, R96, R116): what an instruction leaves that queues a command and then at most
counts it, adds SUBST bits and writes S[d].
-/

namespace Sys2Proof.Machine

open Sys2Proof Sys2Proof.Claims

set_option Elab.async false

/-! ### The command queued (R15, R18) -/

/-- The state with a place reserved in the reply queue that a command names. -/
def reserved (reply : Option QReg) (s : State) : State :=
  match reply with
  | none => s
  | some q => onFocus (onReply q fun r => { r with reserved := r.reserved + 1 }) s

theorem reserveReply_full {reply : Option QReg} {s : State} (h : ¬ ReplyRoom s reply) :
    reserveReply reply s = .error (.cause 0x0C4 0) := by
  cases reply with
  | none => exact absurd (fun _ h => nomatch h) h
  | some q =>
    refine if_pos (Nat.not_le.1 fun hle => h fun p hp => ?_)
    cases hp
    omega

theorem reserveReply_room {reply : Option QReg} {s : State} (h : ReplyRoom s reply) :
    reserveReply reply s = .ok (reserved reply s) := by
  cases reply with
  | none => rfl
  | some q =>
    have hq := h q rfl
    exact if_neg (by omega)

/-- The command that a strand issues next. -/
def nextCmd (e : Eng) (body : Cmd) (reply : Option QReg) (s : State) : QCmd where
  owner := me s
  seq := s.tile.issued[engIx e] + 1
  body := body
  clock := ordClock (me s) s.tile.ord
  reply := reply
  vpc := getPc s
  started := false
  finished := false
  rd := 0
  wr := 0
  buf := []
  beats := []
  pass := 0
  run := 0
  replays := 0
  cost := 0
  flags := 0
  droop := false
  held := none

/-- The state with a command issued. -/
def issuedTo (e : Eng) (body : Cmd) (reply : Option QReg) (s : State) : State :=
  nextPo (onFocus (fun x => setEngQueue e (engQueue x e ++ [nextCmd e body reply s])
    { x with issued := x.issued.set (engIx e) (s.tile.issued[engIx e] + 1) }) (reserved reply s))

theorem issue_noReply {e : Eng} {body : Cmd} {reply : Option QReg} {s : State} (h : ¬ ReplyRoom s reply) :
    issue e body reply s = .error (.cause 0x0C4 0) := by
  rw [issue, reserveReply_full h, error_bind]

theorem issue_full {e : Eng} {body : Cmd} {reply : Option QReg} {s : State} (h : ReplyRoom s reply)
    (hfull : queueRoom e ≤ (engQueue s.tile e).length) : issue e body reply s = .error (.wait (.room e)) := by
  rw [issue, reserveReply_room h, ok_bind, decide_eq_false (Nat.not_lt.2 hfull), need_false, error_bind]

theorem issue_ok {e : Eng} {body : Cmd} {reply : Option QReg} {s : State} (h : ReplyRoom s reply)
    (hroom : (engQueue s.tile e).length < queueRoom e) : issue e body reply s = .ok (issuedTo e body reply s) := by
  rw [issue, reserveReply_room h, ok_bind, decide_eq_true hroom, need_true, ok_bind]
  rfl

/-! ### What an issue leaves -/

/-- What an instruction does after its command is queued: it counts collectives, adds SUBST bits, and writes S[d]. -/
def afterIssue (d : SReg) (v : Word) (f : BitVec 3) (counts : List (Nat × Nat)) (seq : Nat) (s : State) : State :=
  setS d v (onFocus (fun t => { t with
    collCounts := counts, seq := { t.seq with subst := t.seq.subst ||| f, collSeq := seq } }) s)

/-- The state after an instruction that issued a command (R116). -/
def retired (e : Eng) (s : State) : State := onFocus (fun x => { x with fresh := some (e, x.issued[engIx e]) }) (advance s)

@[simp] theorem engQueue_setEngQueue_same (e : Eng) (q : List QCmd) (t : Tile) : engQueue (setEngQueue e q t) e = q := by
  cases e <;> rfl

theorem engQueue_setEngQueue_ne {e g : Eng} (h : g ≠ e) (q : List QCmd) (t : Tile) :
    engQueue (setEngQueue e q t) g = engQueue t g := by
  revert h
  cases e <;> cases g <;> simp [engQueue, setEngQueue]

/-- The tile once command `c` stands last in the queue of engine `e`. -/
def queuedTile (e : Eng) (c : QCmd) (replies : Vector ReplyQ 4) (t : Tile) : Tile :=
  setEngQueue e (engQueue t e ++ [c]) { t with
    issued := t.issued.set (engIx e) c.seq, replies := replies, ord := { t.ord with po := t.ord.po + 1 } }

theorem issuedTo_eq (e : Eng) (body : Cmd) (reply : Option QReg) (s : State) :
    issuedTo e body reply s = onFocus (queuedTile e (nextCmd e body reply s) (reserved reply s).tile.replies) s := by
  cases reply with
  | none => cases e <;> rfl
  | some q => cases e <;> rfl

/-- The tile once an instruction that queued a command has retired. -/
def retiredTile (e : Eng) (seq : Nat) (regs : Vector Word 64) (f : BitVec 3) (counts : List (Nat × Nat)) (coll : Nat)
    (t : Tile) : Tile :=
  { t with
    collCounts := counts, fresh := some (e, seq), barStage := none,
    seq := { t.seq with s := regs, vpc := t.seq.vpc + 8, subst := t.seq.subst ||| f, collSeq := coll } }

theorem retired_afterIssue (e : Eng) (d : SReg) (v : Word) (f : BitVec 3) (counts : List (Nat × Nat)) (coll : Nat)
    (s : State) : retired e (afterIssue d v f counts coll s) =
      onFocus (retiredTile e s.tile.issued[engIx e] (setS d v s).tile.seq.s f counts coll) s := by
  unfold afterIssue setS
  split <;> rfl

/-! ### The fields of a tile with one command more -/

section
variable (e : Eng) (c : QCmd) (replies : Vector ReplyQ 4) (t : Tile)

theorem engQueue_queuedTile_same : engQueue (queuedTile e c replies t) e = engQueue t e ++ [c] :=
  engQueue_setEngQueue_same e _ _

theorem engQueue_queuedTile_ne {g : Eng} (h : g ≠ e) : engQueue (queuedTile e c replies t) g = engQueue t g := by
  rw [queuedTile, engQueue_setEngQueue_ne h]
  cases g <;> rfl

theorem issued_queuedTile : (queuedTile e c replies t).issued = t.issued.set (engIx e) c.seq := by cases e <;> rfl

theorem replies_queuedTile : (queuedTile e c replies t).replies = replies := by cases e <;> rfl

theorem ord_queuedTile : (queuedTile e c replies t).ord = { t.ord with po := t.ord.po + 1 } := by cases e <;> rfl

theorem seq_queuedTile : (queuedTile e c replies t).seq = t.seq := by cases e <;> rfl

theorem pad_queuedTile : (queuedTile e c replies t).pad = t.pad := by cases e <;> rfl

theorem accSeq_queuedTile : (queuedTile e c replies t).accSeq = t.accSeq := by cases e <;> rfl

theorem fibre_queuedTile : (queuedTile e c replies t).fibre = t.fibre := by cases e <;> rfl

theorem chanState_queuedTile (ch : Chan) : chanState (queuedTile e c replies t) ch = chanState t ch := by
  cases e <;> cases ch <;> rfl

end

/-! ### What an issue leaves -/

/-- The state after the issue of a command and all that its instruction does then. -/
def afterQueued (e : Eng) (body : Cmd) (reply : Option QReg) (d : SReg) (v : Word) (f : BitVec 3) (counts : List (Nat × Nat))
    (coll : Nat) (s : State) : State := retired e (afterIssue d v f counts coll (issuedTo e body reply s))

section
variable (e : Eng) (body : Cmd) (reply : Option QReg) (d : SReg) (v : Word) (f : BitVec 3) (counts : List (Nat × Nat))
  (coll : Nat) (s : State)

/-- The tile of `afterQueued`, step by step. -/
theorem afterQueued_eq : ∃ regs, afterQueued e body reply d v f counts coll s =
    onFocus (retiredTile e (s.tile.issued[engIx e] + 1) regs f counts coll)
      (onFocus (queuedTile e (nextCmd e body reply s) (reserved reply s).tile.replies) s) := by
  have hseq : (queuedTile e (nextCmd e body reply s) (reserved reply s).tile.replies s.tile).issued[engIx e] =
      s.tile.issued[engIx e] + 1 := by
    rw [issued_queuedTile]
    exact Vector.getElem_set_self _
  refine ⟨(setS d v (issuedTo e body reply s)).tile.seq.s, ?_⟩
  rw [afterQueued, retired_afterIssue, issuedTo_eq, onFocus_tile, hseq]

theorem queued_afterQueued : Queued s (afterQueued e body reply d v f counts coll s) e body reply := by
  obtain ⟨regs, h⟩ := afterQueued_eq e body reply d v f counts coll s
  rw [h]
  refine ⟨⟨nextCmd e body reply s, engQueue_queuedTile_same e _ _ _, rfl, rfl, rfl, rfl, rfl, rfl, rfl, rfl⟩,
    fun g hg => engQueue_queuedTile_ne e _ _ _ hg, issued_queuedTile e _ _ _, rfl, ?_⟩
  show (queuedTile e _ _ s.tile).ord.po = _
  rw [ord_queuedTile]

/-- One place more is reserved in the reply queue named. -/
theorem replies_reserved (q : QReg) : (reserved reply s).tile.replies[q].entries = s.tile.replies[q].entries ∧
    (reserved reply s).tile.replies[q].reserved = s.tile.replies[q].reserved + if reply = some q then 1 else 0 := by
  cases reply with
  | none => exact ⟨rfl, rfl⟩
  | some p =>
    have hget : (reserved (some p) s).tile.replies[q] = if p = q
        then { s.tile.replies[p] with reserved := s.tile.replies[p].reserved + 1 } else s.tile.replies[q] := by
      refine (Vector.getElem_set p.isLt q.isLt).trans (if_congr Fin.ext_iff.symm rfl rfl)
    rw [hget]
    by_cases hp : p = q
    · subst hp
      simp
    · simp [hp]

theorem reserved_afterQueued : Reserved s (afterQueued e body reply d v f counts coll s)
    (fun q => if reply = some q then 1 else 0) := by
  obtain ⟨regs, h⟩ := afterQueued_eq e body reply d v f counts coll s
  intro q
  have hreplies : (afterQueued e body reply d v f counts coll s).tile.replies = (reserved reply s).tile.replies := by
    rw [h]
    exact replies_queuedTile e _ _ _
  rw [hreplies]
  exact replies_reserved reply s q

theorem tookId_afterQueued : TookId s (afterQueued e body reply d v f counts coll s) none := by
  obtain ⟨regs, h⟩ := afterQueued_eq e body reply d v f counts coll s
  intro ch
  rw [h, if_neg (fun h => nomatch h), ← chanState_queuedTile e (nextCmd e body reply s) (reserved reply s).tile.replies s.tile ch]
  cases ch <;> rfl

theorem getS_afterQueued (r : SReg) :
    getS (afterQueued e body reply d v f counts coll s) r = if r = d ∧ d ≠ 0 then v else getS s r := by
  show getS (afterIssue d v f counts coll (issuedTo e body reply s)) r = _
  rw [afterIssue, getS_setS]
  refine if_congr Iff.rfl rfl ?_
  show getS (issuedTo e body reply s) r = _
  rw [issuedTo_eq]
  exact getS_congr (seq_queuedTile e _ _ _) r

theorem subst_afterQueued : (afterQueued e body reply d v f counts coll s).tile.seq.subst = s.tile.seq.subst ||| f := by
  obtain ⟨regs, h⟩ := afterQueued_eq e body reply d v f counts coll s
  rw [h]
  show (queuedTile e _ _ s.tile).seq.subst ||| f = _
  rw [seq_queuedTile]

theorem onlyIssue_afterQueued : OnlyIssue s (afterQueued e body reply d v f counts coll s) := by
  obtain ⟨regs, h⟩ := afterQueued_eq e body reply d v f counts coll s
  rw [h]
  cases e <;> rfl

theorem sameBytes_afterQueued : SameBytes s (afterQueued e body reply d v f counts coll s) := by
  obtain ⟨regs, h⟩ := afterQueued_eq e body reply d v f counts coll s
  intro p a
  rw [h, placeMem_onFocus (f := retiredTile e _ regs f counts coll) (fun _ => rfl), placeMem_onFocus (pad_queuedTile e _ _)]

end

/-- An instruction that issues a command and then only counts it, adds SUBST bits and writes S[d]. -/
theorem issues_of_exec {i : Instr} {s u : State} {e : Eng} {body : Cmd} {reply : Option QReg} {d : SReg} {v : Word}
    {f : BitVec 3} {counts : List (Nat × Nat)} {coll : Nat} {fin : State → State} {more : State → Prop}
    (hu : PagesOnly s u) (hexec : exec i s = finishIssue e s ((issue e body reply u).map fin))
    (hfin : fin (issuedTo e body reply u) = afterIssue d v f counts coll (issuedTo e body reply u))
    (hmore : more (afterQueued e body reply d v f counts coll u)) :
    Issues i s u e body reply none d v f more := by
  have hreply : ReplyRoom u reply ↔ ReplyRoom s reply := by rw [ReplyRoom, ReplyRoom, hu.tile]
  refine ⟨fun hfull => ?_, fun hroom hfull => ?_, fun hroom hfree => ?_⟩
  · rw [Traps, hexec, issue_noReply (mt hreply.1 hfull)]
    rfl
  · rw [Blocks, hexec, issue_full (hreply.2 hroom) (hu.tile ▸ hfull)]
    rfl
  · have hnext : exec i s = .next (afterQueued e body reply d v f counts coll u) := by
      rw [hexec, issue_ok (hreply.2 hroom) (hu.tile ▸ hfree), Except.map, hfin]
      rfl
    obtain ⟨m, l, rfl⟩ := hu
    exact ⟨_, hnext, queued_afterQueued e body reply d v f counts coll _, reserved_afterQueued e body reply d v f counts coll _,
      tookId_afterQueued e body reply d v f counts coll _, getS_afterQueued e body reply d v f counts coll _,
      subst_afterQueued e body reply d v f counts coll _, onlyIssue_afterQueued e body reply d v f counts coll _,
      sameBytes_afterQueued e body reply d v f counts coll _, hmore⟩

/-- What an issue counts, and what it does not. -/
theorem counts_afterQueued (e : Eng) (body : Cmd) (reply : Option QReg) (d : SReg) (v : Word) (f : BitVec 3)
    (counts : List (Nat × Nat)) (coll : Nat) (s : State) :
    let t := afterQueued e body reply d v f counts coll s
    t.tile.accSeq = s.tile.accSeq ∧ t.tile.collCounts = counts ∧ t.tile.fibre = s.tile.fibre ∧ t.tile.seq.collSeq = coll ∧
      t.tile.seq.fgoSeq = s.tile.seq.fgoSeq := by
  obtain ⟨regs, h⟩ := afterQueued_eq e body reply d v f counts coll s
  rw [h]
  refine ⟨accSeq_queuedTile e _ _ _, rfl, fibre_queuedTile e _ _ _, rfl, ?_⟩
  show (queuedTile e _ _ s.tile).seq.fgoSeq = _
  rw [seq_queuedTile]

end Sys2Proof.Machine
end

section
/-!
PROOFS. COLL, MZERO and MSCALE at their issue (R69, R81, R232, R233, R248, R249).
-/

namespace Sys2Proof.Machine

open Sys2Proof Sys2Proof.Claims

set_option Elab.async false

/-- The instruction's issue stops at a cause. -/
theorem finishIssue_cause (e : Eng) (s : State) (cause info : Nat) :
    finishIssue e s (.error (.cause cause info)) = .next (trapAt s.tileNo ⟨cause, BitVec.ofNat 64 info, 0, []⟩ s) := rfl

/-- To add SUBST bits is one thing that an instruction may do after its issue. -/
theorem setSubst_eq_afterIssue (e : Eng) (body : Cmd) (reply : Option QReg) (f : BitVec 3) (u : State) :
    setSubst f (issuedTo e body reply u) =
      afterIssue 0 0 f u.tile.collCounts u.tile.seq.collSeq (issuedTo e body reply u) := by
  rw [afterIssue, setS_zero, issuedTo_eq]
  cases e <;> rfl

theorem setSubst_zero (s : State) : setSubst 0 s = s := by
  have hor : s.tile.seq.subst ||| 0 = s.tile.seq.subst := BitVec.or_zero
  show { s with tile := { s.tile with seq := { s.tile.seq with subst := s.tile.seq.subst ||| 0 } } } = s
  rw [hor]

theorem map_id_of_eq {f : State → State} (h : ∀ t, f t = t) (x : Except Stop State) : x.map f = x := by
  cases x with
  | error e => rfl
  | ok t => exact congrArg Except.ok (h t)

/-- The issue of a command that is counted no further, with SUBST bits added. -/
theorem issues_setSubst {i : Instr} {s u : State} {e : Eng} {body : Cmd} {reply : Option QReg} {f : BitVec 3}
    (hu : PagesOnly s u) (hexec : exec i s = finishIssue e s ((issue e body reply u).map (setSubst f))) :
    Issues i s u e body reply none 0 0 f (NoOther s) := by
  refine issues_of_exec hu hexec (setSubst_eq_afterIssue e body reply f u) ?_
  obtain ⟨hacc, hcounts, hfibre, hcoll, hfgo⟩ := counts_afterQueued e body reply 0 0 f u.tile.collCounts u.tile.seq.collSeq u
  rw [hu.tile] at hacc hfibre hfgo
  exact ⟨hacc, hcounts.trans (congrArg Tile.collCounts hu.tile), hfibre, hcoll.trans (congrArg (·.seq.collSeq) hu.tile), hfgo⟩

theorem issues_plain {i : Instr} {s u : State} {e : Eng} {body : Cmd} {reply : Option QReg} (hu : PagesOnly s u)
    (hexec : exec i s = finishIssue e s (issue e body reply u)) : Issues i s u e body reply none 0 0 0 (NoOther s) :=
  issues_setSubst hu (hexec.trans (congrArg _ (map_id_of_eq setSubst_zero _).symm))

/-! ### MZERO and MSCALE (R226, R248, R249) -/

theorem fieldOf_zero (x w : Nat) : fieldOf x 0 w = x % 2 ^ w := by rw [fieldOf, pow_zero, Nat.div_one]

/-- An accumulator window that the layout allows. -/
def WindowRight (w : Nat) : Prop :=
  w < 2 ^ 32 ∧ w % 256 + (w / 2 ^ 16 % 256 + 1) ≤ 256 ∧ w / 2 ^ 8 % 256 + (w / 2 ^ 24 % 256 + 1) ≤ 256

theorem windowRight_iff {w : Word} : (fieldOf w.toNat 32 32 == 0 && decide (fieldOf w.toNat 0 8 + (fieldOf w.toNat 16 8 + 1) ≤ 256 ∧
    fieldOf w.toNat 8 8 + (fieldOf w.toNat 24 8 + 1) ≤ 256)) = true ↔ WindowRight w.toNat := by
  have hw := w.isLt
  rw [Bool.and_eq_true, beq_iff_eq, decide_eq_true_iff, fieldOf_zero, fieldOf]
  refine and_congr ?_ Iff.rfl
  constructor <;> intro h <;> omega

theorem accWindow_wrong {w : Word} (h : ¬ WindowRight w.toNat) : accWindow w.toNat = .error (.cause 0x0C0 0) := by
  rw [accWindow, Bool.eq_false_iff.2 (mt windowRight_iff.1 h), need_false, error_bind]

theorem accWindow_right {w : Word} (h : WindowRight w.toNat) :
    accWindow w.toNat = .ok (w.toNat % 256, w.toNat / 2 ^ 8 % 256, w.toNat / 2 ^ 16 % 256 + 1, w.toNat / 2 ^ 24 % 256 + 1) := by
  rw [accWindow, windowRight_iff.2 h, need_true, ok_bind, fieldOf_zero]
  rfl

theorem exec_mzero (a : SReg) (s : State) : exec (.mzero a) s = finishIssue .matrix s
    (accWindow (getS s a).toNat >>= fun w => issue .matrix (.mzero w.1 w.2.1 w.2.2.1 w.2.2.2) none s) := rfl

theorem exec_mscale (a b : SReg) (int sat : Bool) (sh : Fin 64) (s : State) :
    exec (.mscale a b int sat sh) s = finishIssue .matrix s (accWindow (getS s a).toNat >>= fun w =>
      issue .matrix (.mscale w.1 w.2.1 w.2.2.1 w.2.2.2 int sat (getS s b) sh.val) none s) := rfl

theorem windowIssue : WindowIssue := by
  intro s a b int sat sh w row0 col0 rows cols windowRight
  refine ⟨fun hwrong => ⟨?_, ?_⟩, fun hright => ⟨issues_plain (.refl s) ?_, issues_plain (.refl s) ?_⟩⟩
  · rw [Traps, exec_mzero, accWindow_wrong hwrong, error_bind, finishIssue_cause]
    rfl
  · rw [Traps, exec_mscale, accWindow_wrong hwrong, error_bind, finishIssue_cause]
    rfl
  · rw [exec_mzero, accWindow_right hright, ok_bind]
  · rw [exec_mscale, accWindow_right hright, ok_bind]

/-! ### COLL (R81, R232, R233) -/

/-- The command that COLL queues. -/
def collCmd (s : State) (a b : SReg) (kind : CollKind) (op : CollOp) (det : Bool) (sc : Scope) (e : Desc) : Cmd :=
  .coll {
    seq := s.tile.seq.collSeq + 1, scope := sc, group := word (getS s a).toNat,
    index := look 0 s.tile.collCounts (collKey sc (getS s a).toNat) + 1, kind := kind, op := op, det := det,
    root := (getS s b).toNat, desc := e }

/-- What COLL does once its command is queued: it counts the collective and gives its number. -/
def collFin (s : State) (d : SReg) (key : Nat) (t : State) : State :=
  setS d (word (s.tile.seq.collSeq + 1)) (onFocus (Tile.onSeq fun r => { r with collSeq := s.tile.seq.collSeq + 1 })
    (onFocus (fun u => { u with collCounts := keep u.collCounts key (look 0 s.tile.collCounts key + 1) }) t))

theorem collFin_eq_afterIssue (s : State) (d : SReg) (key : Nat) (t : State) :
    collFin s d key t = afterIssue d (word (s.tile.seq.collSeq + 1)) 0
      (keep t.tile.collCounts key (look 0 s.tile.collCounts key + 1)) (s.tile.seq.collSeq + 1) t := by
  have hor : ∀ x : BitVec 3, x ||| 0 = x := fun _ => BitVec.or_zero
  simp only [afterIssue, hor]
  rfl

/-- What COLL checks and does once its descriptor has been read. -/
def collChecked (d a b : SReg) (kind : CollKind) (op : CollOp) (det : Bool) (tdi : BitVec 16) (q : QReg) (sc : Scope) (s : State)
    (e : Desc) : Except Stop State := do
  needRights e tdi.toNat (collRights kind)
  checkRegion s e
  checkCanonical e (collBits s (me s) e)
  need (groupOk s sc (getS s a).toNat) (.cause 0x0D0 0)
  need (collTypeOk kind op e.fmt) (.cause 0x053 tdi.toNat)
  (issue .store (collCmd s a b kind op det sc e) (some q) (useDesc tdi.toNat s)).map
    (collFin s d (collKey sc (getS s a).toNat))

theorem exec_coll {s : State} {e : Desc} (d a b : SReg) (kind : CollKind) (op : CollOp) (det : Bool) {tdi : BitVec 16}
    (q : QReg) (sc : Scope) (he : getDesc s tdi.toNat = .ok e) :
    exec (.coll d a b kind op det tdi q sc) s = finishIssue .store s (collChecked d a b kind op det tdi q sc s e) := by
  show execColl d a b kind op det tdi q sc s = _
  rw [execColl, he, ok_bind]
  rfl

theorem reducing_iff (kind : CollKind) :
    reducing kind = true ↔ kind = .allreduce ∨ kind = .reducescatter ∨ kind = .reduce := by
  cases kind <;> simp [reducing]

theorem ofCode_eq_some {c : Nat} {t : Fmt} (h : Fmt.ofCode c = some t) : c = t.code := by
  unfold Fmt.ofCode at h
  split at h
  all_goals
    cases h
  all_goals
    rfl

/-- The types that a reduction accepts (R233). -/
def ReductionType (op : CollOp) (fmt : Nat) : Prop :=
  fmt ∈ [0x02, 0x03, 0x06, 0x07] ∨ (fmt ∈ [0x08, 0x0A] ∧ (op = .add ∨ op = .min ∨ op = .max))

theorem collTypeOk_iff {kind : CollKind} {op : CollOp} {fmt : Nat} :
    collTypeOk kind op fmt = true ↔ reducing kind = false ∨ ReductionType op fmt := by
  rw [collTypeOk, Bool.or_eq_true, Bool.not_eq_true']
  refine or_congr_right ?_
  cases hf : Fmt.ofCode fmt with
  | none =>
    refine ⟨fun h => (nomatch h), fun h => ?_⟩
    have hmem : fmt ∈ [0x02, 0x03, 0x06, 0x07, 0x08, 0x0A] := by
      unfold ReductionType at h
      simp only [List.mem_cons, List.not_mem_nil, or_false] at h ⊢
      omega
    simp only [List.mem_cons, List.not_mem_nil, or_false] at hmem
    rcases hmem with rfl | rfl | rfl | rfl | rfl | rfl <;> exact nomatch hf
  | some t =>
    obtain rfl := ofCode_eq_some hf
    cases t <;> simp [ReductionType, Fmt.code, or_assoc]

/-- The mask of a collective at tile or gang scope (R233). -/
def MaskOk (s : State) (group : Nat) : Prop := group.testBit (me s).tile = true ∧ group < 2 ^ gangSize s (me s)

theorem groupOk_mask {s : State} {sc : Scope} (h : sc = .tile ∨ sc = .gang) (group : Nat) :
    groupOk s sc group = true ↔ MaskOk s group := by
  have hmask : groupOk s sc group = (group.testBit (me s).tile && group / 2 ^ gangSize s (me s) == 0) := by
    rcases h with rfl | rfl <;> rfl
  rw [hmask, Bool.and_eq_true, beq_iff_eq, Nat.div_eq_zero_iff_lt (Nat.two_pow_pos _), MaskOk]

theorem collRights_eq (kind : CollKind) :
    collRights kind = 3 + if kind = .allreduce ∨ kind = .reducescatter ∨ kind = .reduce then 16 else 0 := by
  cases kind <;> rfl

theorem needRights_ok {d : Desc} {tdi rights : Nat} (h : Nat.land d.rights rights = rights) : needRights d tdi rights = .ok () := by
  rw [needRights, beq_iff_eq.2 h, need_true]

theorem needRights_refused {d : Desc} {tdi rights : Nat} (h : Nat.land d.rights rights ≠ rights) :
    needRights d tdi rights = .error (.cause 0x052 tdi) := by
  rw [needRights, beq_eq_false_iff_ne.2 h, need_false]

section
variable {s : State} {e : Desc} (d a b : SReg) {kind : CollKind} {op : CollOp} (det : Bool) {tdi : BitVec 16} (q : QReg) {sc : Scope}
  (hrights : Nat.land e.rights (collRights kind) = collRights kind) (hregion : checkRegion s e = .ok ())
include hrights hregion

theorem collChecked_noncanonical {st : Stop} (h : checkCanonical e (collBits s (me s) e) = .error st) :
    collChecked d a b kind op det tdi q sc s e = .error st := by
  simp only [collChecked, needRights_ok hrights, ok_bind, hregion, h, error_bind]

variable (hcanon : checkCanonical e (collBits s (me s) e) = .ok ())
include hcanon

theorem collChecked_mismatch (h : groupOk s sc (getS s a).toNat = false) :
    collChecked d a b kind op det tdi q sc s e = .error (.cause 0x0D0 0) := by
  simp only [collChecked, needRights_ok hrights, ok_bind, hregion, hcanon, h, need_false, error_bind]

theorem collChecked_mistyped (hgroup : groupOk s sc (getS s a).toNat = true) (h : collTypeOk kind op e.fmt = false) :
    collChecked d a b kind op det tdi q sc s e = .error (.cause 0x053 tdi.toNat) := by
  simp only [collChecked, needRights_ok hrights, ok_bind, hregion, hcanon, hgroup, need_true, h, need_false, error_bind]

theorem collChecked_ok (hgroup : groupOk s sc (getS s a).toNat = true) (h : collTypeOk kind op e.fmt = true) :
    collChecked d a b kind op det tdi q sc s e =
      (issue .store (collCmd s a b kind op det sc e) (some q) (useDesc tdi.toNat s)).map
        (collFin s d (collKey sc (getS s a).toNat)) := by
  simp only [collChecked, needRights_ok hrights, ok_bind, hregion, hcanon, hgroup, need_true, h]

end

/-- COLL that passes every check is queued and counted. -/
theorem coll_issues {s : State} {e : Desc} {d a b : SReg} {kind : CollKind} {op : CollOp} {det : Bool} {tdi : BitVec 16}
    {q : QReg} {sc : Scope} (hexec : exec (.coll d a b kind op det tdi q sc) s = finishIssue .store s
      ((issue .store (collCmd s a b kind op det sc e) (some q) (useDesc tdi.toNat s)).map
        (collFin s d (collKey sc (getS s a).toNat)))) :
    Issues (.coll d a b kind op det tdi q sc) s (useDesc tdi.toNat s) .store (collCmd s a b kind op det sc e) (some q) none d
      (word (s.tile.seq.collSeq + 1)) 0 fun t =>
        t.tile.seq.collSeq = s.tile.seq.collSeq + 1 ∧
          look 0 t.tile.collCounts (collKey sc (getS s a).toNat) =
            look 0 s.tile.collCounts (collKey sc (getS s a).toNat) + 1 := by
  have hu := pagesOnly_useDesc tdi.toNat s
  refine issues_of_exec hu hexec (collFin_eq_afterIssue s d _ _) ?_
  obtain ⟨-, hcounts, -, hcoll, -⟩ := counts_afterQueued .store (collCmd s a b kind op det sc e) (some q) d
    (word (s.tile.seq.collSeq + 1)) 0 (keep (issuedTo .store (collCmd s a b kind op det sc e) (some q)
      (useDesc tdi.toNat s)).tile.collCounts (collKey sc (getS s a).toNat)
        (look 0 s.tile.collCounts (collKey sc (getS s a).toNat) + 1)) (s.tile.seq.collSeq + 1) (useDesc tdi.toNat s)
  exact ⟨hcoll, by rw [hcounts, look_keep, if_pos rfl]⟩

/-- R69, R81, R232, R233: COLL at its issue. -/
theorem coll_collectiveIssue : CollectiveIssue := by
  intro s d a b kind op det tdi q sc e i group reduces need maskOk typeOk he
  have hneed : need = collRights kind := (collRights_eq kind).symm
  have htype : typeOk ↔ collTypeOk kind op e.fmt = true := by
    rw [collTypeOk_iff, ← Bool.not_eq_true, reducing_iff]
    rfl
  have hexec := exec_coll d a b kind op det q sc he
  rw [hneed]
  refine ⟨fun hrights => ?_, fun hrights hregion x hx => ?_, fun hrights hregion hcanon =>
    ⟨fun hsc hmask => ?_, fun hgroup => ?_⟩⟩
  · rw [Traps, hexec, collChecked, needRights_refused hrights, error_bind, finishIssue_cause]
  · rw [Traps, hexec, collChecked_noncanonical d a b det q hrights hregion hx, finishIssue_cause]
  · rw [Traps, hexec, collChecked_mismatch d a b det q hrights hregion hcanon
      (Bool.eq_false_iff.2 (mt (groupOk_mask hsc group).1 hmask)), finishIssue_cause]
    rfl
  · have hok : groupOk s sc (getS s a).toNat = true :=
      hgroup.elim (fun h => (groupOk_mask h.1 _).2 h.2) (·.2)
    refine ⟨fun hmistyped => ?_, fun htyped => ?_⟩
    · rw [Traps, hexec, collChecked_mistyped d a b det q hrights hregion hcanon hok
        (Bool.eq_false_iff.2 (mt htype.2 hmistyped)), finishIssue_cause]
    · rw [collChecked_ok d a b det q hrights hregion hcanon hok (htype.1 htyped)] at hexec
      exact coll_issues hexec

end Sys2Proof.Machine
end

section
/-!
PROOFS. MMA and MMAG at their issue (R236 to R247): the checks in the order of log 10, the capture of register operands, and the
command queued.
-/

namespace Sys2Proof.Machine

open Sys2Proof Sys2Proof.Claims

set_option Elab.async false

/-! ### The pair code and the shape word (R242, R243, R247) -/

theorem pairFmts_reserved {n : Nat} (h : 10 < n) : pairFmts n = none := by
  obtain ⟨k, rfl⟩ : ∃ k, n = k + 11 := ⟨n - 11, by omega⟩
  rfl

/-- A shape word without reserved bits whose window lies in the accumulator. -/
def ShapeRight (gang : Bool) (w : Nat) : Prop :=
  w < 2 ^ 58 ∧ (gang = true ∨ w < 2 ^ 48) ∧ w / 2 ^ 32 % 256 + (w % 256 + 1) ≤ 256 ∧
    w / 2 ^ 40 % 256 + (w / 2 ^ 8 % 256 + 1) ≤ 256

theorem shapeOk_iff (gang : Bool) (w : Word) : shapeOk gang w.toNat = true ↔ ShapeRight gang w.toNat := by
  have hw := w.isLt
  cases gang with
  | false =>
    simp only [shapeOk, ShapeRight, Bool.and_eq_true, beq_iff_eq, decide_eq_true_eq, fieldOf, Nat.reducePow, Nat.div_one,
      Bool.false_or, Bool.false_eq_true, false_or] at hw ⊢
    omega
  | true =>
    simp only [shapeOk, ShapeRight, Bool.and_eq_true, beq_iff_eq, decide_eq_true_eq, fieldOf, Nat.reducePow, Nat.div_one,
      Bool.true_or, true_or, true_and, and_true] at hw ⊢
    omega

/-- The group of the shape word, which only MMAG has. -/
theorem group_ok {s : State} {gang : Bool} {w : Nat} (h : gang = true → groupTiles s w = true) :
    (!gang || groupTiles s w) = true := by
  cases gang with
  | false => rfl
  | true => exact h rfl

/-! ### Specifiers (R237) -/

theorem checkSpecBits_pad_reserved {v : Nat} (h : 2 ^ 62 ≤ v) : checkSpecBits false v = .error (.cause 0x0C0 v) := by
  have hbits : (v / 2 ^ 62 == 0) = false := beq_eq_false_iff_ne.2 (Nat.div_pos h (by decide)).ne'
  simp only [checkSpecBits, Bool.false_eq_true, if_false, hbits, need_false, error_bind]

theorem checkSpecBits_pad_misaligned {v : Nat} (hv : v < 2 ^ 62) (h : v % 32 ≠ 0) :
    checkSpecBits false v = .error (.cause 0x04A (v % 2 ^ 27)) := by
  have hbits : (v / 2 ^ 62 == 0) = true := beq_iff_eq.2 (Nat.div_eq_of_lt hv)
  have halign : (v % 2 ^ 27 % 32 == 0) = false := beq_eq_false_iff_ne.2 (by omega)
  simp only [checkSpecBits, Bool.false_eq_true, if_false, hbits, need_true, ok_bind, fieldOf_zero, halign, Bool.or_self, need_false]

theorem checkSpecBits_reg_reserved {v : Nat} (h : 64 ≤ v) : checkSpecBits true v = .error (.cause 0x0C0 v) := by
  have hbits : (v / 64 == 0) = false := beq_eq_false_iff_ne.2 (Nat.div_pos h (by decide)).ne'
  simp only [checkSpecBits, if_true, hbits, need_false, error_bind]

/-! ### Banks (R121, R187) -/

theorem useBanks_gated {s : State} {rs : List VReg} (h : ∃ r ∈ rs, bankCode s.tile.seq.vbank (r / 16) = 2) :
    useBanks s rs = .error (.cause 0x002 0) := by
  refine if_pos (List.any_eq_true.2 ?_)
  obtain ⟨r, hr, hbank⟩ := h
  exact ⟨r, hr, beq_iff_eq.2 ((bankState_eq_bankCode _ _).trans hbank)⟩

/-! ### The command (R240, R241, R244) -/

/-- The vector registers that the operands of a command name. -/
def mmaNamed (o : MmaOp) (fa fb : Fmt) (va vb w : Nat) : List VReg :=
  (if o.av then specNamed va fa (w % 256 + 1) else []) ++ if o.bv then specNamed vb fb (w / 2 ^ 8 % 256 + 1) else []

/-- The scale word, which only the DS8 pairs have. -/
def scaleWord (s : State) (d : SReg) (o : MmaOp) : Nat :=
  if o.pair.val = 9 ∨ o.pair.val = 10 then (getS s d).toNat else 0

theorem scaleWord_lt (s : State) (d : SReg) (o : MmaOp) : scaleWord s d o < 2 ^ 64 := by
  unfold scaleWord
  split
  · exact (getS s d).isLt
  · decide

/-- Whether exponents come from the scratchpad. -/
def scaled (sw : Nat) : Bool := decide (sw / 2 ^ 29 % 2 = 1)

/-- The bytes that a command's operands and exponents take of the window. -/
def mmaPieces (s : State) (o : MmaOp) (fa fb : Fmt) (va vb w sw : Nat) : List (Nat × Nat) :=
  let m := w % 256 + 1
  let n := w / 2 ^ 8 % 256 + 1
  let k := w / 2 ^ 16 % 2 ^ 16 + 1
  operandPieces (captureOperand s o.av va fa m) fa m k ++ operandPieces (captureOperand s o.bv vb fb n) fb n k ++
    if scaled sw then [(sw % 2 ^ 27, exponentBytes (if o.pair.val = 9 then n else m) k (sw / 2 ^ 27 % 4))] else []

/-- The command that MMA and MMAG queue. -/
def mmaCommand (s : State) (gang : Bool) (o : MmaOp) (fa fb : Fmt) (va vb w sw : Nat) : Cmd :=
  .mma {
    gang := gang, pair := o.pair.val, sat := o.sat, a := captureOperand s o.av va fa (w % 256 + 1),
    b := captureOperand s o.bv vb fb (w / 2 ^ 8 % 256 + 1), m := w % 256 + 1, n := w / 2 ^ 8 % 256 + 1,
    k := w / 2 ^ 16 % 2 ^ 16 + 1, row0 := w / 2 ^ 32 % 256, col0 := w / 2 ^ 40 % 256, eaddr := sw % 2 ^ 27,
    geom := sw / 2 ^ 27 % 4, esrc := scaled sw,
    efix := if o.pair.val = 9 ∨ o.pair.val = 10 then sw / 2 ^ 30 % 256 else 127 }

/-- The SUBST bits of a pair: those of F4 are set at issue. -/
def pairSubst (o : MmaOp) : BitVec 3 := if o.pair.val = 6 ∨ o.pair.val = 7 then 1 else 0

/-- What MMA and MMAG check and do once their specifiers and their banks are allowed. -/
def mmaQueue (s : State) (gang : Bool) (o : MmaOp) (tdi : BitVec 16) (reply : Option QReg) (fa fb : Fmt) (va vb w sw : Nat) :
    Except Stop State := do
  if o.av && o.bv then need (!scaled sw) (.cause 0x0C0 0)
  else checkWindow s gang tdi.toNat (mmaPieces s o fa fb va vb w sw)
  need (fieldOf sw 38 26 == 0) (.cause 0x0C0 sw)
  (issue .matrix (mmaCommand s gang o fa fb va vb w sw) reply (if o.av && o.bv then s else useDesc tdi.toNat s)).map
    (setSubst (pairSubst o))

/-- MMA and MMAG, in the words of the statements. -/
def mmaChecked (s : State) (gang : Bool) (o : MmaOp) (tdi : BitVec 16) (reply : Option QReg) (fa fb : Fmt) (va vb w sw : Nat) :
    Except Stop State := do
  need (shapeOk gang w) (.cause 0x0C0 w)
  need (!gang || groupTiles s w) (.cause 0x0C1 w)
  checkSpecBits o.av va
  checkSpecBits o.bv vb
  checkSpecPitch o.av va fa
  checkSpecPitch o.bv vb fb
  checkSpecRegs o.av va fa (w % 256 + 1) (w / 2 ^ 16 % 2 ^ 16 + 1)
  checkSpecRegs o.bv vb fb (w / 2 ^ 8 % 256 + 1) (w / 2 ^ 16 % 2 ^ 16 + 1)
  useBanks s (mmaNamed o fa fb va vb w)
  mmaQueue s gang o tdi reply fa fb va vb w sw

theorem bind_pairSubst (o : MmaOp) (x : Except Stop State) :
    (x >>= fun t => .ok (if o.pair.val = 6 ∨ o.pair.val = 7 then setSubst 1 t else t)) = x.map (setSubst (pairSubst o)) := by
  cases x with
  | error e => rfl
  | ok t =>
    refine congrArg Except.ok ?_
    unfold pairSubst
    split
    · rfl
    · exact (setSubst_zero t).symm

theorem issueMma_eq {s : State} {gang : Bool} {d a b c : SReg} {o : MmaOp} {tdi : BitVec 16} {reply : Option QReg} {fa fb : Fmt}
    (hp : pairFmts o.pair.val = some (fa, fb)) : issueMma gang d a b c o tdi reply s =
      mmaChecked s gang o tdi reply fa fb (getS s a).toNat (getS s b).toNat (getS s c).toNat (scaleWord s d o) := by
  have hds : ∀ {α : Type} (x y : α), (if (o.pair.val == 9 || o.pair.val == 10) = true then x else y) =
      if o.pair.val = 9 ∨ o.pair.val = 10 then x else y := fun x y => by
    simp only [Bool.or_eq_true, beq_iff_eq]
  unfold issueMma
  rw [hp]
  simp only [hds, fieldOf_zero, Nat.testBit_eq_decide_div_mod_eq, bind_pairSubst]
  rfl

theorem exec_multiply (gang : Bool) (d a b c : SReg) (o : MmaOp) (tdi : BitVec 16) (reply : Option QReg) (s : State) :
    exec (if gang then .mmag d a b c o tdi reply else .mma d a b c o tdi reply) s =
      finishIssue .matrix s (issueMma gang d a b c o tdi reply s) := by
  cases gang <;> rfl

/-! ### The checks in their order (log 10) -/

section
variable {s : State} {gang : Bool} {o : MmaOp} {tdi : BitVec 16} {reply : Option QReg} {fa fb : Fmt} {va vb sw : Nat} {w : Word}

theorem mmaChecked_misshapen (h : ¬ ShapeRight gang w.toNat) :
    mmaChecked s gang o tdi reply fa fb va vb w.toNat sw = .error (.cause 0x0C0 w.toNat) := by
  rw [mmaChecked, Bool.eq_false_iff.2 (mt (shapeOk_iff gang w).1 h), need_false, error_bind]

variable (hshape : ShapeRight gang w.toNat)
include hshape

theorem mmaChecked_foreign (hgang : gang = true) (h : groupTiles s w.toNat = false) :
    mmaChecked s gang o tdi reply fa fb va vb w.toNat sw = .error (.cause 0x0C1 w.toNat) := by
  rw [mmaChecked, (shapeOk_iff gang w).2 hshape, need_true, ok_bind, hgang, h]
  rfl

variable (hgroup : gang = true → groupTiles s w.toNat = true)
include hgroup

theorem mmaChecked_spec {st : Stop} (h : checkSpecBits o.av va = .error st) :
    mmaChecked s gang o tdi reply fa fb va vb w.toNat sw = .error st := by
  rw [mmaChecked, (shapeOk_iff gang w).2 hshape, need_true, ok_bind, group_ok hgroup, need_true, ok_bind, h, error_bind]

/-- With both specifiers allowed, the banks of the registers named come next. -/
theorem mmaChecked_banks (ha : checkSpecBits o.av va = .ok ()) (hb : checkSpecBits o.bv vb = .ok ())
    (hpa : checkSpecPitch o.av va fa = .ok ()) (hpb : checkSpecPitch o.bv vb fb = .ok ())
    (hra : checkSpecRegs o.av va fa (w.toNat % 256 + 1) (w.toNat / 2 ^ 16 % 2 ^ 16 + 1) = .ok ())
    (hrb : checkSpecRegs o.bv vb fb (w.toNat / 2 ^ 8 % 256 + 1) (w.toNat / 2 ^ 16 % 2 ^ 16 + 1) = .ok ()) :
    mmaChecked s gang o tdi reply fa fb va vb w.toNat sw =
      useBanks s (mmaNamed o fa fb va vb w.toNat) >>= fun _ => mmaQueue s gang o tdi reply fa fb va vb w.toNat sw := by
  rw [mmaChecked, (shapeOk_iff gang w).2 hshape, need_true, ok_bind, group_ok hgroup, need_true, ok_bind, ha, ok_bind, hb,
    ok_bind, hpa, ok_bind, hpb, ok_bind, hra, ok_bind, hrb, ok_bind]

end

/-- Whether the window that the operands and the exponents take is allowed; with both operands in registers there is none, and
exponents cannot come from the scratchpad. -/
def WindowAllowed (s : State) (gang : Bool) (o : MmaOp) (tdi : BitVec 16) (ps : List (Nat × Nat)) (sw : Nat) : Prop :=
  if o.av && o.bv then scaled sw = false else checkWindow s gang tdi.toNat ps = .ok ()

section
variable {s : State} {gang : Bool} {o : MmaOp} {tdi : BitVec 16} {reply : Option QReg} {fa fb : Fmt} {va vb w sw : Nat}

theorem mmaQueue_scaled (ha : o.av = true) (hb : o.bv = true) (h : scaled sw = true) :
    mmaQueue s gang o tdi reply fa fb va vb w sw = .error (.cause 0x0C0 0) := by
  simp only [mmaQueue, ha, hb, Bool.and_self, if_true, h, Bool.not_true, need_false, error_bind]

theorem mmaQueue_window (h : WindowAllowed s gang o tdi (mmaPieces s o fa fb va vb w sw) sw) :
    mmaQueue s gang o tdi reply fa fb va vb w sw = need (fieldOf sw 38 26 == 0) (.cause 0x0C0 sw) >>= fun _ =>
      (issue .matrix (mmaCommand s gang o fa fb va vb w sw) reply (if o.av && o.bv then s else useDesc tdi.toNat s)).map
        (setSubst (pairSubst o)) := by
  unfold WindowAllowed at h
  unfold mmaQueue
  split
  · rename_i hregs
    rw [if_pos hregs] at h
    rw [h]
    rfl
  · rename_i hregs
    rw [if_neg hregs] at h
    rw [h]
    rfl

theorem mmaQueue_scaleReserved (hlt : sw < 2 ^ 64) (h : WindowAllowed s gang o tdi (mmaPieces s o fa fb va vb w sw) sw)
    (hsw : 2 ^ 38 ≤ sw) : mmaQueue s gang o tdi reply fa fb va vb w sw = .error (.cause 0x0C0 sw) := by
  have hbits : (fieldOf sw 38 26 == 0) = false := beq_eq_false_iff_ne.2 (by rw [fieldOf]; omega)
  rw [mmaQueue_window h, hbits, need_false, error_bind]

theorem mmaQueue_ok (h : WindowAllowed s gang o tdi (mmaPieces s o fa fb va vb w sw) sw) (hsw : sw < 2 ^ 38) :
    mmaQueue s gang o tdi reply fa fb va vb w sw =
      (issue .matrix (mmaCommand s gang o fa fb va vb w sw) reply (if o.av && o.bv then s else useDesc tdi.toNat s)).map
        (setSubst (pairSubst o)) := by
  have hbits : (fieldOf sw 38 26 == 0) = true := beq_iff_eq.2 (by rw [fieldOf]; omega)
  rw [mmaQueue_window h, hbits, need_true, ok_bind]

end

theorem pagesOnly_window (s : State) (regs : Bool) (tdi : Nat) : PagesOnly s (if regs then s else useDesc tdi s) := by
  cases regs with
  | false => exact pagesOnly_useDesc tdi s
  | true => exact .refl s

/-- R236 to R247: MMA and MMAG at their issue. -/
theorem multiplyIssue : MultiplyIssue := by
  intro s d a b c o tdi reply gang i w m n k row0 col0 shapeRight va vb
  have hexec : exec i s = finishIssue .matrix s (issueMma gang d a b c o tdi reply s) := exec_multiply gang d a b c o tdi reply s
  refine ⟨fun hpair => ?_, fun fa fb hp => ?_⟩
  · rw [Traps, hexec, issueMma, pairFmts_reserved hpair, finishIssue_cause]
  · rw [issueMma_eq hp] at hexec
    have htraps : ∀ {cause info : Nat}, mmaChecked s gang o tdi reply fa fb va vb w (scaleWord s d o) =
        .error (.cause cause info) → Traps i s cause (BitVec.ofNat 64 info) 0 := fun h => by
      rw [Traps, hexec, h, finishIssue_cause]
    refine ⟨fun hshape => htraps (mmaChecked_misshapen hshape),
      fun hshape hgang hgroup => htraps (mmaChecked_foreign hshape hgang hgroup), fun hshape hgroup => ⟨?_, ?_, ?_, ?_⟩⟩
    · intro hav hva
      exact htraps (mmaChecked_spec hshape hgroup (by rw [hav, checkSpecBits_pad_reserved hva]))
    · intro hav hva hodd
      exact htraps (mmaChecked_spec hshape hgroup (by rw [hav, checkSpecBits_pad_misaligned hva hodd]))
    · intro hav hva
      exact htraps (mmaChecked_spec hshape hgroup (by rw [hav, checkSpecBits_reg_reserved hva]))
    · intro ha hb hpa hpb hra hrb named
      have hbanks := mmaChecked_banks (tdi := tdi) (reply := reply) (sw := scaleWord s d o) hshape hgroup ha hb hpa hpb hra hrb
      refine ⟨fun hgated => htraps ?_, fun hon => ?_⟩
      · rw [hbanks]
        exact (congrArg (· >>= _) (useBanks_gated hgated)).trans (error_bind _ _)
      · have hqueue := hbanks.trans ((congrArg (· >>= _) (useBanks_on hon)).trans (ok_bind _ _))
        intro ds8 sw esrc geom oa ob scales
        refine ⟨fun hav hbv hscaled => htraps (hqueue.trans (mmaQueue_scaled hav hbv hscaled)), fun hwindow =>
          ⟨fun hsw => htraps (hqueue.trans (mmaQueue_scaleReserved (scaleWord_lt s d o) hwindow hsw)), fun hsw => ?_⟩⟩
        exact issues_setSubst (pagesOnly_window s (o.av && o.bv) tdi.toNat)
          (hexec.trans (congrArg _ (hqueue.trans (mmaQueue_ok hwindow hsw))))

/-- R236 to R249: the matrix commands at their issue. -/
theorem matrixCommands : MatrixCommands := ⟨multiplyIssue, windowIssue⟩

/-- Settles O25: COLL and the matrix commands at their issue, by their checks in order and the issue of a command. -/
theorem collectiveAndMatrixIssue : Obligations.CollectiveAndMatrixIssue := ⟨coll_collectiveIssue, matrixCommands⟩

end Sys2Proof.Machine
end

section
/-!
PROOFS. FENCE and the barriers (R94, R95, R99, R169 to R171): what each waits for, what it takes in and releases, and the
pending bit of an arrival.
-/

namespace Sys2Proof.Machine

open Sys2Proof Sys2Proof.Claims

set_option Elab.async false

/-! ### Waiting and passing -/

theorem awaitAcks_owing {s : State} (h : owedAcks s (me s) = true) : awaitAcks s = .error (.wait .acks) := by
  rw [awaitAcks, h]
  rfl

/-- The strand passes an instruction that leaves its sequencer and every memory alone. -/
theorem Quiet.passed_advance {s t : State} (h : Quiet s t) : Passed s (advance t) := by
  obtain ⟨hmem, hseq⟩ := h
  refine ⟨?_, fun r => ?_, fun p a => ?_⟩
  · rw [getPc_advance, getPc_congr hseq]
  · rw [getS_advance, getS_congr hseq]
  · rw [placeMem_advance, hmem]

theorem onTile_focus (f : Tile → Tile) (s : State) : onTile s.tileNo f s = onFocus f s := by
  rw [onTile, setTile, if_pos rfl, tileAt_focus]
  rfl

theorem advance_ord (s : State) : (advance s).tile.ord = s.tile.ord := rfl

/-! ### FENCE (R99, R169) -/

/-- A clock to which a place of strand `k` has been added covers it. -/
theorem covers_addSeen (l : List Seen) (k : StrandKey) (n : Nat) : covers (addSeen l ⟨k, n⟩) k n = true := by
  induction l with
  | nil => simp [addSeen, covers]
  | cons y l ih =>
    by_cases hy : y.key = k
    · simp [addSeen, covers, hy]
    · rw [addSeen, if_neg hy, covers, List.any_cons]
      exact Bool.or_eq_true_iff.2 (Or.inr ih)

theorem orderOnly_fenceOrder (acq rel : Bool) (sc : Scope) (s : State) : OrderOnly s (fenceOrder acq rel sc s) :=
  (orderOnly_onOrd _ s).trans ((orderOnly_onOrd _ _).trans (orderOnly_nextPo _))

/-- What a release fence leaves for the strand's later writes covers its present place. -/
theorem fences_fenceOrder (acq : Bool) (sc : Scope) (s : State) :
    ∃ seen limited rest, (fenceOrder acq true sc s).tile.ord.fences =
      ⟨me s, sc, ⟨addSeen seen ⟨me s, s.tile.ord.po⟩, limited⟩, false, false⟩ :: rest := ⟨_, _, _, rfl⟩

theorem po_fenceOrder (acq rel : Bool) (sc : Scope) (s : State) :
    (fenceOrder acq rel sc s).tile.ord.po = s.tile.ord.po + 1 := rfl

theorem dev_fenceOrder (acq rel : Bool) (sc : Scope) (s : State) : (fenceOrder acq rel sc s).dev = s.dev := rfl

theorem clock_fenceOrder (acq rel : Bool) (sc : Scope) (s : State) : (fenceOrder acq rel sc s).tile.ord.clock =
    if acq then acquireFrom (me s) sc s.tile.ord.met s.tile.ord.clock else s.tile.ord.clock := rfl

theorem fences_fenceOrder_keeps (acq : Bool) (sc : Scope) (s : State) :
    (fenceOrder acq false sc s).tile.ord.fences = s.tile.ord.fences := rfl

theorem exec_fence (order : Order) (sc : Scope) (s : State) : exec (.fence order sc) s =
    finish s (awaitAcks s >>= fun _ => .ok (fenceOrder (order == .acq || order == .ar) (order == .rel || order == .ar) sc s)) :=
  rfl

/-- R99, R169: FENCE. -/
theorem fence_waitsThenOrders : Fence := by
  intro s order sc o acq rel
  have hacq : (order == .acq || order == .ar) = true ↔ acq := by simp [acq]
  have hrel : (order == .rel || order == .ar) = true ↔ rel := by simp [rel]
  refine ⟨fun howed => ?_, fun hfree => ?_⟩
  · rw [Blocks, exec_fence, awaitAcks_owing howed, error_bind]
    rfl
  · refine ⟨advance (fenceOrder (order == .acq || order == .ar) (order == .rel || order == .ar) sc s), ?_,
      (orderOnly_fenceOrder _ _ _ s).quiet.passed_advance, ?_, ?_,
      fun h => ?_, fun h => ?_, fun h => ?_, fun h => ?_⟩
    · rw [exec_fence, awaitAcks_ok hfree, ok_bind, finish]
    · rw [advance_ord, po_fenceOrder]
    · rw [advance_dev, dev_fenceOrder]
    · rw [advance_ord, clock_fenceOrder, if_pos (hacq.2 h)]
    · rw [advance_ord, clock_fenceOrder, if_neg (mt hacq.1 h)]
    · obtain ⟨seen, limited, rest, hfences⟩ := fences_fenceOrder (order == .acq || order == .ar) sc s
      rw [advance_ord, hrel.2 h]
      exact ⟨_, hfences.symm ▸ List.mem_cons_self, rfl, rfl, covers_addSeen seen (me s) o.po⟩
    · rw [advance_ord, Bool.eq_false_iff.2 (mt hrel.1 h), fences_fenceOrder_keeps]

/-! ### The gang of an arrival (R171) -/

/-- The first that satisfies `p` is still the first when it has been changed into another that does. -/
theorem find?_mapFirst {α : Type} {p : α → Bool} {f : α → α} (hf : ∀ x, p x = true → p (f x) = true) (l : List α) :
    (mapFirst p f l).find? p = (l.find? p).map f := by
  induction l with
  | nil => rfl
  | cons x l ih =>
    rw [mapFirst]
    by_cases hx : p x = true
    · rw [if_pos hx, List.find?_cons_of_pos hx, List.find?_cons_of_pos (hf x hx), Option.map_some]
    · rw [if_neg hx, List.find?_cons_of_neg hx, List.find?_cons_of_neg hx, ih]

/-- A change of a gang on the device's list is read back. -/
theorem gangAt_onGang {s : State} {q r g : Nat} {f : Gang → Gang} (hlist : s.dev.gangs.any (Gang.is q r g) = true)
    (hf : ∀ x, Gang.is q r g (f x) = Gang.is q r g x) : gangAt (onGang q r g f s) q r g = f (gangAt s q r g) := by
  obtain ⟨x, hx⟩ := Option.isSome_iff_exists.1 ((List.find?_isSome (p := Gang.is q r g)).2 (List.any_eq_true.1 hlist))
  show ((mapFirst (Gang.is q r g) f s.dev.gangs).find? (Gang.is q r g)).getD (Gang.blank q r g) = _
  rw [find?_mapFirst (fun y hy => (hf y).trans hy), gangAt, hx]
  rfl

theorem getD_alterAt {α : Type} (d : α) (f : α → α) (n : Nat) (l : List α) : (alterAt d f n l).getD n d = f (l.getD n d) := by
  induction n generalizing l with
  | zero => cases l <;> rfl
  | succ n ih =>
    cases l with
    | nil => exact ih []
    | cons x l => exact ih l

/-- The gang once strand `key`, which knows `c`, has arrived at barrier `k`. -/
def withArrival (key : StrandKey) (c : Clock) (k : Nat) (g : Gang) : Gang :=
  { g with pending := alterAt [] (key.tile :: ·) k g.pending, arrived := alterAt [] ((key.tile, c) :: ·) k g.arrived }

theorem arrive_eq (k : Nat) (s : State) : arrive k s = nextPo (onGang (me s).queue (me s).record (me s).gang
    (withArrival (me s) (ordClock (me s) s.tile.ord) k) s) := rfl

/-- An arrival sets the pending bit of its strand. -/
theorem isPending_arrive {s : State} (h : Placed s s.tileNo (me s)) (k : Nat) :
    isPending (gangOf (arrive k s) (me s)) k (me s).tile = true := by
  obtain ⟨-, -, hgang⟩ := h
  have hg : gangOf (arrive k s) (me s) = withArrival (me s) (ordClock (me s) s.tile.ord) k (gangOf s (me s)) :=
    gangAt_onGang hgang fun _ => rfl
  rw [hg, isPending, withArrival, getD_alterAt, List.contains_cons, beq_self_eq_true, Bool.true_or]

theorem quiet_arrive (k : Nat) (s : State) : Quiet s (arrive k s) := by
  refine Quiet.trans ⟨fun p => ?_, ?_⟩ (orderOnly_nextPo _).quiet
  · cases p <;> rfl
  · rfl

theorem barReturn_eq (k : Nat) (s : State) : barReturn k s = onOrd (fun o => { o with
    clock := joinClock o.clock ((gangOf s (me s)).done.getD k Clock.none), po := o.po + 1 }) s := by
  unfold barReturn barReturnOn
  exact onTile_focus _ s

/-- The return from a barrier leaves the gang and the strand's run as they were. -/
theorem passed_barReturn (k : Nat) (s : State) : Passed s (advance (barReturn k s)) ∧
    gangOf (advance (barReturn k s)) (me s) = gangOf s (me s) ∧ (advance (barReturn k s)).tile.run = s.tile.run := by
  rw [barReturn_eq]
  exact ⟨(orderOnly_onOrd _ s).quiet.passed_advance, rfl, rfl⟩

/-! ### The barriers (R170, R171) -/

/-- What the barrier instructions check and wait for, in this order. -/
def barrierChecks (s : State) (k : Fin 16) : Except Stop Unit := do
  checkBarrier s k
  need (barClear s k.val) (.wait (.barrier k.val))
  awaitAcks s

theorem barrierChecks_outside {s : State} {k : Fin 16} (h : ¬ k.val < (taskOf s (me s)).trec.nbar) :
    barrierChecks s k = .error (.cause 0x082 k.val) := by
  rw [barrierChecks, checkBarrier, decide_eq_false h, need_false, error_bind]

theorem barrierChecks_inside {s : State} {k : Fin 16} (h : k.val < (taskOf s (me s)).trec.nbar) :
    barrierChecks s k = need (barClear s k.val) (.wait (.barrier k.val)) >>= fun _ => awaitAcks s := by
  rw [barrierChecks, checkBarrier, decide_eq_true h, need_true, ok_bind]

theorem barrierChecks_pending {s : State} {k : Fin 16} (h : k.val < (taskOf s (me s)).trec.nbar)
    (hp : isPending (gangOf s (me s)) k (me s).tile = true) : barrierChecks s k = .error (.wait (.barrier k.val)) := by
  rw [barrierChecks_inside h, barClear, hp, Bool.not_true, need_false, error_bind]

theorem barrierChecks_clear {s : State} {k : Fin 16} (h : k.val < (taskOf s (me s)).trec.nbar)
    (hp : isPending (gangOf s (me s)) k (me s).tile = false) : barrierChecks s k = awaitAcks s := by
  rw [barrierChecks_inside h, barClear, hp, Bool.not_false, need_true, ok_bind]

theorem exec_bara (k : Fin 16) (s : State) :
    exec (.bara k) s = finish s (barrierChecks s k >>= fun _ => .ok (arrive k.val s)) := by
  show finish s _ = _
  rw [barrierChecks, bind_assoc]
  simp only [bind_assoc]

theorem exec_barw (k : Fin 16) (s : State) :
    exec (.barw k) s = finish s (barrierChecks s k >>= fun _ => .ok (barReturn k.val s)) := by
  show finish s _ = _
  rw [barrierChecks, bind_assoc]
  simp only [bind_assoc]

theorem exec_bar_error {k : Fin 16} {s : State} {e : Stop} (h : barrierChecks s k = .error e) :
    exec (.bar k) s = .next (stopShort s.tileNo e s) := by
  show execBar k s = _
  rw [barrierChecks] at h
  simp only [execBar, h]

/-- BAR arrives and blocks. -/
theorem exec_bar_arrives {k : Fin 16} {s : State} (h : barrierChecks s k = .ok ()) (hstage : s.tile.barStage ≠ some k.val) :
    exec (.bar k) s = .next (onFocus (fun t => { t with run := .blocked (.barrier k.val), barStage := some k.val })
      (arrive k.val s)) := by
  show execBar k s = _
  rw [barrierChecks] at h
  simp only [execBar, h, if_neg hstage]
  exact congrArg Host.Outcome.next
    (onTile_focus _ (onFocus (fun t => { t with barStage := some k.val }) (arrive k.val s)))

/-- BAR returns once it has arrived. -/
theorem exec_bar_returns {k : Fin 16} {s : State} (h : barrierChecks s k = .ok ()) (hstage : s.tile.barStage = some k.val) :
    exec (.bar k) s = .next (advance (barReturn k.val s)) := by
  show execBar k s = _
  rw [barrierChecks] at h
  simp only [execBar, h, if_pos hstage]

/-- All three stop short of their effect alike. -/
theorem barriers_stopShort {k : Fin 16} {s : State} {e : Stop} (h : barrierChecks s k = .error e) :
    exec (.bara k) s = .next (stopShort s.tileNo e s) ∧ exec (.barw k) s = .next (stopShort s.tileNo e s) ∧
      exec (.bar k) s = .next (stopShort s.tileNo e s) := by
  refine ⟨?_, ?_, exec_bar_error h⟩
  · rw [exec_bara, h, error_bind, finish]
  · rw [exec_barw, h, error_bind, finish]

/-- R170, R171: BARA, BARW and BAR. -/
theorem barriers_waitArriveReturn : Barriers := by
  intro s k hplaced ok pending
  refine ⟨fun hout => barriers_stopShort (barrierChecks_outside hout),
    fun hok hp => barriers_stopShort (barrierChecks_pending hok hp),
    fun hok hp howed => barriers_stopShort ((barrierChecks_clear hok hp).trans (awaitAcks_owing howed)),
    fun hok hp hfree => ?_⟩
  have hchecks : barrierChecks s k = .ok () := (barrierChecks_clear hok hp).trans (awaitAcks_ok hfree)
  obtain ⟨hpassed, hgang, hrun⟩ := passed_barReturn k s
  have hclear : pending (advance (barReturn k.val s)) = false := (congrArg (isPending · _ _) hgang).trans hp
  refine ⟨⟨advance (arrive k.val s), ?_, (quiet_arrive k s).passed_advance, isPending_arrive hplaced k, rfl⟩,
    ⟨_, ?_, hpassed, hclear, hrun⟩, fun hstage => ?_, fun hstage => ?_⟩
  · rw [exec_bara, hchecks, ok_bind, finish]
  · rw [exec_barw, hchecks, ok_bind, finish]
  · exact ⟨_, exec_bar_arrives hchecks hstage, rfl, isPending_arrive hplaced k, rfl, rfl⟩
  · exact ⟨_, exec_bar_returns hchecks hstage, hpassed, hclear, hrun, rfl⟩

/-- Settles O9: FENCE and the barriers, by what they wait for, take in and release. -/
theorem fencesAndBarriers : Obligations.FencesAndBarriers := ⟨fence_waitsThenOrders, barriers_waitArriveReturn⟩

end Sys2Proof.Machine
end

section
/-!
PROOFS. What the accesses of an engine leave alone (R105, R106): no read changes a tile, and no write changes a queue of
commands or a copy in flight, so that the command that made the access still stands first in its queue.
-/

namespace Sys2Proof.Machine

open Sys2Proof Sys2Proof.Claims

set_option Elab.async false

/-! ### Queues and copies in flight -/

/-- Two tiles have the same commands queued, and the same copies in flight. -/
def SameCommands (t u : Tile) : Prop := (∀ e, engQueue u e = engQueue t e) ∧ u.flight = t.flight

/-- Every tile has its commands and its copies in flight as before. -/
def CommandsKept (s t : State) : Prop := ∀ n, SameCommands (tileAt s n) (tileAt t n)

theorem commandsKept_of_tileAt {s t : State} (h : ∀ n, tileAt t n = tileAt s n) : CommandsKept s t := fun n => by
  rw [h n]
  exact ⟨fun _ => rfl, rfl⟩

theorem CommandsKept.refl (s : State) : CommandsKept s s := commandsKept_of_tileAt fun _ => rfl

theorem CommandsKept.trans {s t u : State} (h : CommandsKept s t) (h' : CommandsKept t u) : CommandsKept s u := fun n =>
  ⟨fun e => ((h' n).1 e).trans ((h n).1 e), (h' n).2.trans (h n).2⟩

theorem PagesOnly.commandsKept {s t : State} (h : PagesOnly s t) : CommandsKept s t := commandsKept_of_tileAt h.tileAt

theorem OrderOnly.commandsKept {s t : State} (h : OrderOnly s t) : CommandsKept s t := fun n => by
  obtain ⟨_, hn⟩ := h.tileAt n
  rw [hn]
  exact ⟨fun e => by cases e <;> rfl, rfl⟩

theorem commandsKept_onTile (n : Nat) {f : Tile → Tile} (hf : ∀ t, SameCommands t (f t)) (s : State) :
    CommandsKept s (onTile n f s) := fun m => by
  rw [tileAt_onTile]
  split
  · rename_i hm
    exact hm ▸ hf _
  · exact ⟨fun _ => rfl, rfl⟩

theorem commandsKept_onNet (n : Nat) (f : NetIf → NetIf) (s : State) : CommandsKept s (onNet n f s) := by
  refine commandsKept_onTile n ?_ s
  exact fun _ => ⟨fun e => by cases e <;> rfl, rfl⟩

theorem commandsKept_postFlit (src m : Nat) (f : Flit) (s : State) : CommandsKept s (postFlit src m f s) := by
  unfold postFlit
  split
  · exact commandsKept_onNet _ _ s
  · exact commandsKept_onNet _ _ s

theorem commandsKept_setPlaceMem (s : State) (p : Place) (m : Memory) : CommandsKept s (setPlaceMem s p m) := by
  cases p with
  | dev => exact commandsKept_of_tileAt fun _ => rfl
  | host => exact commandsKept_of_tileAt fun _ => rfl
  | pad n =>
    refine commandsKept_onTile n ?_ s
    exact fun _ => ⟨fun e => by cases e <;> rfl, rfl⟩

/-! ### Reads and writes of an engine -/

theorem commandsKept_useAll (w : Who) (u : Use) (ps : List Spot) (s : State) : CommandsKept s (useAll w u ps s) :=
  (pagesOnly_foldl (fun s p => pagesOnly_useSpot w u p s) ps s).commandsKept

theorem commandsKept_clearSpots (ps : List Spot) (s : State) : CommandsKept s (clearSpots ps s) :=
  (orderOnly_foldl (fun _ _ => orderOnly_onRels _ _ _ _ _) ps s).commandsKept

theorem commandsKept_perform {a : Access} {ts : List Touch} {s t : State} (h : perform a ts s = .ok t) :
    CommandsKept s t := by
  unfold perform at h
  split at h
  · exact nomatch h
  · cases h
    exact (orderOnly_mark a ts s).commandsKept

theorem commandsKept_putPiece (w : Who) (elem : Option (Chan × Nat × Nat)) (p : Piece) (nib : Option Bool)
    (bytes : List Byte) (s : State) : CommandsKept s (putPiece w elem p nib bytes s) := by
  unfold putPiece
  split
  · split
    · exact commandsKept_postFlit _ _ _ s
    · exact commandsKept_setPlaceMem s _ _
  · exact commandsKept_setPlaceMem s _ _

theorem commandsKept_putSpots (w : Who) (ps : List Spot) (x : Datum) (s : State) : CommandsKept s (putSpots w ps x s) := by
  induction ps generalizing x s with
  | nil => exact .refl s
  | cons p ps ih => exact (commandsKept_putPiece _ _ _ _ _ s).trans (ih _ _)

section
variable {a : Access} {w : Who} {s t : State} {bytes : List Byte}

theorem commandsKept_engRead {sp : Space} {addr n : Nat} (h : engRead a w sp addr n s = .ok (t, bytes)) :
    CommandsKept s t := by
  obtain ⟨ps, -, h⟩ := bind_eq_ok.1 h
  obtain ⟨-, -, h⟩ := bind_eq_ok.1 h
  obtain ⟨-, -, h⟩ := bind_eq_ok.1 h
  obtain ⟨u, hu, h⟩ := bind_eq_ok.1 h
  cases h
  exact (commandsKept_perform hu).trans (commandsKept_useAll w .read ps u)

theorem commandsKept_readSpots {fmtOk : Option Nat → Bool} {ps : List Spot}
    (h : readSpots a w fmtOk ps s = .ok (t, bytes)) : CommandsKept s t := by
  unfold readSpots at h
  split at h
  · exact nomatch h
  · obtain ⟨-, -, h⟩ := bind_eq_ok.1 h
    obtain ⟨-, -, h⟩ := bind_eq_ok.1 h
    obtain ⟨u, hu, h⟩ := bind_eq_ok.1 h
    cases h
    exact (commandsKept_perform hu).trans (commandsKept_useAll w .read ps u)

theorem commandsKept_engWrite {sp : Space} {fmtOk : Option Nat → Bool} {addr : Nat} {x : Datum}
    (h : engWrite a w sp fmtOk addr x s = .ok t) : CommandsKept s t := by
  obtain ⟨ps, -, h⟩ := bind_eq_ok.1 h
  split at h
  · exact nomatch h
  · obtain ⟨u, hu, h⟩ := bind_eq_ok.1 h
    cases h
    exact (commandsKept_perform hu).trans ((commandsKept_useAll w .write ps u).trans
      ((commandsKept_clearSpots ps _).trans (commandsKept_putSpots w ps x _)))

/-! ### Elements of a copy (R79, R88, R89, R223) -/

theorem commandsKept_localRead {at_ : Nat × Nat} {bits v : Nat} (h : localRead a w at_ bits s = .ok (t, v)) :
    CommandsKept s t := by
  obtain ⟨⟨u, bs⟩, hu, h⟩ := bind_eq_ok.1 h
  cases h
  exact commandsKept_engRead hu

theorem commandsKept_sourceRaw {d : Desc} {bits raw addr : Nat} {i : List Nat} {p : Option Nat} {ps : List Spot}
    (h : sourceRaw a w d bits i s = .ok (t, p, raw, ps, addr)) : CommandsKept s t := by
  obtain ⟨p, -, h⟩ := bind_eq_ok.1 h
  obtain ⟨ps, -, h⟩ := bind_eq_ok.1 h
  obtain ⟨⟨u, bs⟩, hu, h⟩ := bind_eq_ok.1 h
  cases h
  exact commandsKept_readSpots hu

theorem commandsKept_sourceExponent {ps : List Spot} {addr e : Nat} (h : sourceExponent a w ps addr s = .ok (t, e)) :
    CommandsKept s t := by
  unfold sourceExponent at h
  split at h
  · obtain ⟨es, -, h⟩ := bind_eq_ok.1 h
    obtain ⟨⟨u, bs⟩, hu, h⟩ := bind_eq_ok.1 h
    cases h
    exact commandsKept_readSpots hu
  · cases h
    exact .refl s

theorem commandsKept_sourceElem {d : Desc} {f : Fmt} {rm : BitVec 2} {i : List Nat} {y : Rep}
    (h : sourceElem a w d f rm i s = .ok (t, y)) : CommandsKept s t := by
  obtain ⟨⟨u, p, raw, ps, addr⟩, hu, h⟩ := bind_eq_ok.1 h
  have hkept := commandsKept_sourceRaw hu
  dsimp only at h
  split at h
  · cases h
    exact hkept
  · split at h
    · exact nomatch h
    · split_ifs at h
      · cases h
        exact hkept
      · obtain ⟨⟨v, e⟩, hv, h⟩ := bind_eq_ok.1 h
        cases h
        exact hkept.trans (commandsKept_sourceExponent hv)
      · cases h
        exact hkept

end

theorem commandsKept_copySource {n i : Nat} {c : QCmd} {x : CopyCmd} {s t : State} {y : Rep}
    (h : copySource n c x i s = .ok (t, y)) : CommandsKept s t := by
  unfold copySource at h
  dsimp only at h
  split at h
  · obtain ⟨⟨u, v⟩, hu, h⟩ := bind_eq_ok.1 h
    cases h
    exact commandsKept_localRead hu
  · split at h
    · split at h
      · exact nomatch h
      · obtain ⟨ps, -, h⟩ := bind_eq_ok.1 h
        obtain ⟨⟨u, bs⟩, hu, h⟩ := bind_eq_ok.1 h
        cases h
        exact commandsKept_readSpots hu
    · split at h
      · exact commandsKept_sourceElem h
      · obtain ⟨⟨u, p, v, ps, addr⟩, hu, h⟩ := bind_eq_ok.1 h
        obtain ⟨-, -, h⟩ := bind_eq_ok.1 h
        cases h
        exact commandsKept_sourceRaw hu

theorem commandsKept_copyDest {n i v : Nat} {c : QCmd} {x : CopyCmd} {s t : State} (h : copyDest n c x i v s = .ok t) :
    CommandsKept s t := by
  unfold copyDest at h
  exact commandsKept_engWrite h

end Sys2Proof.Machine
end

section
/-!
PROOFS. Accesses of copies and of graph runs at their serialisation points (R105, R106, R116, R225, R282): a command that stands
first in its queue is changed in place, and is held there where its access fails.
-/

namespace Sys2Proof.Machine

open Sys2Proof Sys2Proof.Claims

set_option Elab.async false

/-! ### Tiles and keyed lists -/

theorem placeMem_onTile (n : Nat) {f : Tile → Tile} (hf : ∀ t, (f t).pad = t.pad) (s : State) (p : Place) :
    placeMem (onTile n f s) p = placeMem s p := by
  cases p with
  | pad m =>
    rw [placeMem, placeMem, tileAt_onTile]
    split
    · rename_i hm
      rw [hf, hm]
    · rfl
  | dev =>
    unfold onTile setTile
    split <;> rfl
  | host =>
    unfold onTile setTile
    split <;> rfl

theorem pad_setEngQueue (e : Eng) (q : List QCmd) (t : Tile) : (setEngQueue e q t).pad = t.pad := by cases e <;> rfl

theorem look_of_find? {α : Type} {d x : α} {l : List (Nat × α)} {k : Nat} (h : find? l k = some x) : look d l k = x := by
  induction l with
  | nil => exact nomatch h
  | cons y l ih =>
    rw [find?] at h
    rw [look]
    split
    · rename_i hk
      rw [if_pos hk] at h
      exact Option.some.inj h
    · rename_i hk
      rw [if_neg hk] at h
      exact ih h

/-! ### The command that stands first -/

/-- Command `c` stands first in the queue of engine `e`, and none in flight of that engine bears its number. -/
def StandsFirst (t : Tile) (e : Eng) (c : QCmd) (rest : List QCmd) : Prop :=
  engQueue t e = c :: rest ∧ ∀ d ∈ flightOf t e, ¬ (d.owner = c.owner ∧ d.seq = c.seq)

theorem standsFirst_of_head {s : State} {n : Nat} {e : Eng} {c : QCmd} {rest : List QCmd} (h : Head s n e c rest) :
    StandsFirst (tileAt s n) e c rest := by
  obtain ⟨hqueue, -, -, -, -, hflight⟩ := h
  exact ⟨hqueue, hflight⟩

theorem standsFirst_of_running {s : State} {n : Nat} {c : QCmd} {rest : List QCmd} {seq : Nat} {cfg : List (Nat × UnitCfg)}
    {r : Run} (h : Running s n c rest seq cfg r) : StandsFirst (tileAt s n) .fibre c rest := by
  obtain ⟨hqueue, -, -, -, -, hflight⟩ := h
  exact ⟨hqueue, hflight⟩

section
variable {s : State} {n : Nat} {e : Eng} {c : QCmd} {rest : List QCmd} (h : StandsFirst (tileAt s n) e c rest)
include h

theorem StandsFirst.kept {t : State} (hkept : CommandsKept s t) : StandsFirst (tileAt t n) e c rest := by
  obtain ⟨hqueue, hflight⟩ := h
  obtain ⟨hsame, hsameFlight⟩ := hkept n
  refine ⟨(hsame e).trans hqueue, ?_⟩
  rw [flightOf, hsameFlight]
  exact hflight

theorem StandsFirst.onCmd (f : QCmd → QCmd) :
    Machine.onCmd n e c.owner c.seq f s = onTile n (setEngQueue e (f c :: rest)) s := by
  obtain ⟨hqueue, hflight⟩ := h
  have hnone : ((flightOf (tileAt s n) e).any fun d => d.owner == c.owner && d.seq == c.seq) = false :=
    List.any_eq_false.2 fun d hd => by simpa using hflight d hd
  have hself : (c.owner == c.owner && c.seq == c.seq) = true := by simp
  simp only [Machine.onCmd, onTile, hnone, Bool.false_eq_true, if_false, hqueue, mapFirst, hself, if_true]

theorem StandsFirst.setHeld (f : TrapInfo) : Machine.setHeld n e c (.fault f) s =
    unsaid n c (onTile n (setEngQueue e ({ c with held := some (.fault f) } :: rest)) s) := by
  rw [Machine.setHeld, h.onCmd]
  unfold unsaid
  cases copyId c.body <;> rfl

/-- A step that ends in a fault of the command holds it. -/
theorem StandsFirst.heldWith {i : Instr} {f : TrapInfo} (hexec : exec i s = .next (orHold n e c s (.error (.trap f)))) :
    HeldWith i s n e c rest f := hexec.trans (congrArg Host.Outcome.next (h.setHeld f))

/-- A step that changes the first command leaves every byte as it is. -/
theorem StandsFirst.sameBytes_onCmd (f : QCmd → QCmd) : SameBytes s (Machine.onCmd n e c.owner c.seq f s) ∧
    engQueue (tileAt (Machine.onCmd n e c.owner c.seq f s) n) e = f c :: rest := by
  rw [h.onCmd]
  refine ⟨fun p a => ?_, ?_⟩
  · rw [placeMem_onTile n fun t => pad_setEngQueue e _ t]
  · rw [tileAt_onTile, if_pos rfl, engQueue_setEngQueue_same]

end

/-! ### Messages to region ports (R306) -/

theorem RegistersOnly.tileAt {s t : State} (h : RegistersOnly s t) (n : Nat) : Machine.tileAt t n = Machine.tileAt s n := by
  obtain ⟨htile, hno, hothers, -, -⟩ := h
  rw [Machine.tileAt, Machine.tileAt, htile, hno, hothers]

theorem registersOnly_enterPort (k : StrandKey) (i port : Nat) (user : PortUser) (bytes : List Byte) (s : State) :
    RegistersOnly s (enterPort k i port user bytes s) := by
  unfold enterPort
  split
  · exact registersOnly_onRegion _ _ s
  · exact .refl s

theorem registersOnly_sendStage (n : Nat) (e : Eng) (k : StrandKey) (seq : Nat) (s : State) :
    RegistersOnly s (sendStage n e k seq s) := by
  unfold sendStage
  split
  · exact .refl s
  · split
    · split
      · exact registersOnly_enterPort _ _ _ _ _ s
      · exact .refl s
    · exact .refl s

/-! ### Where a copy writes (R79, R89, R223) -/

/-- The write of element `i` to a copy's own scratchpad or to its descriptor. -/
def copyPut (n : Nat) (c : QCmd) (x : CopyCmd) (i v : Nat) (s : State) : Except Stop State :=
  if x.toLocal then localWrite (cmdAccess c .copyWrite true false) (cmdWho n c) (copyLocal x i) x.lbits v s
  else copyDest n c x i v s

theorem commandsKept_copyPut {n i v : Nat} {c : QCmd} {x : CopyCmd} {s t : State} (h : copyPut n c x i v s = .ok t) :
    CommandsKept s t := by
  unfold copyPut at h
  split at h
  · exact commandsKept_engWrite h
  · exact commandsKept_copyDest h

/-! ### A copy at the head of its queue -/

/-- Copy `x`, the command `c`, has started at the head of the queue of engine `e`; no copy in flight on its channel `ch` has its
identifier. -/
structure CopyAtWork (s : State) (n : Nat) (c : QCmd) (rest : List QCmd) (x : CopyCmd) (e : Eng) (ch : Chan) : Prop where
  head : Head s n e c rest
  body : c.body = .copy x
  started : c.started = true
  alone : ∀ d ∈ (tileAt s n).flight, isCopy ch x.id d = false
  chan : ch = if x.toLocal then .load else .store
  eng : chanEng ch = e

theorem liveHead_of_head {s : State} {n : Nat} {e : Eng} {c : QCmd} {rest : List QCmd} (h : Head s n e c rest) :
    liveHead s n e = some c := by
  obtain ⟨hqueue, hruns, hheld, hacks, hstart, -⟩ := h
  have hgo : (mayRun s c && (c.started || !stalled (tileAt s n) e)) = true := by
    simp only [mayRun, hheld, hacks]
    simpa using hstart
  simp only [liveHead, hruns, if_true, headCmd, hqueue, List.head?_cons, hgo]

section
variable {s : State} {n : Nat} {c : QCmd} {rest : List QCmd} {x : CopyCmd} {e : Eng} {ch : Chan}
  (h : CopyAtWork s n c rest x e ch)
include h

theorem CopyAtWork.activeCopy {p : QCmd → Bool} (hp : p c = true) : Machine.activeCopy s n ch x.id p = some c := by
  have hflight : ((tileAt s n).flight.find? fun d => isCopy ch x.id d && mayRun s d && p d) = none :=
    List.find?_eq_none.2 fun d hd => by simp [h.alone d hd]
  have hcopy : isCopy ch x.id c = true := by simp [isCopy, h.body, copyId, h.chan]
  simp only [Machine.activeCopy, hflight, ite_self, h.eng, liveHead_of_head h.head, hcopy, h.started, hp, Bool.and_self, if_true]

/-- The read of an element (R105, R106). -/
theorem CopyAtWork.exec_read {i : Nat} (hi : i < descCount x.desc) (hrd : c.rd.testBit i = false) :
    exec (.memoryAccessPerform (.copyRead n ch x.id i)) s = .next (orHold n e c s (wholeReport s n c false
      (copySource n c x i s >>= fun y => .ok (sendStage n e c.owner c.seq (onCmd n e c.owner c.seq
        (noteRead (copyCodec s n c x).isSome x.path.isSome (descCount x.desc) i y.2) y.1))))) := by
  show Host.Outcome.next (copyReadElem n ch x.id i s) = _
  rw [copyReadElem, h.activeCopy (by simp [hrd]), h.eng]
  simp only [h.body, if_neg (Nat.not_le.2 hi)]

/-- The write of an element (R105, R106). -/
theorem CopyAtWork.exec_write {i v : Nat} (hdata : x.noData = false) (hready : readyElem s n c x = true)
    (hreturn : x.toLocal = true → returnWaits s n x.id i = false) (hwr : c.wr.testBit i = false)
    (hv : find? c.buf i = some v) :
    exec (.memoryAccessPerform (.copyWrite n ch x.id i)) s = .next (orHold n e c s (wholeReport s n c true
      (copyPut n c x i v s >>= fun u => .ok (onCmd n e c.owner c.seq (noteWrite x.print.isSome i) u)))) := by
  have hgo : (x.noData || !readyElem s n c x || (x.toLocal && returnWaits s n x.id i)) = false := by
    simpa [hdata, hready] using hreturn
  show Host.Outcome.next (copyWriteElem n ch x.id i s) = _
  rw [copyWriteElem, h.activeCopy (by simp [hwr, hv]), h.eng]
  simp only [h.body, look_of_find? hv, hgo, Bool.false_eq_true, if_false, copyPut]
  split <;> rfl

/-- The write of the fingerprint (R225). -/
theorem CopyAtWork.exec_print {addr : Nat} (hch : ch = .load) (hready : allReady s n c x = true)
    (hwr : c.wr.testBit (descCount x.desc) = false) (haddr : x.print = some addr) :
    exec (.memoryAccessPerform (.copyPrint n x.id)) s = .next (orHold n .load c s
      (engWrite (cmdAccess c .copyWrite true false) (cmdWho n c) .loc (fun _ => true) addr (.whole (printBytes c x)) s >>=
        fun u => .ok (onCmd n .load c.owner c.seq (noteWrite true (descCount x.desc)) u))) := by
  subst hch
  show Host.Outcome.next (copyPrint n x.id s) = _
  rw [copyPrint, h.activeCopy (by simp [h.body, hwr])]
  simp only [h.body, haddr, hready, if_true]

/-- The reads of a copy (R105, R106, R225). -/
theorem CopyAtWork.reads {i : Nat} (hi : i < descCount x.desc) (hrd : c.rd.testBit i = false) :
    (∀ u y, copySource n c x i s = .ok (u, y) → Gives (.memoryAccessPerform (.copyRead n ch x.id i)) s fun t =>
      SameBytes u t ∧ engQueue (tileAt t n) e =
        noteRead (copyCodec s n c x).isSome x.path.isSome (descCount x.desc) i y c :: rest) ∧
    (∀ f g, copySource n c x i s = .error (.trap f) → wholeReport s n c false (.error (.trap f)) = .error (.trap g) →
      HeldWith (.memoryAccessPerform (.copyRead n ch x.id i)) s n e c rest g) := by
  have hfirst := standsFirst_of_head h.head
  have hexec := h.exec_read hi hrd
  refine ⟨fun u y hu => ?_, fun f g hf hg => ?_⟩
  · rw [hu, ok_bind] at hexec
    obtain ⟨hbytes, hqueue⟩ := (hfirst.kept (commandsKept_copySource hu)).sameBytes_onCmd
      (noteRead (copyCodec s n c x).isSome x.path.isSome (descCount x.desc) i y)
    have hsend := registersOnly_sendStage n e c.owner c.seq
      (onCmd n e c.owner c.seq (noteRead (copyCodec s n c x).isSome x.path.isSome (descCount x.desc) i y) u)
    exact ⟨_, hexec, fun p b => (hsend.sameBytes p b).trans (hbytes p b), (congrArg (engQueue · e) (hsend.tileAt n)).trans hqueue⟩
  · rw [hf, error_bind, hg] at hexec
    exact hfirst.heldWith hexec

/-- The writes of a copy (R105, R106, R225). -/
theorem CopyAtWork.writes {i v : Nat} (hdata : x.noData = false) (hready : readyElem s n c x = true)
    (hreturn : x.toLocal = true → returnWaits s n x.id i = false) (hwr : c.wr.testBit i = false)
    (hv : find? c.buf i = some v) :
    (∀ u, copyPut n c x i v s = .ok u → Gives (.memoryAccessPerform (.copyWrite n ch x.id i)) s fun t =>
      SameBytes u t ∧ engQueue (tileAt t n) e = noteWrite x.print.isSome i c :: rest) ∧
    ∀ f g, copyPut n c x i v s = .error (.trap f) → wholeReport s n c true (.error (.trap f)) = .error (.trap g) →
      HeldWith (.memoryAccessPerform (.copyWrite n ch x.id i)) s n e c rest g := by
  have hfirst := standsFirst_of_head h.head
  have hexec := h.exec_write hdata hready hreturn hwr hv
  refine ⟨fun u hu => ?_, fun f g hf hg => ?_⟩
  · rw [hu, ok_bind] at hexec
    exact ⟨_, hexec, (hfirst.kept (commandsKept_copyPut hu)).sameBytes_onCmd _⟩
  · rw [hf, error_bind, hg] at hexec
    exact hfirst.heldWith hexec

/-- The fingerprint of a copy (R225). -/
theorem CopyAtWork.prints {addr : Nat} {u : State} (hch : ch = .load) (hready : allReady s n c x = true)
    (hwr : c.wr.testBit (descCount x.desc) = false) (haddr : x.print = some addr)
    (hu : engWrite (cmdAccess c .copyWrite true false) (cmdWho n c) .loc (fun _ => true) addr (.whole (printBytes c x)) s = .ok u) :
    Gives (.memoryAccessPerform (.copyPrint n x.id)) s fun t => SameBytes u t ∧
      engQueue (tileAt t n) .load = { c with wr := c.wr ||| 2 ^ descCount x.desc } :: rest := by
  have hexec := h.exec_print hch hready hwr haddr
  have hfirst := standsFirst_of_head h.head
  rw [← h.eng, hch] at hfirst
  rw [hu, ok_bind] at hexec
  exact ⟨_, hexec, (hfirst.kept (commandsKept_engWrite hu)).sameBytes_onCmd _⟩

end

/-! ### A store of a graph run (R282, R290) -/

theorem sameBytes_setRun (n : Nat) (r : Run) (s : State) : SameBytes s (setRun n r s) := fun p a => by
  rw [setRun, placeMem_onTile]
  exact fun _ => rfl

theorem run_setRun (n : Nat) (r : Run) (s : State) : (tileAt (setRun n r s) n).fibre.run = some r := by
  rw [setRun, tileAt_onTile, if_pos rfl]

section
variable {s : State} {n : Nat} {c : QCmd} {rest : List QCmd} {seq : Nat} {cfg : List (Nat × UnitCfg)} {r : Run}
  (h : Running s n c rest seq cfg r)
include h

theorem runningGo_of_running : runningGo s n = some (c, seq, cfg, r) := by
  obtain ⟨hqueue, hbody, hheld, hrun, hgo, -⟩ := h
  simp only [runningGo, hgo, if_true, hqueue, List.head?_cons, hrun, hbody, hheld, Option.isNone_none]

/-- The oldest store of a unit that is not held. -/
theorem exec_fibreWrite {slot a v : Nat} {f : UnitCfg} {more : List (Nat × Nat)} (hf : find? cfg slot = some f)
    (hsends : (unitAt r slot).sends = (a, v) :: more) (hfree : (unitAt r slot).held = none)
    (hacks : owedAcks s c.owner = false) :
    (∀ u flags, performSend n c f.fn a v s = .ok (u, flags) → exec (.memoryAccessPerform (.fibreWrite n slot)) s =
      .next (setRun n { setUnit slot { unitAt r slot with sends := more } r with subst := r.subst ||| flags, still := 0 } u)) ∧
    ∀ g, performSend n c f.fn a v s = .error (.trap g) →
      exec (.memoryAccessPerform (.fibreWrite n slot)) s = .next (orHold n .fibre c s (.error (.trap g))) := by
  have hgo := runningGo_of_running h
  obtain ⟨-, -, hheld, -, -, -⟩ := h
  have hperform : exec (.memoryAccessPerform (.fibreWrite n slot)) s = .next (performFibre n slot s) := rfl
  refine ⟨fun u flags hu => ?_, fun g hg => ?_⟩
  · simp [hperform, performFibre, hgo, hf, hsends, hfree, mayRun, hheld, hacks, hu]
  · simp [hperform, performFibre, hgo, hf, hsends, hfree, mayRun, hheld, hacks, hg, holdUnit, orHold]

/-- A store of a write unit or a scratchpad sink (R282, R290). -/
theorem fibreWrite_performed {slot a v : Nat} {f : UnitCfg} {more : List (Nat × Nat)} (hf : find? cfg slot = some f)
    (hsends : (unitAt r slot).sends = (a, v) :: more) (hfree : (unitAt r slot).held = none)
    (hacks : owedAcks s c.owner = false) :
    (∀ u flags, performSend n c f.fn a v s = .ok (u, flags) → Gives (.memoryAccessPerform (.fibreWrite n slot)) s fun t =>
      SameBytes u t ∧ (tileAt t n).fibre.run = some { setUnit slot { unitAt r slot with sends := more } r with
        subst := r.subst ||| flags, still := 0 }) ∧
    ∀ g, performSend n c f.fn a v s = .error (.trap g) →
      HeldWith (.memoryAccessPerform (.fibreWrite n slot)) s n .fibre c rest g := by
  obtain ⟨hok, herror⟩ := exec_fibreWrite h hf hsends hfree hacks
  exact ⟨fun u flags hu => ⟨_, hok u flags hu, sameBytes_setRun n _ u, run_setRun n _ u⟩,
    fun g hg => (standsFirst_of_running h).heldWith (herror g hg)⟩

end

end Sys2Proof.Machine
end

section
/-!
PROOFS. Reduction AMOs in the routers (R102, R106, R111, R112): one performed at its home slice, and two merged.
-/

namespace Sys2Proof.Machine

open Sys2Proof Sys2Proof.Claims

set_option Elab.async false

/-! ### What an acknowledgement leaves -/

/-- Every memory, the sequencer in focus and the routers are as they were. -/
def RoutersQuiet (s t : State) : Prop := Quiet s t ∧ t.dev.router = s.dev.router

theorem RoutersQuiet.refl (s : State) : RoutersQuiet s s := ⟨.refl s, rfl⟩

theorem RoutersQuiet.trans {s t u : State} (h : RoutersQuiet s t) (h' : RoutersQuiet t u) : RoutersQuiet s u :=
  ⟨h.1.trans h'.1, h'.2.trans h.2⟩

theorem routersQuiet_foldl {α : Type} {f : State → α → State} (hf : ∀ s a, RoutersQuiet s (f s a)) (l : List α) (s : State) :
    RoutersQuiet s (l.foldl f s) := by
  induction l generalizing s with
  | nil => exact .refl s
  | cons a l ih => exact (hf s a).trans (ih _)

theorem onTile_dev (n : Nat) (f : Tile → Tile) (s : State) : (onTile n f s).dev = s.dev := by
  unfold onTile setTile
  split <;> rfl

theorem routersQuiet_onNet (n : Nat) (f : NetIf → NetIf) (s : State) : RoutersQuiet s (onNet n f s) :=
  ⟨quiet_onNet n f s, congrArg Dev.router (onTile_dev n _ s)⟩

theorem routersQuiet_postPort (n : Nat) (f : Flit) (s : State) : RoutersQuiet s (postPort n f s) := by
  unfold postPort
  dsimp only
  split
  · exact routersQuiet_onNet _ _ s
  · exact routersQuiet_onNet _ _ s

theorem routersQuiet_ackTo (k : StrandKey) (s : State) : RoutersQuiet s (ackTo k s) := by
  unfold ackTo
  split
  · split
    · exact routersQuiet_postPort _ _ s
    · exact .refl s
  · exact .refl s

theorem routersQuiet_addRels (p : Place) (a n : Nat) (rels : List Release) (s : State) : RoutersQuiet s (addRels p a n rels s) :=
  ⟨(orderOnly_addRels p a n rels s).quiet, (orderOnly_addRels p a n rels s).router⟩

theorem pad_look_map {f : Nat → Tile → Tile} (hf : ∀ n t, (f n t).pad = t.pad) (l : List (Nat × Tile)) (n : Nat) :
    (look Tile.blank (l.map fun e => (e.1, f e.1 e.2)) n).pad = (look Tile.blank l n).pad := by
  induction l with
  | nil => rfl
  | cons e l ih =>
    rw [List.map_cons, look, look]
    split
    · exact hf _ _
    · exact ih

theorem quiet_onTiles {f : Nat → Tile → Tile} (hpad : ∀ n t, (f n t).pad = t.pad) (hseq : ∀ n t, (f n t).seq = t.seq)
    (s : State) : Quiet s (onTiles f s) := by
  refine ⟨fun p => ?_, hseq _ _⟩
  cases p with
  | dev => rfl
  | host => rfl
  | pad n =>
    show (if n = s.tileNo then f _ s.tile else look Tile.blank (s.others.map fun e => (e.1, f e.1 e.2)) n).pad =
      (if n = s.tileNo then s.tile else look Tile.blank s.others n).pad
    by_cases hn : n = s.tileNo
    · rw [if_pos hn, if_pos hn, hpad]
    · rw [if_neg hn, if_neg hn, pad_look_map hpad]

theorem routersQuiet_meetRels (k : StrandKey) (rels : List Release) (s : State) : RoutersQuiet s (meetRels k rels s) := by
  refine ⟨quiet_onTiles (fun _ t => ?_) (fun _ t => ?_) s, rfl⟩
  · split <;> rfl
  · split <;> rfl

/-! ### An AMO at its home slice (R102, R106, R112) -/

theorem setPlaceMem_router (s : State) (p : Place) (m : Memory) : (setPlaceMem s p m).dev.router = s.dev.router := by
  cases p with
  | dev => rfl
  | host => rfl
  | pad n => exact congrArg Dev.router (onTile_dev n _ s)

/-- The state with the new value of an AMO written at its place. -/
def amoWritten (r : RouterAmo) (s : State) : State :=
  let w := r.ty.bits / 8
  setPlaceMem s r.place ((placeMem s r.place).writeNat r.addr w
    (amoValue (amoOf r.opcode) r.ty.bits ((placeMem s r.place).readNat r.addr w) r.operand))

/-- The AMO at place `i` has left the routers. -/
def withoutAmo (i : Nat) (s : State) : State := onDev (fun d => { d with router := d.router.eraseIdx i }) s

theorem quiet_withoutAmo (i : Nat) (s : State) : Quiet s (withoutAmo i s) := ⟨fun p => by cases p <;> rfl, rfl⟩

theorem router_withoutAmo (i : Nat) (s : State) : (withoutAmo i s).dev.router = s.dev.router.eraseIdx i := rfl

theorem routerPerform_waits {s : State} {i : Nat} {r : RouterAmo} (hr : s.dev.router[i]? = some r)
    (hfirst : amoFirst s.dev.router i none r = false) : routerPerform i s = s := by
  simp only [routerPerform, hr, Option.filter_some, hfirst, Bool.false_eq_true, if_false]

/-- An AMO that none must precede is written, leaves the routers and is acknowledged. -/
theorem routerPerform_first {s : State} {i : Nat} {r : RouterAmo} (hr : s.dev.router[i]? = some r)
    (hfirst : amoFirst s.dev.router i none r = true) : ∃ u, RoutersQuiet (amoWritten r s) u ∧
      RoutersQuiet (withoutAmo i u) (routerPerform i s) := by
  simp only [routerPerform, hr, Option.filter_some, hfirst, if_true]
  exact ⟨_, routersQuiet_foldl (fun s (p : StrandKey × List Release) =>
      (routersQuiet_meetRels p.1 _ s).trans (routersQuiet_addRels _ _ _ _ _)) _ _,
    routersQuiet_foldl (fun s (p : StrandKey × List Release) => routersQuiet_ackTo p.1 s) _ _⟩

theorem exec_routerAmo (i : Nat) (s : State) : exec (.memoryAccessPerform (.routerAmo i)) s = .next (routerPerform i s) := rfl

/-- R102, R106, R112: a reduction AMO at its home slice. -/
theorem routerAmo_performed {s : State} {i : Nat} {r : RouterAmo} (hr : s.dev.router[i]? = some r) (hwf : memoriesWf s = true) :
    let w := r.ty.bits / 8
    let old := (placeMem s r.place).readNat r.addr w
    (amoFirst s.dev.router i none r = false → Unchanged (.memoryAccessPerform (.routerAmo i)) s) ∧
      (amoFirst s.dev.router i none r = true → Gives (.memoryAccessPerform (.routerAmo i)) s fun t =>
        t.dev.router = s.dev.router.eraseIdx i ∧
        Stored s t ⟨r.place, r.addr, w, 0⟩ (amoValue (amoOf r.opcode) r.ty.bits old r.operand)) := by
  intro w old
  refine ⟨fun hfirst => (exec_routerAmo i s).trans (congrArg _ (routerPerform_waits hr hfirst)), fun hfirst => ?_⟩
  obtain ⟨u, ⟨hu, hrouter⟩, ⟨hq, hlast⟩⟩ := routerPerform_first hr hfirst
  refine ⟨_, exec_routerAmo i s, ?_, ?_⟩
  · rw [hlast, router_withoutAmo, hrouter, amoWritten, setPlaceMem_router]
  · have hstored := stored_setPlaceMem (p := ⟨r.place, r.addr, w, 0⟩) (amoValue (amoOf r.opcode) r.ty.bits old r.operand)
      (wf_placeMem (memWf_iff.2 hwf))
    exact stored_congr hstored (fun _ => rfl) (hu.trans ((quiet_withoutAmo i u).trans hq)).1

/-! ### Two AMOs merged (R102, R111, R112) -/

theorem mayMerge_iff (a b : RouterAmo) : mayMerge a b = true ↔ a.opcode = b.opcode ∧ a.ty = b.ty ∧ a.place = b.place ∧
    a.addr = b.addr ∧ a.noMerge = false ∧ b.noMerge = false := by
  simp [mayMerge, and_assoc]

theorem exec_routerAmoMerge {s : State} {i j : Nat} {a b : RouterAmo} (hij : i < j) (ha : s.dev.router[i]? = some a)
    (hb : s.dev.router[j]? = some b) : exec (.routerAmoMerge i j) s =
      .next (if mayMerge a b = true ∧ amoFirst s.dev.router j (some i) b = true then
        onDev (fun d => { d with router := (d.router.set i (mergeAmo a b)).eraseIdx j }) s else s) := by
  show execRouterAmoMerge i j s = _
  simp only [execRouterAmoMerge, ha, hb, hij, true_and]

/-- R111: two AMOs of one operation and place merge, where none must come between them, and else not. -/
theorem routerAmoMerge_merges {s : State} {i j : Nat} {a b : RouterAmo} (hij : i < j) (ha : s.dev.router[i]? = some a)
    (hb : s.dev.router[j]? = some b) :
    let may := a.opcode = b.opcode ∧ a.ty = b.ty ∧ a.place = b.place ∧ a.addr = b.addr ∧ a.noMerge = false ∧
      b.noMerge = false ∧ amoFirst s.dev.router j (some i) b = true
    (may → DevBecomes (.routerAmoMerge i j) s fun d => { d with router := (d.router.set i { a with
        operand := amoValue (amoOf a.opcode) a.ty.bits a.operand b.operand, parts := a.parts ++ b.parts }).eraseIdx j }) ∧
      (¬ may → Unchanged (.routerAmoMerge i j) s) := by
  intro may
  have hmay : (mayMerge a b = true ∧ amoFirst s.dev.router j (some i) b = true) ↔ may := by
    simp only [mayMerge_iff, may, and_assoc]
  refine ⟨fun h => ?_, fun h => ?_⟩
  · rw [DevBecomes, exec_routerAmoMerge hij ha hb, if_pos (hmay.2 h)]
    rfl
  · rw [Unchanged, exec_routerAmoMerge hij ha hb, if_neg (mt hmay.1 h)]

/-! ### The statement -/

/-- Settles O30: accesses of copies, of graph runs and of reduction AMOs at their serialisation points, and the merging of
AMOs. -/
theorem accessSteps : Obligations.AccessSteps := by
  intro s n c rest x i ch e who count active write
  have hwork : active → CopyAtWork s n c rest x e ch := fun ⟨hhead, hbody, hstarted, halone⟩ =>
    ⟨hhead, hbody, hstarted, halone, rfl, apply_ite chanEng _ _ _⟩
  refine ⟨fun hactive hi hrd => (hwork hactive).reads hi hrd,
    fun hactive hdata hready hreturn hwr v hv => (hwork hactive).writes hdata hready hreturn hwr hv,
    fun hactive hlocal hready hwr addr haddr u hu =>
      (hwork hactive).prints (if_pos hlocal) hready hwr haddr hu,
    fun seq cfg r slot f a v more hrunning hf hsends hfree hacks => fibreWrite_performed hrunning hf hsends hfree hacks,
    fun r hr hwf => routerAmo_performed hr hwf, fun j a b hij ha hb => routerAmoMerge_merges hij ha hb⟩

end Sys2Proof.Machine
end

section
/-!
PROOFS. Trap records (R113): a write of the device reaches device and host memory only, so that a record leaves every tile as
it was; the words of a record one by one, and the bits of its second word.
-/

namespace Sys2Proof.Machine

open Sys2Proof Sys2Proof.Claims

set_option Elab.async false

/-! ### What a write of the device leaves (R350, R353, R372) -/

/-- Nothing changed but device memory, host memory and the cached translations. -/
def StorageOnly (s t : State) : Prop := ∃ mem host tlb, t = onDev (fun d => { d with mem := mem, host := host, tlb := tlb }) s

theorem StorageOnly.refl (s : State) : StorageOnly s s := ⟨_, _, _, rfl⟩

theorem StorageOnly.trans {s t u : State} (h : StorageOnly s t) (h' : StorageOnly t u) : StorageOnly s u := by
  obtain ⟨_, _, _, rfl⟩ := h
  obtain ⟨m, h, l, rfl⟩ := h'
  exact ⟨m, h, l, rfl⟩

theorem StorageOnly.tileAt {s t : State} (h : StorageOnly s t) (n : Nat) : Machine.tileAt t n = Machine.tileAt s n := by
  obtain ⟨_, _, _, rfl⟩ := h
  rfl

theorem StorageOnly.taskOf {s t : State} (h : StorageOnly s t) (k : StrandKey) : Machine.taskOf t k = Machine.taskOf s k := by
  obtain ⟨_, _, _, rfl⟩ := h
  rfl

theorem PagesOnly.storageOnly {s t : State} (h : PagesOnly s t) : StorageOnly s t := by
  obtain ⟨m, l, rfl⟩ := h
  exact ⟨m, s.dev.host, l, rfl⟩

/-- A memory other than a scratchpad is put. -/
theorem storageOnly_setPlaceMem {p : Place} (hp : ∀ n, p ≠ .pad n) (s : State) (m : Memory) :
    StorageOnly s (setPlaceMem s p m) := by
  cases p with
  | pad n => exact absurd rfl (hp n)
  | dev => exact ⟨m, s.dev.host, s.dev.tlb, rfl⟩
  | host => exact ⟨s.dev.mem, m, s.dev.tlb, rfl⟩

theorem storageOnly_devWriteIn {as : AddrSpace} {start va : Nat} {bytes : List Byte} {s t : State}
    (h : devWriteIn as start va bytes s = .ok t) : StorageOnly s t := by
  induction bytes generalizing s va with
  | nil =>
    cases h
    exact .refl _
  | cons b bytes ih =>
    obtain ⟨f, hf, h⟩ := bind_eq_ok.1 h
    exact (pagesOnly_touch as .write f s).storageOnly.trans
      ((storageOnly_setPlaceMem (locateIn_place hf) _ _).trans (ih h))

/-! ### Tasks -/

/-- A change of a task on the device's list is read back. -/
theorem taskOf_onTask {s : State} {k : StrandKey} {f : Task → Task} (hlist : s.dev.tasks.any (Task.is k.queue k.record) = true)
    (hf : ∀ x, Task.is k.queue k.record (f x) = Task.is k.queue k.record x) :
    taskOf (onTask k.queue k.record f s) k = f (taskOf s k) := by
  obtain ⟨x, hx⟩ := Option.isSome_iff_exists.1
    ((List.find?_isSome (p := Task.is k.queue k.record)).2 (List.any_eq_true.1 hlist))
  show ((mapFirst (Task.is k.queue k.record) f s.dev.tasks).find? (Task.is k.queue k.record)).getD _ = _
  rw [find?_mapFirst (fun y hy => (hf y).trans hy), taskOf, taskAt, hx]
  rfl

/-! ### The record written (R113) -/

/-- The task of strand `k` has counted one trap more. -/
def countTrap (k : StrandKey) (s : State) : State :=
  onTask k.queue k.record (fun x => { x with traps := (taskOf s k).traps + 1 }) s

theorem taskOf_countTrap {s : State} {k : StrandKey} (htask : s.dev.tasks.any (Task.is k.queue k.record) = true) :
    taskOf (countTrap k s) k = { taskOf s k with traps := (taskOf s k).traps + 1 } :=
  taskOf_onTask (f := fun x => { x with traps := (taskOf s k).traps + 1 }) htask fun _ => rfl

theorem strandSpace_countTrap {s : State} {k : StrandKey} (htask : s.dev.tasks.any (Task.is k.queue k.record) = true) :
    strandSpace (countTrap k s) k = strandSpace s k := by
  rw [strandSpace, taskOf_countTrap htask]
  rfl

/-- Where the next trap record of strand `k`'s task goes. -/
def recordAddr (s : State) (k : StrandKey) : Nat :=
  ((taskOf s k).trec.trapBase.toNat + 128 * (((taskOf s k).traps + 1 - 1) % max 1 (taskOf s k).trec.trapSlots)) % 2 ^ 64

theorem writeRecord_eq (n : Nat) (k : StrandKey) (rep : Report) (t : TrapInfo) (s : State) : writeRecord n k rep t s =
    match devWrite (strandSpace (countTrap k s) k) (recordAddr s k) (trapBytes s n k ((taskOf s k).traps + 1) rep t)
      (countTrap k s) with
    | .ok u => u
    | .error _ => countTrap k s := rfl

/-- The record of a trap counts it, and changes nothing else but storage. -/
theorem storageOnly_writeRecord (n : Nat) (k : StrandKey) (rep : Report) (t : TrapInfo) (s : State) :
    StorageOnly (countTrap k s) (writeRecord n k rep t s) := by
  rw [writeRecord_eq]
  split
  · exact storageOnly_devWriteIn ‹_›
  · exact .refl _

/-- A trap record leaves every tile as it was: registers, program counter and all. -/
theorem tileAt_writeRecord (n : Nat) (k : StrandKey) (rep : Report) (t : TrapInfo) (s : State) (m : Nat) :
    tileAt (writeRecord n k rep t s) m = tileAt s m := (storageOnly_writeRecord n k rep t s).tileAt m

theorem trapRecordWritten : TrapRecordWritten := by
  intro s u n k rep t task seq s1 hplaced hslots hwrite
  obtain ⟨-, htask, -⟩ := hplaced
  have haddr : recordAddr s k = (task.trec.trapBase.toNat + 128 * ((seq - 1) % task.trec.trapSlots)) % 2 ^ 64 := by
    rw [recordAddr, Nat.max_eq_right hslots]
  have hu : writeRecord n k rep t s = u := by
    have hw : devWrite (strandSpace s k) _ (trapBytes s n k seq rep t) (countTrap k s) = .ok u := hwrite
    rw [writeRecord_eq, haddr, strandSpace_countTrap htask, hw]
  subst hu
  refine ⟨rfl, ?_, congrArg Tile.seq (tileAt_writeRecord n k rep t s n)⟩
  rw [(storageOnly_writeRecord n k rep t s).taskOf, taskOf_countTrap htask]

/-! ### The words of a record (R113) -/

theorem leNat_leBytes (n x : Nat) : leNat (leBytes n x) = x % 256 ^ n := by
  induction n generalizing x with
  | zero => exact (Nat.mod_one x).symm
  | succ n ih =>
    rw [leBytes, leNat, ih, BitVec.toNat_ofNat, pow_succ' 256 n, Nat.mod_mul]

/-- Word `i` of a record that is a list of words. -/
theorem recordWord_words (ws : List Nat) (i : Nat) : recordWord (ws.map (leBytes 8)).flatten i = ws.getD i 0 % 2 ^ 64 := by
  induction ws generalizing i with
  | nil => rw [List.map_nil, List.flatten_nil, recordWord, List.drop_nil, List.take_nil]; rfl
  | cons w ws ih =>
    rw [List.map_cons, List.flatten_cons]
    cases i with
    | zero =>
      rw [recordWord, Nat.mul_zero, List.drop_zero, List.take_left' (leBytes_length 8 w), leNat_leBytes]
      rfl
    | succ i =>
      rw [List.getD_cons_succ, ← ih, recordWord, recordWord, Nat.mul_succ, Nat.add_comm, ← List.drop_drop,
        List.drop_left' (leBytes_length 8 w)]

/-- The bits from 11 on of the word that tells the cause: SUSPECT, a command, its ENGINE and its number. -/
def commandBits : Option (Eng × Nat × Nat × Bool) → Nat
  | none => 0
  | some (e, num, _, suspect) => (if suspect then 2 ^ 11 else 0) + 2 ^ 12 + engCode e * 2 ^ 13 + num % 2 ^ 16 * 2 ^ 16

/-- The word that tells the cause. -/
def causeWord (cause : Nat) (freq : Bool) (rep : Report) : Nat :=
  cause + (if rep.deferred then 2 ^ 9 else 0) + (if freq then 1 else 0) * 2 ^ 10 + commandBits rep.cmd

/-- The transfer identifier that a report names. -/
def reportXfer : Option (Eng × Nat × Nat × Bool) → Nat
  | none => 0
  | some (_, _, x, _) => x

/-- The word that names gang and tile of a strand. -/
def strandWord (k : StrandKey) : Nat := k.gang + k.tile * 2 ^ 32

/-- The words of a trap record. -/
def trapWords (s : State) (n : Nat) (k : StrandKey) (seq : Nat) (rep : Report) (t : TrapInfo) : List Nat :=
  [rep.vpc.toNat, causeWord t.cause (changing s n k) rep, t.info0.toNat, t.info1.toNat, reportXfer rep.cmd,
    (tileAt s n).seq.cycle.toNat, s.dev.ncycle.toNat, strandWord k, (t.aux.getD 0 0).toNat, (t.aux.getD 1 0).toNat,
    (t.aux.getD 2 0).toNat, (t.aux.getD 3 0).toNat, seq, 0, 0, 0]

theorem trapBytes_eq (s : State) (n : Nat) (k : StrandKey) (seq : Nat) (rep : Report) (t : TrapInfo) :
    trapBytes s n k seq rep t = ((trapWords s n k seq rep t).map (leBytes 8)).flatten := by
  obtain ⟨vpc, deferred, _ | ⟨e, num, x, suspect⟩⟩ := rep <;> rfl

theorem trapBytes_length (s : State) (n : Nat) (k : StrandKey) (seq : Nat) (rep : Report) (t : TrapInfo) :
    (trapBytes s n k seq rep t).length = 128 := by
  rw [trapBytes_eq]
  simp [trapWords]

theorem engCode_le (e : Eng) : engCode e ≤ 3 := by cases e <;> decide

theorem commandBits_some (e : Eng) (num x : Nat) (suspect : Bool) : commandBits (some (e, num, x, suspect)) =
    2 ^ 11 * ((if suspect then 1 else 0) + 2 * (1 + 2 * (engCode e + 4 * (2 * (num % 2 ^ 16))))) := by
  cases suspect <;> simp only [commandBits, Bool.false_eq_true, if_true, if_false] <;> omega

/-- The command's bits are those from 11 to 31. -/
theorem commandBits_range (c : Option (Eng × Nat × Nat × Bool)) : ∃ q < 2 ^ 21, commandBits c = 2 ^ 11 * q := by
  obtain _ | ⟨e, num, x, suspect⟩ := c
  · exact ⟨0, by decide, rfl⟩
  · refine ⟨_, ?_, commandBits_some e num x suspect⟩
    have he := engCode_le e
    split <;> omega

theorem causeWord_lt {cause : Nat} (h : cause < 2 ^ 9) (freq : Bool) (rep : Report) : causeWord cause freq rep < 2 ^ 64 := by
  obtain ⟨q, hq, hcmd⟩ := commandBits_range rep.cmd
  rw [causeWord, hcmd]
  split <;> split <;> omega

/-- The cause, DEFERRED, FREQ and the command's bits of the word that tells the cause. -/
theorem causeWord_fields {cause : Nat} (h : cause < 2 ^ 9) (freq : Bool) (rep : Report) :
    fieldOf (causeWord cause freq rep) 0 9 = cause ∧
    fieldOf (causeWord cause freq rep) 9 1 = (if rep.deferred then 1 else 0) ∧
    fieldOf (causeWord cause freq rep) 10 1 = (if freq then 1 else 0) ∧
    causeWord cause freq rep / 2 ^ 11 = commandBits rep.cmd / 2 ^ 11 := by
  obtain ⟨q, -, hcmd⟩ := commandBits_range rep.cmd
  simp only [fieldOf, causeWord, hcmd]
  refine ⟨?_, ?_, ?_, ?_⟩ <;> split <;> split <;> omega

theorem strandWord_fields {k : StrandKey} (hgang : k.gang < 2 ^ 32) (htile : k.tile < 64) :
    strandWord k < 2 ^ 64 ∧ fieldOf (strandWord k) 0 32 = k.gang ∧ fieldOf (strandWord k) 32 6 = k.tile := by
  simp only [fieldOf, strandWord]
  omega

theorem changing_iff (s : State) (n : Nat) (k : StrandKey) : changing s n k = true ↔
    (clockAt s (n / 128)).pending.isSome = true ∨ (telemetryAt s n).newTdiv.isSome = true ∨
      ∃ r ∈ (gangOf s k).regions, (regionAt s r).newDivider.isSome = true := by
  simp only [changing, chipletOf, Bool.or_eq_true, List.any_eq_true, or_assoc]

/-! ### The layout of a record (R113) -/

section
variable (s : State) (n : Nat) (k : StrandKey) (seq : Nat) (rep : Report) (t : TrapInfo)

theorem recordWord_trapBytes (i : Nat) :
    recordWord (trapBytes s n k seq rep t) i = (trapWords s n k seq rep t).getD i 0 % 2 ^ 64 := by
  rw [trapBytes_eq, recordWord_words]

/-- A word of the record that holds a 64-bit word. -/
theorem recordWord_of_toNat {i : Nat} {x : Word} (h : (trapWords s n k seq rep t).getD i 0 = x.toNat) :
    recordWord (trapBytes s n k seq rep t) i = x.toNat := by
  rw [recordWord_trapBytes, h, Nat.mod_eq_of_lt x.isLt]

/-- A word of the record that holds a number of 64 bits. -/
theorem recordWord_of_lt {i x : Nat} (hx : x < 2 ^ 64) (h : (trapWords s n k seq rep t).getD i 0 = x) :
    recordWord (trapBytes s n k seq rep t) i = x := by
  rw [recordWord_trapBytes, h, Nat.mod_eq_of_lt hx]

/-- The auxiliary words stand from word 8 on. -/
theorem recordWord_aux : ∀ i < 4, recordWord (trapBytes s n k seq rep t) (8 + i) = (t.aux.getD i 0).toNat
  | 0, _ => recordWord_of_toNat s n k seq rep t rfl
  | 1, _ => recordWord_of_toNat s n k seq rep t rfl
  | 2, _ => recordWord_of_toNat s n k seq rep t rfl
  | 3, _ => recordWord_of_toNat s n k seq rep t rfl

/-- Gang and tile of the strand share a word. -/
theorem recordWord_strand (hgang : k.gang < 2 ^ 32) (htile : k.tile < 64) :
    fieldOf (recordWord (trapBytes s n k seq rep t) 7) 0 32 = k.gang ∧
      fieldOf (recordWord (trapBytes s n k seq rep t) 7) 32 6 = k.tile := by
  obtain ⟨hlt, hfields⟩ := strandWord_fields hgang htile
  have hget : (trapWords s n k seq rep t).getD 7 0 = strandWord k := by
    simp only [trapWords, List.getD_cons_succ, List.getD_cons_zero]
  rw [recordWord_of_lt s n k seq rep t (i := 7) hlt hget]
  exact hfields

/-- A report without a command leaves its bits and the transfer identifier zero. -/
theorem recordWord_noCommand (hcause : t.cause < 2 ^ 9) (hnone : rep.cmd = none) :
    fieldOf (recordWord (trapBytes s n k seq rep t) 1) 11 21 = 0 ∧ recordWord (trapBytes s n k seq rep t) 4 = 0 := by
  obtain ⟨-, -, -, hcmd⟩ := causeWord_fields hcause (changing s n k) rep
  rw [recordWord_of_lt s n k seq rep t (i := 1) (causeWord_lt hcause _ rep) rfl, fieldOf, hcmd, hnone]
  exact ⟨rfl, recordWord_of_lt s n k seq rep t (by decide) (congrArg reportXfer hnone)⟩

/-- What a report tells of its command. -/
theorem recordWord_command (hcause : t.cause < 2 ^ 9) {e : Eng} {num x : Nat} {sus : Bool}
    (hsome : rep.cmd = some (e, num, x, sus)) (hx : x < 2 ^ 64) :
    let w := recordWord (trapBytes s n k seq rep t)
    fieldOf (w 1) 11 1 = (if sus then 1 else 0) ∧ fieldOf (w 1) 12 1 = 1 ∧ fieldOf (w 1) 13 2 = engCode e ∧
      fieldOf (w 1) 16 16 = num % 2 ^ 16 ∧ w 4 = x := by
  intro w
  obtain ⟨-, -, -, hcmd⟩ := causeWord_fields hcause (changing s n k) rep
  have h1 : w 1 = causeWord t.cause (changing s n k) rep := recordWord_of_lt s n k seq rep t (causeWord_lt hcause _ rep) rfl
  have h4 : w 4 = x := recordWord_of_lt s n k seq rep t hx (congrArg reportXfer hsome)
  have he := engCode_le e
  have hsus : (if sus then 1 else 0) ≤ 1 := by split <;> decide
  rw [hsome, commandBits_some] at hcmd
  rw [h1]
  generalize causeWord t.cause (changing s n k) rep = c at hcmd
  generalize (if sus then 1 else 0) = b at hcmd hsus ⊢
  simp only [fieldOf]
  refine ⟨?_, ?_, ?_, ?_, h4⟩ <;> omega

theorem trapRecordLayout : TrapRecordLayout := by
  intro s n k seq rep t hcause hseq hgang htile b w
  have h1 : w 1 = causeWord t.cause (changing s n k) rep := recordWord_of_lt s n k seq rep t (causeWord_lt hcause _ rep) rfl
  obtain ⟨hc, hd, hf, -⟩ := causeWord_fields hcause (changing s n k) rep
  obtain ⟨hg, ht⟩ := recordWord_strand s n k seq rep t hgang htile
  rw [← h1] at hc hd hf
  refine ⟨trapBytes_length s n k seq rep t, recordWord_of_toNat s n k seq rep t rfl, hc, hd, ?_,
    recordWord_of_toNat s n k seq rep t rfl, recordWord_of_toNat s n k seq rep t rfl,
    recordWord_of_toNat s n k seq rep t rfl, recordWord_of_toNat s n k seq rep t rfl, hg, ht,
    recordWord_aux s n k seq rep t, recordWord_of_lt s n k seq rep t hseq rfl,
    recordWord_noCommand s n k seq rep t hcause, fun e num x sus hsome hx => ?_⟩
  · rw [hf, ← changing_iff]
    simp
  · have h := recordWord_command s n k seq rep t hcause hsome hx
    cases e <;> exact h

end

/-- Settles O7: the words of a record by their place, and the slot that the record is written to. -/
theorem trapRecords : Obligations.TrapRecords := ⟨trapRecordLayout, trapRecordWritten⟩

end Sys2Proof.Machine
end

section
/-!
PROOFS. The banks of the vector registers (R121, R179, R187): what WRCTL VBANK makes of them, and that every instruction of the
guarded set looks at the banks of its registers before anything else.
-/

namespace Sys2Proof.Machine

open Sys2Proof Sys2Proof.Claims

set_option Elab.async false

/-! ### WRCTL VBANK (R121, R179) -/

theorem exec_wrctl_vbank (a : SReg) (s : State) : exec (.wrctl .vbank a) s = finish s (writeVbank (getS s a) s) := rfl

theorem any_bankState_three {new : BitVec 8} :
    ((List.range 4).any fun k => bankState new k == 3) = true ↔ ∃ k < 4, bankCode new k = 3 := by
  simp only [List.any_eq_true, List.mem_range, beq_iff_eq, bankState_eq_bankCode]

/-- A state code that is none raises CTL_ACCESS. -/
theorem writeVbank_reserved {x : Word} (s : State) (h : ∃ k < 4, bankCode (x.setWidth 8) k = 3) :
    writeVbank x s = .error (.cause 0x004 0) := if_pos (any_bankState_three.2 h)

/-- The banks in new states. -/
def setBanks (new : BitVec 8) (s : State) : State :=
  onFocus (Tile.onSeq fun q => { q with vbank := new, v := regsAfterBank q.vbank new q.v }) s

theorem getPc_setBanks (new : BitVec 8) (s : State) : getPc (setBanks new s) = getPc s := by
  simp only [getPc, setBanks, onFocus_tile, Tile.onSeq_seq]

theorem getS_setBanks (new : BitVec 8) (s : State) (r : SReg) : getS (setBanks new s) r = getS s r := by
  simp only [getS, setBanks, onFocus_tile, Tile.onSeq_seq]

theorem setBanks_dev (new : BitVec 8) (s : State) : (setBanks new s).dev = s.dev := by rw [setBanks, onFocus_dev]

theorem writeVbank_ok {x : Word} (s : State) (h : ∀ k < 4, bankCode (x.setWidth 8) k ≠ 3) :
    writeVbank x s = .ok (setBanks (x.setWidth 8) s) :=
  if_neg fun hany => have ⟨k, hk, hcode⟩ := any_bankState_three.1 hany; h k hk hcode

/-- A register of a bank that leaves the gated state reads zero; the others keep. -/
theorem getElem_regsAfterBank (old new : BitVec 8) (v : Vector VecWord 64) (r : VReg) : (regsAfterBank old new v)[r] =
    if bankCode old (r / 16) = 2 ∧ bankCode new (r / 16) ≠ 2 then 0 else v[r] := by
  simp only [regsAfterBank, Fin.getElem_fin, Vector.getElem_ofFn, bankState_eq_bankCode]

theorem bankStates : BankStates := by
  intro s a new
  refine ⟨fun h => ?_, fun h => ?_⟩
  · rw [Traps, exec_wrctl_vbank, writeVbank_reserved s h]
    rfl
  · have hexec : exec (.wrctl .vbank a) s = .next (advance (setBanks new s)) := by
      rw [exec_wrctl_vbank, writeVbank_ok s h]
      rfl
    refine ⟨_, hexec, rfl, ?_, ?_, fun r => ?_, fun v => ?_⟩
    · rw [getPc_advance, getPc_setBanks]
    · rw [advance_dev, setBanks_dev]
    · rw [getS_advance, getS_setBanks]
    · rw [getV_advance]
      exact getElem_regsAfterBank s.tile.seq.vbank new s.tile.seq.v v

/-! ### The banks of named registers (R121, R187) -/

/-- A number put together of distinct powers of two has the bits that were put in. -/
theorem getLsbD_foldl_four (p : Nat → Bool) :
    ∀ k < 4, (BitVec.ofNat 4 ((List.range 4).foldl (fun m k => if p k then m + 2 ^ k else m) 0)).getLsbD k = p k := by
  have hbits : ∀ a b c d : Bool, ∀ k < 4, (BitVec.ofNat 4 ((List.range 4).foldl (fun m k =>
      if [a, b, c, d].getD k false then m + 2 ^ k else m) 0)).getLsbD k = [a, b, c, d].getD k false := by decide
  intro k hk
  have h := hbits (p 0) (p 1) (p 2) (p 3) k hk
  interval_cases k <;> exact h

/-- The banks in retention among those of registers. -/
def retentionMask (s : State) (rs : List VReg) : BitVec 4 :=
  BitVec.ofNat 4 ((List.range 4).foldl (fun m k =>
    if rs.any (fun r => bankOf r == k && bankState s.tile.seq.vbank k == 1) then m + 2 ^ k else m) 0)

theorem getLsbD_retentionMask (s : State) (rs : List VReg) : ∀ k < 4, (retentionMask s rs).getLsbD k = sleeping s rs k := by
  intro k hk
  rw [retentionMask, getLsbD_foldl_four (fun k => rs.any fun r => bankOf r == k && bankState s.tile.seq.vbank k == 1) k hk,
    sleeping, bankState_eq_bankCode, Bool.eq_iff_iff]
  simp only [List.any_eq_true, Bool.and_eq_true, bankOf, ← and_assoc, exists_and_right]

/-- With no gated bank, banks in retention stall the instruction until they are woken together. -/
theorem useBanks_retention {s : State} {rs : List VReg} (hnot : ∀ r ∈ rs, bankCode s.tile.seq.vbank (r / 16) ≠ 2)
    (h : ∃ r ∈ rs, bankCode s.tile.seq.vbank (r / 16) = 1) :
    useBanks s rs = .error (.wait (.retention (retentionMask s rs))) := by
  obtain ⟨r, hr, hbank⟩ := h
  have hgated : ¬ (rs.any fun r => bankState s.tile.seq.vbank (bankOf r) == 2) = true := by
    simp only [List.any_eq_true, not_exists, not_and, beq_iff_eq, bankState_eq_bankCode, bankOf]
    exact hnot
  have hsleeps : (rs.any fun r => bankState s.tile.seq.vbank (bankOf r) == 1) = true :=
    List.any_eq_true.2 ⟨r, hr, beq_iff_eq.2 ((bankState_eq_bankCode _ _).trans hbank)⟩
  rw [useBanks, if_neg hgated, if_pos hsleeps, retentionMask]

theorem exec_vcvt_useBanks (d a c : VReg) (ts : Fmt) (part : Fin 16) (blk : Fin 4) (m : VMod) (g : Guard) (s : State) :
    ∃ f, exec (.vcvt d a c ts part blk m g) s =
      finish s (useBanks s (if m.ty = .ds8 ∨ ts = .ds8 then [d, a, c] else [d, a]) >>= f) := by
  have hnamed : (if (m.ty == .ds8 || ts == .ds8) = true then [d, a, c] else [d, a]) =
      if m.ty = .ds8 ∨ ts = .ds8 then [d, a, c] else [d, a] := by simp
  exact ⟨_, congrArg (fun rs => finish s (useBanks s rs >>= _)) hnamed⟩

/-- An instruction of the guarded set looks at the banks of the registers that it names before anything else. -/
theorem exec_useBanks {i : Instr} (s : State) (h : namedVectors i ≠ []) :
    ∃ f, exec i s = finish s (useBanks s (namedVectors i) >>= f) := by
  unfold namedVectors at h ⊢
  split at h
  case h_34 => exact exec_vcvt_useBanks _ _ _ _ _ _ _ _ s
  case h_38 => exact absurd rfl h
  all_goals exact ⟨_, rfl⟩

theorem gatedBanks : GatedBanks := by
  intro s i hnamed
  obtain ⟨f, hexec⟩ := exec_useBanks s hnamed
  refine ⟨fun hgated => ?_, fun hnot hsleeps => ⟨retentionMask s (namedVectors i), ?_, getLsbD_retentionMask s _⟩⟩
  · rw [Traps, hexec, useBanks_gated hgated, error_bind]
    rfl
  · rw [Blocks, hexec, useBanks_retention hnot hsleeps, error_bind]
    rfl

/-- Settles O13: WRCTL VBANK by its new states, and the banks that an instruction meets by `exec_useBanks`. -/
theorem vectorBanks : Obligations.VectorBanks := ⟨bankStates, gatedBanks⟩

end Sys2Proof.Machine
end

section
/-!
PROOFS. What a strand meets at a boundary (R116, R117, R120, R414, R415, R443): faults of engines and asynchronous causes
delivered, charges that reach the balance, and the notice that the quota is exhausted.
-/

namespace Sys2Proof.Machine

open Sys2Proof Sys2Proof.Claims

set_option Elab.async false

/-! ### Boundaries (R30) -/

theorem restartable_iff (w : WaitFor) :
    restartable w = true ↔ w ≠ .acks ∧ w ≠ .folio ∧ w ≠ .codec ∧ ∀ m a, w ≠ .peer m a := by
  cases w <;> simp [restartable]

theorem atBoundary_iff (t : Tile) : atBoundary t = true ↔ AtBoundary t := by
  unfold atBoundary AtBoundary
  split
  case h_1 h => simp [h]
  case h_2 w h => simp [h, restartable_iff]
  case h_3 hrun hblocked =>
    refine iff_of_false Bool.false_ne_true ?_
    rintro (h | ⟨w, h, -⟩)
    · exact hrun h
    · exact hblocked w h

/-- A strand that is in no BAR has no arrival to withdraw. -/
theorem withdraw_none (retires : Bool) {n : Nat} {s : State} (h : (tileAt s n).barStage = none) :
    withdraw retires n s = s := by
  unfold withdraw
  rw [h]

theorem ownFault_of_owner {t : Tile} {k : StrandKey} (h : t.owner = some k) :
    ownFault t = (lowestFault (fun c => c.owner == k) t).map fun x => (k, x) := by
  rw [ownFault, h]
  rfl

/-! ### Faults and causes delivered (R113, R116, R117) -/

theorem takesTrap_takeTrap {s : State} {n : Nat} {k : StrandKey} (h : (tileAt s n).owner = some k) (rep : Report) (f : TrapInfo) :
    TakesTrap s (takeTrap n rep f s) n k rep f := by
  rw [TakesTrap, takeTrap, h]

section
variable {s : State} {n : Nat} {k : StrandKey} {e : Eng} {c : QCmd} {f : TrapInfo}

theorem deferredFaultDelivery_own (howner : (tileAt s n).owner = some k) (hb : AtBoundary (tileAt s n))
    (hfault : lowestFault (fun c => c.owner == k) (tileAt s n) = some (e, c, f)) :
    exec (.deferredFaultDelivery n) s = .next (deliverFault n k e c f s) := by
  show execDeferredFaultDelivery n s = _
  simp only [execDeferredFaultDelivery, (atBoundary_iff _).2 hb, if_true, ownFault_of_owner howner, hfault, Option.map_some]

/-- The fault of a command whose strand has ended is delivered where the tile's strand has none. -/
theorem deferredFaultDelivery_ended (howner : (tileAt s n).owner = some k)
    (hnone : lowestFault (fun c => c.owner == k) (tileAt s n) = none)
    (hfault : lowestFault (fun c => some c.owner != (tileAt s n).owner) (tileAt s n) = some (e, c, f)) :
    exec (.deferredFaultDelivery n) s = .next (deliverEnded n e c f s) := by
  show execDeferredFaultDelivery n s = _
  simp only [execDeferredFaultDelivery, ownFault_of_owner howner, hnone, Option.map_none, ite_self, hfault]

end

/-- The fault of an engine reaches its strand, which is in no BAR. -/
theorem deliverFault_takesTrap {s : State} {n : Nat} {k : StrandKey} (howner : (tileAt s n).owner = some k)
    (hbar : (tileAt s n).barStage = none) (e : Eng) (c : QCmd) (f : TrapInfo) :
    let t0 := tileAt s n
    ∃ u, TakesTrap s u n k ⟨if t0.fresh = some (e, c.seq) then c.vpc else t0.seq.vpc, decide (t0.fresh ≠ some (e, c.seq)),
      some (e, c.seq, xferOf c, decide (0 < c.replays))⟩ f ∧ deliverFault n k e c f s = afterDelivery n e k c f u := by
  intro t0
  refine ⟨_, takesTrap_takeTrap howner _ _, ?_⟩
  simp only [deliverFault, withdraw_none true hbar, beq_eq_decide, decide_eq_true_eq, decide_not, t0]

/-- The oldest asynchronous cause reaches the strand, which is in no BAR. -/
theorem deliverAsync_takesTrap {s : State} {n : Nat} {k : StrandKey} (howner : (tileAt s n).owner = some k)
    (hbar : (tileAt s n).barStage = none) {f : TrapInfo} {rest : List TrapInfo} (hasync : (tileAt s n).async = f :: rest) :
    TakesTrap (onTile n (fun x => { x with async := rest }) s) (deliverAsync n s) n k
      ⟨(tileAt s n).seq.vpc, false, none⟩ f := by
  have htile : tileAt (onTile n (fun x => { x with async := rest }) s) n = { tileAt s n with async := rest } := by
    rw [tileAt_onTile, if_pos rfl]
  simp only [deliverAsync, hasync, withdraw_none true hbar, htile]
  exact takesTrap_takeTrap (htile ▸ howner) _ _

theorem deliverAsync_none {s : State} {n : Nat} (h : (tileAt s n).async = []) : deliverAsync n s = s := by
  rw [deliverAsync, h]

theorem deliverEnded_eq (n : Nat) (e : Eng) (c : QCmd) (f : TrapInfo) (s : State) :
    let u := writeRecord n c.owner
      ⟨(((taskOf s c.owner).endedPc.find? fun x => x.1 == c.owner).map (·.2)).getD 0, true,
        some (e, c.seq, xferOf c, decide (0 < c.replays))⟩ f s
    (taskOf s c.owner).trec.policy = 2 →
      deliverEnded n e c f s = dropFrom n e c.owner c.seq (noteCause c.owner f.cause u) := by
  intro u hpolicy
  simp only [deliverEnded, hpolicy]
  rfl

theorem exec_asyncTrapDelivery (n : Nat) (s : State) : exec (.asyncTrapDelivery n) s =
    .next (if atBoundary (tileAt s n) then deliverAsync n s else s) := rfl

/-! ### Charges and notices (R120, R414, R415) -/

theorem tileAt_onTask (q r : Nat) (f : Task → Task) (s : State) (n : Nat) : tileAt (onTask q r f s) n = tileAt s n := rfl

theorem taskOf_onTile (n : Nat) (f : Tile → Tile) (s : State) (k : StrandKey) : taskOf (onTile n f s) k = taskOf s k := by
  rw [taskOf, taskAt, onTile_dev]
  rfl

theorem sameBytes_onTask (q r : Nat) (f : Task → Task) (s : State) : SameBytes s (onTask q r f s) := fun p a => by
  cases p <;> rfl

theorem mem_of_look_owner {l : List (Nat × Tile)} {n : Nat} (h : (look Tile.blank l n).owner.isSome = true) :
    (n, look Tile.blank l n) ∈ l := by
  induction l with
  | nil => exact absurd h Bool.false_ne_true
  | cons x l ih =>
    rw [look] at h ⊢
    split at h
    · rename_i hk
      rw [if_pos hk, ← hk]
      exact List.mem_cons_self
    · rename_i hk
      rw [if_neg hk]
      exact List.mem_cons_of_mem _ (ih h)

/-- A tile with a strand is among those that are held. -/
theorem mem_allTiles {s : State} {n : Nat} (h : (tileAt s n).owner.isSome = true) : (n, tileAt s n) ∈ allTiles s := by
  unfold tileAt at h ⊢
  split
  · rename_i hn
    rw [hn]
    exact List.mem_cons_self
  · rename_i hn
    rw [if_neg hn] at h
    exact List.mem_cons_of_mem _ (mem_of_look_owner h)

/-- The strand of a physical tile is among its task's. -/
theorem mem_strandsOn {s : State} {n : Nat} {k : StrandKey} (howner : (tileAt s n).owner = some k) (hn : n < 1024) :
    k ∈ strandsOn k.queue k.record s := by
  refine List.mem_filterMap.2 ⟨(n, tileAt s n), mem_allTiles (by rw [howner]; rfl), ?_⟩
  have htiles : decide (n < Config.tiles) = true := decide_eq_true hn
  simp only [howner, Option.bind_some, htiles, beq_self_eq_true, Bool.and_self, if_true]

/-- The task of a strand on the device's list, charged. -/
theorem taskOf_chargeTask {s : State} {k : StrandKey} (htask : s.dev.tasks.any (Task.is k.queue k.record) = true) (pj : Nat) :
    taskOf (chargeTask k pj s) k = { taskOf s k with
      balance := (taskOf s k).balance - pj
      owed := if 0 < (taskOf s k).balance ∧ (taskOf s k).balance - pj ≤ 0 then strandsOn k.queue k.record s
        else (taskOf s k).owed } :=
  taskOf_onTask (f := fun t => { t with
    balance := t.balance - pj
    owed := if 0 < t.balance ∧ t.balance - pj ≤ 0 then strandsOn k.queue k.record s else t.owed }) htask fun _ => rfl

theorem exec_quotaChargeReport {s : State} {n : Nat} {k : StrandKey} {pj : Nat} (h : (tileAt s n).unreported = [(k, pj)]) :
    exec (.quotaChargeReport n) s = .next (chargeTask k pj (onTile n (fun t => { t with unreported := [] }) s)) := by
  show execQuotaChargeReport n s = _
  rw [execQuotaChargeReport, h]
  rfl

/-- A charge reaches its task's balance; one that takes it to zero or less owes the notice to the strand that ran it up. -/
theorem quotaChargeReport_charges {s : State} {n : Nat} {k : StrandKey} {pj : Nat} (hplaced : Placed s n k)
    (h : (tileAt s n).unreported = [(k, pj)]) : Gives (.quotaChargeReport n) s fun t => (tileAt t n).unreported = [] ∧
      (taskOf t k).balance = (taskOf s k).balance - pj ∧ SameBytes s t ∧
      (0 < (taskOf s k).balance → (taskOf s k).balance - pj ≤ 0 → n < 1024 → k ∈ (taskOf t k).owed) := by
  obtain ⟨howner, htask, -⟩ := hplaced
  let v := onTile n (fun t => { t with unreported := [] }) s
  have htile : tileAt v n = { tileAt s n with unreported := [] } := by rw [tileAt_onTile, if_pos rfl]
  have hlist : v.dev.tasks.any (Task.is k.queue k.record) = true := by rw [onTile_dev]; exact htask
  have hv : taskOf v k = taskOf s k := taskOf_onTile _ _ s k
  refine ⟨_, exec_quotaChargeReport h, congrArg Tile.unreported htile, ?_, ?_, fun hpos hend hn => ?_⟩
  · rw [taskOf_chargeTask hlist, hv]
  · intro p a
    rw [chargeTask, sameBytes_onTask, placeMem_onTile]
    exact fun _ => rfl
  · rw [taskOf_chargeTask hlist, hv, if_pos ⟨hpos, hend⟩]
    exact mem_strandsOn (n := n) (htile ▸ howner) hn

/-- The notice reaches a strand that it is owed to, whatever the balance is by then. -/
theorem quotaExhaustionNotice_owed {s : State} {n : Nat} {k : StrandKey} (hplaced : Placed s n k) (h : k ∈ (taskOf s k).owed) :
    Gives (.quotaExhaustionNotice n) s fun t => (tileAt t n).notice = true ∧ (tileAt t n).run = (tileAt s n).run ∧
      k ∉ (taskOf t k).owed ∧ (taskOf t k).balance = (taskOf s k).balance ∧ SameBytes s t := by
  obtain ⟨howner, htask, -⟩ := hplaced
  let v := onTask k.queue k.record (fun t => { t with owed := t.owed.filter (· != k) }) s
  have hexec : exec (.quotaExhaustionNotice n) s = .next (onTile n (fun t => { t with notice := true }) v) := by
    show execQuotaExhaustionNotice n s = _
    simp only [execQuotaExhaustionNotice, howner, List.contains_iff_mem.2 h, if_true, v]
  have hv : taskOf v k = { taskOf s k with owed := (taskOf s k).owed.filter (· != k) } :=
    taskOf_onTask (f := fun t => { t with owed := t.owed.filter (· != k) }) htask fun _ => rfl
  refine ⟨_, hexec, ?_, ?_, ?_, ?_, fun p a => ?_⟩
  · rw [tileAt_onTile, if_pos rfl]
  · rw [tileAt_onTile, if_pos rfl, tileAt_onTask]
  · simp [taskOf_onTile, hv]
  · rw [taskOf_onTile, hv]
  · rw [placeMem_onTile, sameBytes_onTask]
    exact fun _ => rfl

theorem quotaExhaustionNotice_none {s : State} {n : Nat} {k : StrandKey} (howner : (tileAt s n).owner = some k)
    (h : k ∉ (taskOf s k).owed) : Unchanged (.quotaExhaustionNotice n) s := by
  show execQuotaExhaustionNotice n s = _
  simp only [execQuotaExhaustionNotice, howner, Bool.eq_false_iff.2 (mt List.contains_iff_mem.1 h), Bool.false_eq_true, if_false]

/-- A running strand with a notice stops with a record of QUOTA_EXHAUSTED; no fault policy is applied. -/
theorem stopForCause_quota {s : State} {n : Nat} {k : StrandKey} (howner : (tileAt s n).owner = some k)
    (hrun : (tileAt s n).run = .running) (hnotice : (tileAt s n).notice = true) (hbar : (tileAt s n).barStage = none) :
    Gives (.stopForCause n) s fun t => (tileAt t n).run = .resting .quota ∧ (tileAt t n).notice = false ∧
      (tileAt t n).seq = (tileAt s n).seq ∧
      ∃ u, u = writeRecord n k ⟨(tileAt s n).seq.vpc, false, none⟩ ⟨0x180, 0, 0, []⟩ s ∧ SameBytes u t := by
  have hexec : exec (.stopForCause n) s = .next (quotaStop n s) := by
    show execStopForCause n s = _
    simp only [execStopForCause, hrun, howner, hnotice, atBoundary, Bool.and_self, if_true]
  simp only [quotaStop, howner, withdraw_none true hbar] at hexec
  refine ⟨_, hexec, ?_, ?_, ?_, _, rfl, fun p a => ?_⟩
  · rw [tileAt_onTile, if_pos rfl, tileAt_writeRecord, hrun]
    rfl
  · rw [tileAt_onTile, if_pos rfl]
  · rw [tileAt_onTile, if_pos rfl, tileAt_writeRecord]
  · rw [placeMem_onTile]
    exact fun _ => rfl

/-! ### The statement -/

/-- Settles O37: engine faults, asynchronous causes, charges and notices, each as its agent delivers it. -/
theorem deliverySteps : Obligations.DeliverySteps := by
  intro s n k e c f hplaced t0
  obtain ⟨howner, -, -⟩ := id hplaced
  refine ⟨fun hb hbar hfault => ?_, fun hb hbar rest hasync => ?_, fun hb => ?_, fun hnone hbar => ?_, fun hnone hfault => ?_,
    fun pj => quotaChargeReport_charges hplaced, quotaExhaustionNotice_owed hplaced, quotaExhaustionNotice_none howner,
    stopForCause_quota howner⟩
  · exact ⟨_, deferredFaultDelivery_own howner hb hfault, deliverFault_takesTrap howner hbar e c f⟩
  · refine ⟨deliverAsync n s, ?_, deliverAsync_takesTrap howner hbar hasync⟩
    rw [exec_asyncTrapDelivery, if_pos ((atBoundary_iff _).2 hb)]
  · rw [Unchanged, exec_asyncTrapDelivery, if_neg (mt (atBoundary_iff _).1 hb)]
  · rw [Unchanged, exec_asyncTrapDelivery, deliverAsync_none hnone, ite_self]
  · exact ⟨_, deferredFaultDelivery_ended howner hnone hfault, _, rfl, deliverEnded_eq n e c f s⟩

end Sys2Proof.Machine
end

section
/-!
PROOFS. The step (R113, R119, R125, R137, R337, R338, R392): what the passing of time leaves alone, what waits for a strand at
its boundary, and the instruction that it fetches.
-/

namespace Sys2Proof.Machine

open Sys2Proof Sys2Proof.Claims

set_option Elab.async false

/-! ### Time (R28, R113, R137, R269) -/

theorem clocksOn_focus_pos (s : State) : 0 < clocksOn s s.tileNo := by
  rw [clocksOn, if_pos rfl]
  omega

/-- The count of clocks without a movement is the fibre engine's alone. -/
theorem countStill_eq (s : State) (j : Nat) (t : Tile) : ∃ x, countStill s j t = { t with fibre := x } := by
  unfold countStill
  split
  · split
    · split
      · exact ⟨_, rfl⟩
      · exact ⟨_, rfl⟩
    · exact ⟨_, rfl⟩
  · exact ⟨_, rfl⟩

theorem countStill_noRun {s : State} {j : Nat} {t : Tile} (h : t.fibre.run = none) : countStill s j t = t := by
  unfold countStill
  rw [h]
  split
  · rename_i hrun
    exact nomatch hrun
  · rfl

/-- Time that passes moves the clock and the count toward a deadline, and nothing else. -/
theorem passTime_eq (j n : Nat) (t : Tile) :
    ∃ x d, passTime j n t = { t with seq := { t.seq with cycle := x }, sincePost := d } := by
  unfold passTime
  generalize (decide (Config.tiles ≤ n) || _) = still
  cases still with
  | true => exact ⟨_, _, rfl⟩
  | false => exact ⟨_, _, rfl⟩

theorem passTime_running {n : Nat} {t : Tile} (j : Nat) (hn : n < 1024) (hrun : ∀ w, t.run ≠ .frozen w) :
    passTime j n t = { t with seq := { t.seq with cycle := t.seq.cycle + word j }, sincePost := t.sincePost + j } := by
  have hphysical : decide (Config.tiles ≤ n) = false := decide_eq_false (Nat.not_le.2 hn)
  unfold passTime
  rw [hphysical]
  split
  · rename_i w h
    exact absurd h (hrun w)
  · rfl

/-- What the step's clocks can change of a tile. -/
theorem tickTile_eq (s : State) (n : Nat) (t : Tile) : ∃ x d y,
    tickTile s n t = { t with seq := { t.seq with cycle := x }, sincePost := d, fibre := y } := by
  obtain ⟨x, d, hpass⟩ := passTime_eq (clocksOn s n) n t
  obtain ⟨y, hcount⟩ := countStill_eq s (clocksOn s n) (passTime (clocksOn s n) n t)
  exact ⟨x, d, y, by rw [tickTile, hcount, hpass]⟩

theorem tick_tile (s : State) : ∃ x d y,
    (tick s).tile = { s.tile with seq := { s.tile.seq with cycle := x }, sincePost := d, fibre := y } :=
  tickTile_eq s s.tileNo s.tile

/-- A tile that holds its strand counts at least one clock. -/
theorem tick_tile_running {s : State} (hn : s.tileNo < 1024) (hrun : ∀ w, s.tile.run ≠ .frozen w) :
    ∃ j, 0 < j ∧ (tick s).tile = { s.tile with
      seq := { s.tile.seq with cycle := s.tile.seq.cycle + BitVec.ofNat 64 j }, sincePost := s.tile.sincePost + j
      fibre := (tick s).tile.fibre } := by
  refine ⟨clocksOn s s.tileNo, clocksOn_focus_pos s, ?_⟩
  obtain ⟨y, hcount⟩ := countStill_eq s (clocksOn s s.tileNo) (passTime (clocksOn s s.tileNo) s.tileNo s.tile)
  have htile : (tick s).tile = countStill s (clocksOn s s.tileNo) (passTime (clocksOn s s.tileNo) s.tileNo s.tile) := rfl
  rw [htile, hcount, passTime_running _ hn hrun]
  rfl

/-- Without a graph run the fibre engine is as it was. -/
theorem tick_fibre {s : State} (h : s.tile.fibre.run = none) : (tick s).tile.fibre = s.tile.fibre := by
  obtain ⟨x, d, hpass⟩ := passTime_eq (clocksOn s s.tileNo) s.tileNo s.tile
  have htile : (tick s).tile = countStill s (clocksOn s s.tileNo) (passTime (clocksOn s s.tileNo) s.tileNo s.tile) := rfl
  rw [htile, hpass, countStill_noRun]
  exact h

theorem tick_tileNo (s : State) : (tick s).tileNo = s.tileNo := rfl

theorem tick_agenda (s : State) : (tick s).agenda = s.agenda := rfl

theorem pad_tickTile (s : State) (n : Nat) (t : Tile) : (tickTile s n t).pad = t.pad := by
  obtain ⟨_, _, _, h⟩ := tickTile_eq s n t
  rw [h]

/-- The passing of time leaves every byte as it was. -/
theorem sameBytes_tick (s : State) : SameBytes s (tick s) := by
  intro p a
  cases p with
  | dev => rfl
  | host => rfl
  | pad n =>
    have hpad : (tileAt (tick s) n).pad = (tileAt s n).pad := by
      unfold tileAt
      rw [tick_tileNo]
      split
      · exact pad_tickTile s _ _
      · exact pad_look_map (fun n t => pad_tickTile s n t) s.others n
    rw [placeMem, placeMem, hpad]

section
variable (s : State)

theorem tick_run : (tick s).tile.run = s.tile.run := by
  obtain ⟨_, _, _, h⟩ := tick_tile s
  rw [h]

theorem tick_net : (tick s).tile.net = s.tile.net := by
  obtain ⟨_, _, _, h⟩ := tick_tile s
  rw [h]

theorem tick_folio : (tick s).tile.folio = s.tile.folio := by
  obtain ⟨_, _, _, h⟩ := tick_tile s
  rw [h]

theorem tick_yieldReq : (tick s).tile.yieldReq = s.tile.yieldReq := by
  obtain ⟨_, _, _, h⟩ := tick_tile s
  rw [h]

theorem getPc_tick : getPc (tick s) = s.tile.seq.vpc := by
  obtain ⟨_, _, _, h⟩ := tick_tile s
  rw [getPc, h]

theorem me_tick : me (tick s) = me s := by
  obtain ⟨_, _, _, h⟩ := tick_tile s
  rw [me, me, keyOn, keyOn, tileAt_focus, tileAt_focus, h]

theorem folioAt_tick (vpc : Word) : folioAt (tick s) (taskOf (tick s) (me (tick s))) vpc = folioAt s (taskOf s (me s)) vpc := by
  rw [me_tick]
  rfl

end

/-! ### Boundaries (R116, R117, R119, R120) -/

/-- Of commands that hold no fault none is found. -/
theorem heldFault_none {p : QCmd → Bool} {q : List QCmd} (h : ∀ c ∈ q, ∀ f, c.held ≠ some (.fault f)) :
    heldFault p q = none := by
  refine List.findSome?_eq_none_iff.2 fun c hc => ?_
  split
  · rename_i f hf
    exact absurd hf (h c hc f)
  · rfl

theorem ownFault_none {t : Tile} (hqueues : ∀ e, ∀ c ∈ engQueue t e, ∀ f, c.held ≠ some (.fault f))
    (hflight : ∀ c ∈ t.flight, ∀ f, c.held ≠ some (.fault f)) : ownFault t = none := by
  refine Option.bind_eq_none_iff.2 fun k _ => Option.map_eq_none_iff.2 (List.findSome?_eq_none_iff.2 fun i _ => ?_)
  refine Option.map_eq_none_iff.2 (heldFault_none fun c hc => ?_)
  rcases List.mem_append.1 hc with hc | hc
  · exact hflight c (List.mem_filter.1 hc).1
  · exact hqueues _ c hc

/-- With nothing owed no stop is met at the boundary. -/
theorem boundaryStop_none {s : State} (h : NothingOwed s) : boundaryStop s = none := by
  obtain ⟨hyield, hqueues, hflight, hasync, hnotice⟩ := h
  simp [boundaryStop, hyield, ownFault_none hqueues hflight, hasync, hnotice]

theorem nothingOwed_tick {s : State} (h : NothingOwed s) : NothingOwed (tick s) := by
  obtain ⟨hyield, hqueues, hflight, hasync, hnotice⟩ := h
  obtain ⟨_, _, _, htile⟩ := tick_tile s
  rw [NothingOwed, htile]
  refine ⟨hyield, fun e => ?_, hflight, hasync, hnotice⟩
  have he := hqueues e
  cases e <;> exact he

/-- A strand past its deadline is stopped by force, whatever else waits. -/
theorem boundaryStop_deadline {s : State} {d : Nat} (hyield : s.tile.yieldReq = some d) (hlate : d < s.tile.sincePost) :
    boundaryStop s = some (forceStop s.tileNo (me s) .deadline s) := by
  simp [boundaryStop, hyield, hlate]

/-! ### Fetches (R125, R337, R338) -/

theorem folioInstr_intact {s : State} {f : Folio} (vpc : Word) (h : f.intact = true) :
    folioInstr s f vpc = .ok (folioWord f vpc) := if_pos h

/-- The instruction comes from the folio in hand. -/
theorem fetch_inFolio {s : State} {f : Folio} (hfolio : s.tile.folio = some f) (hintact : f.intact = true)
    (hlo : f.first.toNat ≤ (getPc s).toNat) (hhi : (getPc s).toNat ≤ f.last.toNat) :
    fetch s = .ok (s, folioWord f (getPc s)) := by
  have hcovers : folioCovers f (getPc s) = true := decide_eq_true ⟨hlo, hhi⟩
  simp only [fetch, hfolio, hcovers, if_true, folioInstr_intact _ hintact]
  rfl

theorem first_of_folioAt {s : State} {task : Task} {vpc : Word} {f : Folio} (h : folioAt s task vpc = some f) :
    f.first = vpc := by
  have hf := List.find?_some h
  rw [Bool.and_eq_true, beq_iff_eq] at hf
  exact hf.2

theorem folioWord_first {f : Folio} {vpc : Word} (h : f.first = vpc) : folioWord f vpc = f.words.getD 0 (BitVec.allOnes 64) := by
  rw [folioWord, h, Nat.sub_self, Nat.zero_div]

/-- With no folio in hand a cached one that starts at the program counter is entered. -/
theorem fetch_enters {s : State} {f : Folio} (hfolio : s.tile.folio = none) (hcan : Canonical (getPc s))
    (hat : folioAt s (taskOf s (me s)) (getPc s) = some f) (hintact : f.intact = true) :
    fetch s = .ok (onFocus (fun t => { t with folio := some f, folioStale := false }) s, f.words.getD 0 (BitVec.allOnes 64)) := by
  simp only [fetch, hfolio, fetchEntry, (canonical_toNat _).2 hcan, hat, folioInstr_intact _ hintact,
    folioWord_first (first_of_folioAt hat), Bool.not_true, Bool.false_eq_true, if_false]
  rfl

/-! ### The turn of the strand in focus (R30, R33, R392) -/

/-- The interface of the tile in focus serves: it is not frozen, and nothing of its pending list still lands. -/
def Serves (s : State) : Prop := s.tile.net.frozen = false ∧ s.tile.net.landing = false

theorem serves_iff (s : State) : (s.tile.net.frozen || s.tile.net.landing) = false ↔ Serves s := Bool.or_eq_false_iff

theorem runFocus_boundary {s u : State} (hrun : s.tile.run = .running) (hserves : Serves s) (h : boundaryStop s = some u) :
    runFocus s = .next u := by
  rw [runFocus, hrun, (serves_iff s).2 hserves]
  simp only [h]

theorem runFocus_fetched {s u : State} {w : Word} (hrun : s.tile.run = .running) (hserves : Serves s)
    (h : boundaryStop s = none) (hfetch : fetch s = .ok (u, w)) : runFocus s = exec (decodeWord w) u := by
  rw [runFocus, hrun, (serves_iff s).2 hserves]
  simp only [h, hfetch]

/-- A strand that does not run, or whose interface does not serve, lets the step pass. -/
theorem runFocus_waits {s : State} (h : s.tile.run ≠ .running ∨ ¬ Serves s) : runFocus s = .next s := by
  unfold runFocus
  split
  · rename_i hrun hserves
    exact absurd ((serves_iff s).1 hserves) (h.resolve_left (not_not.2 hrun))
  · rfl

/-! ### The agenda (log 4) -/

theorem step_focus {s : State} (h : s.agenda = []) : step s = runFocus (tick s) := by
  rw [step, tick_agenda, h]

theorem step_event {s : State} {i : Instr} {rest : List Turn} (h : s.agenda = .event i :: rest) (hi : isEvent i = true) :
    step s = exec i { tick s with agenda := rest } := by
  rw [step, tick_agenda, h]
  exact if_pos hi

/-- A turn of the strand that is in focus anyway is no turn of the agenda's. -/
theorem step_strand {s : State} (h : s.agenda = [.strand s.tileNo]) : step s = step { s with agenda := [] } := by
  rw [step, tick_agenda, h]
  exact congrArg runFocus (if_pos rfl)

theorem step_waits {s : State} (h : s.agenda = []) (hwait : s.tile.run ≠ .running ∨ ¬ Serves s) :
    step s = .next (tick s) := by
  rw [step_focus h]
  refine runFocus_waits ?_
  rwa [Serves, tick_run, tick_net]

theorem step_deadline {s : State} {d : Nat} (h : s.agenda = []) (hrun : s.tile.run = .running) (hserves : Serves s)
    (hn : s.tileNo < 1024) (hyield : s.tile.yieldReq = some d) (hlate : d ≤ s.tile.sincePost) :
    step s = .next (forceStop s.tileNo (me s) .deadline (tick s)) := by
  obtain ⟨j, hj, htile⟩ := tick_tile_running hn fun w hw => RunState.noConfusion (hrun.symm.trans hw)
  have hsince : (tick s).tile.sincePost = s.tile.sincePost + j := congrArg Tile.sincePost htile
  have hstop : boundaryStop (tick s) = some (forceStop s.tileNo (me s) .deadline (tick s)) := by
    rw [boundaryStop_deadline ((tick_yieldReq s).trans hyield) (by omega), tick_tileNo, me_tick]
  rw [step_focus h, runFocus_boundary ((tick_run s).trans hrun) (by rwa [Serves, tick_net]) hstop]

section
variable {s : State} {f : Folio} (h : s.agenda = []) (hrun : s.tile.run = .running) (hserves : Serves s) (howed : NothingOwed s)
  (hintact : f.intact = true)
include h hrun hserves howed hintact

theorem step_inFolio (hfolio : s.tile.folio = some f) (hlo : f.first.toNat ≤ s.tile.seq.vpc.toNat)
    (hhi : s.tile.seq.vpc.toNat ≤ f.last.toNat) : step s = exec (decodeWord (folioWord f s.tile.seq.vpc)) (tick s) := by
  have hfetch := fetch_inFolio ((tick_folio s).trans hfolio) hintact (by rwa [getPc_tick]) (by rwa [getPc_tick])
  rw [getPc_tick] at hfetch
  rw [step_focus h, runFocus_fetched ((tick_run s).trans hrun) (by rwa [Serves, tick_net])
    (boundaryStop_none (nothingOwed_tick howed)) hfetch]

theorem step_enters (hfolio : s.tile.folio = none) (hcan : Canonical s.tile.seq.vpc)
    (hat : folioAt s (taskOf s (me s)) s.tile.seq.vpc = some f) : step s = exec (decodeWord (f.words.getD 0 (BitVec.allOnes 64)))
      (onFocus (fun t => { t with folio := some f, folioStale := false }) (tick s)) := by
  have hfetch := fetch_enters ((tick_folio s).trans hfolio) (by rwa [getPc_tick]) (by rwa [folioAt_tick, getPc_tick]) hintact
  rw [step_focus h, runFocus_fetched ((tick_run s).trans hrun) (by rwa [Serves, tick_net])
    (boundaryStop_none (nothingOwed_tick howed)) hfetch]

end

/-! ### The statement -/

/-- Settles O57: time passes, and then the agenda's head acts or the strand in focus runs what it fetched. -/
theorem stepRunsFetched : Obligations.StepRunsFetched := by
  intro s f i rest pc serves
  exact ⟨fun h hrun hserves howed hintact =>
      ⟨step_inFolio h hrun hserves howed hintact, step_enters h hrun hserves howed hintact⟩,
    step_event, step_strand, step_waits, fun _ => step_deadline, tick_tile_running, tick_fibre, sameBytes_tick s, rfl, rfl, rfl⟩

end Sys2Proof.Machine
end

section
/-!
PROOFS. Encodings (R125 to R134, R142 to R144): decoding undoes encoding, by the round trip of every instruction, and the
words that the spec writes out.
-/

namespace Sys2Proof.Laws.RoundTrip

open Sys2Proof Sys2Proof.Claims

/-- Settles O58: the words of each group of chapters, decoded. -/
theorem decodeWords : Obligations.DecodeWords := by
  unfold Obligations.DecodeWords workedWords
  simp only [List.forall_mem_append]
  exact ⟨⟨⟨by decide, by decide⟩, by decide⟩, by decide⟩

/-- Settles O59: an event has no encoding, and every SVI instruction has its law of the round trip. -/
theorem encodeDecodeAgree : Obligations.EncodeDecodeAgree := by
  unfold Obligations.EncodeDecodeAgree
  intro i
  cases hsvi : i.isSvi with
  | false => exact of_event hsvi
  | true =>
    cases i
    all_goals cases hsvi
    all_goals simp only [add, sub, and, or, xor, shl, shr, sra, min, max, minz, maxz, setlt, setltz, seteq, popc, clz, ctz,
      mul, mulh, mulhz, madd, div, divz, rem, remz, sel, bfx, bfi, addi, andi, ori, xori, shlImm, shrImm, sraImm, li, addpc,
      lui, liFactor, addiFactor, bCond, j, jl, jr, nop, brk, trap, yieldTo, endStrand, feat, fence, bar, bara, barw, waitcR,
      waitcV, waitr, waite, popq, peekq, launch, siginc, rdid, rdctl, wrctl, tdnarrow, ctxsave, ctxload, reservedEncoding,
      vsetvl, vadd, vsub, vmul, vfma, vmin, vmax, vabs, vneg, vand, vor, vxor, vshl, vshr, vsra, vcmp, vsel, vbcast, vext,
      viota, vperm, vcompress, vexpand, vpopc, vredsum, vredmax, vredmin, vscan, vcvt, vcvtds, vrecip, vrsqrt, vexp2, vlog2,
      vladd, vlsub, ldct, ldctReset, pand, por, pxor, pnot, pcnt, pfirst, ld, st, ldv, stv, ldvs, stvs, ldvx, stvx, cas,
      amoAdd, amoAnd, amoOr, amoXor, amoMin, amoMax, amoMinz, amoMaxz, amoSwap, amoFaddF32, amoFaddBf16, cpyl, cpylRing,
      cpys, cpyf, cpya, rsetup, rpub, rtake, rfree, coll, mma, mmag, mzero, mscale, fscan, fisect, funion, frepeat, freduce,
      fval, falu, fwrite, fgen, fsteer, fmerge, fcarry, fsrc, fsinkPort, fsinkQ, fsinkL, fgo, fkill, fkillClear, portb,
      portbU, portw, portr, portq]

end Sys2Proof.Laws.RoundTrip
end

section
/-!
PROOFS. Encoding undoes decoding (R125 to R134, R142): a word is cut into fields and put together again, the words of each
form hold the fields they were made of, and every arm of the decoder answers an instruction whose fields are those it read.
-/

namespace Sys2Proof

open Sys2Proof.Claims
/-! ### Words and their fields (R125) -/

theorem splitWord_fit (w : Nat) : (splitWord w).Fit := by
  simp only [Fields.Fit, splitWord, fieldOf]
  omega

theorem joinWord_splitWord {w : Nat} (h : w < 2 ^ 64) : joinWord (splitWord w) = w := by
  simp only [joinWord, splitWord, fieldOf]
  omega

theorem joinR_splitR {lo : Nat} (h : lo < 2 ^ 28) : joinR (splitR lo) = lo := by
  simp only [joinR, splitR, fieldOf]
  omega

theorem joinM_splitM {lo : Nat} (h : lo < 2 ^ 28) : joinM (splitM lo) = lo := by
  simp only [joinM, splitM, fieldOf]
  omega

theorem joinX_splitX {lo : Nat} (h : lo < 2 ^ 28) : joinX (splitX lo) = lo := by
  simp only [joinX, splitX, fieldOf]
  omega

/-! ### Decoders whose answer encodes to the fields they were given -/

/-- The fields of the instruction that `x` answers are `f`. -/
def Undoes (f : Fields) (x : Option Instr) : Prop := ∀ i, x = some i → i.fields = f

section
variable {f : Fields}

theorem undoes_none : Undoes f none := fun _ h => nomatch h

theorem undoes_some {i : Instr} (h : i.fields = f) : Undoes f (some i) := fun _ e => by cases e; exact h

theorem undoes_req {c : Bool} {x : Option Instr} (h : c = true → Undoes f x) : Undoes f (req c x) := by
  cases c
  · exact undoes_none
  · exact h rfl

theorem undoes_reqSome {c : Bool} {i : Instr} (h : c = true → i.fields = f) : Undoes f (req c (some i)) :=
  undoes_req fun hc => undoes_some (h hc)

theorem undoes_bind {α : Type} {x : Option α} {g : α → Option Instr} (h : ∀ a, x = some a → Undoes f (g a)) :
    Undoes f (x >>= g) := by
  cases x
  · exact undoes_none
  · exact h _ rfl
end

section
variable {f : Fields} (hf : f.Fit)
include hf

theorem Fields.Fit.d_lt : f.d < 64 := by
  obtain ⟨-, h, -⟩ := hf
  exact h

theorem Fields.Fit.a_lt : f.a < 64 := by
  obtain ⟨-, -, h, -⟩ := hf
  exact h

theorem Fields.Fit.b_lt : f.b < 64 := by
  obtain ⟨-, -, -, h, -⟩ := hf
  exact h

theorem Fields.Fit.c_lt : f.c < 64 := by
  obtain ⟨-, -, -, -, h, -⟩ := hf
  exact h

theorem Fields.Fit.g_lt : f.g < 16 := by
  obtain ⟨-, -, -, -, -, h, -⟩ := hf
  exact h

theorem Fields.Fit.lo_lt : f.lo < 2 ^ 28 := by
  obtain ⟨-, -, -, -, -, -, h⟩ := hf
  exact h
end

theorem xmod_lt (lo : Nat) : (splitR lo).xmod < 512 := Nat.mod_lt _ (by decide)

theorem flag_lt (lo : Nat) : (splitX lo).flag < 128 := Nat.mod_lt _ (by decide)

/-! ### Codes -/

theorem Fmt.code_of_ofCode {n : Nat} {t : Fmt} (h : Fmt.ofCode n = some t) : t.code = n := by
  unfold Fmt.ofCode at h; split at h <;> cases h <;> rfl
theorem Rnd.code_of_ofCode {n : Nat} {t : Rnd} (h : Rnd.ofCode n = some t) : t.code = n := by
  unfold Rnd.ofCode at h; split at h <;> cases h <;> rfl
theorem Space.code_of_ofCode {n : Nat} {t : Space} (h : Space.ofCode n = some t) : t.code = n := by
  unfold Space.ofCode at h; split at h <;> cases h <;> rfl
theorem Order.code_of_ofCode {n : Nat} {t : Order} (h : Order.ofCode n = some t) : t.code = n := by
  unfold Order.ofCode at h; split at h <;> cases h <;> rfl
theorem Scope.code_of_ofCode {n : Nat} {t : Scope} (h : Scope.ofCode n = some t) : t.code = n := by
  unfold Scope.ofCode at h; split at h <;> cases h <;> rfl
theorem Cond.code_of_ofCode {n : Nat} {t : Cond} (h : Cond.ofCode n = some t) : t.code = n := by
  unfold Cond.ofCode at h; split at h <;> cases h <;> rfl
theorem VCond.code_of_ofCode {n : Nat} {t : VCond} (h : VCond.ofCode n = some t) : t.code = n := by
  unfold VCond.ofCode at h; split at h <;> cases h <;> rfl
theorem ScanOp.code_of_ofCode {n : Nat} {t : ScanOp} (h : ScanOp.ofCode n = some t) : t.code = n := by
  unfold ScanOp.ofCode at h; split at h <;> cases h <;> rfl
theorem Chan.code_of_ofCode {n : Nat} {t : Chan} (h : Chan.ofCode n = some t) : t.code = n := by
  unfold Chan.ofCode at h; split at h <;> cases h <;> rfl
theorem CtlReg.code_of_ofCode {n : Nat} {t : CtlReg} (h : CtlReg.ofCode n = some t) : t.code = n := by
  unfold CtlReg.ofCode at h; split at h <;> cases h <;> rfl
theorem ScanFmt.code_of_ofCode {n : Nat} {t : ScanFmt} (h : ScanFmt.ofCode n = some t) : t.code = n := by
  unfold ScanFmt.ofCode at h; split at h <;> cases h <;> rfl
theorem FTy.code_of_ofCode {n : Nat} {t : FTy} (h : FTy.ofCode n = some t) : t.code = n := by
  unfold FTy.ofCode at h; split at h <;> cases h <;> rfl
theorem RedOp.code_of_ofCode {n : Nat} {t : RedOp} (h : RedOp.ofCode n = some t) : t.code = n := by
  unfold RedOp.ofCode at h; split at h <;> cases h <;> rfl
theorem AluOp.code_of_ofCode {n : Nat} {t : AluOp} (h : AluOp.ofCode n = some t) : t.code = n := by
  unfold AluOp.ofCode at h; split at h <;> cases h <;> rfl
theorem WrMode.code_of_ofCode {n : Nat} {t : WrMode} (h : WrMode.ofCode n = some t) : t.code = n := by
  unfold WrMode.ofCode at h; split at h <;> cases h <;> rfl
theorem SinkMode.code_of_ofCode {n : Nat} {t : SinkMode} (h : SinkMode.ofCode n = some t) : t.code = n := by
  unfold SinkMode.ofCode at h; split at h <;> cases h <;> rfl
theorem CollKind.code_of_ofCode {n : Nat} {t : CollKind} (h : CollKind.ofCode n = some t) : t.code = n := by
  unfold CollKind.ofCode at h; split at h <;> cases h <;> rfl
theorem CollOp.code_of_ofCode {n : Nat} {t : CollOp} (h : CollOp.ofCode n = some t) : t.code = n := by
  unfold CollOp.ofCode at h; split at h <;> cases h <;> rfl

theorem toNat_ofNat_of_lt {n x : Nat} (h : x < 2 ^ n) : (BitVec.ofNat n x).toNat = x := Nat.mod_eq_of_lt h

theorem val_reg {n : Nat} (h : n < 64) : (reg n).val = n := Nat.mod_eq_of_lt h

/-- A register that is taken only of a number in range has that number. -/
theorem val_of_inRange {k n : Nat} [NeZero k] {r : Fin k} (h : (if n < k then some (Fin.ofNat k n) else none) = some r) :
    r.val = n := by
  split_ifs at h with hn
  cases h
  exact Nat.mod_eq_of_lt hn

theorem val_of_preg {n : Nat} {r : PReg} (h : preg n = some r) : r.val = n := val_of_inRange h

theorem val_of_qreg {n : Nat} {r : QReg} (h : qreg n = some r) : r.val = n := val_of_inRange h

theorem val_of_freg {n : Nat} {r : FReg} (h : freg n = some r) : r.val = n := val_of_inRange h

theorem bit_of_lt {n : Nat} (h : n < 2) : bit (n == 1) = n := by
  interval_cases n
  · rfl
  · rfl

@[simp] theorem bit_odd (n : Nat) : bit (n % 2 == 1) = n % 2 := bit_of_lt (Nat.mod_lt n (by decide))

/-- XMOD of VSCAN holds its one flag in bit 1 (R205). -/
theorem bit_of_excl {n : Nat} (h : n = 0 ∨ n = 2) : bit (n == 2) * 2 = n := by
  rcases h with rfl | rfl
  · rfl
  · rfl

/-- XFLAG of CTXSAVE and CTXLOAD is a key slot and SEAL (R183, R184). -/
theorem slot_flag {n : Nat} (h : n < 128) : (reg (n / 2)).val * 2 + bit (n % 2 == 1) = n := by
  have hslot : (reg (n / 2)).val = n / 2 := Nat.mod_eq_of_lt (by omega)
  rw [hslot, bit_odd, Nat.div_add_mod']

theorem mmaFlag_of {n : Nat} (h : n < 128) : mmaFlag (mmaOpOf n) = n := by
  have hpair : (Fin.ofNat 16 (n / 8)).val = n / 8 := Nat.mod_eq_of_lt (by omega)
  simp only [mmaFlag, mmaOpOf, fieldOf, hpair, Nat.reducePow, bit_odd]
  omega

theorem replyBits_of {rpy rq : Nat} {q : Option QReg} (h : replyOf rpy rq = some q) (hp : rpy < 2) (hq : rq < 4) :
    replyBits q = (rpy, rq) := by
  unfold replyOf at h
  split_ifs at h with h0 h1
  · cases h
    rw [h0, h1]
    rfl
  · cases h
    have hrpy : rpy = 1 := by omega
    simp [replyBits, hrpy, Nat.mod_eq_of_lt hq]

/-! ### Words of the forms (R128 to R134) -/

/-- The fields of `f`, one by one; the next lemmas say it of each form's words, the low part cut as the form cuts it. -/
theorem fields_of {op d a b c g lo : Nat} {f : Fields}
    (h : f.op = op ∧ d = f.d ∧ a = f.a ∧ b = f.b ∧ c = f.c ∧ g = f.g ∧ lo = f.lo) : ⟨op, d, a, b, c, g, lo⟩ = f := by
  obtain ⟨rfl, rfl, rfl, rfl, rfl, rfl, rfl⟩ := h
  rfl

section
variable {f : Fields}

theorem encI_of {op d a imm : Nat} (h : f.op = op ∧ d = f.d ∧ a = f.a ∧ f.b = 0 ∧ f.c = 0 ∧ f.g = 0) (hlo : imm = f.lo) :
    encI op d a imm = f := by
  obtain ⟨hop, hd, ha, hb, hc, hg⟩ := h
  exact fields_of ⟨hop, hd, ha, hb.symm, hc.symm, hg.symm, hlo⟩

theorem encI20_of {op d a func imm : Nat} (h : f.op = op ∧ d = f.d ∧ a = f.a ∧ f.b = 0 ∧ f.c = 0 ∧ f.g = 0)
    (hlo : func * 2 ^ 20 + imm = f.lo) : encI20 op d a func imm = f := encI_of h hlo

theorem encF_of {op d a b c cfg : Nat} (h : f.op = op ∧ d = f.d ∧ a = f.a ∧ b = f.b ∧ c = f.c ∧ f.g = 0)
    (hcls : f.lo / 2 ^ 24 < 9) (hcfg : cfg = f.lo % 2 ^ 20) :
    encF op d a b c ⟨Fin.ofNat 9 (f.lo / 2 ^ 24), Fin.ofNat 16 (f.lo / 2 ^ 20 % 16)⟩ cfg = f := by
  obtain ⟨hop, hd, ha, hb, hc, hg⟩ := h
  have hclass : (Fin.ofNat 9 (f.lo / 2 ^ 24)).val = f.lo / 2 ^ 24 := Nat.mod_eq_of_lt hcls
  have hunit : (Fin.ofNat 16 (f.lo / 2 ^ 20 % 16)).val = f.lo / 2 ^ 20 % 16 := Nat.mod_mod _ _
  refine fields_of ⟨hop, hd, ha, hb, hc, hg.symm, ?_⟩
  rw [hclass, hunit, hcfg]
  omega

variable (hf : f.Fit)
include hf

theorem typed_of {op func ty rnd sat nsat ginv d a b c g x : Nat} (h : f.op = op ∧ (splitR f.lo).func = func ∧ d = f.d ∧
    a = f.a ∧ b = f.b ∧ c = f.c ∧ g = f.g ∧ x = (splitR f.lo).xmod) (ht : ty = (splitR f.lo).ty ∧ rnd = (splitR f.lo).rnd ∧
    sat = (splitR f.lo).sat ∧ nsat = (splitR f.lo).nsat ∧ ginv = (splitR f.lo).ginv) :
    (⟨op, d, a, b, c, g, joinR ⟨func, ty, rnd, sat, nsat, ginv, x⟩⟩ : Fields) = f := by
  obtain ⟨hop, rfl, hd, ha, hb, hc, hg, rfl⟩ := h
  obtain ⟨rfl, rfl, rfl, rfl, rfl⟩ := ht
  exact fields_of ⟨hop, hd, ha, hb, hc, hg, joinR_splitR hf.lo_lt⟩

theorem encR_of {op func d a b c x : Nat} (h : f.op = op ∧ (splitR f.lo).func = func ∧ d = f.d ∧ a = f.a ∧ b = f.b ∧
    c = f.c ∧ f.g = 0 ∧ x = (splitR f.lo).xmod) (hu : (splitR f.lo).untyped = true) : encR op func d a b c x = f := by
  obtain ⟨hop, hfunc, hd, ha, hb, hc, hg, hx⟩ := h
  simp only [RLow.untyped, Bool.and_eq_true, beq_iff_eq] at hu
  obtain ⟨⟨⟨⟨hty, hrnd⟩, hsat⟩, hnsat⟩, hginv⟩ := hu
  exact typed_of hf ⟨hop, hfunc, hd, ha, hb, hc, hg.symm, hx⟩ ⟨hty.symm, hrnd.symm, hsat.symm, hnsat.symm, hginv.symm⟩

theorem encV_of {op func d a b c x : Nat} {m : VMod} (hm : (splitR f.lo).vmod = some m)
    (h : f.op = op ∧ (splitR f.lo).func = func ∧ d = f.d ∧ a = f.a ∧ b = f.b ∧ c = f.c ∧ x = (splitR f.lo).xmod) :
    encV op func d a b c x m ⟨Fin.ofNat 16 f.g, (splitR f.lo).ginv == 1⟩ = f := by
  simp only [RLow.vmod, Option.bind_eq_bind, Option.bind_eq_some_iff] at hm
  obtain ⟨t, ht, rm, hrm, hm⟩ := hm
  cases hm
  obtain ⟨hop, hfunc, hd, ha, hb, hc, hx⟩ := h
  exact typed_of hf ⟨hop, hfunc, hd, ha, hb, hc, Nat.mod_eq_of_lt hf.g_lt, hx⟩ ⟨Fmt.code_of_ofCode ht,
    Rnd.code_of_ofCode hrm, bit_of_lt (Nat.mod_lt _ (by decide)), bit_of_lt (Nat.mod_lt _ (by decide)),
    bit_of_lt (Nat.mod_lt _ (by decide))⟩

theorem encM_of {op d a b g ginv det : Nat} {m : MemOp} (hm : memOpOf f.c (splitM f.lo) = some m)
    (h : f.op = op ∧ d = f.d ∧ a = f.a ∧ b = f.b ∧ g = f.g ∧ ginv = f.c / 32 ∧ det = (splitM f.lo).det) :
    encM op d a b g ginv det m = f := by
  obtain ⟨hop, hd, ha, hb, hg, rfl, rfl⟩ := h
  simp only [memOpOf, Option.bind_eq_bind, Option.bind_eq_some_iff] at hm
  obtain ⟨t, ht, sp, hsp, o, ho, sc, hsc, hm⟩ := hm
  cases hm
  refine fields_of ⟨hop, hd, ha, hb, ?_, hg, ?_⟩
  · rw [Fmt.code_of_ofCode ht, Nat.div_add_mod']
  · have hbp : bit ((splitM f.lo).bp == 1) = (splitM f.lo).bp := bit_of_lt (Nat.mod_lt _ (by decide))
    have hoff : (BitVec.ofNat 20 (splitM f.lo).off).toNat = (splitM f.lo).off := toNat_ofNat_of_lt (Nat.mod_lt _ (by decide))
    rw [Space.code_of_ofCode hsp, Order.code_of_ofCode ho, Scope.code_of_ofCode hsc, hbp, hoff]
    exact joinM_splitM hf.lo_lt

theorem encX_of {op d a b c tdi scope flag : Nat} {q : Option QReg} (hq : replyOf (splitX f.lo).rpy (splitX f.lo).rq = some q)
    (h : f.op = op ∧ d = f.d ∧ a = f.a ∧ b = f.b ∧ c = f.c ∧ f.g = 0)
    (hx : tdi = (splitX f.lo).tdi ∧ scope = (splitX f.lo).scope ∧ flag = (splitX f.lo).flag) :
    encX op d a b c tdi q scope flag = f := by
  obtain ⟨hop, hd, ha, hb, hc, hg⟩ := h
  obtain ⟨rfl, rfl, rfl⟩ := hx
  refine fields_of ⟨hop, hd, ha, hb, hc, hg.symm, ?_⟩
  rw [replyBits_of hq (Nat.mod_lt _ (by decide)) (Nat.mod_lt _ (by decide))]
  exact joinX_splitX hf.lo_lt

/-! ### The decoders -/

theorem decodeArith_undoes (hop : f.op = 0) : Undoes f (decodeArith f (splitR f.lo)) := by
  have hd := val_reg hf.d_lt
  have ha := val_reg hf.a_lt
  have hb := val_reg hf.b_lt
  refine undoes_req fun h => ?_
  simp only [Bool.and_eq_true, beq_iff_eq] at h
  obtain ⟨⟨⟨hg, hc⟩, hu⟩, hx⟩ := h
  split
  iterate 15 · next hfunc => exact undoes_some (encR_of hf ⟨hop, hfunc, hd, ha, hb, hc.symm, hg, hx.symm⟩ hu)
  iterate 3
    · next hfunc =>
      exact undoes_reqSome fun h => encR_of hf ⟨hop, hfunc, hd, ha, (eq_of_beq h).symm, hc.symm, hg, hx.symm⟩ hu
  · exact undoes_none

theorem decodeMulDiv_undoes (hop : f.op = 1) : Undoes f (decodeMulDiv f (splitR f.lo)) := by
  have hd := val_reg hf.d_lt
  have ha := val_reg hf.a_lt
  have hb := val_reg hf.b_lt
  have hc := val_reg hf.c_lt
  refine undoes_req fun h => ?_
  simp only [Bool.and_eq_true, beq_iff_eq] at h
  obtain ⟨⟨⟨hg, hu⟩, hx⟩, hc0⟩ := h
  split
  iterate 8 · next hfunc => exact undoes_some (encR_of hf (by simp_all) hu)
  · exact undoes_none

theorem decodeScalar_undoes : Undoes f (decodeScalar f) := by
  have hd := val_reg hf.d_lt
  have ha := val_reg hf.a_lt
  have hb := val_reg hf.b_lt
  have hc := val_reg hf.c_lt
  have hlo := hf.lo_lt
  have hx := xmod_lt f.lo
  unfold decodeScalar
  simp only
  split
  · next hop => exact decodeArith_undoes hf hop
  · next hop => exact decodeMulDiv_undoes hf hop
  iterate 3 · next hop => exact undoes_reqSome fun h => encR_of hf (by simp_all [bit_of_lt]) (by simp_all)
  iterate 4 · next hop => exact undoes_reqSome fun h => encI_of (by simp_all) (toNat_ofNat_of_lt hlo)
  iterate 3 · next hop => exact undoes_reqSome fun h => encI_of (by simp_all) (by simp_all [reg])
  · next hop => exact undoes_reqSome fun h => encI_of (by simp_all) (toNat_ofNat_of_lt hlo)
  · next hop => exact undoes_reqSome fun h => encI20_of (by simp_all) (by simp_all [reg]; omega)
  · next hop => exact undoes_reqSome fun h => encI_of (by simp_all) (toNat_ofNat_of_lt hlo)
  iterate 2 · next hop => exact undoes_reqSome fun h => encI_of (by simp_all) (by simp [reg]; omega)
  · next hop =>
    refine undoes_bind fun c hcond => undoes_reqSome fun h => fields_of ?_
    simp_all [Cond.code_of_ofCode hcond, Nat.div_add_mod']
  iterate 2 · next hop => exact undoes_reqSome fun h => encI_of (by simp_all) (toNat_ofNat_of_lt hlo)
  iterate 3 · next hop => exact undoes_reqSome fun h => encR_of hf (by simp_all) (by simp_all)
  · next hop => exact undoes_reqSome fun h => fields_of (by simp_all)
  · next hop => exact undoes_reqSome fun h => encR_of hf (by simp_all) (by simp_all)
  iterate 2 · next hop => exact undoes_reqSome fun h => encI_of (by simp_all) (by simp_all)
  · exact undoes_none

theorem decodeSystem_undoes : Undoes f (decodeSystem f) := by
  have hd := val_reg hf.d_lt
  have ha := val_reg hf.a_lt
  have hb := val_reg hf.b_lt
  have hc := val_reg hf.c_lt
  have hx := xmod_lt f.lo
  have hnone : replyOf 0 0 = some none := rfl
  have htdi : (BitVec.ofNat 16 (splitX f.lo).tdi).toNat = (splitX f.lo).tdi := toNat_ofNat_of_lt (Nat.mod_lt _ (by decide))
  unfold decodeSystem
  simp only
  split
  · next hop =>
    refine undoes_bind fun o ho => undoes_bind fun s hs => undoes_reqSome fun h => fields_of ?_
    have hlo := joinM_splitM hf.lo_lt
    simp_all [Order.code_of_ofCode ho, Scope.code_of_ofCode hs, joinM]
  iterate 3 · next hop => exact undoes_reqSome fun h => encI_of (by simp_all) (by simp_all)
  · next hop =>
    refine undoes_bind fun ch hch => undoes_reqSome fun h => ?_
    have hcode := Chan.code_of_ofCode hch
    split
    · exact encR_of hf (by simp_all; omega) (by simp_all)
    · exact encR_of hf (by simp_all; omega) (by simp_all)
  · next hop => exact undoes_bind fun q hq => undoes_reqSome fun h => encR_of hf (by simp_all [val_of_qreg hq]) (by simp_all)
  · next hop => exact undoes_reqSome fun h => encR_of hf (by simp_all) (by simp_all)
  · next hop =>
    refine undoes_bind fun q hq => undoes_reqSome fun h => ?_
    split
    · exact encR_of hf (by simp_all [val_of_qreg hq]) (by simp_all)
    · exact encR_of hf (by simp_all [val_of_qreg hq]; omega) (by simp_all)
  iterate 2 · next hop => exact undoes_reqSome fun h => encR_of hf (by simp_all) (by simp_all)
  · next hop => exact undoes_reqSome fun h => encI20_of (by simp_all) (by simp_all)
  iterate 2
    · next hop =>
      exact undoes_bind fun r hr => undoes_reqSome fun h => encI20_of (by simp_all) (by simp [CtlReg.code_of_ofCode hr])
  · next hop => exact undoes_reqSome fun h => encX_of hf (by simp_all) (by simp_all) ⟨htdi, by simp_all⟩
  iterate 2
    · next hop => exact undoes_reqSome fun h => encX_of hf (by simp_all) (by simp_all) ⟨htdi, by simp_all, slot_flag (flag_lt _)⟩
  · exact undoes_none

theorem decodeVector_undoes {m : VMod} (hm : (splitR f.lo).vmod = some m) : Undoes f (decodeVector f (splitR f.lo) m) := by
  have hd := val_reg hf.d_lt
  have ha := val_reg hf.a_lt
  have hb := val_reg hf.b_lt
  have hc := val_reg hf.c_lt
  have hx := xmod_lt f.lo
  have hflag : ∀ {n}, n ≤ 1 → n % 2 = n := fun h => Nat.mod_eq_of_lt (Nat.lt_succ_of_le h)
  unfold decodeVector
  simp only
  split
  iterate 14 · next hop => exact undoes_reqSome fun h => encV_of hf hm (by simp_all)
  · next hop =>
    exact undoes_bind fun cond hcond => undoes_bind fun p hp => undoes_reqSome fun h =>
      encV_of hf hm (by simp_all [VCond.code_of_ofCode hcond, val_of_preg hp])
  · next hop => exact undoes_bind fun p hp => undoes_reqSome fun h => encV_of hf hm (by simp_all [val_of_preg hp])
  iterate 10 · next hop => exact undoes_reqSome fun h => encV_of hf hm (by simp_all)
  · next hop =>
    refine undoes_bind fun o ho => undoes_reqSome fun h => encV_of hf hm ?_
    simp only [Bool.and_eq_true, Bool.or_eq_true, beq_iff_eq] at h
    obtain ⟨hexcl, hc0⟩ := h
    exact ⟨hop, (ScanOp.code_of_ofCode ho).symm, hd, ha, hb, hc0.symm, bit_of_excl hexcl⟩
  iterate 2
    · next hop =>
      refine undoes_bind fun ts hts => undoes_reqSome fun h => encV_of hf hm ?_
      simp_all [Fmt.code_of_ofCode hts]
      omega
  iterate 6 · next hop => exact undoes_reqSome fun h => encV_of hf hm (by simp_all)
  · exact undoes_none

theorem decodeMemory_undoes : Undoes f (decodeMemory f) := by
  have hd := val_reg hf.d_lt
  have ha := val_reg hf.a_lt
  have hb := val_reg hf.b_lt
  have hg := hf.g_lt
  have hguard : bit (f.c / 32 == 1) = f.c / 32 := by
    have hc := hf.c_lt
    exact bit_of_lt (by omega)
  have hdet : bit ((splitM f.lo).det == 1) = (splitM f.lo).det := bit_of_lt (Nat.mod_lt _ (by decide))
  refine undoes_bind fun m hm => ?_
  simp only
  split
  iterate 20 · next hop => exact undoes_reqSome fun h => encM_of hf hm (by simp_all [-Nat.div_eq_zero_iff])
  · exact undoes_none

theorem decodeLanes_undoes : Undoes f (decodeLanes f) := by
  have hd := val_reg hf.d_lt
  have ha := val_reg hf.a_lt
  have hx := xmod_lt f.lo
  have hnone : replyOf 0 0 = some none := rfl
  have htdi : (BitVec.ofNat 16 (splitX f.lo).tdi).toNat = (splitX f.lo).tdi := toNat_ofNat_of_lt (Nat.mod_lt _ (by decide))
  unfold decodeLanes
  simp only
  split
  · next hop =>
    refine undoes_bind fun t ht => undoes_reqSome fun h => typed_of hf ?_ ?_
    · simp_all [bit_of_lt]
    · simp_all [Fmt.code_of_ofCode ht]
  · next hop =>
    refine undoes_reqSome fun h => ?_
    split
    · exact encX_of hf (by simp_all) (by simp_all) ⟨htdi, by simp_all⟩
    · exact encX_of hf (by simp_all) (by simp_all) (by simp_all; omega)
  iterate 3
    · next hop =>
      exact undoes_bind fun pd hd => undoes_bind fun pa ha => undoes_bind fun pb hb => undoes_reqSome fun h =>
        encR_of hf (by simp_all [val_of_preg hd, val_of_preg ha, val_of_preg hb]) (by simp_all)
  · next hop =>
    exact undoes_bind fun pd hd => undoes_bind fun pa ha => undoes_reqSome fun h =>
      encR_of hf (by simp_all [val_of_preg hd, val_of_preg ha]) (by simp_all)
  iterate 2
    · next hop =>
      refine undoes_bind fun t ht => undoes_bind fun pa ha => undoes_reqSome fun h => typed_of hf ?_ ?_
      · simp_all [val_of_preg ha]
      · simp_all [Fmt.code_of_ofCode ht]
  · exact undoes_bind fun m hm => decodeVector_undoes hf hm

theorem decodeEngine_undoes : Undoes f (decodeEngine f) := by
  have hd := val_reg hf.d_lt
  have ha := val_reg hf.a_lt
  have hb := val_reg hf.b_lt
  have hc := val_reg hf.c_lt
  have hx := xmod_lt f.lo
  have hflag := flag_lt f.lo
  have htdi : (BitVec.ofNat 16 (splitX f.lo).tdi).toNat = (splitX f.lo).tdi := toNat_ofNat_of_lt (Nat.mod_lt _ (by decide))
  unfold decodeEngine
  simp only
  split
  · next hop =>
    refine undoes_bind fun q hq => undoes_bind fun s hs => ?_
    have hs := Scope.code_of_ofCode hs
    split
    · exact undoes_reqSome fun h => encX_of hf hq (by simp_all) ⟨htdi, hs, by simp_all⟩
    · exact undoes_reqSome fun h => encX_of hf hq (by simp_all) ⟨htdi, hs, by simp_all; omega⟩
  · next hop =>
    exact undoes_bind fun q hq => undoes_bind fun s hs => undoes_reqSome fun h =>
      encX_of hf hq (by simp_all) ⟨htdi, Scope.code_of_ofCode hs, by simp_all⟩
  · next hop =>
    refine undoes_bind fun q hq => undoes_bind fun s hs => undoes_bind fun t ht => undoes_reqSome fun h =>
      encX_of hf hq (by simp_all) ⟨by simp_all, Scope.code_of_ofCode hs, ?_⟩
    rw [Fmt.code_of_ofCode ht, bit_odd, bit_of_lt (by omega)]
    omega
  · next hop =>
    exact undoes_bind fun q hq => undoes_bind fun s hs => undoes_reqSome fun h =>
      encX_of hf hq (by simp_all) ⟨htdi, Scope.code_of_ofCode hs, by simp_all [bit_of_lt]⟩
  · next hop => exact undoes_reqSome fun h => encR_of hf (by simp_all) (by simp_all)
  iterate 3 · next hop => exact undoes_reqSome fun h => encI_of (by simp_all) (by simp_all)
  · next hop =>
    refine undoes_bind fun kind hkind => undoes_bind fun o ho => undoes_bind fun s hs => undoes_reqSome fun h =>
      encX_of hf ?_ (by simp_all) ⟨htdi, Scope.code_of_ofCode hs, ?_⟩
    · simp_all [replyOf]
    · rw [CollKind.code_of_ofCode hkind, CollOp.code_of_ofCode ho, bit_of_lt (by omega)]
      omega
  iterate 2
    · next hop =>
      exact undoes_bind fun q hq => undoes_reqSome fun h => encX_of hf hq (by simp_all) ⟨htdi, by simp_all, mmaFlag_of hflag⟩
  · next hop => exact undoes_reqSome fun h => encR_of hf (by simp_all) (by simp_all)
  · next hop =>
    refine undoes_reqSome fun h => typed_of hf ?_ ?_
    · simp_all [reg]
    · have hsat : bit ((splitR f.lo).sat == 1) = (splitR f.lo).sat := bit_of_lt (Nat.mod_lt _ (by decide))
      simp_all
      split <;> omega
  · exact undoes_none

theorem decodeGraph_undoes : Undoes f (decodeGraph f) := by
  have hd := val_reg hf.d_lt
  unfold decodeGraph
  simp only
  split
  · next hop =>
    refine undoes_bind fun fd hd => undoes_reqSome fun h => encI20_of (by simp_all [val_of_freg hd]) ?_
    simp_all
    omega
  · next hop =>
    refine undoes_bind fun fa ha => undoes_req fun h => ?_
    have ha := val_of_freg ha
    split
    · exact undoes_reqSome fun h => encI20_of (by simp_all) (by simp_all; omega)
    · refine undoes_reqSome fun h => encI20_of (by simp_all) ?_
      rw [bit_of_lt (by simp_all; omega)]
      simp_all
      omega
    · refine undoes_bind fun mode hmode => undoes_some (encI20_of (by simp_all) ?_)
      rw [SinkMode.code_of_ofCode hmode]
      simp_all
      omega
    · exact undoes_none
  · next hop => exact undoes_reqSome fun h => encI20_of (by simp_all) (by simp_all; omega)
  · next hop =>
    refine undoes_reqSome fun h => ?_
    have hfunc : f.lo / 2 ^ 20 = 0 ∧ f.lo % 2 ^ 20 < 2 := by simp_all
    split
    · next hz =>
      have hlo : f.lo = 0 := by rw [beq_iff_eq] at hz; omega
      exact encI20_of (by simp_all) hlo.symm
    · next hz =>
      have hlo : f.lo = 1 := by rw [beq_iff_eq] at hz; omega
      exact encI20_of (by simp_all) hlo.symm
  · exact undoes_none

theorem decodePort_undoes : Undoes f (decodePort f) := by
  have hd := val_reg hf.d_lt
  have ha := val_reg hf.a_lt
  have hc := val_reg hf.c_lt
  unfold decodePort
  simp only
  split
  · next hop =>
    refine undoes_req fun h => ?_
    split
    · exact undoes_reqSome fun h => encR_of hf (by simp_all; omega) (by simp_all)
    · exact undoes_reqSome fun h => encR_of hf (by simp_all) (by simp_all)
  · next hop =>
    refine undoes_reqSome fun h => encR_of hf ?_ (by simp_all)
    have hx : (splitR f.lo).xmod < 32 := by simp_all
    rw [bit_odd, bit_of_lt (by omega)]
    simp_all
    omega
  iterate 2 · next hop => exact undoes_reqSome fun h => encR_of hf (by simp_all) (by simp_all)
  · exact undoes_none
end

theorem decodeUnit_undoes (f : Fields) : Undoes f (decodeUnit f) := by
  refine undoes_bind fun fd hd => undoes_bind fun fa ha => undoes_bind fun fb hb => undoes_bind fun fc hc => ?_
  have hd := val_of_freg hd
  have ha := val_of_freg ha
  have hb := val_of_freg hb
  have hc := val_of_freg hc
  simp only
  split
  · next hop =>
    refine undoes_bind fun fmt hfmt => undoes_reqSome fun h => encF_of (by simp_all) (by simp_all) ?_
    rw [ScanFmt.code_of_ofCode hfmt, bit_odd, bit_of_lt (by omega), BitVec.toNat_ofNat]
    omega
  iterate 3 · next hop => exact undoes_reqSome fun h => encF_of (by simp_all) (by simp_all) (by simp_all)
  · next hop =>
    refine undoes_bind fun o ho => undoes_bind fun t ht => undoes_bind fun rm hrm => undoes_reqSome fun h =>
      encF_of (by simp_all) (by simp_all) ?_
    rw [RedOp.code_of_ofCode ho, FTy.code_of_ofCode ht, Rnd.code_of_ofCode hrm, bit_odd]
    omega
  · next hop => exact undoes_reqSome fun h => encF_of (by simp_all) (by simp_all) (toNat_ofNat_of_lt (by simp_all))
  · next hop =>
    refine undoes_bind fun o ho => undoes_bind fun t ht => undoes_bind fun rm hrm => undoes_reqSome fun h =>
      encF_of (by simp_all) (by simp_all) ?_
    rw [AluOp.code_of_ofCode ho, FTy.code_of_ofCode ht, Rnd.code_of_ofCode hrm, bit_odd, bit_odd, BitVec.toNat_ofNat]
    omega
  · next hop =>
    refine undoes_bind fun mode hmode => undoes_bind fun t ht => undoes_reqSome fun h =>
      encF_of (by simp_all) (by simp_all) ?_
    rw [WrMode.code_of_ofCode hmode, FTy.code_of_ofCode ht, BitVec.toNat_ofNat]
    omega
  iterate 4 · next hop => exact undoes_reqSome fun h => encF_of (by simp_all) (by simp_all) (by simp_all)
  · exact undoes_none

theorem decodeRaw_undoes {f : Fields} (hf : f.Fit) : Undoes f (decodeRaw f) := by
  unfold decodeRaw
  split_ifs
  · exact decodeScalar_undoes hf
  · exact decodeSystem_undoes hf
  · exact decodeLanes_undoes hf
  · exact decodeMemory_undoes hf
  · exact decodeEngine_undoes hf
  · exact decodeUnit_undoes f
  · exact decodeGraph_undoes hf
  · exact decodePort_undoes hf

theorem fields_of_decodeFields {f : Fields} {i : Instr} (hf : f.Fit) (h : decodeFields f = some i) : i.fields = f := by
  unfold decodeFields at h
  split at h
  · next j hj =>
    split_ifs at h
    cases h
    exact decodeRaw_undoes hf i hj
  · cases h

/-- The fields of what a word decodes to are the word's fields, be it a reserved encoding or not. -/
theorem fields_decodeWord (w : Word) : (decodeWord w).fields = splitWord w.toNat := by
  unfold decodeWord
  split
  · next h => exact fields_of_decodeFields (splitWord_fit _) h
  · rfl

/-- Settles O60: the fields of the decoded instruction are those that the word was cut into. -/
theorem decodeEncodeAgree : Obligations.DecodeEncodeAgree := by
  unfold Obligations.DecodeEncodeAgree
  intro w
  rw [Instr.encode, fields_decodeWord, joinWord_splitWord w.isLt, word, BitVec.ofNat_toNat, BitVec.setWidth_eq]

end Sys2Proof
end

section
/-!
PROOFS. The frame of the scalar instructions (R135, R152, R153): each writes S[d] and retires, and nothing else changes.
-/

namespace Sys2Proof.Machine

open Sys2Proof Sys2Proof.Claims

/-- What is left when S[d] is written and the instruction retires. -/
theorem onlyScalars_advance_setS (s : State) (d : SReg) (v : Word) : OnlyScalars s (advance (setS d v s)) := by
  unfold setS
  split
  · rfl
  · rfl

/-- The scalar instructions and RDCTL write S[d] in every state, whatever the value (R154 to R159, R179). -/
theorem exec_scalarDest {i : Instr} {d : SReg} (s : State) (h : scalarDest i = some d) :
    ∃ v, exec i s = .next (advance (setS d v s)) := by
  cases i
  all_goals cases h
  all_goals exact ⟨_, rfl⟩

/-- Settles O3: what is left of a scalar instruction is what is left of the write of S[d]. -/
theorem scalarFrame : Obligations.ScalarFrame := by
  unfold Obligations.ScalarFrame
  intro i d s h
  obtain ⟨v, hexec⟩ := exec_scalarDest s h
  obtain ⟨hregs, hpc⟩ := wrote_advance_setS (s := s) (t := s) rfl d v
  exact ⟨_, hexec, onlyScalars_advance_setS s d v, sameBytes_advance_setS (fun _ => rfl) d v,
    fun r hr => (hregs r).trans (if_neg fun e => hr e.1), hpc⟩

end Sys2Proof.Machine
end

section
/-!
PROOFS. Packing, extraction and predicates (R135, R140, R190, R196, R199, R202, R212, R213): lanes moved as bits, the
predicate bits of a lane, and what the predicate instructions and VSETVL write.
-/

namespace Sys2Proof.Machine

open Sys2Proof Sys2Proof.Claims

/-! ### Lanes moved as bits (R202) -/

theorem substOf_plain {rs : List Rep} (h : ∀ r ∈ rs, r.2 = 0) : substOf rs = 0 := by
  unfold substOf
  induction rs with
  | nil => rfl
  | cons r rs ih =>
    obtain ⟨hr, hrs⟩ := List.forall_mem_cons.1 h
    rw [List.foldl_cons, hr, BitVec.or_self]
    exact ih hrs

/-- Lanes given bits as they stand set no SUBST bit. -/
theorem writeLanes_plain (d : VReg) (t : Fmt) {rs : List (Nat × Rep)} (s : State) (h : ∀ r ∈ rs, r.2.2 = 0) :
    writeLanes d t rs s = setV d (setElems (getV s d) t (rs.map fun r => (r.1, r.2.1))) s := by
  have hsub : setSubst 0 s = s := by simp [setSubst, onFocus, Tile.onSeq]
  rw [writeLanes, substOf_plain (List.forall_mem_map.2 h), hsub]

theorem map_getD_range (l : List Nat) : (List.range l.length).map (fun k => l.getD k 0) = l := by
  apply List.ext_getElem
  · simp
  · intro i _ hi
    simp [hi]

theorem range_zip_map (l : List Nat) (f : Nat → Nat) :
    (List.range l.length).zip (l.map f) = (List.range l.length).map fun k => (k, f (l.getD k 0)) := by
  have hmap : l.map f = (List.range l.length).map fun k => f (l.getD k 0) :=
    (congrArg (List.map f) (map_getD_range l)).symm.trans (List.map_map ..)
  rw [hmap, List.zip_map_right, List.zip_eq_zipWith, List.zipWith_self, List.map_map]
  rfl

theorem zip_map_range (l : List Nat) (f : Nat → Nat) :
    l.zip ((List.range l.length).map f) = (List.range l.length).map fun k => (l.getD k 0, f k) := by
  rw [← List.zip_map', map_getD_range]

/-- An instruction that moves lanes as they stand, each destination lane once. -/
theorem lanes_of_moved {i : Instr} {s : State} {d : VReg} {t : Fmt} {n : Nat} {dst x : Nat → Nat}
    (h : exec i s = .next (advance (setV d (setElems (getV s d) t ((List.range n).map fun k => (dst k, x k))) s)))
    (hn : ((List.range n).map dst).Nodup) : Lanes i s d t ((List.range n).map fun k => (dst k, x k, 0)) := by
  refine lanes_of_writeLanes ?_ (by rwa [List.map_map])
  rw [writeLanes_plain d t s (List.forall_mem_map.2 fun _ _ => rfl), List.map_map]
  exact h

/-! ### VEXT (R199) -/

theorem result_of_setS {i : Instr} {s : State} {d : SReg} {v : Word} (h : exec i s = .next (advance (setS d v s))) :
    Result i s d v := ⟨_, h, wrote_advance_setS rfl d v⟩

theorem exec_vext {s : State} {a : VReg} (d b : SReg) (m : VMod) (g : Guard) (hon : BanksOn s [a]) :
    exec (.vext d a b m g) s = .next (advance (setS d (if (getS s b).toNat ∈ activeLanes s m.ty g then
      extendElem m.ty (lane s m a (getS s b).toNat) else 0) s)) := by
  show execVext d a b m g s = _
  simp only [execVext, useBanks_on hon, mem_activeLanes, Bool.and_eq_true, decide_eq_true_eq]
  rfl

/-- R199, R202: the lanes that VCOMPRESS and VEXPAND give, and what VEXT gives of an active lane. -/
theorem packingAndExtract : PackingAndExtract := by
  intro s d a e b m g hon
  refine ⟨lanes_of_moved ?_ ?_, lanes_of_moved ?_ ?_, fun hj => ?_, fun hj => ?_⟩
  · show execVcompress d a m g s = _
    rw [← range_zip_map]
    simp only [execVcompress, useBanks_on hon]
    rfl
  · rw [List.map_id']
    exact List.nodup_range
  · show execVexpand d a m g s = _
    rw [← zip_map_range]
    simp only [execVexpand, useBanks_on hon]
    rfl
  · rw [map_getD_range]
    exact nodup_activeLanes s m.ty g
  · refine result_of_setS ((exec_vext e b m g ?_).trans (by rw [if_pos hj]))
    exact fun r hr => hon r (List.mem_cons_of_mem _ hr)
  · refine result_of_setS ((exec_vext e b m g ?_).trans (by rw [if_neg hj]))
    exact fun r hr => hon r (List.mem_cons_of_mem _ hr)

/-! ### Predicate bits of lanes (R140, R196) -/

/-- The lowest byte of a lane of whole bytes. -/
theorem laneByte_eq {t : Fmt} (h : 8 ≤ t.bits) (i : Nat) : laneByte t i = i * (t.bits / 8) := by
  have hdvd : 8 ∣ t.bits := by cases t <;> revert h <;> decide
  rw [laneByte, Nat.mul_div_assoc _ hdvd]

theorem testBit_laneBits {t : Fmt} (h : 8 ≤ t.bits) (i j : Nat) :
    (laneBits t i).testBit j = decide (j / (t.bits / 8) = i) := by
  have hk : 0 < t.bits / 8 := by omega
  rw [laneBits, laneByte_eq h, Nat.testBit_mul_two_pow, Nat.testBit_two_pow_sub_one, ← Bool.decide_and, decide_eq_decide,
    Nat.div_eq_iff hk]
  omega

/-- One lane's predicate bits set or cleared: a bit is that of the lane whose byte it stands for, or stays (R196). -/
theorem getLsbD_setPredLane {t : Fmt} (h : 8 ≤ t.bits) (p : PredWord) (i : Nat) (c : Bool) {j : Nat} (hj : j < 256) :
    (if c then p ||| BitVec.ofNat 256 (laneBits t i) else p &&& ~~~BitVec.ofNat 256 (laneBits t i)).getLsbD j =
      if j / (t.bits / 8) = i then c else p.getLsbD j := by
  have hbit : (BitVec.ofNat 256 (laneBits t i)).getLsbD j = decide (j / (t.bits / 8) = i) := by
    rw [BitVec.getLsbD_ofNat, testBit_laneBits h, decide_eq_true hj, Bool.true_and]
  cases c
  · rw [if_neg Bool.false_ne_true, BitVec.getLsbD_and, BitVec.getLsbD_not, hbit, decide_eq_true hj]
    split_ifs with hi <;> simp [hi]
  · rw [if_pos rfl, BitVec.getLsbD_or, hbit]
    split_ifs with hi <;> simp [hi]

theorem getLsbD_setPredLanes {t : Fmt} (h : 8 ≤ t.bits) (c : Nat → Bool) (is : List Nat) (p : PredWord) {j : Nat}
    (hj : j < 256) : (setPredLanes t p (is.map fun i => (i, c i))).getLsbD j =
      if j / (t.bits / 8) ∈ is then c (j / (t.bits / 8)) else p.getLsbD j := by
  induction is generalizing p with
  | nil => rfl
  | cons i is ih =>
    refine (ih _).trans ?_
    rw [getLsbD_setPredLane h p i (c i) hj]
    by_cases hi : j / (t.bits / 8) = i
    · simp [hi]
    · simp [hi]

/-! ### Predicates (R212, R213) -/

theorem writesP_of_setP {i : Instr} {s : State} {d : PReg} {x : PredWord} {f : Nat → Bool}
    (h : exec i s = .next (advance (setP d x s))) (hd : d ≠ 0) (hx : ∀ j < 256, x.getLsbD j = f j) :
    Gives i s fun u => (∀ j < 256, (getP u d).getLsbD j = f j) ∧ (∀ r, r ≠ d → getP u r = getP s r) ∧
      getPc u = getPc s + 8 ∧ (∀ r, getS u r = getS s r) ∧ (∀ r, getV u r = getV s r) ∧ u.dev = s.dev := by
  refine ⟨_, h, fun j hj => ?_, fun r hr => ?_, by simp, by simp, by simp, by simp⟩
  · rw [getP_advance, getP_setP, if_pos ⟨rfl, hd⟩, hx j hj]
  · rw [getP_advance, getP_setP, if_neg fun e => hr e.1]

theorem exec_vcmp {s : State} {a b : VReg} (cond : VCond) (d : PReg) (m : VMod) (g : Guard) (hon : BanksOn s [a, b]) :
    exec (.vcmp cond d a b m g) s = .next (advance (setP d (setPredLanes m.ty (getP s d) ((activeLanes s m.ty g).map fun i =>
      (i, compareElems m.ty cond (lane s m a i) (lane s m b i)))) s)) := by
  show execVcmp cond d a b m g s = _
  simp only [execVcmp, useBanks_on hon]
  rfl

/-- The lane of a predicate bit is one of the register's. -/
theorem lane_lt_vlmax {t : Fmt} (h : 8 ≤ t.bits) {j : Nat} (hj : j < 256) : j / (t.bits / 8) < vlmax t := by
  have hmul : t.bits / 8 * vlmax t = 256 := by cases t <;> revert h <;> decide
  exact Nat.div_lt_of_lt_mul (hmul.symm ▸ hj)

theorem vl_setS (d : SReg) (v : Word) (s : State) : (setS d v s).tile.seq.vl = s.tile.seq.vl := by
  unfold setS
  split
  · rfl
  · rfl

theorem exec_pfirst (d : SReg) (a : PReg) (t : Fmt) (s : State) : exec (.pfirst d a t) s =
    .next (advance (setS d (match (setLanes s a t).head? with | some i => BitVec.ofNat 64 i | none => 0xFFFFFFFFFFFFFFFF) s)) := by
  show execPfirst d a t s = _
  unfold execPfirst
  cases setLanes s a t with
  | nil => rfl
  | cons i l => rfl

/-- R190, R196, R212, R213: every clause by what its instruction writes. -/
theorem predicatesAndLength : PredicatesAndLength := by
  intro s e f t max d p q a b cond m g
  refine ⟨⟨_, rfl, ?_, ?_, ?_⟩, result_of_setS rfl, result_of_setS ?_, fun hd => ⟨writesP_of_setP rfl hd fun j _ => ?_,
    writesP_of_setP rfl hd fun j _ => ?_, writesP_of_setP rfl hd fun j _ => ?_, writesP_of_setP rfl hd fun j hj => ?_,
    fun hon hbits => writesP_of_setP (exec_vcmp cond d m g hon) hd fun j hj => ?_⟩⟩
  · exact wrote_advance_setS rfl e _
  · exact vl_setS e _ _
  · rw [advance_dev, setS_dev]
    rfl
  · exact exec_pfirst e p t s
  · rw [BitVec.getLsbD_and]
  · rw [BitVec.getLsbD_or]
  · rw [BitVec.getLsbD_xor]
  · simp [hj]
  · have hmem : j / (m.ty.bits / 8) ∈ activeLanes s m.ty g ↔ activeLane s m.ty g (j / (m.ty.bits / 8)) = true := by
      rw [mem_activeLanes, and_iff_right (lane_lt_vlmax hbits hj)]
    rw [getLsbD_setPredLanes hbits _ _ _ hj]
    exact if_congr hmem rfl rfl

/-- Settles O17, from the packing of lanes and from the bits of the predicates. -/
theorem packingAndPredicates : Obligations.PackingAndPredicates := ⟨packingAndExtract, predicatesAndLength⟩

end Sys2Proof.Machine
end

section
/-!
PROOFS. The fibre configuration commands at their issue (R133, R256, R257, R273 to R286).
-/

namespace Sys2Proof.Machine

open Sys2Proof Sys2Proof.Claims

set_option Elab.async false

/-! ### The plan of a graph (R257, R274) -/

theorem keep_of_absent {α : Type} {l : List (Nat × α)} {k : Nat} (h : ∀ e ∈ l, e.1 ≠ k) (x : α) :
    keep l k x = l ++ [(k, x)] := by
  induction l with
  | nil => rfl
  | cons e l ih =>
    rw [keep, if_neg (h e (List.mem_cons_self ..)), ih fun a ha => h a (List.mem_cons_of_mem _ ha)]
    rfl

/-- A configuration takes the place of an earlier one of its slot, and stands last. -/
theorem keep_drop? {α : Type} (l : List (Nat × α)) (k : Nat) (x : α) :
    keep (drop? l k) k x = l.filter (fun e => e.1 != k) ++ [(k, x)] :=
  keep_of_absent (fun _ he => bne_iff_ne.1 (List.mem_filter.1 he).2) x

theorem length_producers (cfg : List (Nat × UnitCfg)) (f : Nat) :
    (producers cfg f).length = (cfg.map fun u => u.2.outs.count f).sum := by
  simp only [producers, List.length_flatMap, List.length_map, List.count_eq_length_filter]

theorem countP_getElem?_range (l : List Nat) (f : Nat) :
    (List.range l.length).countP (fun i => l[i]? = some f) = l.count f := by
  induction l with
  | nil => rfl
  | cons x l ih =>
    rw [List.length_cons, List.range_succ_eq_map, List.countP_cons, List.countP_map, List.count_cons, ← ih]
    simp [Function.comp_def]

theorem length_consumers (cfg : List (Nat × UnitCfg)) (f : Nat) :
    (consumers cfg f).length = (cfg.map fun u => u.2.ins.count f).sum := by
  rw [consumers, List.length_flatMap]
  refine congrArg List.sum (List.map_congr_left fun u _ => ?_)
  rw [List.length_filterMap_eq_countP, ← countP_getElem?_range]
  refine List.countP_congr fun i _ => ?_
  by_cases h : u.2.ins[i]? = some f <;> simp [h]

theorem countsOk_iff (cfg : List (Nat × UnitCfg)) : countsOk cfg = true ↔
    ∀ f < 32, (cfg.map fun u => u.2.outs.count f).sum ≤ 1 ∧ (cfg.map fun u => u.2.ins.count f).sum ≤ 4 := by
  simp only [countsOk, List.all_eq_true, List.mem_range, decide_eq_true_eq, length_producers, length_consumers]

/-! ### Units (R133, R256) -/

theorem slotOf_eq_unitNumber (u : UnitRef) : slotOf u = unitNumber u := by
  have hbase : unitBase u.cls.val = (classUnits.getD u.cls.val (0, 0)).2 := List.getD_map classUnits (0, 0) Prod.snd
  rw [slotOf, unitNumber, hbase]

/-- `c` is the check that the class and unit fields are among those that `fn` may take. -/
def ChecksUnit (c : Except Stop Unit) (fn : UnitFn) (u : UnitRef) : Prop :=
  (UnitAllowed fn u → c = .ok ()) ∧ (¬ UnitAllowed fn u → c = .error (.cause 0x0CA 0))

theorem checksUnit_need {b : Bool} {fn : UnitFn} {u : UnitRef} (h : b = true ↔ UnitAllowed fn u) :
    ChecksUnit (need b (.cause 0x0CA 0)) fn u :=
  ⟨fun ha => by rw [h.2 ha, need_true], fun ha => by rw [Bool.eq_false_iff.2 (mt h.1 ha), need_false]⟩

theorem checksUnit_checkUnit {fn : UnitFn} {u : UnitRef} (k : Nat)
    (h : UnitAllowed fn u = (u.cls.val = k ∧ u.unit.val < unitCount k)) : ChecksUnit (checkUnit u k) fn u :=
  checksUnit_need (by rw [h, Bool.and_eq_true, beq_iff_eq, decide_eq_true_iff])

theorem checksUnit_checkRouter {fn : UnitFn} {u : UnitRef}
    (h : UnitAllowed fn u = ((u.cls.val = 8 ∧ u.unit.val < 2) ∨ (u.cls.val = 6 ∧ u.unit.val = 0))) :
    ChecksUnit (checkRouter u) fn u :=
  checksUnit_need (by simp only [h, Bool.or_eq_true, Bool.and_eq_true, beq_iff_eq, decide_eq_true_iff])

/-! ### FIBRE_BUSY (R273) -/

theorem notBusy_of_none {s : State} (h : oldestGo s.tile (me s) = none) : notBusy s = .ok () := by rw [notBusy, h]

theorem busy_of_exec {i : Instr} {s : State} {rest : Unit → Except Stop State}
    (h : exec i s = finishIssue .fibre s (notBusy s >>= rest)) : Busy i s := by
  intro n hn
  rw [Traps, h, notBusy, hn, error_bind, finishIssue_cause]

/-! ### A command issued to the fibre queue -/

/-- What a fibre command's instruction does besides what other issues do: it puts the fibre configuration and the FGO
number. -/
def putFibre (fib : Fibre) (fgo : Nat) (s : State) : State :=
  onFocus (fun t => { t with fibre := fib, seq := { t.seq with fgoSeq := fgo } }) s

section
variable (fib : Fibre) (fgo : Nat) {s t : State}

theorem placeMem_putFibre (s : State) (p : Place) : placeMem (putFibre fib fgo s) p = placeMem s p :=
  placeMem_onFocus (f := fun t => { t with fibre := fib, seq := { t.seq with fgoSeq := fgo } }) (fun _ => rfl) s p

theorem queued_putFibre {e : Eng} {body : Cmd} {reply : Option QReg} (h : Queued s t e body reply) :
    Queued s (putFibre fib fgo t) e body reply := h

theorem reserved_putFibre {n : QReg → Nat} (h : Reserved s t n) : Reserved s (putFibre fib fgo t) n := h

theorem tookId_putFibre {ch : Option Chan} (h : TookId s t ch) : TookId s (putFibre fib fgo t) ch := h

theorem onlyIssue_putFibre (h : OnlyIssue s t) : OnlyIssue s (putFibre fib fgo t) :=
  (congrArg (putFibre fib fgo) h).trans rfl

theorem sameBytes_putFibre (h : SameBytes s t) : SameBytes s (putFibre fib fgo t) := fun p a => by
  rw [placeMem_putFibre]
  exact h p a

theorem setS_putFibre (d : SReg) (v : Word) (s : State) : setS d v (putFibre fib fgo s) = putFibre fib fgo (setS d v s) := by
  unfold setS
  split <;> rfl

end

/-- The state after the issue of a fibre command that writes `v` to S[d]. -/
def afterFibre (fib : Fibre) (fgo : Nat) (body : Cmd) (reply : Option QReg) (d : SReg) (v : Word) (s : State) : State :=
  putFibre fib fgo (afterQueued .fibre body reply d v 0 s.tile.collCounts s.tile.seq.collSeq s)

/-- An issue that counts no collective and adds no SUBST bit writes S[d]. -/
theorem setS_eq_afterIssue (e : Eng) (body : Cmd) (reply : Option QReg) (d : SReg) (v : Word) (s : State) :
    setS d v (issuedTo e body reply s) =
      afterIssue d v 0 s.tile.collCounts s.tile.seq.collSeq (issuedTo e body reply s) := by
  have h := setSubst_eq_afterIssue e body reply 0 s
  rw [setSubst_zero, afterIssue, setS_zero] at h
  rw [afterIssue, ← h]

theorem retired_putFibre (fib : Fibre) (fgo : Nat) (body : Cmd) (reply : Option QReg) (d : SReg) (v : Word) (s : State) :
    retired .fibre (setS d v (putFibre fib fgo (issuedTo .fibre body reply s))) = afterFibre fib fgo body reply d v s := by
  rw [setS_putFibre, setS_eq_afterIssue, afterFibre, afterQueued]
  generalize afterIssue d v 0 _ _ _ = t
  rfl

section
variable (fib : Fibre) (fgo : Nat) (body : Cmd) (reply : Option QReg) (d : SReg) (v : Word) (s : State)

/-- What the issue of a fibre command leaves. -/
theorem left_afterFibre : let t := afterFibre fib fgo body reply d v s
    Queued s t .fibre body reply ∧ Reserved s t (fun q => if reply = some q then 1 else 0) ∧ TookId s t none ∧
      (∀ r, getS t r = if r = d ∧ d ≠ 0 then v else getS s r) ∧ t.tile.seq.subst = s.tile.seq.subst ||| 0 ∧ OnlyIssue s t ∧
      SameBytes s t := by
  rw [afterFibre]
  have hqueued := queued_afterQueued .fibre body reply d v 0 s.tile.collCounts s.tile.seq.collSeq s
  have hreserved := reserved_afterQueued .fibre body reply d v 0 s.tile.collCounts s.tile.seq.collSeq s
  have htook := tookId_afterQueued .fibre body reply d v 0 s.tile.collCounts s.tile.seq.collSeq s
  have hgetS := getS_afterQueued .fibre body reply d v 0 s.tile.collCounts s.tile.seq.collSeq s
  have hsubst := subst_afterQueued .fibre body reply d v 0 s.tile.collCounts s.tile.seq.collSeq s
  have honly := onlyIssue_afterQueued .fibre body reply d v 0 s.tile.collCounts s.tile.seq.collSeq s
  have hbytes := sameBytes_afterQueued .fibre body reply d v 0 s.tile.collCounts s.tile.seq.collSeq s
  generalize afterQueued _ _ _ _ _ _ _ _ _ = t at *
  exact ⟨queued_putFibre fib fgo hqueued, reserved_putFibre fib fgo hreserved, tookId_putFibre fib fgo htook, hgetS, hsubst,
    onlyIssue_putFibre fib fgo honly, sameBytes_putFibre fib fgo hbytes⟩

/-- What the issue of a fibre command counts. -/
theorem counted_afterFibre : let t := afterFibre fib fgo body reply d v s
    t.tile.fibre = fib ∧ t.tile.accSeq = s.tile.accSeq ∧ t.tile.collCounts = s.tile.collCounts ∧
      t.tile.seq.collSeq = s.tile.seq.collSeq ∧ t.tile.seq.fgoSeq = fgo := by
  obtain ⟨hacc, hcounts, -, hcoll, -⟩ :=
    counts_afterQueued .fibre body reply d v 0 s.tile.collCounts s.tile.seq.collSeq s
  rw [afterFibre]
  generalize afterQueued _ _ _ _ _ _ _ _ _ = t at *
  exact ⟨rfl, hacc, hcounts, hcoll, rfl⟩

end

/-! ### The issue of a configuration (R257, R274) -/

/-- The plan of a graph once a slot is configured. -/
def planWith (slot : Nat) (c : UnitCfg) (s : State) : List (Nat × UnitCfg) :=
  s.tile.fibre.plan.filter (fun e => e.1 != slot) ++ [(slot, c)]

theorem issueConfig_unfair {slot : Nat} {c : UnitCfg} {s : State} (h : countsOk (planWith slot c s) = false) :
    issueConfig slot c s = .error (.cause 0x0CA 0) := by
  rw [issueConfig, keep_drop?]
  exact congrArg (fun b => need b (.cause 0x0CA 0) >>= _) h

/-- The state with a plan put. -/
def putPlan (plan : List (Nat × UnitCfg)) (s : State) : State :=
  putFibre { s.tile.fibre with plan := plan } s.tile.seq.fgoSeq s

theorem issueConfig_fair {slot : Nat} {c : UnitCfg} {s : State} (h : countsOk (planWith slot c s) = true) :
    issueConfig slot c s = issue .fibre (.config slot c) none s >>= fun t => .ok (putPlan (planWith slot c s) t) := by
  rw [issueConfig, keep_drop?]
  show (need (countsOk (planWith slot c s)) _ >>= _) = _
  rw [h, need_true, ok_bind]
  rfl

theorem configures_of_exec {i : Instr} {s u : State} {slot : Nat} {c : UnitCfg} (hu : PagesOnly s u)
    (hexec : exec i s = finishIssue .fibre s (issueConfig slot c u)) : Configures i s u slot c := by
  have hplan : planWith slot c u = planWith slot c s := by rw [planWith, hu.tile, planWith]
  have hroom : ReplyRoom s none := fun _ h => nomatch h
  have hroomU : ReplyRoom u none := fun _ h => nomatch h
  refine ⟨fun hunfair => ?_, fun hfair => ⟨fun hfull => absurd hroom hfull, fun _ hfull => ?_, fun _ hfree => ?_⟩⟩
  · rw [Traps, hexec, issueConfig_unfair (hplan ▸ Bool.eq_false_iff.2 (mt (countsOk_iff _).1 hunfair)), finishIssue_cause]
    rfl
  · have hissue := issue_full (body := .config slot c) (s := u) (e := .fibre) hroomU (hu.tile ▸ hfull)
    rw [Blocks, hexec, issueConfig_fair (hplan ▸ (countsOk_iff _).2 hfair), hissue]
    rfl
  · have hissue := issue_ok (body := .config slot c) (s := u) (e := .fibre) hroomU (hu.tile ▸ hfree)
    have hfibre : (issuedTo .fibre (.config slot c) none u).tile.fibre = s.tile.fibre := by
      rw [issuedTo_eq, ← hu.tile]
      exact fibre_queuedTile ..
    have hseq : (issuedTo .fibre (.config slot c) none u).tile.seq = s.tile.seq := by
      rw [issuedTo_eq, ← hu.tile]
      exact seq_queuedTile ..
    have hnext : exec i s = .next (afterFibre { s.tile.fibre with plan := planWith slot c s } s.tile.seq.fgoSeq
        (.config slot c) none 0 0 u) := by
      rw [hexec, issueConfig_fair (hplan ▸ (countsOk_iff _).2 hfair), hissue, ok_bind, putPlan, hfibre, hseq, hplan,
        ← retired_putFibre, setS_zero]
      rfl
    obtain ⟨hfibre', hacc, hcounts, hcoll, hfgo⟩ :=
      counted_afterFibre { s.tile.fibre with plan := planWith slot c s } s.tile.seq.fgoSeq (.config slot c) none 0 0 u
    obtain ⟨hqueued, hreserved, htook, hgetS, hsubst, honly, hbytes⟩ :=
      left_afterFibre { s.tile.fibre with plan := planWith slot c s } s.tile.seq.fgoSeq (.config slot c) none 0 0 u
    generalize afterFibre _ _ _ _ _ _ u = t at *
    obtain ⟨m, l, rfl⟩ := hu
    exact ⟨t, hnext, hqueued, hreserved, htook, hgetS, hsubst, honly, hbytes, hfibre', hacc, hcounts, hcoll, hfgo⟩

/-! ### Units without a descriptor, and adapters (R133, R275, R277 to R286) -/

/-- A configuration command without a descriptor checks its unit and is then issued. -/
theorem exec_graphUnit {s : State} {i : Instr} {u : UnitRef} {c : UnitCfg} (h : graphUnit s i = some (u, c)) :
    ∃ check, ChecksUnit check c.fn u ∧
      exec i s = finishIssue .fibre s (notBusy s >>= fun _ => check >>= fun _ => issueConfig (slotOf u) c s) := by
  unfold graphUnit at h
  split at h
  case h_1 => cases h; exact ⟨_, checksUnit_checkUnit 1 rfl, rfl⟩
  case h_2 => cases h; exact ⟨_, checksUnit_checkUnit 2 rfl, rfl⟩
  case h_3 => cases h; exact ⟨_, checksUnit_checkUnit 3 rfl, rfl⟩
  case h_4 => cases h; exact ⟨_, checksUnit_checkUnit 4 rfl, rfl⟩
  case h_5 d a b op t two sat rnd imm =>
    cases h
    refine ⟨_, checksUnit_checkUnit 6 rfl, ?_⟩
    cases two <;> rfl
  case h_6 => cases h; exact ⟨_, checksUnit_checkUnit 8 rfl, rfl⟩
  case h_7 => cases h; exact ⟨_, checksUnit_checkRouter rfl, rfl⟩
  case h_8 => cases h; exact ⟨_, checksUnit_checkRouter rfl, rfl⟩
  case h_9 => cases h; exact ⟨_, checksUnit_checkRouter rfl, rfl⟩
  case h_10 => cases h

section
variable (s : State) (p : Fin 8) (f : FReg)

theorem exec_fsrc (level : Fin 8) : exec (.fsrc p f level) s = finishIssue .fibre s (notBusy s >>= fun _ =>
    need s.tile.ports[p].binding.isSome (.cause 0x100 0) >>= fun _ =>
      issueConfig (42 + p) ⟨.src p level, [f.val], []⟩ s) := rfl

theorem exec_fsinkPort : exec (.fsinkPort p f) s = finishIssue .fibre s (notBusy s >>= fun _ =>
    need s.tile.ports[p].binding.isSome (.cause 0x100 0) >>= fun _ =>
      issueConfig (50 + p) ⟨.sinkPort p, [], [f.val]⟩ s) := rfl

theorem exec_fsinkQ (q : QReg) (count : Bool) : exec (.fsinkQ p f q count) s =
    finishIssue .fibre s (notBusy s >>= fun _ => issueConfig (50 + p) ⟨.sinkQ p q count, [], [f.val]⟩ s) := rfl

theorem exec_fsinkL (mode : SinkMode) (addr : Fin 32768) : exec (.fsinkL p f mode addr) s = finishIssue .fibre s
    (notBusy s >>= fun _ => issueConfig (50 + p) ⟨.sinkL p mode (64 * addr.val), [], [f.val]⟩ s) := rfl

end

theorem unitConfiguration : UnitConfiguration := by
  intro s i u c p f level q count mode addr
  refine ⟨fun h => ?_, ⟨busy_of_exec (exec_fsrc s p f level), busy_of_exec (exec_fsinkPort s p f),
    busy_of_exec (exec_fsinkQ s p f q count), busy_of_exec (exec_fsinkL s p f mode addr)⟩, fun hidle => ⟨fun hbound => ?_,
    fun hbound => ?_, ?_, ?_⟩⟩
  · obtain ⟨check, ⟨hallowed, hrefused⟩, hexec⟩ := exec_graphUnit h
    refine ⟨busy_of_exec hexec, fun hidle => ⟨fun hno => ?_, fun hok => ?_⟩⟩
    · rw [Traps, hexec, notBusy_of_none hidle, ok_bind, hrefused hno, error_bind, finishIssue_cause]
      rfl
    · rw [notBusy_of_none hidle, ok_bind, hallowed hok, ok_bind, slotOf_eq_unitNumber] at hexec
      exact configures_of_exec (.refl s) hexec
  · refine ⟨?_, ?_⟩
    · rw [Traps, exec_fsrc, notBusy_of_none hidle, ok_bind, hbound]
      rfl
    · rw [Traps, exec_fsinkPort, notBusy_of_none hidle, ok_bind, hbound]
      rfl
  · refine ⟨configures_of_exec (.refl s) ?_, configures_of_exec (.refl s) ?_⟩
    · rw [exec_fsrc, notBusy_of_none hidle, ok_bind, hbound, need_true, ok_bind]
    · rw [exec_fsinkPort, notBusy_of_none hidle, ok_bind, hbound, need_true, ok_bind]
  · refine configures_of_exec (.refl s) ?_
    rw [exec_fsinkQ, notBusy_of_none hidle, ok_bind]
  · refine configures_of_exec (.refl s) ?_
    rw [exec_fsinkL, notBusy_of_none hidle, ok_bind]

/-! ### Units with descriptors (R276, R280, R282) -/

theorem pagesOnly_useDescs (tdi n : Nat) (s : State) : PagesOnly s (useDescs tdi n s) :=
  pagesOnly_foldl (fun s k => pagesOnly_useDesc (tdi + k) s) _ s

theorem scanDesc_of_scanArray {s : State} {tdi k : Nat} {fmt : Option Nat} {x : Desc} (h : ScanArray s tdi k fmt x) :
    scanDesc s tdi k fmt = .ok x := by
  obtain ⟨hindex, htable, hdesc, hright, hdim, hfmt⟩ := h
  have hnext : nextDesc s tdi k = .ok x := by
    have hsame : (decide (tdi ≤ 0xFFBF) && decide (0xFFBF < tdi + k)) = false := by simpa using htable
    rw [nextDesc, decide_eq_true hindex, hsame, Bool.not_false, Bool.and_self, need_true, ok_bind, hdesc]
  have hread : (x.ndim == 1 && (fmt.isNone || fmt == some x.fmt)) = true := by
    cases fmt with
    | none => simp [hdim]
    | some f => simp [hdim, hfmt f rfl]
  have hscan : needRights x (tdi + k) rightScan = .ok () := needRights_ok hright
  rw [scanDesc, hnext, ok_bind, hscan, ok_bind, hread, need_true, ok_bind]

/-- The next descriptor of a table lies in the other table. -/
theorem scanDesc_split {s : State} {tdi k : Nat} (fmt : Option Nat) (h : tdi ≤ 0xFFBF ∧ 0xFFBF < tdi + k) :
    scanDesc s tdi k fmt = .error (.cause 0x050 (tdi + k)) := by
  rw [scanDesc, nextDesc, decide_eq_true h.1, decide_eq_true h.2, Bool.and_self, Bool.not_true, Bool.and_false, need_false]
  rfl

/-- What a scan takes of its descriptors: its elements, and the descriptors it reads (R276). -/
def scanSources (s : State) (k : Nat) (fmt : ScanFmt) (root : Bool) : Except Stop (Nat × Option Desc × Option Desc) :=
  match fmt with
  | .dense => do
    let x ← scanDesc s k 0 none
    .ok (dimOf x 0, none, none)
  | .comp => do
    let x ← scanDesc s k 0 (some 6)
    let y ← scanDesc s k 1 (some 6)
    .ok (0, some x, some y)
  | .bitmap => do
    let x ← scanDesc s k 0 none
    let y ← scanDesc s k 1 (some 7)
    if root then .ok (dimOf x 0, some y, none)
    else do
      let z ← scanDesc s k 2 (some 6)
      .ok (dimOf x 0, some y, some z)
  | .clist => do
    let x ← scanDesc s k 0 (some 6)
    .ok (dimOf x 0, some x, none)

theorem exec_fscan (u : UnitRef) (d a : FReg) (fmt : ScanFmt) (root uniq : Bool) (tdi : BitVec 16) (s : State) :
    exec (.fscan u d a fmt root uniq tdi) s = finishIssue .fibre s (notBusy s >>= fun _ => checkUnit u 0 >>= fun _ =>
      scanSources s tdi.toNat fmt root >>= fun y =>
        issueConfig (slotOf u) ⟨.scan fmt root uniq y.1 y.2.1 y.2.2 s.tile.seq.round, [d.val], if root then [] else [a.val]⟩
          (useDescs tdi.toNat (scanArrays fmt root) s)) := by
  show execFscan u d a fmt root uniq tdi s = _
  cases fmt with
  | dense => simp only [execFscan, scanSources, bind_assoc, ok_bind]; rfl
  | comp => simp only [execFscan, scanSources, bind_assoc, ok_bind]; rfl
  | bitmap =>
    cases root with
    | true => simp only [execFscan, scanSources, bind_assoc, ok_bind, if_true]; rfl
    | false => simp only [execFscan, scanSources, bind_assoc, ok_bind, Bool.false_eq_true, if_false]; rfl
  | clist => simp only [execFscan, scanSources, bind_assoc, ok_bind]; rfl

/-! ### What a scan takes of its descriptors, format by format -/

section
variable {s : State} {k : Nat} {x y z : Desc} {root : Bool}

theorem scanSources_dense (hx : ScanArray s k 0 none x) : scanSources s k .dense root = .ok (dimOf x 0, none, none) := by
  rw [scanSources, scanDesc_of_scanArray hx, ok_bind]

theorem scanSources_clist (hx : ScanArray s k 0 (some 6) x) :
    scanSources s k .clist root = .ok (dimOf x 0, some x, none) := by
  rw [scanSources, scanDesc_of_scanArray hx, ok_bind]

theorem scanSources_comp (hx : ScanArray s k 0 (some 6) x) (hy : ScanArray s k 1 (some 6) y) :
    scanSources s k .comp root = .ok (0, some x, some y) := by
  rw [scanSources, scanDesc_of_scanArray hx, ok_bind, scanDesc_of_scanArray hy, ok_bind]

theorem scanSources_comp_split (hx : ScanArray s k 0 (some 6) x) (h : k ≤ 0xFFBF ∧ 0xFFBF < k + 1) :
    scanSources s k .comp root = .error (.cause 0x050 (k + 1)) := by
  rw [scanSources, scanDesc_of_scanArray hx, ok_bind, scanDesc_split (some 6) h, error_bind]

theorem scanSources_bitmap_root (hx : ScanArray s k 0 none x) (hy : ScanArray s k 1 (some 7) y) :
    scanSources s k .bitmap true = .ok (dimOf x 0, some y, none) := by
  rw [scanSources, scanDesc_of_scanArray hx, ok_bind, scanDesc_of_scanArray hy, ok_bind, if_pos rfl]

theorem scanSources_bitmap (hx : ScanArray s k 0 none x) (hy : ScanArray s k 1 (some 7) y)
    (hz : ScanArray s k 2 (some 6) z) : scanSources s k .bitmap false = .ok (dimOf x 0, some y, some z) := by
  rw [scanSources, scanDesc_of_scanArray hx, ok_bind, scanDesc_of_scanArray hy, ok_bind, if_neg Bool.false_ne_true,
    scanDesc_of_scanArray hz, ok_bind]

end

section
variable {s : State} {u : UnitRef} (d a : FReg) (fmt : ScanFmt) (root uniq : Bool) (tdi : BitVec 16)
  (hidle : oldestGo s.tile (me s) = none)

theorem checksUnit_scan (fmt : ScanFmt) (root uniq : Bool) (n : Nat) (x y : Option Desc) (rm : BitVec 2) (u : UnitRef) :
    ChecksUnit (checkUnit u 0) (.scan fmt root uniq n x y rm) u := checksUnit_checkUnit 0 rfl

include hidle

/-- A scan whose unit is none (R133). -/
theorem fscan_refused {rm : BitVec 2} (h : ¬ UnitAllowed (.scan fmt root uniq 0 none none rm) u) :
    Traps (.fscan u d a fmt root uniq tdi) s 0x0CA 0 0 := by
  rw [Traps, exec_fscan, notBusy_of_none hidle, ok_bind, (checksUnit_scan ..).2 h, error_bind, finishIssue_cause]
  rfl

variable {d a fmt root uniq tdi} {rm : BitVec 2} (hunit : UnitAllowed (.scan fmt root uniq 0 none none rm) u)
include hunit

/-- A scan whose arrays are as they must be. -/
theorem fscan_configures {y : Nat × Option Desc × Option Desc} (h : scanSources s tdi.toNat fmt root = .ok y) :
    Configures (.fscan u d a fmt root uniq tdi) s (useDescs tdi.toNat (scanArrays fmt root) s) (unitNumber u)
      ⟨.scan fmt root uniq y.1 y.2.1 y.2.2 s.tile.seq.round, [d.val], if root then [] else [a.val]⟩ := by
  refine configures_of_exec (pagesOnly_useDescs ..) ?_
  rw [exec_fscan, notBusy_of_none hidle, ok_bind, (checksUnit_scan ..).1 hunit, ok_bind, h, ok_bind, slotOf_eq_unitNumber]

theorem fscan_traps {cause info : Nat} (h : scanSources s tdi.toNat fmt root = .error (.cause cause info)) :
    Traps (.fscan u d a fmt root uniq tdi) s cause (BitVec.ofNat 64 info) 0 := by
  rw [Traps, exec_fscan, notBusy_of_none hidle, ok_bind, (checksUnit_scan ..).1 hunit, ok_bind, h, error_bind,
    finishIssue_cause]

end

/-! ### FVAL (R280) -/

theorem valueFmt_iff (c : Nat) : valueFmt c = true ↔ c ∈ [0, 1, 2, 4, 5, 6, 8, 9, 10, 11, 12, 13] := by
  rw [valueFmt]
  cases hf : Fmt.ofCode c with
  | none =>
    refine ⟨fun h => (nomatch h), fun h => ?_⟩
    simp only [List.mem_cons, List.not_mem_nil, or_false] at h
    rcases h with rfl | rfl | rfl | rfl | rfl | rfl | rfl | rfl | rfl | rfl | rfl | rfl <;> exact nomatch hf
  | some t =>
    obtain rfl := ofCode_eq_some hf
    cases t <;> simp [Fmt.code]

/-- What a unit that reads or writes one array checks of its descriptor before it is configured. -/
def checkArray (x : Desc) (k rights : Nat) (right : Bool) (s : State) : Except Stop Unit :=
  needRights x k rights >>= fun _ => need right (.cause 0x053 k) >>= fun _ => checkRegion s x

section
variable {x : Desc} {k rights : Nat} {right : Bool} {s : State}

theorem checkArray_rights (h : Nat.land x.rights rights ≠ rights) :
    checkArray x k rights right s = .error (.cause 0x052 k) := by
  rw [checkArray, needRights_refused h, error_bind]

theorem checkArray_wrong (h : Nat.land x.rights rights = rights) (hright : right = false) :
    checkArray x k rights right s = .error (.cause 0x053 k) := by
  rw [checkArray, needRights_ok h, ok_bind, hright, need_false, error_bind]

theorem checkArray_right (h : Nat.land x.rights rights = rights) (hright : right = true) (hregion : checkRegion s x = .ok ()) :
    checkArray x k rights right s = .ok () := by
  rw [checkArray, needRights_ok h, ok_bind, hright, need_true, ok_bind, hregion]

/-- A command that checks one array and then configures a unit. -/
theorem arrayUnit_of_exec {i : Instr} {slot : Nat} {c : UnitCfg}
    (hexec : exec i s = finishIssue .fibre s (checkArray x k rights right s >>= fun _ =>
      issueConfig slot c (useDesc k s))) :
    (Nat.land x.rights rights ≠ rights → Traps i s 0x052 (BitVec.ofNat 64 k) 0) ∧
    (Nat.land x.rights rights = rights → right = false → Traps i s 0x053 (BitVec.ofNat 64 k) 0) ∧
    (Nat.land x.rights rights = rights → right = true → checkRegion s x = .ok () → Configures i s (useDesc k s) slot c) := by
  refine ⟨fun h => ?_, fun h hright => ?_, fun h hright hregion => configures_of_exec (pagesOnly_useDesc k s) ?_⟩
  · rw [Traps, hexec, checkArray_rights h, error_bind, finishIssue_cause]
  · rw [Traps, hexec, checkArray_wrong h hright, error_bind, finishIssue_cause]
  · rw [hexec, checkArray_right h hright hregion, ok_bind]

end

section
variable (s : State) (u : UnitRef) (d a : FReg) (mode : WrMode) (t : FTy) (tdi : BitVec 16)

theorem exec_fval : exec (.fval u d a tdi) s = finishIssue .fibre s (notBusy s >>= fun _ => checkUnit u 5 >>= fun _ =>
    getDesc s tdi.toNat >>= fun x => checkArray x tdi.toNat 9 (x.ndim == 1 && valueFmt x.fmt) s >>= fun _ =>
      issueConfig (slotOf u) ⟨.value x s.tile.seq.round, [d.val], [a.val]⟩ (useDesc tdi.toNat s)) := by
  show execFval u d a tdi s = _
  simp only [execFval, checkArray, bind_assoc]
  rfl

theorem exec_fwrite : exec (.fwrite u a mode t tdi) s = finishIssue .fibre s (notBusy s >>= fun _ =>
    checkUnit u 7 >>= fun _ => getDesc s tdi.toNat >>= fun x =>
      checkArray x tdi.toNat (rightWrite + if mode = .add then rightAtomic else 0)
        (x.ndim == 1 && (mode != .add || x.fmt == (FTy.fmt t).code)) s >>= fun _ =>
      issueConfig (slotOf u) ⟨.write mode t x s.tile.seq.round, [], [a.val]⟩ (useDesc tdi.toNat s)) := by
  show execFwrite u a mode t tdi s = _
  simp only [execFwrite, checkArray, bind_assoc]
  rfl

end

theorem arrayConfiguration : ArrayConfiguration := by
  intro s u d a fmt root uniq tdi mode t
  refine ⟨⟨busy_of_exec (exec_fscan ..), busy_of_exec (exec_fval ..), busy_of_exec (exec_fwrite ..)⟩,
    fun hidle => ⟨?_, ?_, ?_, ?_⟩⟩
  · exact fscan_refused d a fmt root uniq tdi hidle
  · intro hunit
    refine ⟨?_, ?_, ?_, ?_⟩
    · rintro x rfl hx
      exact fscan_configures hidle hunit (scanSources_dense hx)
    · rintro x rfl hx
      exact fscan_configures hidle hunit (scanSources_clist hx)
    · rintro x rfl hx
      exact ⟨fun hsplit => fscan_traps hidle hunit (scanSources_comp_split hx hsplit),
        fun y hy => fscan_configures hidle hunit (scanSources_comp hx hy)⟩
    · rintro x y rfl hx hy
      refine ⟨?_, ?_⟩
      · rintro rfl
        exact fscan_configures hidle hunit (scanSources_bitmap_root hx hy)
      · rintro z rfl hz
        exact fscan_configures hidle hunit (scanSources_bitmap hx hy hz)
  · intro x hunit hx
    have hexec := exec_fval s u d a tdi
    rw [notBusy_of_none hidle, ok_bind, (checksUnit_checkUnit 5 rfl).1 hunit, ok_bind, hx, ok_bind,
      slotOf_eq_unitNumber] at hexec
    obtain ⟨hrights, hwrong, hright⟩ := arrayUnit_of_exec hexec
    refine ⟨hrights, fun h hno => hwrong h ?_, fun h hdim hfmt => hright h ?_⟩
    · rw [Bool.eq_false_iff, ne_eq, Bool.and_eq_true, beq_iff_eq, valueFmt_iff]
      exact hno
    · rw [Bool.and_eq_true, beq_iff_eq, valueFmt_iff]
      exact ⟨hdim, hfmt⟩
  · intro x hunit hx need same
    have hneed : rightWrite + (if mode = .add then rightAtomic else 0) = need := by
      show _ = if mode = .add then 18 else 2
      split <;> rfl
    have hsame : same ↔ x.fmt = (FTy.fmt t).code := by cases t <;> exact Iff.rfl
    have hcheck : (x.ndim == 1 && (mode != .add || x.fmt == (FTy.fmt t).code)) = true ↔
        x.ndim = 1 ∧ (mode = .add → same) := by
      simp only [hsame, Bool.and_eq_true, Bool.or_eq_true, beq_iff_eq, bne_iff_ne, ← imp_iff_not_or, ne_eq]
    have hexec := exec_fwrite s u a mode t tdi
    rw [notBusy_of_none hidle, ok_bind, (checksUnit_checkUnit 7 rfl).1 hunit, ok_bind, hx, ok_bind, hneed,
      slotOf_eq_unitNumber] at hexec
    obtain ⟨hrights, hwrong, hright⟩ := arrayUnit_of_exec hexec
    exact ⟨hrights, fun h hno => hwrong h (Bool.eq_false_iff.2 (mt hcheck.1 hno)),
      fun h hdim hadd => hright h (hcheck.2 ⟨hdim, hadd⟩)⟩

theorem fibreConfiguration : FibreConfiguration := ⟨unitConfiguration, arrayConfiguration⟩

end Sys2Proof.Machine
end

section
/-!
PROOFS. FGO and FKILL at their issue (R257, R268, R287 to R289).
-/

namespace Sys2Proof.Machine

open Sys2Proof Sys2Proof.Claims

set_option Elab.async false

/-! ### The checks of FGO (R257, R268) -/

theorem pickHit_mem {α : Type} {l : List α} (h : l ≠ []) (s : State) (site : Nat) : ∃ x ∈ l, pickHit s site l = some x := by
  have hlen : freeAt s site % max 1 l.length < l.length := by
    have hpos := List.length_pos_of_ne_nil h
    exact (Nat.mod_lt _ (by omega)).trans_eq (by omega)
  exact ⟨_, List.getElem_mem hlen, List.getElem?_eq_getElem hlen⟩

theorem exec_fgo (d : SReg) (q : QReg) (s : State) : exec (.fgo d q) s = finishIssue .fibre s
    (checkGraph s s.tile.fibre.plan >>= fun _ => reserveSinks (sinkQueues s.tile.fibre.plan) s >>= fun t =>
      issue .fibre (.go (s.tile.seq.fgoSeq + 1) s.tile.fibre.plan) (some q) t >>= fun t =>
        .ok (setS d (word (s.tile.seq.fgoSeq + 1))
          (onFocus (Tile.onSeq fun r => { r with fgoSeq := s.tile.seq.fgoSeq + 1 }) t))) := rfl

/-- A graph that fails is refused, and one of its failures named. -/
theorem checkGraph_refused {s : State} {cfg : List (Nat × UnitCfg)} (h : graphFailures cfg ≠ []) :
    ∃ slot ep, (slot, ep) ∈ graphFailures cfg ∧ match ep with
      | some f => checkGraph s cfg = .error (.trap ⟨0x0CA, word (unitNo slot), word f, []⟩)
      | none => ∃ w, checkGraph s cfg = .error (.trap ⟨0x0CA, w, BitVec.allOnes 64, []⟩) := by
  obtain ⟨⟨slot, ep⟩, hmem, hpick⟩ := pickHit_mem h s (2 ^ 67)
  refine ⟨slot, ep, hmem, ?_⟩
  cases ep with
  | some f => simp only [checkGraph, hpick]
  | none => exact ⟨_, by simp only [checkGraph, hpick]; rfl⟩

theorem checkGraph_passed {s : State} {cfg : List (Nat × UnitCfg)} (h : graphFailures cfg = []) : checkGraph s cfg = .ok () := by
  simp [checkGraph, h, pickHit]

theorem fgo_refused {s : State} (d : SReg) (q : QReg) (h : graphFailures s.tile.fibre.plan ≠ []) :
    ∃ f ∈ graphFailures s.tile.fibre.plan, match f.2 with
      | some ep => Traps (.fgo d q) s 0x0CA (BitVec.ofNat 64 (unitNo f.1)) (BitVec.ofNat 64 ep)
      | none => ∃ w, Traps (.fgo d q) s 0x0CA w 0xFFFFFFFFFFFFFFFF := by
  obtain ⟨slot, ep, hmem, hcheck⟩ := checkGraph_refused (s := s) h
  refine ⟨_, hmem, ?_⟩
  cases ep with
  | some f =>
    show Traps _ _ _ _ _
    rw [Traps, exec_fgo, show checkGraph s s.tile.fibre.plan = _ from hcheck]
    rfl
  | none =>
    obtain ⟨w, hcheck⟩ := hcheck
    refine ⟨w, ?_⟩
    rw [Traps, exec_fgo, hcheck]
    rfl

/-! ### A graph that passes (R257) -/

theorem sum_count_eq_zero {cfg : List (Nat × UnitCfg)} {g : Nat × UnitCfg → List Nat} {f : Nat} :
    (cfg.map fun u => (g u).count f).sum = 0 ↔ ¬ ∃ u ∈ cfg, f ∈ g u := by
  simp only [List.sum_eq_zero_iff, List.forall_mem_map, List.count_eq_zero, not_exists, not_and]

theorem producers_eq_nil {cfg : List (Nat × UnitCfg)} {f : Nat} : producers cfg f = [] ↔ ¬ ∃ u ∈ cfg, f ∈ u.2.outs := by
  rw [← List.length_eq_zero_iff, length_producers, sum_count_eq_zero]

theorem consumers_eq_nil {cfg : List (Nat × UnitCfg)} {f : Nat} : consumers cfg f = [] ↔ ¬ ∃ u ∈ cfg, f ∈ u.2.ins := by
  rw [← List.length_eq_zero_iff, length_consumers, sum_count_eq_zero]

theorem graphFailures_eq_nil {cfg : List (Nat × UnitCfg)} (h : graphFailures cfg = []) :
    loneEnds cfg = [] ∧ ∃ u ∈ cfg, isSink u.2.fn = true := by
  obtain ⟨hbad, hsink⟩ := List.append_eq_nil_iff.1 h
  refine ⟨?_, ?_⟩
  · split at hbad
    · rename_i hempty
      have hall := List.isEmpty_iff.1 hempty
      exact (List.append_eq_nil_iff.1 (List.append_eq_nil_iff.1 hall).1).1
    · exact (List.append_eq_nil_iff.1 (List.append_eq_nil_iff.1 hbad).1).1
  · split at hsink
    · rename_i hany
      exact List.any_eq_true.1 hany
    · cases hsink

theorem produced_iff_consumed {cfg : List (Nat × UnitCfg)} (h : loneEnds cfg = []) {f : Nat} (hf : f < 32) :
    (∃ u ∈ cfg, f ∈ u.2.outs) ↔ ∃ u ∈ cfg, f ∈ u.2.ins := by
  have hlone := List.flatMap_eq_nil_iff.1 h f (List.mem_range.2 hf)
  rw [← not_iff_not, ← producers_eq_nil, ← consumers_eq_nil]
  simp only [List.isEmpty_iff] at hlone
  split at hlone
  · rename_i hp
    exact iff_of_true hp (List.map_eq_nil_iff.1 hlone)
  · rename_i hp
    split at hlone
    · exact absurd (List.map_eq_nil_iff.1 hlone) hp
    · rename_i hc
      exact iff_of_false hp hc

/-! ### Reply queues alone -/

/-- Nothing changed but the reply queues of the tile in focus. -/
def RepliesOnly (s t : State) : Prop := ∃ replies, t = onFocus (fun x => { x with replies := replies }) s

theorem RepliesOnly.refl (s : State) : RepliesOnly s s := ⟨_, rfl⟩

theorem RepliesOnly.trans {s t u : State} (h : RepliesOnly s t) (h' : RepliesOnly t u) : RepliesOnly s u := by
  obtain ⟨_, rfl⟩ := h
  obtain ⟨r, rfl⟩ := h'
  exact ⟨r, rfl⟩

theorem RepliesOnly.tileNo {s t : State} (h : RepliesOnly s t) : t.tileNo = s.tileNo := by
  obtain ⟨_, rfl⟩ := h
  rfl

theorem RepliesOnly.owner {s t : State} (h : RepliesOnly s t) : t.tile.owner = s.tile.owner := by
  obtain ⟨_, rfl⟩ := h
  rfl

theorem me_eq (s : State) : me s = s.tile.owner.getD StrandKey.none := by rw [me, keyOn, tileAt_focus]

theorem RepliesOnly.me {s t : State} (h : RepliesOnly s t) : Machine.me t = Machine.me s := by
  rw [me_eq, me_eq, h.owner]

theorem RepliesOnly.placeMem {s t : State} (h : RepliesOnly s t) (p : Place) : Machine.placeMem t p = Machine.placeMem s p := by
  obtain ⟨replies, rfl⟩ := h
  exact placeMem_onFocus (f := fun x => { x with replies := replies }) (fun _ => rfl) s p

/-- What was queued after a change of the reply queues was queued. -/
theorem RepliesOnly.queued {s u t : State} (h : RepliesOnly s u) {e : Eng} {body : Cmd} {reply : Option QReg}
    (hq : Queued u t e body reply) : Queued s t e body reply := by
  have hme := h.me
  obtain ⟨replies, rfl⟩ := h
  rw [Queued, hme] at hq
  cases e <;> exact hq

theorem repliesOnly_foldl {α : Type} {n : Nat} {f : State → α → State}
    (hf : ∀ s a, s.tileNo = n → RepliesOnly s (f s a)) (l : List α) {s : State} (hs : s.tileNo = n) :
    RepliesOnly s (l.foldl f s) := by
  induction l generalizing s with
  | nil => exact .refl s
  | cons a l ih =>
    have ha := hf s a hs
    exact ha.trans (ih (ha.tileNo.trans hs))

theorem repliesOnly_reserved (reply : Option QReg) (s : State) : RepliesOnly s (reserved reply s) := by
  cases reply with
  | none => exact .refl s
  | some q => exact ⟨_, rfl⟩

/-! ### The reservations of FGO (R287) -/

/-- A reservation in each of the reply queues `qs`. -/
def reserveAll (qs : List QReg) (s : State) : State := qs.foldl (fun s q => reserved (some q) s) s

theorem repliesOnly_reserveAll (qs : List QReg) (s : State) : RepliesOnly s (reserveAll qs s) :=
  repliesOnly_foldl (fun s q _ => repliesOnly_reserved (some q) s) qs rfl

/-- The reply queues `qs`, counted as often as they are named, have room for so many entries more (R18). -/
def Fits (s : State) (qs : List QReg) : Prop :=
  ∀ r : QReg, qs.count r = 0 ∨ s.tile.replies[r].entries.length + s.tile.replies[r].reserved + qs.count r ≤ 16

theorem fits_nil (s : State) : Fits s [] := fun _ => .inl rfl

theorem count_cons_qreg (q r : QReg) (qs : List QReg) : (q :: qs).count r = qs.count r + if q = r then 1 else 0 := by
  simp only [List.count_cons, beq_iff_eq]

theorem fits_cons {s : State} {q : QReg} {qs : List QReg} :
    Fits s (q :: qs) ↔ ReplyRoom s (some q) ∧ Fits (reserved (some q) s) qs := by
  have hafter := fun r => replies_reserved (some q) s r
  refine ⟨fun h => ⟨?_, fun r => ?_⟩, fun ⟨hroom, h⟩ r => ?_⟩
  · rintro p hp
    obtain rfl := Option.some.inj hp
    have hq := h q
    rw [count_cons_qreg, if_pos rfl] at hq
    omega
  · obtain ⟨hentries, hreserved⟩ := hafter r
    have hr := h r
    rw [count_cons_qreg] at hr
    simp only [hentries, hreserved, Option.some.injEq]
    omega
  · obtain ⟨hentries, hreserved⟩ := hafter r
    have hr := h r
    have hq := hroom q rfl
    rw [count_cons_qreg]
    simp only [hentries, hreserved, Option.some.injEq] at hr
    by_cases hqr : q = r
    · subst hqr
      rw [if_pos rfl] at hr ⊢
      omega
    · rw [if_neg hqr] at hr ⊢
      omega

theorem fits_append {s : State} {qs : List QReg} {q : QReg} :
    Fits s (qs ++ [q]) ↔ Fits s qs ∧ ReplyRoom (reserveAll qs s) (some q) := by
  induction qs generalizing s with
  | nil =>
    have h := fits_cons (s := s) (q := q) (qs := [])
    exact h.trans (and_comm.trans (and_congr_left fun _ => iff_of_true (fits_nil _) (fits_nil _)))
  | cons p qs ih =>
    rw [List.cons_append, fits_cons, ih, fits_cons, and_assoc]
    exact Iff.rfl

theorem reserveSinks_fits {qs : List QReg} {s : State} (h : Fits s qs) : reserveSinks qs s = .ok (reserveAll qs s) := by
  induction qs generalizing s with
  | nil => rfl
  | cons q qs ih =>
    obtain ⟨hroom, hrest⟩ := fits_cons.1 h
    rw [reserveSinks, reserveReply_room hroom, ok_bind, ih hrest]
    rfl

theorem reserveSinks_full {qs : List QReg} {s : State} (h : ¬ Fits s qs) :
    reserveSinks qs s = .error (.cause 0x0C4 0) := by
  induction qs generalizing s with
  | nil => exact absurd (fits_nil s) h
  | cons q qs ih =>
    rw [reserveSinks]
    by_cases hroom : ReplyRoom s (some q)
    · rw [reserveReply_room hroom, ok_bind, ih fun hrest => h (fits_cons.2 ⟨hroom, hrest⟩)]
    · rw [reserveReply_full hroom, error_bind]

theorem reserved_reserveAll (qs : List QReg) (s : State) : Reserved s (reserveAll qs s) fun r => qs.count r := by
  induction qs generalizing s with
  | nil => exact fun r => ⟨rfl, rfl⟩
  | cons q qs ih =>
    intro r
    obtain ⟨hentries, hreserved⟩ := replies_reserved (some q) s r
    obtain ⟨hentries', hreserved'⟩ := ih (reserved (some q) s) r
    refine ⟨hentries'.trans hentries, hreserved'.trans ?_⟩
    simp only [hreserved, count_cons_qreg, Option.some.injEq]
    omega

theorem sinksTo_eq_count (cfg : List (Nat × UnitCfg)) (q : QReg) : sinksTo cfg q = (sinkQueues cfg).count q := by
  rw [sinksTo, sinkQueues, List.count, List.countP_filterMap]
  refine List.countP_congr fun u _ => ?_
  cases u.2.fn <;> simp

theorem sinksTo_add_eq_count (cfg : List (Nat × UnitCfg)) (q r : QReg) :
    (sinksTo cfg r + if r = q then 1 else 0) = (sinkQueues cfg ++ [q]).count r := by
  rw [List.count_append, sinksTo_eq_count, count_cons_qreg, List.count_nil, zero_add]
  simp only [eq_comm]

/-! ### What FGO does (R257, R287) -/

/-- The reservations of the issue of an FGO: an entry for each queue-mode sink, and one for its completion. -/
def goQueues (cfg : List (Nat × UnitCfg)) (q : QReg) : List QReg := sinkQueues cfg ++ [q]

/-- The count of the FGO is all that it puts besides. -/
theorem fgoSeq_eq_putFibre {fib : Fibre} {t : State} (h : t.tile.fibre = fib) (n : Nat) :
    onFocus (Tile.onSeq fun r => { r with fgoSeq := n }) t = putFibre fib n t := by
  subst h
  rfl

section
variable {s : State} (d : SReg) {q : QReg} (hpass : graphFailures s.tile.fibre.plan = [])
include hpass

theorem fgo_overflows (h : ¬ Fits s (goQueues s.tile.fibre.plan q)) : Traps (.fgo d q) s 0x0C4 0 0 := by
  rw [Traps, exec_fgo, checkGraph_passed hpass, ok_bind]
  by_cases hsinks : Fits s (sinkQueues s.tile.fibre.plan)
  · rw [reserveSinks_fits hsinks, ok_bind, issue_noReply fun hroom => h (fits_append.2 ⟨hsinks, hroom⟩)]
    rfl
  · rw [reserveSinks_full hsinks]
    rfl

variable (h : Fits s (goQueues s.tile.fibre.plan q))
include h

theorem fgo_blocks (hfull : 32 ≤ s.tile.qFibre.length) : Blocks (.fgo d q) s (.room .fibre) := by
  obtain ⟨hsinks, hroom⟩ := fits_append.1 h
  obtain ⟨replies, hreplies⟩ := repliesOnly_reserveAll (sinkQueues s.tile.fibre.plan) s
  have hqueue : queueRoom .fibre ≤ (engQueue (reserveAll (sinkQueues s.tile.fibre.plan) s).tile .fibre).length := by
    rw [hreplies]
    exact hfull
  rw [Blocks, exec_fgo, checkGraph_passed hpass, ok_bind, reserveSinks_fits hsinks, ok_bind, issue_full hroom hqueue]
  rfl

/-- The state after an FGO. -/
theorem exec_fgo_issued (hfree : s.tile.qFibre.length < 32) : exec (.fgo d q) s =
    .next (afterFibre s.tile.fibre (s.tile.seq.fgoSeq + 1) (.go (s.tile.seq.fgoSeq + 1) s.tile.fibre.plan) (some q) d
      (word (s.tile.seq.fgoSeq + 1)) (reserveAll (sinkQueues s.tile.fibre.plan) s)) := by
  obtain ⟨hsinks, hroom⟩ := fits_append.1 h
  obtain ⟨replies, hreplies⟩ := repliesOnly_reserveAll (sinkQueues s.tile.fibre.plan) s
  have hqueue : (engQueue (reserveAll (sinkQueues s.tile.fibre.plan) s).tile .fibre).length < queueRoom .fibre := by
    rw [hreplies]
    exact hfree
  have hfibre (body : Cmd) : (issuedTo .fibre body (some q) (reserveAll (sinkQueues s.tile.fibre.plan) s)).tile.fibre =
      s.tile.fibre := by
    rw [issuedTo_eq, onFocus_tile, fibre_queuedTile, hreplies]
    rfl
  rw [exec_fgo, checkGraph_passed hpass, ok_bind, reserveSinks_fits hsinks, ok_bind, issue_ok hroom hqueue, ok_bind,
    fgoSeq_eq_putFibre (hfibre _), ← retired_putFibre]
  rfl

theorem fgo_issues (hfree : s.tile.qFibre.length < 32) : Gives (.fgo d q) s fun t =>
    Queued s t .fibre (.go (s.tile.seq.fgoSeq + 1) s.tile.fibre.plan) (some q) ∧
      Reserved s t (fun r => (goQueues s.tile.fibre.plan q).count r) ∧
      (∀ r, getS t r = if r = d ∧ d ≠ 0 then BitVec.ofNat 64 (s.tile.seq.fgoSeq + 1) else getS s r) ∧
      t.tile.seq.fgoSeq = s.tile.seq.fgoSeq + 1 ∧ t.tile.fibre = s.tile.fibre ∧ OnlyIssue s t ∧ SameBytes s t := by
  have hexec := exec_fgo_issued d hpass h hfree
  have hsinks := reserved_reserveAll (sinkQueues s.tile.fibre.plan) s
  obtain ⟨hfibre, -, -, -, hfgo⟩ := counted_afterFibre s.tile.fibre (s.tile.seq.fgoSeq + 1)
    (.go (s.tile.seq.fgoSeq + 1) s.tile.fibre.plan) (some q) d (word (s.tile.seq.fgoSeq + 1))
    (reserveAll (sinkQueues s.tile.fibre.plan) s)
  obtain ⟨hqueued, hreserved, -, hgetS, -, honly, hbytes⟩ := left_afterFibre s.tile.fibre (s.tile.seq.fgoSeq + 1)
    (.go (s.tile.seq.fgoSeq + 1) s.tile.fibre.plan) (some q) d (word (s.tile.seq.fgoSeq + 1))
    (reserveAll (sinkQueues s.tile.fibre.plan) s)
  generalize afterFibre _ _ _ _ _ _ _ = t at *
  have honlyReplies := repliesOnly_reserveAll (sinkQueues s.tile.fibre.plan) s
  generalize reserveAll _ _ = u at *
  refine ⟨t, hexec, honlyReplies.queued hqueued, fun r => ?_, ?_, hfgo, hfibre, ?_, fun p a => ?_⟩
  · obtain ⟨hentries, hcount⟩ := hsinks r
    obtain ⟨hentries', hcount'⟩ := hreserved r
    refine ⟨hentries'.trans hentries, hcount'.trans ?_⟩
    simp only [hcount, goQueues, List.count_append, count_cons_qreg, List.count_nil, zero_add, Option.some.injEq]
    omega
  · obtain ⟨replies, rfl⟩ := honlyReplies
    exact hgetS
  · obtain ⟨replies, rfl⟩ := honlyReplies
    exact honly
  · rw [← honlyReplies.placeMem]
    exact hbytes p a

end

/-! ### The release of reservations (R288, R289) -/

theorem replies_onReply (p x : QReg) (f : ReplyQ → ReplyQ) (t : Tile) :
    (onReply p f t).replies[x] = if p = x then f t.replies[p] else t.replies[x] :=
  (Vector.getElem_set p.isLt x.isLt).trans (if_congr Fin.ext_iff.symm rfl rfl)

theorem repliesOnly_releaseReply {n : Nat} (k : StrandKey) (q : QReg) {s : State} (hn : s.tileNo = n) :
    RepliesOnly s (releaseReply n k q s) := by
  subst hn
  unfold releaseReply
  split
  · rw [onTile_focus]
    exact ⟨_, rfl⟩
  · exact .refl s

theorem repliesOnly_releaseSinks {n : Nat} (k : StrandKey) (cfg : List (Nat × UnitCfg)) {s : State} (hn : s.tileNo = n) :
    RepliesOnly s (releaseSinks n k cfg s) :=
  repliesOnly_foldl (fun _ q hs => repliesOnly_releaseReply k q hs) (sinkQueues cfg) hn

/-- Entries and reservations of the reply queues, with `n q` reservations less in queue `q`. -/
def Released (s t : State) (n : QReg → Nat) : Prop :=
  ∀ q : QReg, t.tile.replies[q].entries = s.tile.replies[q].entries ∧
    t.tile.replies[q].reserved = s.tile.replies[q].reserved - n q

theorem released_releaseReply {n : Nat} {k : StrandKey} (q : QReg) {s : State} (hn : s.tileNo = n)
    (hown : s.tile.owner = some k) : Released s (releaseReply n k q s) fun x => if q = x then 1 else 0 := by
  subst hn
  intro x
  rw [releaseReply, tileAt_focus, if_pos hown, onTile_focus, onFocus_tile, replies_onReply]
  by_cases hx : q = x
  · subst hx
    simp
  · simp [hx]

theorem released_releaseSinks {n : Nat} {k : StrandKey} (cfg : List (Nat × UnitCfg)) {s : State} (hn : s.tileNo = n)
    (hown : s.tile.owner = some k) : Released s (releaseSinks n k cfg s) (sinksTo cfg) := by
  intro x
  rw [sinksTo_eq_count, releaseSinks]
  generalize sinkQueues cfg = qs
  induction qs generalizing s with
  | nil => exact ⟨rfl, rfl⟩
  | cons q qs ih =>
    have honly := repliesOnly_releaseReply k q hn
    obtain ⟨hentries, hreserved⟩ := released_releaseReply q hn hown x
    obtain ⟨hentries', hreserved'⟩ := ih (honly.tileNo.trans hn) (honly.owner.trans hown)
    refine ⟨hentries'.trans hentries, hreserved'.trans ?_⟩
    simp only [hreserved, count_cons_qreg]
    omega

/-! ### FKILL without a run (R289) -/

theorem exec_fkill (s : State) : exec .fkill s = .next (advance (killRun s)) := rfl

theorem killRun_of_no_run {s : State} (h : s.tile.fibre.run = none) : killRun s = s := by
  have hgo : runningGo s s.tileNo = none := by
    simp only [runningGo, tileAt_focus, h]
    split
    · cases s.tile.qFibre.head? <;> rfl
    · rfl
  rw [killRun, hgo]

theorem fkill_of_no_run {s : State} (h : s.tile.fibre.run = none) : Sets .fkill s id := by
  rw [Sets, exec_fkill, killRun_of_no_run h]
  rfl

/-- What the discard of one command gives back: the reservations of an FGO (R289). -/
def releaseCmd (n : Nat) (k : StrandKey) (s : State) (c : QCmd) : State :=
  match c.body with
  | .go _ cfg =>
    match c.reply with
    | some q => releaseReply n k q (releaseSinks n k cfg s)
    | none => releaseSinks n k cfg s
  | _ => s

theorem repliesOnly_releaseCmd {n : Nat} (k : StrandKey) (c : QCmd) {s : State} (hn : s.tileNo = n) :
    RepliesOnly s (releaseCmd n k s c) := by
  unfold releaseCmd
  split
  · rename_i cfg _
    have hsinks := repliesOnly_releaseSinks k cfg hn
    split
    · exact hsinks.trans (repliesOnly_releaseReply k _ (hsinks.tileNo.trans hn))
    · exact hsinks
  · exact .refl s

theorem discardFibre_eq (n : Nat) (k : StrandKey) (s : State) : discardFibre n k s =
    onTile n (fun t => { t with qFibre := t.qFibre.filter fun c => c.owner != k || c.started })
      (((tileAt s n).qFibre.filter fun c => c.owner == k && !c.started).foldl (releaseCmd n k) s) := rfl

/-- The tile once the fibre commands of strand `k` that have not started, and the configuration, are discarded. -/
def clearedTile (k : StrandKey) (replies : Vector ReplyQ 4) (t : Tile) : Tile :=
  { t with
    replies := replies, qFibre := t.qFibre.filter (fun c => c.owner != k || c.started),
    fibre := { t.fibre with units := [], plan := [] } }

theorem exec_fkillClear (s : State) : exec .fkillClear s =
    .next (advance (onFocus (fun t => { t with fibre := { t.fibre with units := [], plan := [] } })
      (discardFibre s.tileNo (me s) (killRun s)))) := rfl

theorem exec_fkillClear_of_no_run {s : State} (h : s.tile.fibre.run = none) :
    ∃ replies, exec .fkillClear s = .next (advance (onFocus (clearedTile (me s) replies) s)) := by
  have honly := repliesOnly_foldl (fun _ c hs => repliesOnly_releaseCmd (me s) c hs)
    ((tileAt s s.tileNo).qFibre.filter fun c => c.owner == me s && !c.started) (s := s) rfl
  obtain ⟨replies, hreplies⟩ := honly
  have hfocus := onTile_focus (fun t => { t with qFibre := t.qFibre.filter fun c => c.owner != me s || c.started })
    (onFocus (fun x => { x with replies := replies }) s)
  refine ⟨replies, ?_⟩
  rw [exec_fkillClear, killRun_of_no_run h, discardFibre_eq, hreplies]
  exact congrArg (fun t => Host.Outcome.next (advance (onFocus _ t))) hfocus

theorem fkillClear_of_no_run {s : State} (h : s.tile.fibre.run = none) : Gives .fkillClear s fun t =>
    t.tile.fibre = ⟨[], [], none⟩ ∧ SameBytes s t ∧ t.dev = s.dev ∧
      t.tile.qFibre = s.tile.qFibre.filter (fun c => c.owner != me s || c.started) ∧ (∀ r, getS t r = getS s r) ∧
      getPc t = getPc s + 8 := by
  obtain ⟨replies, hexec⟩ := exec_fkillClear_of_no_run h
  refine ⟨_, hexec, ?_, fun p a => ?_, rfl, rfl, fun _ => rfl, rfl⟩
  · show Fibre.mk [] [] s.tile.fibre.run = _
    rw [h]
  · rw [placeMem_advance, placeMem_onFocus (f := clearedTile (me s) replies) fun _ => rfl]

/-! ### FKILL of a run (R289) -/

/-- The state of a unit of a run that is being killed. -/
def killedUnit (u : UnitState) : UnitState := { u with arr := [], held := if u.sends.isEmpty then none else u.held }

theorem look_map {α β : Type} (g : α → β) (d : α) (l : List (Nat × α)) (k : Nat) :
    look (g d) (l.map fun e => (e.1, g e.2)) k = g (look d l k) := by
  induction l with
  | nil => rfl
  | cons e l ih =>
    rw [List.map_cons, look, look, ih]
    split <;> rfl

theorem unitAt_killedRun (r : Run) (slot : Nat) : unitAt (killedRun r) slot = killedUnit (unitAt r slot) :=
  look_map killedUnit UnitState.blank r.units slot

theorem runSubst_killedRun (r : Run) (cfg : List (Nat × UnitCfg)) : runSubst (killedRun r) cfg = runSubst r cfg := by
  simp only [runSubst, unitAt_killedRun]
  rfl

theorem foldl_performSends_of_none {r : Run} {cfg : List (Nat × UnitCfg)} (h : ∀ u ∈ cfg, (unitAt r u.1).sends = [])
    (s : State) : cfg.foldl (fun s u => performSends s.tileNo u.1 (unitAt r u.1).sends.length s) s = s := by
  induction cfg with
  | nil => rfl
  | cons u cfg ih =>
    rw [List.foldl_cons, h u (List.mem_cons_self ..)]
    exact ih fun v hv => h v (List.mem_cons_of_mem _ hv)

/-- The strand in focus runs graph `cfg` as its FGO `c` of number `seq`, none of whose stores is still to be performed; the
completion entry goes to reply queue `q`. -/
structure IdleRun (s : State) (q : QReg) (c : QCmd) (rest : List QCmd) (r : Run) (seq : Nat) (cfg : List (Nat × UnitCfg)) :
    Prop where
  queue : s.tile.qFibre = c :: rest
  body : c.body = .go seq cfg
  here : s.tile.owner = some c.owner
  run : s.tile.fibre.run = some r
  held : c.held = none
  runs : fibreRuns s.tile = true
  reply : c.reply = some q
  sent : ∀ u ∈ cfg, (unitAt r u.1).sends = []

/-- The tile of a run that has ended. -/
def endedTile (q : QReg) (rest : List QCmd) (entry : Nat) (t : Tile) : Tile :=
  { onReply q (fun r => { entries := r.entries ++ [word entry], reserved := r.reserved - 1 }) t with
    qFibre := rest, fibre := { t.fibre with run := none } }

/-- The tile of a run that has been killed, with the SUBST bits and the reservations that this leaves. -/
def killedTile (q : QReg) (rest : List QCmd) (seq : Nat) (b : BitVec 3) (replies : Vector ReplyQ 4) (t : Tile) : Tile :=
  endedTile q rest (goEntry seq 0 true true)
    { t with seq := { t.seq with subst := t.seq.subst ||| b }, replies := replies }

theorem endRun_focus {s : State} {q : QReg} {c : QCmd} {rest : List QCmd} (hqueue : s.tile.qFibre = c :: rest)
    (hhere : s.tile.owner = some c.owner) (hreply : c.reply = some q) (entry : Nat) :
    endRun s.tileNo c entry s = onFocus (endedTile q rest entry) s := by
  have hpop : popCmd s.tileNo .fibre s = onFocus (fun t => { t with qFibre := rest }) s := by
    have htail : s.tile.qFibre.tail = rest := by rw [hqueue, List.tail_cons]
    rw [popCmd, onTile_focus, ← htail]
    rfl
  have hpost (x : State) (hx : x.tile.owner = some c.owner) : postReply x.tileNo c.owner (some q) entry x =
      onFocus (onReply q fun r => { entries := r.entries ++ [word entry], reserved := r.reserved - 1 }) x := by
    rw [postReply, tileAt_focus, if_pos hx, onTile_focus]
  have hposted := hpost (onFocus (fun t => { t with qFibre := rest }) s) hhere
  have hended (x : State) := onTile_focus (fun t => { t with fibre := { t.fibre with run := none } }) x
  rw [endRun, hreply, hpop]
  exact (congrArg (onTile s.tileNo _) hposted).trans (hended (onFocus _ (onFocus _ s)))

section
variable {s : State} {q : QReg} {c : QCmd} {rest : List QCmd} {r : Run} {seq : Nat} {cfg : List (Nat × UnitCfg)}
  (h : IdleRun s q c rest r seq cfg)
include h

theorem IdleRun.runningGo : Machine.runningGo s s.tileNo = some (c, seq, cfg, r) := by
  simp only [Machine.runningGo, tileAt_focus, h.runs, if_true, h.queue, List.head?_cons, h.run, h.body, h.held,
    Option.isNone_none]

theorem IdleRun.setRun {x : Run} (hsent : ∀ u ∈ cfg, (unitAt x u.1).sends = []) :
    IdleRun (Machine.setRun s.tileNo x s) q c rest x seq cfg := by
  rw [Machine.setRun, onTile_focus]
  exact ⟨h.queue, h.body, h.here, rfl, h.held, h.runs, h.reply, hsent⟩

theorem IdleRun.killRun (hme : c.owner = me s) :
    Machine.killRun s = runFinish s.tileNo (Machine.setRun s.tileNo (killedRun r) s) := by
  simp only [Machine.killRun, h.runningGo, if_pos hme, foldl_performSends_of_none h.sent]

theorem IdleRun.runFinish (hkilled : r.killed = true) : Machine.runFinish s.tileNo s = failGo s.tileNo c seq 0 cfg true s := by
  have hsent : sendsDone r cfg = true := List.all_eq_true.2 fun u hu => by rw [h.sent u hu]; rfl
  simp only [Machine.runFinish, h.runningGo, hsent, hkilled, Bool.not_true, Bool.false_eq_true, if_false, if_true]

/-- The end of a run that is killed: the SUBST bits, the reservations, the queue and the completion entry. -/
theorem IdleRun.failGo : ∃ replies : Vector ReplyQ 4,
    (∀ x : QReg, replies[x].entries = s.tile.replies[x].entries ∧
      replies[x].reserved = s.tile.replies[x].reserved - sinksTo cfg x) ∧
    Machine.failGo s.tileNo c seq 0 cfg true s = onFocus (killedTile q rest seq (runSubst r cfg) replies) s := by
  have hsubst : cmdSubst s.tileNo c (runSubst r cfg) s = setSubst (runSubst r cfg) s := by
    rw [cmdSubst, tileAt_focus, if_pos h.here, setSubstOn, onTile_focus]
    rfl
  have hreleased := released_releaseSinks (n := s.tileNo) cfg (s := setSubst (runSubst r cfg) s) rfl h.here
  obtain ⟨replies, hreplies⟩ :=
    repliesOnly_releaseSinks (n := s.tileNo) c.owner cfg (s := setSubst (runSubst r cfg) s) rfl
  refine ⟨replies, fun x => ?_, ?_⟩
  · rw [hreplies] at hreleased
    exact hreleased x
  · simp only [Machine.failGo, tileAt_focus, h.run, hsubst]
    rw [failRun, hreplies]
    exact endRun_focus (s := onFocus (fun x => { x with replies := replies }) (setSubst (runSubst r cfg) s)) h.queue h.here
      h.reply (goEntry seq 0 true true)

/-- The state after FKILL of the run. -/
theorem IdleRun.exec_fkill (hme : c.owner = me s) : ∃ replies : Vector ReplyQ 4,
    (∀ x : QReg, replies[x].entries = s.tile.replies[x].entries ∧
      replies[x].reserved = s.tile.replies[x].reserved - sinksTo cfg x) ∧
    exec .fkill s = .next (advance (onFocus (killedTile q rest seq (runSubst r cfg) replies) s)) := by
  have hkilled := h.setRun (x := killedRun r) fun u hu => by rw [unitAt_killedRun, killedUnit, h.sent u hu]
  obtain ⟨replies, hreplies, hfail⟩ := hkilled.failGo
  have hfinish := hkilled.runFinish rfl
  have hset : Machine.setRun s.tileNo (killedRun r) s =
      onFocus (fun t => { t with fibre := { t.fibre with run := some (killedRun r) } }) s := onTile_focus _ s
  rw [hset] at hreplies hfail hfinish
  rw [runSubst_killedRun] at hfail
  refine ⟨replies, hreplies, ?_⟩
  rw [Machine.exec_fkill, h.killRun hme, hset]
  exact congrArg (fun t => Host.Outcome.next (advance t)) (hfinish.trans hfail)

theorem IdleRun.fkill (hme : c.owner = me s) : Gives .fkill s fun t =>
    t.tile.seq.subst = s.tile.seq.subst ||| runSubst r cfg ∧ t.tile.qFibre = rest ∧
      t.tile.fibre = { s.tile.fibre with run := none } ∧ SameBytes s t ∧
      t.tile.replies[q].entries = s.tile.replies[q].entries ++
        [BitVec.ofNat 64 (2 * 2 ^ 60 + 2 ^ 59 + 2 ^ 58 + seq % 2 ^ 32)] ∧
      (∀ x : QReg, t.tile.replies[x].reserved =
        s.tile.replies[x].reserved - (sinksTo cfg x + if x = q then 1 else 0)) ∧
      (∀ x, getS t x = getS s x) ∧ getPc t = getPc s + 8 := by
  obtain ⟨replies, hreplies, hexec⟩ := h.exec_fkill hme
  have hget (x : QReg) : (killedTile q rest seq (runSubst r cfg) replies s.tile).replies[x] =
      if q = x then ⟨replies[q].entries ++ [word (goEntry seq 0 true true)], replies[q].reserved - 1⟩ else replies[x] :=
    replies_onReply q x (fun r => { entries := r.entries ++ [word (goEntry seq 0 true true)], reserved := r.reserved - 1 })
      { s.tile with replies := replies }
  refine ⟨_, hexec, rfl, rfl, rfl, fun p a => ?_, ?_, fun x => ?_, fun _ => rfl, rfl⟩
  · rw [placeMem_advance, placeMem_onFocus (f := killedTile q rest seq (runSubst r cfg) replies) fun _ => rfl]
  · show (killedTile q rest seq (runSubst r cfg) replies s.tile).replies[q].entries = _
    rw [hget, if_pos rfl, (hreplies q).1]
    rfl
  · show (killedTile q rest seq (runSubst r cfg) replies s.tile).replies[x].reserved = _
    rw [hget]
    obtain ⟨-, hreserved⟩ := hreplies x
    by_cases hx : q = x
    · subst hx
      simp only [if_true, hreserved]
      omega
    · simp only [if_neg hx, if_neg (Ne.symm hx), hreserved, add_zero]

end

theorem graphCommands : GraphCommands := by
  intro s d q plan n want fits
  have hwant (r : QReg) : want r = (goQueues plan q).count r := sinksTo_add_eq_count plan q r
  have hfits : fits ↔ Fits s (goQueues plan q) := forall_congr' fun r => by rw [hwant]
  refine ⟨fun hfail => ?_, fun hpass => ?_, fkill_of_no_run, fkillClear_of_no_run, ?_⟩
  · exact fgo_refused d q hfail
  · obtain ⟨hlone, hsink⟩ := graphFailures_eq_nil hpass
    refine ⟨fun f hf => produced_iff_consumed hlone hf, hsink, fun hfull => fgo_overflows d hpass (mt hfits.2 hfull),
      fun hroom => fgo_blocks d hpass (hfits.1 hroom), fun hroom hfree => ?_⟩
    obtain ⟨t, hexec, hqueued, hreserved, hleft⟩ := fgo_issues d hpass (hfits.1 hroom) hfree
    exact ⟨t, hexec, hqueued, fun r => by rw [hwant]; exact hreserved r, hleft⟩
  · intro c rest r seq cfg hqueue hbody hown hhere hrun hheld hruns hreply hsent
    exact IdleRun.fkill ⟨hqueue, hbody, hown ▸ hhere, hrun, hheld, hruns, hreply, hsent⟩ hown

/-- Settles O26: the configuration commands are checks followed by the issue of a configuration, FGO is an issue with its
reservations made first, and FKILL ends the run at the head of the fibre queue. -/
theorem fibreIssue : Obligations.FibreIssue := ⟨fibreConfiguration, graphCommands⟩

end Sys2Proof.Machine
end
